-- ==== Sys2Proof/Word.lean ====
section
/-! DEFINITION. The word types of the Glimon Q8 (spec/00_scope.md R3, spec/06_vector.md R145). -/
namespace Sys2Proof

/-- A byte of memory (R3). -/
abbrev Byte := BitVec 8

/-- A d register, an address, a queue entry (R25, R108). -/
abbrev Word := BitVec 64

/-- One 32-bit lane of a v register (R145). -/
abbrev Lane := BitVec 32

/-- The 32 lanes of a v register (R145). -/
abbrev VReg := Vector Lane 32

end Sys2Proof
end

