-- ==== Sys2Proof/Syntax.lean ====
section
/-! DEFINITION. The abstract syntax of the Imantux instruction set (spec/02_encoding.md R44–R49, R60): type codes,
operand specifiers, guards, the fields of an instruction word, and one constructor of `Instr` per row of
spec/opcode_table.json. Rows BR to TRC and GETS_CP_GO are instruction forms; the rows from CORE_CYCLE on are
the steps of the part's other agents (spec/95_what_each_step_holds.md), first those a run without outside inputs takes. -/
namespace Sys2Proof

/-- Type codes of mod[75:72] (R47); `dflt` is code 0x0, the class default. -/
inductive Ty where
  | dflt | s8 | s16 | s32 | s64 | z8 | z16 | z32 | z64 | f32 | bf16 | g8 | g16 | g32 | cb4 | e8
  deriving DecidableEq, Repr

/-- The operand files of R49, each with its legal indices. -/
inductive Reg where
  | d (i : Fin 16) | v (i : Fin 8) | s (i : Fin 4) | q (i : Fin 4) | n (i : Fin 6) | w (i : Fin 8) | p (i : Fin 8)
  | a (i : Fin 4) | y (i : Fin 4) | zero
  deriving DecidableEq, Repr

/-- The modifiers of R49 and R52: none, the synchronised read `!`, the negation `-`. -/
inductive Modif where
  | plain | sync | neg
  deriving DecidableEq, Repr

/-- An operand specifier (R49). A field the instruction does not use holds the all-zero specifier (R50). -/
structure Opnd where
  reg : Reg
  m   : Modif
  deriving DecidableEq, Repr

/-- The all-zero specifier, which an unused operand field holds (R50). -/
abbrev Opnd.unused : Opnd := ⟨.d 0, .plain⟩

/-- The guard of an instruction (R44): it executes when p[idx] exclusive-ORed with `neg` is true. -/
structure Guard where
  neg : Bool
  idx : Fin 8
  deriving DecidableEq, Repr

/-- The fields of an instruction word below its class, op and guard (R44): the qualifier mod[77:76], the type
mod[75:72], four operand specifiers and the format-dependent field. -/
structure Fields where
  qual : BitVec 2
  ty   : Ty
  dst  : Opnd
  src1 : Opnd
  src2 : Opnd
  src3 : Opnd
  fmt  : BitVec 36
  deriving DecidableEq, Repr

/-- A write of the debug table over the service network (R376, R379): a breakpoint entry of four words, or
watchpoint `k` of the task named by colour and work identifier. -/
inductive DebugWrite where
  | breakpoint (i : Nat) (word0 wval wmask pc : BitVec 64)
  | watch (colour : Nat) (wid : BitVec 64) (k : Fin 4) (base ctl : BitVec 64)
  deriving DecidableEq, Repr

/-- A message a port receives. From the host (R392): a launch, a DMA descriptor (a write of bytes into translated space, or a
read of them), an SPDM request by its code, a TDISP request (0 lock, 1 start, 2 stop), or a write of the job
descriptor's output regions (R401). From another package on a peer port (R395), each under the tag its reply bears: a read of
ranges of this package's vaults, a write of bytes, or a `.sys` atomic with its op (the op field of class 0x1C), type, operands
and the work identifier of its issuer. -/
inductive LinkMsg where
  | launch (colour prio : Nat) (header : List (BitVec 64))
  | dmaWrite (colour : Nat) (va : BitVec 64) (bytes : List (BitVec 8))
  | dmaRead (colour : Nat) (va : BitVec 64) (len : Nat)
  | spdm (code : Nat)
  | tdisp (colour request : Nat)
  | regions (colour : Nat) (rs : List (BitVec 64 × Nat))
  | peerRead (tag colour : Nat) (segs : List (Nat × Nat))
  | peerWrite (tag colour : Nat) (bytes : List (Nat × BitVec 8))
  | peerAtomic (tag colour op : Nat) (ty : Ty) (addr : Nat) (v c wid : BitVec 64)
  deriving DecidableEq, Repr

/-- Where a launch header comes from (R330, R352): message k of the fabric, which a task's `launch` sent, or the arbiter firmware's
own launch with a colour, a priority and a header, whose threads run at supervisor level. -/
inductive LaunchSource where
  | task (k : Nat)
  | firmware (colour prio : Nat) (header : List (BitVec 64))
  deriving DecidableEq, Repr

/-- What the host prepares for the peer ports (R396): the package number, one route entry of one die, or the expected
chain digest and package number of a port's peer. -/
inductive PeerConfig where
  | own (pkg : Nat)
  | route (die pkg : Nat) (port : Option Nat)
  | peer (port pkg : Nat) (digest : Nat)
  deriving DecidableEq, Repr

/-- A request to lock a colour's interface, with the 64 KiB vault frames that the arbiter gives the colour (R399, R400). -/
structure InterfaceLock where
  colour : Nat
  frames : List Nat
  deriving DecidableEq, Repr

/-- One constructor per row of spec/opcode_table.json. -/
inductive Instr where
  /-- BR (R119): Branch to a slot offset as a checked transfer. -/
  | br (gd : Guard) (f : Fields)
  /-- BRL (R119): Branch to a slot offset and write the successor pc to a link register. -/
  | brl (gd : Guard) (f : Fields)
  /-- JR (R119): Jump to the pc held in a d register, without a link. -/
  | jr (gd : Guard) (f : Fields)
  /-- JR_LINK (R120): Jump to the pc held in a d register and write the successor pc to a link register (fmt[0] = 1). -/
  | jrLink (gd : Guard) (f : Fields)
  /-- RET (R120): Return to the pc in a d register; acts as jr without a link and is traced as a return. -/
  | ret (gd : Guard) (f : Fields)
  /-- SETP (R116): Set a guard to true and mark it resolved. -/
  | setp (gd : Guard) (f : Fields)
  /-- SETP_REG (R116): Set a guard to whether a register is nonzero (fmt[0] = 1). -/
  | setpReg (gd : Guard) (f : Fields)
  /-- CLRP (R116): Make a guard unresolved with an undefined value. -/
  | clrp (gd : Guard) (f : Fields)
  /-- PAND (R116): Write the AND of two guards, each optionally inverted. -/
  | pand (gd : Guard) (f : Fields)
  /-- POR (R116): Write the OR of two guards, each optionally inverted. -/
  | por (gd : Guard) (f : Fields)
  /-- PNOT (R116): Write the inverse of a guard. -/
  | pnot (gd : Guard) (f : Fields)
  /-- GANG (R121): Join or lead a gang of k cores that share one instruction stream. -/
  | gang (gd : Guard) (f : Fields)
  /-- REJOIN (R125): Reattach detached gang followers at a named label, or branch to it when not in a gang. -/
  | rejoin (gd : Guard) (f : Fields)
  /-- UNGANG (R126): Leave the gang as a follower, or dissolve it as the leader. -/
  | ungang (gd : Guard) (f : Fields)
  /-- NOP (R44): Do nothing; the canonical word has guard !p0. -/
  | nop (gd : Guard) (f : Fields)
  /-- CMP_EQ (R118): Register compare for equality, writing a guard. -/
  | cmpEq (gd : Guard) (f : Fields)
  /-- CMP_NE (R118): Register compare for inequality, writing a guard. -/
  | cmpNe (gd : Guard) (f : Fields)
  /-- CMP_LT (R118): Register compare for less than, writing a guard. -/
  | cmpLt (gd : Guard) (f : Fields)
  /-- CMP_LE (R118): Register compare for less than or equal, writing a guard. -/
  | cmpLe (gd : Guard) (f : Fields)
  /-- CMP_GT (R118): Register compare for greater than, writing a guard. -/
  | cmpGt (gd : Guard) (f : Fields)
  /-- CMP_GE (R118): Register compare for greater than or equal, writing a guard. -/
  | cmpGe (gd : Guard) (f : Fields)
  /-- CMP_UN (R118): Register compare that is true when either binary32 operand is NaN. -/
  | cmpUn (gd : Guard) (f : Fields)
  /-- CMP_TST (R118): Register compare that is true when the AND of the operands is nonzero. -/
  | cmpTst (gd : Guard) (f : Fields)
  /-- CMP_NTST (R118): Register compare that is true when the AND of the operands is zero. -/
  | cmpNtst (gd : Guard) (f : Fields)
  /-- CMP_EQ_IMM (R117): Immediate compare for equality, writing a guard. -/
  | cmpEqImm (gd : Guard) (f : Fields)
  /-- CMP_NE_IMM (R117): Immediate compare for inequality, writing a guard. -/
  | cmpNeImm (gd : Guard) (f : Fields)
  /-- CMP_LT_IMM (R117): Immediate compare for less than, writing a guard. -/
  | cmpLtImm (gd : Guard) (f : Fields)
  /-- CMP_LE_IMM (R117): Immediate compare for less than or equal, writing a guard. -/
  | cmpLeImm (gd : Guard) (f : Fields)
  /-- CMP_GT_IMM (R117): Immediate compare for greater than, writing a guard. -/
  | cmpGtImm (gd : Guard) (f : Fields)
  /-- CMP_GE_IMM (R117): Immediate compare for greater than or equal, writing a guard. -/
  | cmpGeImm (gd : Guard) (f : Fields)
  /-- CMP_UN_IMM (R117): Immediate compare that is true when either operand is NaN. -/
  | cmpUnImm (gd : Guard) (f : Fields)
  /-- CMP_TST_IMM (R117): Immediate test compare: true when the AND of the operands is nonzero. -/
  | cmpTstImm (gd : Guard) (f : Fields)
  /-- CMP_NTST_IMM (R117): Immediate test compare: true when the AND of the operands is zero. -/
  | cmpNtstImm (gd : Guard) (f : Fields)
  /-- ADD (R133): Integer add of two register operands, with wrap or saturation. -/
  | add (gd : Guard) (f : Fields)
  /-- SUB (R133): Integer subtract of two register operands, with wrap or saturation. -/
  | sub (gd : Guard) (f : Fields)
  /-- MUL (R133): Integer multiply, with wrap or saturation. -/
  | mul (gd : Guard) (f : Fields)
  /-- MULH (R133): High half of the exact integer product. -/
  | mulh (gd : Guard) (f : Fields)
  /-- DIV (R136): Integer quotient truncated toward zero, with fixed results for the borderline cases. -/
  | div (gd : Guard) (f : Fields)
  /-- REM (R136): Integer remainder with the sign of the dividend. -/
  | rem (gd : Guard) (f : Fields)
  /-- AND (R133): Bitwise AND. -/
  | and (gd : Guard) (f : Fields)
  /-- OR (R133): Bitwise OR. -/
  | or (gd : Guard) (f : Fields)
  /-- XOR (R133): Bitwise XOR. -/
  | xor (gd : Guard) (f : Fields)
  /-- ANDN (R133): Bitwise AND with the inverse of the second operand. -/
  | andn (gd : Guard) (f : Fields)
  /-- SHL (R135): Shift left, with wrap or saturation. -/
  | shl (gd : Guard) (f : Fields)
  /-- SHR (R135): Logical shift right. -/
  | shr (gd : Guard) (f : Fields)
  /-- SAR (R135): Arithmetic shift right. -/
  | sar (gd : Guard) (f : Fields)
  /-- ROT (R135): Rotate left. -/
  | rot (gd : Guard) (f : Fields)
  /-- CLZ (R133): Count leading zero bits. -/
  | clz (gd : Guard) (f : Fields)
  /-- CTZ (R133): Count trailing zero bits. -/
  | ctz (gd : Guard) (f : Fields)
  /-- POPC (R133): Count one bits. -/
  | popc (gd : Guard) (f : Fields)
  /-- MIN (R133): The lesser of two integers. -/
  | min (gd : Guard) (f : Fields)
  /-- MAX (R133): The greater of two integers. -/
  | max (gd : Guard) (f : Fields)
  /-- SEL (R137): Select one of two sources by a guard. -/
  | sel (gd : Guard) (f : Fields)
  /-- BEXT (R139): Extract a bit field named by a register descriptor. -/
  | bext (gd : Guard) (f : Fields)
  /-- BINS (R140): Insert a bit field named by a register descriptor. -/
  | bins (gd : Guard) (f : Fields)
  /-- ADD_IMM (R134): Integer add of an immediate. -/
  | addImm (gd : Guard) (f : Fields)
  /-- MUL_IMM (R134): Integer multiply by an immediate. -/
  | mulImm (gd : Guard) (f : Fields)
  /-- AND_IMM (R134): Bitwise AND with a zero-extended immediate. -/
  | andImm (gd : Guard) (f : Fields)
  /-- OR_IMM (R134): Bitwise OR with a zero-extended immediate. -/
  | orImm (gd : Guard) (f : Fields)
  /-- XOR_IMM (R134): Bitwise XOR with a zero-extended immediate. -/
  | xorImm (gd : Guard) (f : Fields)
  /-- SHL_IMM (R135): Shift left by an immediate count. -/
  | shlImm (gd : Guard) (f : Fields)
  /-- SHR_IMM (R135): Logical shift right by an immediate count. -/
  | shrImm (gd : Guard) (f : Fields)
  /-- SAR_IMM (R135): Arithmetic shift right by an immediate count. -/
  | sarImm (gd : Guard) (f : Fields)
  /-- ROT_IMM (R135): Rotate left by an immediate count. -/
  | rotImm (gd : Guard) (f : Fields)
  /-- MIN_IMM (R134): The lesser of a register and an immediate. -/
  | minImm (gd : Guard) (f : Fields)
  /-- MAX_IMM (R134): The greater of a register and an immediate. -/
  | maxImm (gd : Guard) (f : Fields)
  /-- BEXT_IMM (R139): Extract a bit field named by an immediate descriptor. -/
  | bextImm (gd : Guard) (f : Fields)
  /-- BINS_IMM (R140): Insert a bit field named by an immediate descriptor. -/
  | binsImm (gd : Guard) (f : Fields)
  /-- LEA_PC (R142): Form a pc-relative address. -/
  | leaPc (gd : Guard) (f : Fields)
  /-- LEA_BASE (R142): Form a base plus offset address. -/
  | leaBase (gd : Guard) (f : Fields)
  /-- LEA_INDEX (R142): Form a base plus scaled index plus offset address. -/
  | leaIndex (gd : Guard) (f : Fields)
  /-- LI (R141): Load a sign-extended 32-bit immediate. -/
  | li (gd : Guard) (f : Fields)
  /-- LUI (R141): Load an immediate into the upper 32 bits and zero the lower half. -/
  | lui (gd : Guard) (f : Fields)
  /-- WID (R143): Read a field of the work identifier, the whole identifier, or the job colour. -/
  | wid (gd : Guard) (f : Fields)
  /-- FADD (R151): Binary32 add per lane, rounded once. -/
  | fadd (gd : Guard) (f : Fields)
  /-- FSUB (R151): Binary32 subtract per lane, rounded once. -/
  | fsub (gd : Guard) (f : Fields)
  /-- FMUL (R151): Binary32 multiply per lane, rounded once. -/
  | fmul (gd : Guard) (f : Fields)
  /-- FFMA (R151): Fused multiply-add per lane with one rounding. -/
  | ffma (gd : Guard) (f : Fields)
  /-- FMIN (R152): Binary32 minimum per lane. -/
  | fmin (gd : Guard) (f : Fields)
  /-- FMAX (R152): Binary32 maximum per lane. -/
  | fmax (gd : Guard) (f : Fields)
  /-- FNEG (R153): Invert the sign bit of each lane. -/
  | fneg (gd : Guard) (f : Fields)
  /-- FABS (R153): Clear the sign bit of each lane. -/
  | fabs (gd : Guard) (f : Fields)
  /-- FCLS (R154): Write a lane mask of the lanes in the selected classes. -/
  | fcls (gd : Guard) (f : Fields)
  /-- FRND (R155): Round each lane to an integral binary32 value. -/
  | frnd (gd : Guard) (f : Fields)
  /-- FEXF (R156): Compute 2^a for |a| ≤ 1, correctly rounded. -/
  | fexf (gd : Guard) (f : Fields)
  /-- FINS (R157): Multiply each lane by 2^t with one rounding. -/
  | fins (gd : Guard) (f : Fields)
  /-- FDIV (R151): Binary32 divide per lane, correctly rounded. -/
  | fdiv (gd : Guard) (f : Fields)
  /-- FSQRT (R151): Binary32 square root per lane, correctly rounded. -/
  | fsqrt (gd : Guard) (f : Fields)
  /-- FRSQ (R151): Reciprocal square root per lane, correctly rounded. -/
  | frsq (gd : Guard) (f : Fields)
  /-- IADD (R160): Elementwise integer add. -/
  | iadd (gd : Guard) (f : Fields)
  /-- ISUB (R160): Elementwise integer subtract. -/
  | isub (gd : Guard) (f : Fields)
  /-- IMUL (R160): Elementwise integer multiply. -/
  | imul (gd : Guard) (f : Fields)
  /-- IDOT4 (R161): Four-way 8-bit dot product accumulated into a 32-bit lane. -/
  | idot4 (gd : Guard) (f : Fields)
  /-- IABS (R160): Elementwise integer absolute value. -/
  | iabs (gd : Guard) (f : Fields)
  /-- IMIN (R160): Elementwise integer minimum. -/
  | imin (gd : Guard) (f : Fields)
  /-- IMAX (R160): Elementwise integer maximum. -/
  | imax (gd : Guard) (f : Fields)
  /-- VSEL (R163): Select each lane from one of two sources by a mask register. -/
  | vsel (gd : Guard) (f : Fields)
  /-- VSHF (R164): Permute lanes by an index vector. -/
  | vshf (gd : Guard) (f : Fields)
  /-- VSHF_ROT (R164): Rotate lanes by k. -/
  | vshfRot (gd : Guard) (f : Fields)
  /-- VSHF_XOR (R164): Permute lanes by lane index XOR k. -/
  | vshfXor (gd : Guard) (f : Fields)
  /-- VRED_ADD (R165): Add the 32 lanes by a fixed pairwise tree. -/
  | vredAdd (gd : Guard) (f : Fields)
  /-- VRED_MIN (R165): Minimum of the 32 lanes by a fixed tree. -/
  | vredMin (gd : Guard) (f : Fields)
  /-- VRED_MAX (R165): Maximum of the 32 lanes by a fixed tree. -/
  | vredMax (gd : Guard) (f : Fields)
  /-- VBC (R166): Broadcast bits [31:0] of a d register to every lane. -/
  | vbc (gd : Guard) (f : Fields)
  /-- VBC_LANE (R166): Broadcast lane k of a vector to every lane. -/
  | vbcLane (gd : Guard) (f : Fields)
  /-- VMOV (R167): Copy a vector, or broadcast a d register. -/
  | vmov (gd : Guard) (f : Fields)
  /-- VMOV_EXTRACT (R167): Copy lane k of a vector to a d register. -/
  | vmovExtract (gd : Guard) (f : Fields)
  /-- VMOV_INSERT (R167): Write a d register into lane k of a vector. -/
  | vmovInsert (gd : Guard) (f : Fields)
  /-- CVT (R172): Scalar conversion between integer, binary32, bfloat16 and G types, with one rounding. -/
  | cvt (gd : Guard) (f : Fields)
  /-- CVT_VECTOR (R171): Convert each lane of a vector between types. -/
  | cvtVector (gd : Guard) (f : Fields)
  /-- QSC (R174): Compute the e8 scale code of a 64-value block. -/
  | qsc (gd : Guard) (f : Fields)
  /-- QCB (R175): Quantise 64 values to cb4 indices in one quarter of a vector. -/
  | qcb (gd : Guard) (f : Fields)
  /-- DQCB (R176): Dequantise half a quarter of cb4 indices to binary32. -/
  | dqcb (gd : Guard) (f : Fields)
  /-- NANM (R178): Write software event NaNs into the masked lanes. -/
  | nanm (gd : Guard) (f : Fields)
  /-- NANX (R179): Find and count event NaNs from lane k upward. -/
  | nanx (gd : Guard) (f : Fields)
  /-- PSPL (R180): Move plane k bytes from packed lanes into plane order. -/
  | pspl (gd : Guard) (f : Fields)
  /-- PJN (R180): Move plane-ordered bytes back into plane k of packed lanes. -/
  | pjn (gd : Guard) (f : Fields)
  /-- PUPD (R181): Check and send a planar add of 32 deltas to the G tensor's home slice. -/
  | pupd (gd : Guard) (f : Fields)
  /-- PDEC (R181): Check and send a planar decay-and-add update to the G tensor's home slice. -/
  | pdec (gd : Guard) (f : Fields)
  /-- LD (R197): Scalar load; clears the destination's full bit and sends the request. -/
  | ld (gd : Guard) (f : Fields)
  /-- ST (R197): Scalar store sent to the home of the address. -/
  | st (gd : Guard) (f : Fields)
  /-- MIGR (R202): Move the thread's context to the core whose vault holds an address. -/
  | migr (gd : Guard) (f : Fields)
  /-- HOME (R202): Move the thread's context back to its team's core. -/
  | home (gd : Guard) (f : Fields)
  /-- FENCE (R204): Acquire, release or sequentially consistent fence at a scope. -/
  | fence (gd : Guard) (f : Fields)
  /-- VLD (R199): Load 128 bytes into a vector register. -/
  | vld (gd : Guard) (f : Fields)
  /-- VST (R199): Store 128 bytes from a vector, optionally masked. -/
  | vst (gd : Guard) (f : Fields)
  /-- VLDP (R200): Load 32 G elements from their plane arrays. -/
  | vldp (gd : Guard) (f : Fields)
  /-- VSTP (R200): Store 32 G elements into their plane arrays. -/
  | vstp (gd : Guard) (f : Fields)
  /-- LDS (R201): Load from the team's scratchpad region. -/
  | lds (gd : Guard) (f : Fields)
  /-- STS (R201): Store to the team's scratchpad region. -/
  | sts (gd : Guard) (f : Fields)
  /-- TPRB (R205): Translate an address without accessing memory and report the result. -/
  | tprb (gd : Guard) (f : Fields)
  /-- KVFORK (R209): Share the KV blocks of one sequence with another. -/
  | kvfork (gd : Guard) (f : Fields)
  /-- KVFREE (R209): Release a range of a sequence's KV blocks. -/
  | kvfree (gd : Guard) (f : Fields)
  /-- TLD (R220): Check and send a ticket fetch request to the home slice. -/
  | tld (gd : Guard) (f : Fields)
  /-- RDM_SP (R224): Redeem a ticket into the team's scratchpad. -/
  | rdmSp (gd : Guard) (f : Fields)
  /-- RDM_V (R225): Redeem a ticket into a vector register. -/
  | rdmV (gd : Guard) (f : Fields)
  /-- RDM_S (R226): Redeem a ticket into a stream register. -/
  | rdmS (gd : Guard) (f : Fields)
  /-- TQRY (R228): Query the state of a ticket without consuming it. -/
  | tqry (gd : Guard) (f : Fields)
  /-- TDROP (R229): Send a request to drop a ticket's entry. -/
  | tdrop (gd : Guard) (f : Fields)
  /-- CLD_X (R246): Queue an exact contracting load into an exact-use tile. -/
  | cldX (gd : Guard) (f : Fields)
  /-- CLD_B (R247): Queue a blitz contracting load into a binary32-use tile. -/
  | cldB (gd : Guard) (f : Fields)
  /-- CLDT_X (R248): Queue an exact contracting load fed by a ticket. -/
  | cldtX (gd : Guard) (f : Fields)
  /-- CLDT_B (R248): Queue a blitz contracting load fed by a ticket. -/
  | cldtB (gd : Guard) (f : Fields)
  /-- CLDG (R249): Queue a gathered resident load followed by an exact contracting load. -/
  | cldg (gd : Guard) (f : Fields)
  /-- RLD (R244): Queue a load of a resident slot. -/
  | rld (gd : Guard) (f : Fields)
  /-- RLDG (R245): Queue a gathered load of a resident slot. -/
  | rldg (gd : Guard) (f : Fields)
  /-- FOLD (R256): Queue a fold of an exact tile by wide scales into a binary32 tile. -/
  | fold (gd : Guard) (f : Fields)
  /-- ACP_V (R259): Queue a copy of half a tile row into a vector register. -/
  | acpV (gd : Guard) (f : Fields)
  /-- ACP_SP (R260): Queue a copy of tile rows into the team's scratchpad. -/
  | acpSp (gd : Guard) (f : Fields)
  /-- ACPS (R260): Queue a scatter of tile rows to a list of addresses. -/
  | acps (gd : Guard) (f : Fields)
  /-- ACLR_X (R257): Queue a clear of a tile to exact +0 in exact use. -/
  | aclrX (gd : Guard) (f : Fields)
  /-- ACLR_F (R257): Queue a clear of a tile to +0.0 in binary32 use. -/
  | aclrF (gd : Guard) (f : Fields)
  /-- SKEEP (R254): Queue the forming and cluster broadcast of wide scales. -/
  | skeep (gd : Guard) (f : Fields)
  /-- CRES (R251): Resume the thread's parked commands on a counter. -/
  | cres (gd : Guard) (f : Fields)
  /-- CRES_D (R251): Discard the thread's parked commands on a counter. -/
  | cresD (gd : Guard) (f : Fields)
  /-- WLT (R264): Wait until a completion counter is below n. -/
  | wlt (gd : Guard) (f : Fields)
  /-- CGO (R280): Check, snapshot and queue a copy, applying its barrier step. -/
  | cgo (gd : Guard) (f : Fields)
  /-- BINIT (R289): Initialise a transaction barrier. -/
  | binit (gd : Guard) (f : Fields)
  /-- BARV (R289): Arrive at a transaction barrier. -/
  | barv (gd : Guard) (f : Fields)
  /-- BWAIT (R289): Wait for a barrier's phase to end. -/
  | bwait (gd : Guard) (f : Fields)
  /-- SBIND (R286): Start a copy whose destination is a stream register. -/
  | sbind (gd : Guard) (f : Fields)
  /-- XREQ (R291): Send a transform request to the cluster's coprocessor. -/
  | xreq (gd : Guard) (f : Fields)
  /-- AMO_ADD (R298): Returning atomic add. -/
  | amoAdd (gd : Guard) (f : Fields)
  /-- AMO_MIN (R298): Returning atomic minimum. -/
  | amoMin (gd : Guard) (f : Fields)
  /-- AMO_MAX (R298): Returning atomic maximum. -/
  | amoMax (gd : Guard) (f : Fields)
  /-- AMO_AND (R298): Returning atomic AND. -/
  | amoAnd (gd : Guard) (f : Fields)
  /-- AMO_OR (R298): Returning atomic OR. -/
  | amoOr (gd : Guard) (f : Fields)
  /-- AMO_XOR (R298): Returning atomic XOR. -/
  | amoXor (gd : Guard) (f : Fields)
  /-- AMO_SWAP (R298): Returning atomic swap. -/
  | amoSwap (gd : Guard) (f : Fields)
  /-- AMO_CAS (R298): Returning atomic compare-and-swap. -/
  | amoCas (gd : Guard) (f : Fields)
  /-- RED_ADD (R300): Non-returning atomic add. -/
  | redAdd (gd : Guard) (f : Fields)
  /-- RED_MIN (R300): Non-returning atomic minimum. -/
  | redMin (gd : Guard) (f : Fields)
  /-- RED_MAX (R300): Non-returning atomic maximum. -/
  | redMax (gd : Guard) (f : Fields)
  /-- RED_AND (R300): Non-returning atomic AND. -/
  | redAnd (gd : Guard) (f : Fields)
  /-- RED_OR (R300): Non-returning atomic OR. -/
  | redOr (gd : Guard) (f : Fields)
  /-- RED_XOR (R300): Non-returning atomic XOR. -/
  | redXor (gd : Guard) (f : Fields)
  /-- RED_X (R303): Non-returning exact add of a binary32 value into an exact-sum word. -/
  | redX (gd : Guard) (f : Fields)
  /-- INBX (R307): Take the head entry of the core's inbox, with acquire. -/
  | inbx (gd : Guard) (f : Fields)
  /-- LAUNCH (R330): Send a launch header to the die's arbiter. -/
  | launch (gd : Guard) (f : Fields)
  /-- TEXIT (R336): Retire the thread once its work has drained. -/
  | texit (gd : Guard) (f : Fields)
  /-- PHASE (R343): Arrive at the launch's phase boundary and wait for it to advance. -/
  | phase (gd : Guard) (f : Fields)
  /-- CPIN (R350): Pin the team against castling. -/
  | cpin (gd : Guard) (f : Fields)
  /-- CUNPIN (R350): Clear the team's castling pin. -/
  | cunpin (gd : Guard) (f : Fields)
  /-- TRAP (R356): Raise a software trap with a code. -/
  | trap (gd : Guard) (f : Fields)
  /-- RTI (R361): Return from a trap handler and release the parked threads. -/
  | rti (gd : Guard) (f : Fields)
  /-- GETS (R356): Read a system register into a d register. -/
  | gets (gd : Guard) (f : Fields)
  /-- SETS (R356): Write a system register from a source. -/
  | sets (gd : Guard) (f : Fields)
  /-- BRK (R391): Raise a breakpoint trap. -/
  | brk (gd : Guard) (f : Fields)
  /-- TRC (R391): Write a trace record carrying a register value. -/
  | trc (gd : Guard) (f : Fields)
  /-- GETS_CP_GO (R279): A read of cp.go, which starts a copy exactly as cgo does. -/
  | getsCpGo (gd : Guard) (f : Fields)
  /-- CORE_CYCLE (R102): At each core cycle the core offers issue to one barrel slot. It attempts issue, or the decode of a word that is no instruction. It classes the cycle and counts it in the profiling counters and the rotation histogram. -/
  | coreCycle (g : Nat) (lostBank : Bool)
  /-- BREAKPOINT_HALT (R377): A matching thread halts before decoding at its turn. -/
  | breakpointHalt (g slot entry : Nat)
  /-- TRACE_SAMPLE (R384): Every 2^(12+sp) cycles a core writes a sample record. -/
  | traceSample (g : Nat)
  /-- LOAD_REPLY (R104): A reply writes its destination register, sets the full bit and clears the pending bit. -/
  | loadReply (k : Nat)
  /-- READ_PERFORM (R312): A read request is performed at its home and a reply is sent. -/
  | readPerform (k : Nat)
  /-- WRITE_PERFORM (R312): A write request is applied at its home in coherence order. -/
  | writePerform (k : Nat)
  /-- PUPD_PERFORM (R182): The home slice applies a planar update to 32 elements in one atomic step. -/
  | pupdPerform (k : Nat)
  /-- KV_STEP (R207): The KV window translation step allocates or copies on write at the entry's home slice. -/
  | kvStep (k : Nat)
  /-- KV_BLOCK_STEP (R209): One block step of kvfork or kvfree is performed atomically. -/
  | kvBlockStep (k : Nat)
  /-- ATOMIC_PERFORM (R298): An atomic or reduction is performed at its executing unit. -/
  | atomicPerform (k : Nat)
  /-- AMO_REPLY (R299): The old value returns and writes the amo destination. -/
  | amoReply (k : Nat)
  /-- RED_ACK (R300): Acknowledgement that lowers the count of outstanding non-returning operations. -/
  | redAck (k : Nat)
  /-- N_WORD_ARRIVAL (R110): A network register word arrives at the neighbour's opposite register. -/
  | nWordArrival (k : Nat)
  /-- MIGR_ARRIVAL (R202): A migrating context arrives and enters a vacant slot or waits in an arrival place. -/
  | migrArrival (k : Nat)
  /-- REJOIN_ARRIVAL (R125): A detached follower's arrival message reaches the leader at rejoin. -/
  | rejoinArrival (k : Nat)
  /-- XREQ_ANSWER (R292): The coprocessor's busy or accepted answer resolves the guard. -/
  | xreqAnswer (k : Nat)
  /-- INBOX_MESSAGE_ARRIVAL (R308): A message joins the inbox, its spill area or the die reserve. -/
  | inboxMessageArrival (k : Nat)
  /-- TLD_REQUEST (R220): The slice allocates a ticket entry or replies with the null ticket. -/
  | tldRequest (k : Nat)
  /-- TICKET_CLAIM (R222): A redeem's claim reaches the slice and is granted or denied. -/
  | ticketClaim (k : Nat)
  /-- TDROP_AT_SLICE (R229): A tdrop reaches the slice and frees a matching live entry. -/
  | tdropAtSlice (k : Nat)
  /-- TQRY_AT_SLICE (R228): The slice answers a ticket query. -/
  | tqryAtSlice (k : Nat)
  /-- STEAL_REPLY (R335): A thief writes the shipped blocks into its slot table as records. -/
  | stealReply (k : Nat)
  /-- FORWARDED_LINE_ARRIVAL (R123): A line forwarded by the gang leader arrives, with its pc of entry, at an attached follower's forward buffer. -/
  | forwardedLineArrival (k : Nat)
  /-- LAUNCH_ACCEPT (R330): The arbiter reads, checks and accepts or refuses a launch header. -/
  | launchAccept (src : LaunchSource) (place : List Nat)
  /-- LINE_FETCH_REPLY (R36): A 64-byte fetch line arrives and is parity-checked, raising a core machine check on failure. -/
  | lineFetchReply (g colour : Nat) (line : BitVec 64)
  /-- TABLE_WALK_COMPLETE (R193): A page-table walk ends and its translation or fault is applied to the waiting access. -/
  | tableWalkComplete (g colour vpage : Nat)
  /-- HELD_WRITE_RELEASE (R323): A write held at its home is performed once the frontier covers its clock. -/
  | heldWriteRelease (g k : Nat)
  /-- GANG_FORM (R122): The gang forms once every follower column has answered. -/
  | gangForm (g slot : Nat)
  /-- COLLECTION_WINDOW_CLOSE (R364): The 16-cycle collection window closes and the lowest-slot parked thread takes its trap. -/
  | collectionWindowClose (g : Nat)
  /-- COMMAND_ACTIVATE (R262): The command at the queue head becomes active, or is discarded when its guard is false. -/
  | commandActivate (g : Nat)
  /-- UNIT_ARRIVAL (R246): A stream unit arrives and its products are accumulated and marked in the bitmap. -/
  | unitArrival (g c u : Nat)
  /-- COMMAND_COMPLETE (R263): A command finishes: range check, counter decrement and completion message. -/
  | commandComplete (g c : Nat)
  /-- SKEEP_BROADCAST (R255): Wide-scale words enter the n4 of every core in the cluster as room allows. -/
  | skeepBroadcast (clu g : Nat)
  /-- PARTIAL_RETURN (R266): The other engine returns a partial tile and bitmap to the placeholder. -/
  | partialReturn (host : Nat)
  /-- COPY_START (R282): The copy engine starts a queued copy. -/
  | copyStart (g : Nat)
  /-- COPY_SECTOR_LAND (R282): A copy sector is written and the barrier's pending sectors are decremented. -/
  | copySectorLand (g id sec : Nat)
  /-- COPY_COMPLETE (R284): A copy completes and posts its message with the checksum. -/
  | copyComplete (g id : Nat)
  /-- TRANSFORM_COMPLETE (R292): A transform request finishes and posts its message. -/
  | transformComplete (clu cop : Nat)
  /-- TICKET_GROUP_LANDED (R217): A fetched group enters the ticket buffer; after the last one the entry is ready. -/
  | ticketGroupLanded (g e i : Nat)
  /-- TICKET_DELIVERY (R217): A sector-plane is delivered to the redeemer; after the last one the entry is freed. -/
  | ticketDelivery (g e i : Nat)
  /-- LEASE_EXPIRY (R230): A ticket entry's lease reaches zero and the entry is freed. -/
  | leaseExpiry (g e : Nat)
  /-- SWAP_INSTANT (R346): The sent-message count wraps and the core computes deltas and may offer a swap. -/
  | swapInstant (g : Nat)
  /-- CASTLING_SWAP (R348): Two accepted cores drain and exchange their complete state. -/
  | castlingSwap (p q : Nat)
  /-- CLUSTER_BLOCK_EXPAND (R211): A cluster-memory block is expanded into the expander store on a read. -/
  | clusterBlockExpand (clu colour blk : Nat)
  /-- TEAM_BIND (R333): The cluster dispatcher binds one team from a chosen bind record. -/
  | teamBind (clu : Nat)
  /-- TRACE_SINK_WRITE (R384): With ring clear, a recorder writes its oldest held record to the sink and advances wofs, which frees buffer room. -/
  | traceSinkWrite (clu : Nat)
  /-- FRONTIER_UPDATE (R323): A die sends its advanced frontier entry to every other die. -/
  | frontierUpdate (die : Nat)
  /-- LAUNCH_COMPLETE (R331): All teams have retired; the notify contribution is made and completion is reported. -/
  | launchComplete (l : Nat)
  /-- PHASE_COMMIT (R344): The phase's writes are performed and the phase commits and advances. -/
  | phaseCommit (l : Nat)
  /-- ROUND_SWITCH (R341): A physical cluster saves one round's logical cluster and restores or starts the next. -/
  | roundSwitch (l clu : Nat)
  /-- PREEMPT_DRAIN_DONE (R366): The in-flight counts reach zero and the image exchange starts. -/
  | preemptDrainDone (part : Nat)
  /-- PREEMPT_EXCHANGE_DONE (R366): The images have been exchanged and the new colour resumes. -/
  | preemptExchangeDone (part : Nat)
  /-- CASTLING_OFFER (R347): An offered core accepts or refuses a castling offer. -/
  | castlingOffer (p q : Nat)
  /-- GATEWAY_MERGE (R304): A gateway receives a combinable contribution and merges or holds it. -/
  | gatewayMerge (k die : Nat)
  /-- MERGE_HOLD_EXPIRY (R304): A gateway's 64-cycle hold on a contribution ends and the contribution passes on. -/
  | mergeHoldExpiry (die entry : Nat)
  /-- REPORT_DELIVERY (R363): A queued imprecise report is delivered at the thread's next turn. -/
  | reportDelivery (g slot : Nat)
  /-- CORE_MACHINE_CHECK (R370): An uncorrectable error in a core array stops the core and notifies the arbiter. -/
  | coreMachineCheck (g cause : Nat)
  /-- ENGINE_FAULT_PARK (R250): After a fault, requested units land and the command parks with its bitmap. -/
  | engineFaultPark (g c u : Nat)
  /-- ENGINE_MIGRATION (R265): A waiting cld.x is taken to an idle engine in the cluster row. -/
  | engineMigration (g i host : Nat)
  /-- COPY_PARK (R283): A copy that meets a fault parks with its progress and reports to the issuer. -/
  | copyPark (g id sec : Nat)
  /-- CP_RES_RESUME (R283): A write to cp.res with disc 0 resumes a parked copy. -/
  | cpResResume (tid id : Nat)
  /-- CP_RES_DISCARD (R283): A write to cp.res with disc 1 discards a parked copy. -/
  | cpResDiscard (tid id : Nat)
  /-- STEAL_REQUEST (R335): A victim dispatcher ships up to half its unstarted stealable teams. -/
  | stealRequest (thief victim : Nat)
  /-- STEAL_BACKOFF_EXPIRY (R335): 4,096 cycles after a round of empty replies, the cluster asks again. -/
  | stealBackoffExpiry (clu : Nat)
  /-- HEARTBEAT (R337): An arbiter sends its heartbeat every 2^16 arbiter cycles. -/
  | heartbeat (die : Nat) (missed : List Nat)
  /-- DIE_FENCE (R337): A die with four missed heartbeats or a die-wide machine check is fenced and a master is elected. -/
  | dieFence (die : Nat) (dieCheck : Bool)
  /-- PREEMPT_STOP (R366): The arbiter stops a partition's issue to switch colours. -/
  | preemptStop (part colour : Nat)
  /-- PE_CTL_WRITE (R369): A write to pe.ctl stops or releases a core's issue and records the colour. -/
  | peCtlWrite (g : Nat) (val : BitVec 64)
  /-- TB_INVAL (R193): A write of a VA discards every cached translation of that page in the package. -/
  | tbInval (colour : Nat) (va : BitVec 64)
  /-- SERVICE_REGISTER_WRITE (R352): A write to a register that has no row of its own, by sets or over the service network. -/
  | serviceRegisterWrite (g slot colour num : Nat) (val : BitVec 64)
  /-- JOB_DISCARD (R372): The job's in-flight work, tickets, inbox messages and records are discarded. -/
  | jobDiscard (colour : Nat)
  /-- ARBITER_RESUME_THREAD (R362): The firmware resumes a handed-off thread at a chosen pc. -/
  | arbiterResumeThread (g slot : Nat) (pc : BitVec 64) (inh : Bool)
  /-- DEBUG_RESUME (R378): The debugger resumes a halted thread with a step count. -/
  | debugResume (g slot count : Nat)
  /-- DEBUG_TABLE_WRITE (R376): A breakpoint or watch-set entry is written on every die before it is acknowledged. -/
  | debugTableWrite (w : DebugWrite)
  /-- TC_UNFREEZE (R385): Writing 1 to frz in tc.stat unfreezes the cluster's recorder. -/
  | tcUnfreeze (clu : Nat)
  /-- RECORDER_DRAIN (R387): Before power-gating, a recorder drains its records to the sink. -/
  | recorderDrain (clu : Nat)
  /-- SINK_TIMEOUT (R387): A sink that accepts nothing for 4,096 cycles causes the remaining records to be dropped. -/
  | sinkTimeout (clu : Nat)
  /-- CLOCK_FREEZE (R390): A freeze request stops every clock of the package for scan. -/
  | clockFreeze
  /-- THERMAL_THROTTLE (R404): A sensor over its limit lowers the die's arithmetic clock in 100 MHz steps. -/
  | thermalThrottle (die : Nat)
  /-- LINK_MESSAGE_RECEIVE (R393): A link message is authenticated and accepted, dropped as a duplicate, or a resend is requested. -/
  | linkMessageReceive (port seq : Nat) (tagOk : Bool) (msg : LinkMsg)
  /-- LK_ACK_WRITE (R394): The host records the device messages it has consumed, releasing replay-store entries. -/
  | lkAckWrite (port ack : Nat)
  /-- LK_ACK_REPLAY (R394): Writing rply resends every retained message numbered above ack. -/
  | lkAckReplay (port : Nat)
  /-- LINK_TRAIN (R396): A host or peer link trains; a peer port then starts its SPDM handshake. -/
  | linkTrain (port : Nat)
  /-- PEER_HANDSHAKE (R396): A mutually authenticated SPDM session is established on a peer link, or fails: the peer proves a chain of
  some digest, or none. -/
  | peerHandshake (port : Nat) (chain : Option Nat)
  /-- PEER_CONFIG_WRITE (R396): The host writes the package number, route tables and expected peer digests. -/
  | peerConfigWrite (cfg : PeerConfig)
  /-- SPDM_REQUEST (R397): The device answers an SPDM request on the management class. -/
  | spdmRequest (port : Nat)
  /-- KEY_UPDATE (R398): Session keys are updated before a sequence number would repeat. -/
  | keyUpdate (port : Nat)
  /-- LOCK_INTERFACE_REQUEST (R399): Lock a colour's TDI and fix its configuration; the arbiter gives it vault frames (R400). -/
  | lockInterfaceRequest (lock : InterfaceLock)
  /-- START_INTERFACE_REQUEST (R399): Move a colour's TDI to RUN and enable its launches. -/
  | startInterfaceRequest (colour : Nat)
  /-- STOP_INTERFACE_REQUEST (R399): Return a TDI to CONFIG_UNLOCKED, discarding its work and key. -/
  | stopInterfaceRequest (colour : Nat)
  /-- HOST_LAUNCH (R392): A host launch message carries a colour, priority and launch header to the device. -/
  | hostLaunch (port : Nat) (place : List Nat)
  /-- DMA_DESCRIPTOR (R392): A host DMA descriptor into translated space is taken. -/
  | dmaDescriptor (port : Nat)
  /-- DMA_COMPLETE (R392): A DMA transfer finishes and its completion is sent to the host. -/
  | dmaComplete (port : Nat)
  /-- POWER_UP (R402): Each arbiter checks its image, trains memory, installs the ticket key and trains its links. -/
  | powerUp (status : List Nat)
  /-- BOOT_STATUS_QUERY (R403): A die answers a boot status query on the management path. -/
  | bootStatusQuery (die : Nat)
  /-- RESET (R390): A reset, the only way out of a clock freeze. -/
  | reset (keepsPower : Bool)
  /-- BIND_RECORD_AGING (R333): A bind record that has waited 2^20 arbiter cycles without binding has its priority raised by one, up to 3. -/
  | bindRecordAging (die e : Nat)
  /-- LINK_FLIT_RETRY (R395): A flit lost on a peer link or gateway is retried at the link layer and counted toward the rstm freeze trigger. -/
  | linkFlitRetry (die link : Nat)
  /-- LINK_LOSS (R393): A host or peer link loses training and must retrain, keeping its sequence numbering. -/
  | linkLoss (port : Nat)
  /-- PARTITION_RESIZE (R399): The arbiter changes the set of clusters in a colour's partition, which sends a locked or running TDI to ERROR. -/
  | partitionResize (part : Nat) (clusters : List Nat)
  /-- ARBITER_FIRMWARE_REPLACE (R399): The arbiter firmware is replaced, and every TDI in CONFIG_LOCKED or RUN enters ERROR. -/
  | arbiterFirmwareReplace
  /-- ARBITER_WATCHDOG_EXPIRY (R385): The arbiter watchdog expires and, with tc.frz wdog set, freezes the die's recorders and black box. -/
  | arbiterWatchdogExpiry (die : Nat)
  deriving DecidableEq, Repr

end Sys2Proof
end

