-- ==== Sys2Proof/Machine/Legal.lean ====
section
/-! DEFINITION. The opcode map and what makes a word legal (spec/02_encoding.md R44–R55, R60, R61, and the operand tables of
the chapters R60 names): one row per form, and the trap detail of the first failing check of R53. -/
namespace Sys2Proof.Machine
open Sys2Proof

/-- The fields of a word before any check (R44): class, op, guard, qualifier, type code, operand specifiers, fmt. -/
structure RawWord where
  cls  : Nat
  op   : Nat
  gd   : Guard
  qual : Nat
  ty   : Nat
  dst  : Nat
  src1 : Nat
  src2 : Nat
  src3 : Nat
  fmt  : Nat
  deriving DecidableEq, Repr

/-- What an operand position accepts (R49): a file, n4 alone, a tile or a slot of the special file, the zero source; `absent`
is a position that must hold the all-zero specifier. -/
inductive FileK where
  | d | v | s | q | n | n4 | w | p | a | y | z | absent
  deriving DecidableEq, Repr

/-- How a form is told from another of the same class and op. -/
inductive Sel where
  | always
  | bit (k : Nat) (val : Bool)
  | bits (lo val : Nat)
  | dstFile (file : Nat) (yes : Bool)
  | src1Vs (yes : Bool)
  | src2V (yes : Bool)
  | cpgo (yes : Bool)
  deriving DecidableEq, Repr

/-- The further limits of a form on its type, qualifier and fmt (detail 3). -/
inductive Extra where
  | none | gangK | cmpUn | cmpTst | count6 | descr | widK | mixed | redAdd | cvtS | cvtV | srcF32 | srcCb4 | code20 | planeK
  | devRel | loadOrd | storeOrd | waitOrd | fenceOrd | planarLd | tldF | streamP | resP | acpQ | wltN | xop | redOrd | redXOrd
  | sysNum
  deriving DecidableEq, Repr

/-- The instruction forms, one name per row of the opcode table. -/
inductive Op where
  | br | brl | jr | jrLink | ret | setp | setpReg | clrp | pand | por | pnot | gang | rejoin | ungang | nop | cmpEq
  | cmpNe | cmpLt | cmpLe | cmpGt | cmpGe | cmpUn | cmpTst | cmpNtst | cmpEqImm | cmpNeImm | cmpLtImm | cmpLeImm
  | cmpGtImm | cmpGeImm | cmpUnImm | cmpTstImm | cmpNtstImm | add | sub | mul | mulh | div | rem | and | or | xor
  | andn | shl | shr | sar | rot | clz | ctz | popc | min | max | sel | bext | bins | addImm | mulImm | andImm
  | orImm | xorImm | shlImm | shrImm | sarImm | rotImm | minImm | maxImm | bextImm | binsImm | leaPc | leaBase
  | leaIndex | li | lui | wid | fadd | fsub | fmul | ffma | fmin | fmax | fneg | fabs | fcls | frnd | fexf | fins
  | fdiv | fsqrt | frsq | iadd | isub | imul | idot4 | iabs | imin | imax | vsel | vshf | vshfRot | vshfXor
  | vredAdd | vredMin | vredMax | vbc | vbcLane | vmov | vmovExtract | vmovInsert | cvt | cvtVector | qsc | qcb
  | dqcb | nanm | nanx | pspl | pjn | pupd | pdec | ld | st | migr | home | fence | vld | vst | vldp | vstp | lds
  | sts | tprb | kvfork | kvfree | tld | rdmSp | rdmV | rdmS | tqry | tdrop | cldX | cldB | cldtX | cldtB | cldg
  | rld | rldg | fold | acpV | acpSp | acps | aclrX | aclrF | skeep | cres | cresD | wlt | cgo | binit | barv
  | bwait | sbind | xreq | amoAdd | amoMin | amoMax | amoAnd | amoOr | amoXor | amoSwap | amoCas | redAdd | redMin
  | redMax | redAnd | redOr | redXor | redX | inbx | launch | texit | phase | cpin | cunpin | trap | rti | gets
  | sets | getsCpGo | brk | trc
  deriving DecidableEq, Repr

/-- One row: class, op, what tells it from its neighbours, its name, the files of each position (empty where unused), the type
code that 0x0 selects, the accepted type codes, the accepted qualifiers, the fmt bits it defines, and its further limits. -/
structure Form where
  cls   : Nat
  op    : Nat
  sel   : Sel
  name  : Op
  dst   : List FileK
  src1  : List FileK
  src2  : List FileK
  src3  : List FileK
  dflt  : Nat
  types : List Nat
  quals : List Nat
  fmask : Nat
  extra : Extra
  deriving DecidableEq, Repr

/-- Class 0x01 (R60). -/
def forms01 : List Form :=
  [⟨1, 0, .always, .br, [], [], [], [], 0, [0], [0], 0xFFFFFFFF, .none⟩,
   ⟨1, 1, .always, .brl, [.d], [], [], [], 0, [0], [0], 0xFFFFFFFF, .none⟩,
   ⟨1, 2, .bit 0 false, .jr, [], [.d], [], [], 0, [0], [0], 0x0, .none⟩,
   ⟨1, 2, .bit 0 true, .jrLink, [.d], [.d], [], [], 0, [0], [0], 0x1, .none⟩,
   ⟨1, 3, .always, .ret, [], [.d], [], [], 0, [0], [0], 0x0, .none⟩,
   ⟨1, 4, .bit 0 false, .setp, [.p], [], [], [], 0, [0], [0], 0x0, .none⟩,
   ⟨1, 4, .bit 0 true, .setpReg, [.p], [.d, .q, .n, .z], [], [], 0, [0], [0], 0x1, .none⟩,
   ⟨1, 5, .always, .clrp, [.p], [], [], [], 0, [0], [0], 0x0, .none⟩,
   ⟨1, 6, .always, .pand, [.p], [.p], [.p], [], 0, [0], [0], 0x3, .none⟩,
   ⟨1, 7, .always, .por, [.p], [.p], [.p], [], 0, [0], [0], 0x3, .none⟩,
   ⟨1, 8, .always, .pnot, [.p], [.p], [], [], 0, [0], [0], 0x0, .none⟩,
   ⟨1, 9, .always, .gang, [], [], [], [], 0, [0], [0], 0xFFFFFFFF, .gangK⟩,
   ⟨1, 10, .always, .rejoin, [], [], [], [], 0, [0], [0], 0xFFFFFFFF, .none⟩,
   ⟨1, 11, .always, .ungang, [], [], [], [], 0, [0], [0], 0x0, .none⟩,
   ⟨1, 12, .always, .nop, [], [], [], [], 0, [0], [0], 0x0, .none⟩]

/-- Class 0x02 (R60). -/
def forms02a : List Form :=
  [⟨2, 0, .always, .cmpEq, [.p], [.d, .q, .n, .z], [.d, .q, .n, .z], [], 4, [4, 8, 9], [0], 0x0, .none⟩,
   ⟨2, 1, .always, .cmpNe, [.p], [.d, .q, .n, .z], [.d, .q, .n, .z], [], 4, [4, 8, 9], [0], 0x0, .none⟩,
   ⟨2, 2, .always, .cmpLt, [.p], [.d, .q, .n, .z], [.d, .q, .n, .z], [], 4, [4, 8, 9], [0], 0x0, .none⟩,
   ⟨2, 3, .always, .cmpLe, [.p], [.d, .q, .n, .z], [.d, .q, .n, .z], [], 4, [4, 8, 9], [0], 0x0, .none⟩,
   ⟨2, 4, .always, .cmpGt, [.p], [.d, .q, .n, .z], [.d, .q, .n, .z], [], 4, [4, 8, 9], [0], 0x0, .none⟩,
   ⟨2, 5, .always, .cmpGe, [.p], [.d, .q, .n, .z], [.d, .q, .n, .z], [], 4, [4, 8, 9], [0], 0x0, .none⟩,
   ⟨2, 6, .always, .cmpUn, [.p], [.d, .q, .n, .z], [.d, .q, .n, .z], [], 4, [4, 8, 9], [0], 0x0, .cmpUn⟩,
   ⟨2, 7, .always, .cmpTst, [.p], [.d, .q, .n, .z], [.d, .q, .n, .z], [], 4, [4, 8, 9], [0], 0x0, .cmpTst⟩,
   ⟨2, 8, .always, .cmpNtst, [.p], [.d, .q, .n, .z], [.d, .q, .n, .z], [], 4, [4, 8, 9], [0], 0x0, .cmpTst⟩,
   ⟨2, 16, .always, .cmpEqImm, [.p], [.d, .q, .n, .z], [], [], 4, [4, 8, 9], [0], 0xFFFFFFFF, .none⟩,
   ⟨2, 17, .always, .cmpNeImm, [.p], [.d, .q, .n, .z], [], [], 4, [4, 8, 9], [0], 0xFFFFFFFF, .none⟩,
   ⟨2, 18, .always, .cmpLtImm, [.p], [.d, .q, .n, .z], [], [], 4, [4, 8, 9], [0], 0xFFFFFFFF, .none⟩,
   ⟨2, 19, .always, .cmpLeImm, [.p], [.d, .q, .n, .z], [], [], 4, [4, 8, 9], [0], 0xFFFFFFFF, .none⟩,
   ⟨2, 20, .always, .cmpGtImm, [.p], [.d, .q, .n, .z], [], [], 4, [4, 8, 9], [0], 0xFFFFFFFF, .none⟩,
   ⟨2, 21, .always, .cmpGeImm, [.p], [.d, .q, .n, .z], [], [], 4, [4, 8, 9], [0], 0xFFFFFFFF, .none⟩,
   ⟨2, 22, .always, .cmpUnImm, [.p], [.d, .q, .n, .z], [], [], 4, [4, 8, 9], [0], 0xFFFFFFFF, .cmpUn⟩]

/-- Class 0x02 (R60). -/
def forms02b : List Form :=
  [⟨2, 23, .always, .cmpTstImm, [.p], [.d, .q, .n, .z], [], [], 4, [4, 8, 9], [0], 0xFFFFFFFF, .cmpTst⟩,
   ⟨2, 24, .always, .cmpNtstImm, [.p], [.d, .q, .n, .z], [], [], 4, [4, 8, 9], [0], 0xFFFFFFFF, .cmpTst⟩]

/-- Class 0x04 (R60). -/
def forms04a : List Form :=
  [⟨4, 0, .always, .add, [.d, .q, .n], [.d, .q, .n, .z], [.d, .q, .n, .z], [], 4, [1, 2, 3, 4, 5, 6, 7, 8], [0, 1], 0x0, .none⟩,
   ⟨4, 1, .always, .sub, [.d, .q, .n], [.d, .q, .n, .z], [.d, .q, .n, .z], [], 4, [1, 2, 3, 4, 5, 6, 7, 8], [0, 1], 0x0, .none⟩,
   ⟨4, 2, .always, .mul, [.d, .q, .n], [.d, .q, .n, .z], [.d, .q, .n, .z], [], 4, [1, 2, 3, 4, 5, 6, 7, 8], [0, 1], 0x0, .none⟩,
   ⟨4, 3, .always, .mulh, [.d, .q, .n], [.d, .q, .n, .z], [.d, .q, .n, .z], [], 4, [1, 2, 3, 4, 5, 6, 7, 8], [0], 0x0, .none⟩,
   ⟨4, 4, .always, .div, [.d, .q, .n], [.d, .q, .n, .z], [.d, .q, .n, .z], [], 4, [1, 2, 3, 4, 5, 6, 7, 8], [0], 0x0, .none⟩,
   ⟨4, 5, .always, .rem, [.d, .q, .n], [.d, .q, .n, .z], [.d, .q, .n, .z], [], 4, [1, 2, 3, 4, 5, 6, 7, 8], [0], 0x0, .none⟩,
   ⟨4, 6, .always, .and, [.d, .q, .n], [.d, .q, .n, .z], [.d, .q, .n, .z], [], 4, [1, 2, 3, 4, 5, 6, 7, 8], [0], 0x0, .none⟩,
   ⟨4, 7, .always, .or, [.d, .q, .n], [.d, .q, .n, .z], [.d, .q, .n, .z], [], 4, [1, 2, 3, 4, 5, 6, 7, 8], [0], 0x0, .none⟩,
   ⟨4, 8, .always, .xor, [.d, .q, .n], [.d, .q, .n, .z], [.d, .q, .n, .z], [], 4, [1, 2, 3, 4, 5, 6, 7, 8], [0], 0x0, .none⟩,
   ⟨4, 9, .always, .andn, [.d, .q, .n], [.d, .q, .n, .z], [.d, .q, .n, .z], [], 4, [1, 2, 3, 4, 5, 6, 7, 8], [0], 0x0, .none⟩,
   ⟨4, 10, .always, .shl, [.d, .q, .n], [.d, .q, .n, .z], [.d, .q, .n, .z], [], 4, [1, 2, 3, 4, 5, 6, 7, 8], [0, 1], 0x0, .none⟩,
   ⟨4, 11, .always, .shr, [.d, .q, .n], [.d, .q, .n, .z], [.d, .q, .n, .z], [], 4, [1, 2, 3, 4, 5, 6, 7, 8], [0], 0x0, .none⟩,
   ⟨4, 12, .always, .sar, [.d, .q, .n], [.d, .q, .n, .z], [.d, .q, .n, .z], [], 4, [1, 2, 3, 4, 5, 6, 7, 8], [0], 0x0, .none⟩,
   ⟨4, 13, .always, .rot, [.d, .q, .n], [.d, .q, .n, .z], [.d, .q, .n, .z], [], 4, [1, 2, 3, 4, 5, 6, 7, 8], [0], 0x0, .none⟩,
   ⟨4, 14, .always, .clz, [.d, .q, .n], [.d, .q, .n, .z], [], [], 4, [1, 2, 3, 4, 5, 6, 7, 8], [0], 0x0, .none⟩,
   ⟨4, 15, .always, .ctz, [.d, .q, .n], [.d, .q, .n, .z], [], [], 4, [1, 2, 3, 4, 5, 6, 7, 8], [0], 0x0, .none⟩]

/-- Class 0x04 (R60). -/
def forms04b : List Form :=
  [⟨4, 16, .always, .popc, [.d, .q, .n], [.d, .q, .n, .z], [], [], 4, [1, 2, 3, 4, 5, 6, 7, 8], [0], 0x0, .none⟩,
   ⟨4, 17, .always, .min, [.d, .q, .n], [.d, .q, .n, .z], [.d, .q, .n, .z], [], 4, [1, 2, 3, 4, 5, 6, 7, 8], [0], 0x0, .none⟩,
   ⟨4, 18, .always, .max, [.d, .q, .n], [.d, .q, .n, .z], [.d, .q, .n, .z], [], 4, [1, 2, 3, 4, 5, 6, 7, 8], [0], 0x0, .none⟩,
   ⟨4, 19, .always, .sel, [.d, .q, .n], [.d, .q, .n, .z], [.d, .q, .n, .z], [.p], 4, [1, 2, 3, 4, 5, 6, 7, 8], [0], 0x0, .none⟩,
   ⟨4, 20, .always, .bext, [.d, .q, .n], [.d, .q, .n, .z], [.d, .q, .n, .z], [], 4, [4, 8], [0], 0x0, .none⟩,
   ⟨4, 21, .always, .bins, [.d, .q, .n], [.d, .q, .n, .z], [.d, .q, .n, .z], [.d, .q, .n, .z], 4, [4, 8], [0], 0x0, .none⟩]

/-- Class 0x05 (R60). -/
def forms05a : List Form :=
  [⟨5, 0, .always, .addImm, [.d, .q, .n], [.d, .q, .n, .z], [], [], 4, [1, 2, 3, 4, 5, 6, 7, 8], [0, 1], 0xFFFFFFFF, .none⟩,
   ⟨5, 2, .always, .mulImm, [.d, .q, .n], [.d, .q, .n, .z], [], [], 4, [1, 2, 3, 4, 5, 6, 7, 8], [0, 1], 0xFFFFFFFF, .none⟩,
   ⟨5, 6, .always, .andImm, [.d, .q, .n], [.d, .q, .n, .z], [], [], 4, [1, 2, 3, 4, 5, 6, 7, 8], [0], 0xFFFFFFFF, .none⟩,
   ⟨5, 7, .always, .orImm, [.d, .q, .n], [.d, .q, .n, .z], [], [], 4, [1, 2, 3, 4, 5, 6, 7, 8], [0], 0xFFFFFFFF, .none⟩,
   ⟨5, 8, .always, .xorImm, [.d, .q, .n], [.d, .q, .n, .z], [], [], 4, [1, 2, 3, 4, 5, 6, 7, 8], [0], 0xFFFFFFFF, .none⟩,
   ⟨5, 10, .always, .shlImm, [.d, .q, .n], [.d, .q, .n, .z], [], [], 4, [1, 2, 3, 4, 5, 6, 7, 8], [0, 1], 0xFFFFFFFF, .count6⟩,
   ⟨5, 11, .always, .shrImm, [.d, .q, .n], [.d, .q, .n, .z], [], [], 4, [1, 2, 3, 4, 5, 6, 7, 8], [0], 0xFFFFFFFF, .count6⟩,
   ⟨5, 12, .always, .sarImm, [.d, .q, .n], [.d, .q, .n, .z], [], [], 4, [1, 2, 3, 4, 5, 6, 7, 8], [0], 0xFFFFFFFF, .count6⟩,
   ⟨5, 13, .always, .rotImm, [.d, .q, .n], [.d, .q, .n, .z], [], [], 4, [1, 2, 3, 4, 5, 6, 7, 8], [0], 0xFFFFFFFF, .count6⟩,
   ⟨5, 17, .always, .minImm, [.d, .q, .n], [.d, .q, .n, .z], [], [], 4, [1, 2, 3, 4, 5, 6, 7, 8], [0], 0xFFFFFFFF, .none⟩,
   ⟨5, 18, .always, .maxImm, [.d, .q, .n], [.d, .q, .n, .z], [], [], 4, [1, 2, 3, 4, 5, 6, 7, 8], [0], 0xFFFFFFFF, .none⟩,
   ⟨5, 20, .always, .bextImm, [.d, .q, .n], [.d, .q, .n, .z], [], [], 4, [4, 8], [0], 0xFFFFFFFF, .descr⟩,
   ⟨5, 21, .always, .binsImm, [.d, .q, .n], [.d, .q, .n, .z], [.d, .q, .n, .z], [], 4, [4, 8], [0], 0xFFFFFFFF, .descr⟩,
   ⟨5, 22, .bits 32 0, .leaPc, [.d, .q, .n], [], [], [], 4, [4], [0], 0xFFFFFFFF, .none⟩,
   ⟨5, 22, .bits 32 1, .leaBase, [.d, .q, .n], [.d, .q, .n, .z], [], [], 4, [4], [0], 0x1FFFFFFFF, .none⟩,
   ⟨5, 22, .bits 32 2, .leaIndex, [.d, .q, .n], [.d, .q, .n, .z], [.d, .q, .n, .z], [], 4, [4], [0], 0xEFFFFFFFF, .none⟩]

/-- Class 0x05 (R60). -/
def forms05b : List Form :=
  [⟨5, 32, .always, .li, [.d, .q, .n], [], [], [], 4, [4], [0], 0xFFFFFFFF, .none⟩,
   ⟨5, 33, .always, .lui, [.d, .q, .n], [], [], [], 4, [4], [0], 0xFFFFFFFF, .none⟩,
   ⟨5, 34, .always, .wid, [.d, .q, .n], [], [], [], 0, [0], [0], 0xFFFFFFFF, .widK⟩]

/-- Class 0x08 (R60). -/
def forms08 : List Form :=
  [⟨8, 0, .always, .fadd, [.v], [.v, .d, .s, .z], [.v, .d, .s, .z], [], 9, [9], [0, 1, 2, 3], 0x100000000, .none⟩,
   ⟨8, 1, .always, .fsub, [.v], [.v, .d, .s, .z], [.v, .d, .s, .z], [], 9, [9], [0, 1, 2, 3], 0x100000000, .none⟩,
   ⟨8, 2, .always, .fmul, [.v], [.v, .d, .s, .z], [.v, .d, .s, .z], [], 9, [9], [0, 1, 2, 3], 0x100000000, .none⟩,
   ⟨8, 3, .always, .ffma, [.v], [.v, .d, .s, .z], [.v, .d, .s, .z], [.v, .d, .s, .z], 9, [9], [0, 1, 2, 3], 0x100000000, .none⟩,
   ⟨8, 4, .always, .fmin, [.v], [.v, .d, .s, .z], [.v, .d, .s, .z], [], 9, [9], [0], 0x0, .none⟩,
   ⟨8, 5, .always, .fmax, [.v], [.v, .d, .s, .z], [.v, .d, .s, .z], [], 9, [9], [0], 0x0, .none⟩,
   ⟨8, 6, .always, .fneg, [.v], [.v, .d, .s, .z], [], [], 9, [9], [0], 0x0, .none⟩,
   ⟨8, 7, .always, .fabs, [.v], [.v, .d, .s, .z], [], [], 9, [9], [0], 0x0, .none⟩,
   ⟨8, 8, .always, .fcls, [.d], [.v, .d, .s, .z], [], [], 9, [9], [0], 0x7FF, .none⟩,
   ⟨8, 9, .always, .frnd, [.v], [.v, .d, .s, .z], [], [], 9, [9], [0, 1, 2, 3], 0x0, .none⟩,
   ⟨8, 10, .always, .fexf, [.v], [.v, .d, .s, .z], [], [], 9, [9], [0, 1, 2, 3], 0x0, .none⟩,
   ⟨8, 11, .always, .fins, [.v], [.v, .d, .s, .z], [.v, .d, .s, .z], [], 9, [9], [0, 1, 2, 3], 0x100000000, .none⟩,
   ⟨8, 12, .always, .fdiv, [.v], [.v, .d, .s, .z], [.v, .d, .s, .z], [], 9, [9], [0, 1, 2, 3], 0x100000000, .none⟩,
   ⟨8, 13, .always, .fsqrt, [.v], [.v, .d, .s, .z], [], [], 9, [9], [0, 1, 2, 3], 0x0, .none⟩,
   ⟨8, 14, .always, .frsq, [.v], [.v, .d, .s, .z], [], [], 9, [9], [0, 1, 2, 3], 0x0, .none⟩]

/-- Class 0x09 (R60). -/
def forms09 : List Form :=
  [⟨9, 0, .always, .iadd, [.v], [.v, .d, .s, .z], [.v, .d, .s, .z], [], 3, [1, 2, 3, 5, 6, 7], [0, 1], 0x0, .none⟩,
   ⟨9, 1, .always, .isub, [.v], [.v, .d, .s, .z], [.v, .d, .s, .z], [], 3, [1, 2, 3, 5, 6, 7], [0, 1], 0x0, .none⟩,
   ⟨9, 2, .always, .imul, [.v], [.v, .d, .s, .z], [.v, .d, .s, .z], [], 3, [1, 2, 3, 5, 6, 7], [0, 1], 0x0, .none⟩,
   ⟨9, 3, .always, .idot4, [.v], [.v, .d, .s, .z], [.v, .d, .s, .z], [.v, .d, .s, .z], 3, [1, 5], [0, 1], 0x1, .mixed⟩,
   ⟨9, 4, .always, .iabs, [.v], [.v, .d, .s, .z], [], [], 3, [1, 2, 3], [0, 1], 0x0, .none⟩,
   ⟨9, 5, .always, .imin, [.v], [.v, .d, .s, .z], [.v, .d, .s, .z], [], 3, [1, 2, 3, 5, 6, 7], [0], 0x0, .none⟩,
   ⟨9, 6, .always, .imax, [.v], [.v, .d, .s, .z], [.v, .d, .s, .z], [], 3, [1, 2, 3, 5, 6, 7], [0], 0x0, .none⟩]

/-- Class 0x0A (R60). -/
def forms0A : List Form :=
  [⟨10, 0, .always, .vsel, [.v], [.v, .d, .s, .z], [.v, .d, .s, .z], [.d], 0, [0], [0], 0x0, .none⟩,
   ⟨10, 1, .bits 0 0, .vshf, [.v], [.v, .d, .s, .z], [.v, .d, .s, .z], [], 0, [0], [0], 0x0, .none⟩,
   ⟨10, 1, .bits 0 1, .vshfRot, [.v], [.v, .d, .s, .z], [], [], 0, [0], [0], 0x1F3, .none⟩,
   ⟨10, 1, .bits 0 2, .vshfXor, [.v], [.v, .d, .s, .z], [], [], 0, [0], [0], 0x1F3, .none⟩,
   ⟨10, 2, .bits 0 0, .vredAdd, [.d, .v], [.v, .d, .s, .z], [], [], 0, [3, 7, 9], [0], 0x1F, .redAdd⟩,
   ⟨10, 2, .bits 0 1, .vredMin, [.d, .v], [.v, .d, .s, .z], [], [], 0, [3, 7, 9], [0], 0x1, .none⟩,
   ⟨10, 2, .bits 0 2, .vredMax, [.d, .v], [.v, .d, .s, .z], [], [], 0, [3, 7, 9], [0], 0x2, .none⟩,
   ⟨10, 3, .src1Vs false, .vbc, [.v], [.d, .z], [], [], 0, [0], [0], 0x0, .none⟩,
   ⟨10, 3, .src1Vs true, .vbcLane, [.v], [.v, .s], [], [], 0, [0], [0], 0x1F, .none⟩,
   ⟨10, 4, .dstFile 0 true, .vmovExtract, [.d], [.v, .s], [], [], 0, [0], [0], 0x1F, .none⟩,
   ⟨10, 4, .bit 5 true, .vmovInsert, [.v], [.d], [], [], 0, [0], [0], 0x3F, .none⟩,
   ⟨10, 4, .always, .vmov, [.v], [.v, .d, .s, .z], [], [], 0, [0], [0], 0x0, .none⟩]

/-- Class 0x0C (R60). -/
def forms0C : List Form :=
  [⟨12, 0, .dstFile 1 false, .cvt, [.d], [.d, .q, .n, .z], [], [], 0, [1, 2, 3, 4, 5, 6, 7, 8, 9, 10, 11, 12, 13], [0, 1, 2, 3], 0xF00000001, .cvtS⟩,
   ⟨12, 0, .dstFile 1 true, .cvtVector, [.v], [.v, .s, .d, .z], [], [], 0, [3, 7, 9, 10, 11, 12, 13], [0, 1, 2, 3], 0xF00000001, .cvtV⟩,
   ⟨12, 1, .always, .qsc, [.d], [.v, .s], [.v, .s], [.d], 15, [15], [0], 0xF00000000, .srcF32⟩,
   ⟨12, 2, .always, .qcb, [.v], [.v, .s], [.v, .s], [.d], 14, [14], [0], 0xF00000003, .srcF32⟩,
   ⟨12, 3, .always, .dqcb, [.v], [.v, .s], [.d], [], 9, [9], [0, 1, 2, 3], 0xF00000007, .srcCb4⟩,
   ⟨12, 4, .always, .nanm, [.v], [.v, .s, .z], [.d], [], 9, [9, 12, 13], [0], 0x3F, .code20⟩,
   ⟨12, 5, .always, .nanx, [.d], [.v, .s], [], [], 9, [9, 11, 12, 13], [0], 0x1F, .none⟩]

/-- Class 0x0D (R60). -/
def forms0D : List Form :=
  [⟨13, 0, .always, .pspl, [.v], [.v, .s], [], [], 0, [11, 12, 13], [0], 0xF, .planeK⟩,
   ⟨13, 1, .always, .pjn, [.v], [.v, .s], [], [], 0, [11, 12, 13], [0], 0xF, .planeK⟩,
   ⟨13, 2, .always, .pupd, [.absent], [.d], [.v, .s, .z], [.d], 0, [12, 13], [0, 1, 2, 3], 0xFFFFFFFFF, .devRel⟩,
   ⟨13, 3, .always, .pdec, [.absent], [.d], [.v, .s, .z], [.d], 0, [12, 13], [0, 1, 2, 3], 0xFFFFFFFFF, .devRel⟩]

/-- Class 0x10 (R60). -/
def forms10 : List Form :=
  [⟨16, 0, .always, .ld, [.d], [.d], [], [], 4, [1, 2, 3, 4, 5, 6, 7, 8, 9], [0], 0xFFFFFFFFF, .loadOrd⟩,
   ⟨16, 1, .always, .st, [], [.d], [.d, .q, .n, .z], [], 4, [1, 2, 3, 4, 5, 6, 7, 8, 9], [0], 0xFFFFFFFFF, .storeOrd⟩,
   ⟨16, 2, .always, .migr, [], [.d], [], [], 0, [0], [0], 0x0, .none⟩,
   ⟨16, 3, .always, .home, [], [], [], [], 0, [0], [0], 0x0, .none⟩,
   ⟨16, 4, .always, .fence, [], [], [], [], 0, [0], [0], 0xF00000000, .fenceOrd⟩]

/-- Class 0x11 (R60). -/
def forms11 : List Form :=
  [⟨17, 0, .always, .vld, [.v], [.d], [], [], 0, [0], [0], 0xFFFFFFFFF, .loadOrd⟩,
   ⟨17, 1, .always, .vst, [], [.d], [.v, .s, .d, .z], [.d, .z], 0, [0], [0], 0xFFFFFFFFF, .storeOrd⟩,
   ⟨17, 2, .always, .vldp, [.v], [.d], [.d], [], 0, [11, 12, 13], [0, 1], 0xFFFFFFFFF, .planarLd⟩,
   ⟨17, 3, .always, .vstp, [], [.d], [.v, .s, .d, .z], [.d], 0, [11, 12, 13], [0], 0xFFFFFFFFF, .storeOrd⟩]

/-- Class 0x12 (R60). -/
def forms12 : List Form :=
  [⟨18, 0, .dstFile 1 false, .lds, [.d], [.d], [], [], 4, [1, 2, 3, 4, 5, 6, 7, 8, 9], [0], 0xFFFFFFFF, .none⟩,
   ⟨18, 0, .dstFile 1 true, .lds, [.v], [.d], [], [], 0, [0], [0], 0xFFFFFFFF, .none⟩,
   ⟨18, 1, .src2V false, .sts, [], [.d], [.d, .q, .n, .z], [], 4, [1, 2, 3, 4, 5, 6, 7, 8, 9], [0], 0xFFFFFFFF, .none⟩,
   ⟨18, 1, .src2V true, .sts, [], [.d], [.v], [.d, .z], 0, [0], [0], 0xFFFFFFFF, .none⟩,
   ⟨18, 2, .always, .tprb, [.d], [.d], [], [], 0, [0], [0], 0xFFFFFFFF, .none⟩,
   ⟨18, 3, .always, .kvfork, [], [.d, .z], [.d, .z], [.d, .z], 0, [0], [0], 0x0, .none⟩,
   ⟨18, 4, .always, .kvfree, [], [.d, .z], [.d, .z], [.d, .z], 0, [0], [0], 0x0, .none⟩]

/-- Class 0x14 (R60). -/
def forms14 : List Form :=
  [⟨20, 0, .always, .tld, [.d], [.d], [.d], [], 0, [0, 11, 12, 13], [0, 1], 0xFFFFFFFFF, .tldF⟩,
   ⟨20, 1, .always, .rdmSp, [], [.d], [.d], [], 0, [0], [0], 0xFFFFFFFF, .none⟩,
   ⟨20, 2, .always, .rdmV, [.v], [.d], [], [], 0, [0], [0], 0x7F, .none⟩,
   ⟨20, 3, .always, .rdmS, [], [.d], [], [], 0, [0], [0], 0x3, .none⟩,
   ⟨20, 4, .always, .tqry, [.d], [.d], [], [], 0, [0], [0], 0x0, .none⟩,
   ⟨20, 5, .always, .tdrop, [], [.d], [], [], 0, [0], [0], 0x0, .none⟩]

/-- Class 0x18 (R60, R238). An `acp` whose dst is no v register is the form whose dst is unused: one that is not zero is detail 3 there and not an
operand outside its column (DESIGN CHOICE, notes/assumptions/97.md). -/
def forms18a : List Form :=
  [⟨24, 0, .always, .cldX, [.a], [.y], [.d], [.d], 0, [1, 11, 12, 13, 14], [0, 1, 2], 0xFE0000000, .streamP⟩,
   ⟨24, 1, .always, .cldB, [.a], [.y], [.d], [.d], 0, [1, 11, 12, 13, 14], [0, 1, 2], 0xFE0000000, .streamP⟩,
   ⟨24, 2, .always, .cldtX, [.a], [.y], [.d], [.d], 0, [1, 11, 12, 13, 14], [0, 1, 2], 0xFE0000000, .streamP⟩,
   ⟨24, 3, .always, .cldtB, [.a], [.y], [.d], [.d], 0, [1, 11, 12, 13, 14], [0, 1, 2], 0xFE0000000, .streamP⟩,
   ⟨24, 4, .always, .cldg, [.a], [.y], [.d], [.d], 0, [1, 11, 12, 13, 14], [0, 1, 2], 0xFE0000000, .streamP⟩,
   ⟨24, 5, .always, .rld, [.y], [], [.d], [.d], 0, [0], [0, 1, 2], 0xFE0000000, .resP⟩,
   ⟨24, 6, .always, .rldg, [.y], [], [.d], [], 0, [0], [0, 1, 2], 0xFE0000000, .resP⟩,
   ⟨24, 7, .always, .fold, [.a], [.a], [.n4], [], 0, [0], [0, 1, 2, 3], 0xE00800000, .none⟩,
   ⟨24, 8, .dstFile 1 true, .acpV, [.v], [.a], [], [.d], 0, [3, 9, 12], [0, 1, 2, 3], 0xE01800000, .acpQ⟩,
   ⟨24, 8, .dstFile 1 false, .acpSp, [], [.a], [.d], [.d], 0, [3, 9, 12], [0, 1, 2, 3], 0xE01800000, .acpQ⟩,
   ⟨24, 9, .always, .acps, [], [.a], [.d], [.d], 0, [3, 9, 12], [0, 1, 2, 3], 0xE01800000, .acpQ⟩,
   ⟨24, 10, .bit 23 false, .aclrX, [.a], [], [], [], 0, [0], [0], 0xE00000000, .none⟩,
   ⟨24, 10, .bit 23 true, .aclrF, [.a], [], [], [], 0, [0], [0], 0xE00800000, .none⟩,
   ⟨24, 11, .always, .skeep, [], [], [.d], [], 0, [0], [0], 0xE00000000, .none⟩,
   ⟨24, 12, .bit 0 false, .cres, [], [.w], [], [], 0, [0], [0], 0x0, .none⟩,
   ⟨24, 12, .bit 0 true, .cresD, [], [.w], [], [], 0, [0], [0], 0x1, .none⟩]

/-- Class 0x18 (R60). -/
def forms18b : List Form :=
  [⟨24, 13, .always, .wlt, [], [.w], [], [], 0, [0], [0], 0x1F, .wltN⟩]

/-- Class 0x1A (R60). -/
def forms1A : List Form :=
  [⟨26, 0, .always, .cgo, [.d], [], [], [], 0, [0], [0], 0x0, .none⟩,
   ⟨26, 1, .always, .binit, [], [.d], [.d], [], 0, [0], [0], 0xFFFFFFFF, .none⟩,
   ⟨26, 2, .always, .barv, [], [.d], [], [], 0, [0], [0], 0x3FFFFFFFF, .redOrd⟩,
   ⟨26, 3, .always, .bwait, [], [.d], [.d], [], 0, [0], [0], 0x3FFFFFFFF, .waitOrd⟩,
   ⟨26, 4, .always, .sbind, [.d], [.s], [], [], 0, [0], [0], 0x0, .none⟩]

/-- Class 0x1B (R60). -/
def forms1B : List Form :=
  [⟨27, 0, .always, .xreq, [.p], [.d], [], [], 0, [0], [0], 0xF, .xop⟩]

/-- Class 0x1C (R60). -/
def forms1C : List Form :=
  [⟨28, 0, .always, .amoAdd, [.d], [.d], [.d, .q, .n, .z], [], 4, [3, 4, 7, 8, 9], [0], 0xFFFFFFFFF, .none⟩,
   ⟨28, 1, .always, .amoMin, [.d], [.d], [.d, .q, .n, .z], [], 4, [3, 4, 7, 8, 9], [0], 0xFFFFFFFFF, .none⟩,
   ⟨28, 2, .always, .amoMax, [.d], [.d], [.d, .q, .n, .z], [], 4, [3, 4, 7, 8, 9], [0], 0xFFFFFFFFF, .none⟩,
   ⟨28, 3, .always, .amoAnd, [.d], [.d], [.d, .q, .n, .z], [], 4, [3, 4, 7, 8], [0], 0xFFFFFFFFF, .none⟩,
   ⟨28, 4, .always, .amoOr, [.d], [.d], [.d, .q, .n, .z], [], 4, [3, 4, 7, 8], [0], 0xFFFFFFFFF, .none⟩,
   ⟨28, 5, .always, .amoXor, [.d], [.d], [.d, .q, .n, .z], [], 4, [3, 4, 7, 8], [0], 0xFFFFFFFFF, .none⟩,
   ⟨28, 6, .always, .amoSwap, [.d], [.d], [.d, .q, .n, .z], [], 4, [3, 4, 7, 8, 9], [0], 0xFFFFFFFFF, .none⟩,
   ⟨28, 7, .always, .amoCas, [.d], [.d], [.d, .q, .n, .z], [.d, .q, .n, .z], 4, [3, 4, 7, 8, 9], [0], 0xFFFFFFFFF, .none⟩,
   ⟨28, 16, .always, .redAdd, [.absent], [.d], [.d, .q, .n, .z], [], 4, [3, 4, 7, 8, 9], [0], 0xFFFFFFFFF, .redOrd⟩,
   ⟨28, 17, .always, .redMin, [.absent], [.d], [.d, .q, .n, .z], [], 4, [3, 4, 7, 8, 9], [0], 0xFFFFFFFFF, .redOrd⟩,
   ⟨28, 18, .always, .redMax, [.absent], [.d], [.d, .q, .n, .z], [], 4, [3, 4, 7, 8, 9], [0], 0xFFFFFFFFF, .redOrd⟩,
   ⟨28, 19, .always, .redAnd, [.absent], [.d], [.d, .q, .n, .z], [], 4, [3, 4, 7, 8], [0], 0xFFFFFFFFF, .redOrd⟩,
   ⟨28, 20, .always, .redOr, [.absent], [.d], [.d, .q, .n, .z], [], 4, [3, 4, 7, 8], [0], 0xFFFFFFFFF, .redOrd⟩,
   ⟨28, 21, .always, .redXor, [.absent], [.d], [.d, .q, .n, .z], [], 4, [3, 4, 7, 8], [0], 0xFFFFFFFFF, .redOrd⟩,
   ⟨28, 24, .always, .redX, [.absent], [.d], [.d, .q, .n, .z], [], 9, [9], [0], 0xFFFFFFFFF, .redXOrd⟩,
   ⟨28, 32, .always, .inbx, [.d], [], [], [], 0, [0], [0], 0x0, .none⟩]

/-- Class 0x20 (R60). -/
def forms20 : List Form :=
  [⟨32, 0, .always, .launch, [.d], [.d], [], [], 0, [0], [0], 0x0, .none⟩,
   ⟨32, 1, .always, .texit, [], [], [], [], 0, [0], [0], 0x0, .none⟩,
   ⟨32, 2, .bit 0 false, .phase, [.absent], [], [], [], 0, [0], [0], 0x0, .none⟩,
   ⟨32, 2, .bit 0 true, .phase, [.d], [], [], [], 0, [0], [0], 0x1, .none⟩,
   ⟨32, 3, .always, .cpin, [], [], [], [], 0, [0], [0], 0x0, .none⟩,
   ⟨32, 4, .always, .cunpin, [], [], [], [], 0, [0], [0], 0x0, .none⟩]

/-- Class 0x24 (R60). -/
def forms24 : List Form :=
  [⟨36, 0, .always, .trap, [], [], [], [], 0, [0], [0], 0xFF, .none⟩,
   ⟨36, 1, .always, .rti, [], [], [], [], 0, [0], [0], 0x0, .none⟩,
   ⟨36, 2, .cpgo false, .gets, [.d], [], [], [], 0, [0], [0], 0xFFFF, .sysNum⟩,
   ⟨36, 3, .always, .sets, [], [.d, .q, .n, .z], [], [], 0, [0], [0], 0xFFFF, .sysNum⟩,
   ⟨36, 2, .cpgo true, .getsCpGo, [.d], [], [], [], 0, [0], [0], 0xFFFF, .none⟩]

/-- Class 0x26 (R60). -/
def forms26 : List Form :=
  [⟨38, 0, .always, .brk, [], [], [], [], 0, [0], [0], 0xFF, .none⟩,
   ⟨38, 1, .always, .trc, [], [.d, .z], [], [], 0, [0], [0], 0x7F, .none⟩]

/-- The forms of a class (R60); none for a class that is not assigned. -/
def formsOf (cls : Nat) : List Form :=
  match cls with
  | 0x01 => forms01
  | 0x02 => forms02a ++ forms02b
  | 0x04 => forms04a ++ forms04b
  | 0x05 => forms05a ++ forms05b
  | 0x08 => forms08
  | 0x09 => forms09
  | 0x0A => forms0A
  | 0x0C => forms0C
  | 0x0D => forms0D
  | 0x10 => forms10
  | 0x11 => forms11
  | 0x12 => forms12
  | 0x14 => forms14
  | 0x18 => forms18a ++ forms18b
  | 0x1A => forms1A
  | 0x1B => forms1B
  | 0x1C => forms1C
  | 0x20 => forms20
  | 0x24 => forms24
  | 0x26 => forms26
  | _ => []

/-- Bits [lo + n − 1 : lo] of a number. -/
def field (x lo n : Nat) : Nat := x / 2 ^ lo % 2 ^ n

/-- File, modifier and index of a specifier (R49). -/
def opFile (x : Nat) : Nat := field x 6 3
def opMod (x : Nat) : Nat := field x 4 2
def opIdx (x : Nat) : Nat := field x 0 4

/-- The form is the one its class and op and these bits select. -/
def Sel.picks (sel : Sel) (w : RawWord) : Bool :=
  match sel with
  | .always => true
  | .bit k b => w.fmt.testBit k == b
  | .bits lo v => field w.fmt lo 2 == v
  | .dstFile k yes => (opFile w.dst == k) == yes
  | .src1Vs yes => (opFile w.src1 == 1 || opFile w.src1 == 2) == yes
  | .src2V yes => (opFile w.src2 == 1) == yes
  | .cpgo yes => (field w.fmt 0 16 == 0x109) == yes

/-- Whether a position accepts a file and index (R49). -/
def FileK.fits (k : FileK) (isDst : Bool) (file idx : Nat) : Bool :=
  match k with
  | .d => file == 0
  | .v => file == 1 && decide (idx < 8)
  | .s => file == 2 && decide (idx < 4)
  | .q => file == 3 && decide (idx < 4)
  | .n => file == 4 && decide (idx < if isDst then 4 else 6)
  | .n4 => file == 4 && idx == 4
  | .w => file == 5 && decide (idx < 8)
  | .p => file == 6 && decide (idx < 8) && (!isDst || idx != 0)
  | .a => file == 7 && decide (idx < 4)
  | .y => file == 7 && decide (4 ≤ idx) && decide (idx < 8)
  | .z => file == 7 && idx == 8
  | .absent => file == 0 && idx == 0

/-- bad_modifier of R53 (R49, R52): none on a destination, `!` on a d source, negate on a d or v source of classes 0x04, 0x05,
0x08 and 0x09. A modifier is judged by the specifier's own file, so `d4!` where a guard is wanted (`sel`, R137) has a legal
modifier and is an illegal operand (DEDUCED, notes/assumptions/36.md). -/
def badModifier (cls : Nat) (isDst : Bool) (x : Nat) : Bool :=
  match opMod x with
  | 0 => false
  | 1 => isDst || opFile x != 0
  | 2 => isDst || !(opFile x == 0 || opFile x == 1) || !(cls == 4 || cls == 5 || cls == 8 || cls == 9)
  | _ => true

/-- The modifier check of one field, used or not, which R53 makes before the reserved fields. `!` in an unused field that names a d register is
left to those, but in the classes 0x20 and 0x26, whose tables allow it on one operand alone (R351, R391; DEDUCED, notes/assumptions/36.md). -/
def modifierBad (ks : List FileK) (isDst : Bool) (cls x : Nat) : Bool :=
  badModifier cls isDst x || (ks.isEmpty && opMod x == 1 && (cls == 0x20 || cls == 0x26))

/-- The system register numbers of R355, R379, R384, R386 and R388. -/
def sysNumber (n : Nat) : Bool :=
  decide (n ≤ 1) || (decide (0x10 ≤ n) && decide (n ≤ 0x16)) || (decide (0x100 ≤ n) && decide (n ≤ 0x10A))
    || n == 0x120 || n == 0x121 || (decide (0x200 ≤ n) && decide (n ≤ 0x20C)) || (decide (0x220 ≤ n) && decide (n ≤ 0x222))
    || (decide (0x300 ≤ n) && decide (n ≤ 0x307)) || (decide (0x310 ≤ n) && decide (n ≤ 0x313)) || n == 0x318
    || (decide (0x320 ≤ n) && decide (n ≤ 0x323)) || (decide (0x330 ≤ n) && decide (n ≤ 0x340))

/-- A register whose task access is none (R355, R379, R384). -/
def sysTaskNone (n : Nat) : Bool :=
  n == 0x200 || n == 0x201 || (decide (0x220 ≤ n) && decide (n ≤ 0x222)) || (decide (0x300 ≤ n) && decide (n ≤ 0x307))
    || n == 0x310 || n == 0x311 || n == 0x313

/-- A register whose task access is RO (R355, R384, R386, R388). tc.stat is W1C at either level. -/
def sysTaskRo (n : Nat) : Bool :=
  n == 1 || (decide (0x12 ≤ n) && decide (n ≤ 0x15)) || n == 0x109 || n == 0x120 || n == 0x121
    || (decide (0x202 ≤ n) && decide (n ≤ 0x20C)) || n == 0x318 || (decide (0x320 ≤ n) && decide (n ≤ 0x323))
    || (decide (0x330 ≤ n) && decide (n ≤ 0x340))

/-- privileged(w) of R53 (R353). -/
def privileged (name : Op) (fmt : Nat) : Bool :=
  match name with
  | .gets => sysTaskNone (field fmt 0 16)
  | .sets => sysTaskNone (field fmt 0 16) || sysTaskRo (field fmt 0 16)
  | _ => false

/-- The planes of a stream type as the code of R46: one for s8, cb4 and g8, two for g16, four for g32. -/
def planeCode (ty : Nat) : Nat := if ty == 12 then 1 else if ty == 13 then 2 else 0

/-- Whether a form's further limits hold, `ty` being the type after the default is applied. -/
def Extra.ok (e : Extra) (f : Form) (qual ty fmt : Nat) : Bool :=
  let imm := field fmt 0 32
  let scope := field fmt 34 2
  let order := field fmt 32 2
  match e with
  | .none => true
  | .gangK => imm == 1 || imm == 2 || imm == 4 || imm == 8 || imm == 16
  | .cmpUn => ty == 9
  | .cmpTst => ty != 9
  | .count6 => decide (imm < 64)
  | .descr => field imm 6 2 == 0 && field imm 14 18 == 0
  | .widK => decide (imm < 8)
  | .mixed => fmt == 0 || ty == 1
  | .redAdd => field fmt 0 2 != 3 && (field fmt 2 2 == 0 || ty == 9)
  | .cvtS => f.types.contains (field fmt 32 4) && field fmt 32 4 != ty && (fmt % 2 == 0 || decide (9 ≤ ty))
  | .cvtV => f.types.contains (field fmt 32 4) && field fmt 32 4 != ty && (fmt % 2 == 0 || decide (9 ≤ ty))
  | .srcF32 => field fmt 32 4 == 0 || field fmt 32 4 == 9
  | .srcCb4 => field fmt 32 4 == 0 || field fmt 32 4 == 14
  | .code20 => decide (0x20 ≤ fmt)
  | .planeK => decide (field fmt 2 2 < 2 ^ planeCode ty)
  | .devRel => scope == 2 && (order == 0 || order == 2)
  | .loadOrd => order != 2
  | .storeOrd => order != 1
  | .waitOrd => order != 2 && order != 3
  | .fenceOrd => order != 0
  | .planarLd => order != 2 && (qual == 0 || ty == 11 || ty == 12)
  | .tldF => field fmt 32 4 == 8 && (qual == 0 || ty == 11 || ty == 12)
  | .streamP => field fmt 31 2 == planeCode ty && (field fmt 29 2 == 0 || (field fmt 29 2 == 1 && (ty == 11 || ty == 12)))
  | .resP => field fmt 31 2 == (if qual == 2 then 1 else 0) && field fmt 29 2 == 0
  | .acpQ => (!fmt.testBit 23 || ty == 3) && (!fmt.testBit 24 || ty == 9 || ty == 12)
  | .wltN => fmt != 0
  | .xop => decide (fmt < 5)
  | .redOrd => order == 0 || order == 2
  | .redXOrd => decide (2 ≤ scope) && (order == 0 || order == 2)
  | .sysNum => sysNumber (field fmt 0 16)

/-- The form a word selects among those of its class and op (the first, where none is selected). -/
def pick (w : RawWord) : Option Form :=
  let c := (formsOf w.cls).filter fun f => f.op == w.op
  match c.find? fun f => f.sel.picks w with
  | some f => some f
  | none => c.head?

/-- Whether a used position accepts its specifier; an unused one is judged with the reserved fields (R50). -/
def operandOk (ks : List FileK) (isDst : Bool) (x : Nat) : Bool :=
  ks.isEmpty || ks.any fun k => k.fits isDst (opFile x) (opIdx x)

/-- `fold` with its destination the tile it reads is an illegal operand (R238). -/
def foldSame (f : Form) (w : RawWord) : Bool := f.name == .fold && w.dst == w.src1

/-- The detail of the illegal-instruction trap that the decoding order of R53 finds in a word, 0 where it is legal (R55, R61). -/
def illegalDetail (sup : Bool) (w : RawWord) : Nat :=
  if (formsOf w.cls).isEmpty then 1 else
  match pick w with
  | none => 2
  | some f =>
    let ty := if w.ty == 0 then f.dflt else w.ty
    if !sup && privileged f.name w.fmt then 6
    else if modifierBad f.dst true w.cls w.dst || modifierBad f.src1 false w.cls w.src1
      || modifierBad f.src2 false w.cls w.src2 || modifierBad f.src3 false w.cls w.src3 then 5
    else if !(operandOk f.dst true w.dst && operandOk f.src1 false w.src1 && operandOk f.src2 false w.src2
      && operandOk f.src3 false w.src3) || foldSame f w then 4
    else if (f.dst.isEmpty && w.dst != 0) || (f.src1.isEmpty && w.src1 != 0) || (f.src2.isEmpty && w.src2 != 0)
      || (f.src3.isEmpty && w.src3 != 0) || !f.quals.contains w.qual || !f.types.contains ty
      || (w.fmt &&& (0xFFFFFFFFF - f.fmask)) != 0 || !f.extra.ok f w.qual ty w.fmt then 3
    else 0

end Sys2Proof.Machine
end

