-- ==== Sys2Proof/Machine/RawFields.lean ====
section
/-! DEFINITION. The raw fields of an instruction's word (spec/02_encoding.md R44, R47, R49, R60). -/
namespace Sys2Proof
open Sys2Proof.Machine

/-- The type code of a type (R47). -/
def tyCode (t : Ty) : Nat :=
  match t with
  | .dflt => 0
  | .s8 => 1
  | .s16 => 2
  | .s32 => 3
  | .s64 => 4
  | .z8 => 5
  | .z16 => 6
  | .z32 => 7
  | .z64 => 8
  | .f32 => 9
  | .bf16 => 10
  | .g8 => 11
  | .g16 => 12
  | .g32 => 13
  | .cb4 => 14
  | .e8 => 15

/-- The file and index bits of a register (R49). -/
def regBits (r : Reg) : Nat :=
  match r with
  | .d i => i.val
  | .v i => 1 * 64 + i.val
  | .s i => 2 * 64 + i.val
  | .q i => 3 * 64 + i.val
  | .n i => 4 * 64 + i.val
  | .w i => 5 * 64 + i.val
  | .p i => 6 * 64 + i.val
  | .a i => 7 * 64 + i.val
  | .y i => 7 * 64 + 4 + i.val
  | .zero => 7 * 64 + 8

/-- The modifier bits (R49). -/
def modifBits (m : Modif) : Nat :=
  match m with
  | .plain => 0
  | .sync => 16
  | .neg => 32

/-- The nine bits of an operand specifier (R49). -/
def opndBits (o : Opnd) : Nat := regBits o.reg + modifBits o.m

/-- The raw fields of an instruction with its class and op. -/
def rawWord (cls op : Nat) (gd : Guard) (f : Fields) : RawWord :=
  ⟨cls, op, gd, f.qual.toNat, tyCode f.ty, opndBits f.dst, opndBits f.src1, opndBits f.src2, opndBits f.src3, f.fmt.toNat⟩

/-- The fields of an instruction's word (R44, R60); the steps of the part's other agents have no word. -/
def rawOf (i : Instr) : Option RawWord :=
  match i with
  | .br gd f => some (rawWord 0x01 0x00 gd f)
  | .brl gd f => some (rawWord 0x01 0x01 gd f)
  | .jr gd f => some (rawWord 0x01 0x02 gd f)
  | .jrLink gd f => some (rawWord 0x01 0x02 gd f)
  | .ret gd f => some (rawWord 0x01 0x03 gd f)
  | .setp gd f => some (rawWord 0x01 0x04 gd f)
  | .setpReg gd f => some (rawWord 0x01 0x04 gd f)
  | .clrp gd f => some (rawWord 0x01 0x05 gd f)
  | .pand gd f => some (rawWord 0x01 0x06 gd f)
  | .por gd f => some (rawWord 0x01 0x07 gd f)
  | .pnot gd f => some (rawWord 0x01 0x08 gd f)
  | .gang gd f => some (rawWord 0x01 0x09 gd f)
  | .rejoin gd f => some (rawWord 0x01 0x0A gd f)
  | .ungang gd f => some (rawWord 0x01 0x0B gd f)
  | .nop gd f => some (rawWord 0x01 0x0C gd f)
  | .cmpEq gd f => some (rawWord 0x02 0x00 gd f)
  | .cmpNe gd f => some (rawWord 0x02 0x01 gd f)
  | .cmpLt gd f => some (rawWord 0x02 0x02 gd f)
  | .cmpLe gd f => some (rawWord 0x02 0x03 gd f)
  | .cmpGt gd f => some (rawWord 0x02 0x04 gd f)
  | .cmpGe gd f => some (rawWord 0x02 0x05 gd f)
  | .cmpUn gd f => some (rawWord 0x02 0x06 gd f)
  | .cmpTst gd f => some (rawWord 0x02 0x07 gd f)
  | .cmpNtst gd f => some (rawWord 0x02 0x08 gd f)
  | .cmpEqImm gd f => some (rawWord 0x02 0x10 gd f)
  | .cmpNeImm gd f => some (rawWord 0x02 0x11 gd f)
  | .cmpLtImm gd f => some (rawWord 0x02 0x12 gd f)
  | .cmpLeImm gd f => some (rawWord 0x02 0x13 gd f)
  | .cmpGtImm gd f => some (rawWord 0x02 0x14 gd f)
  | .cmpGeImm gd f => some (rawWord 0x02 0x15 gd f)
  | .cmpUnImm gd f => some (rawWord 0x02 0x16 gd f)
  | .cmpTstImm gd f => some (rawWord 0x02 0x17 gd f)
  | .cmpNtstImm gd f => some (rawWord 0x02 0x18 gd f)
  | .add gd f => some (rawWord 0x04 0x00 gd f)
  | .sub gd f => some (rawWord 0x04 0x01 gd f)
  | .mul gd f => some (rawWord 0x04 0x02 gd f)
  | .mulh gd f => some (rawWord 0x04 0x03 gd f)
  | .div gd f => some (rawWord 0x04 0x04 gd f)
  | .rem gd f => some (rawWord 0x04 0x05 gd f)
  | .and gd f => some (rawWord 0x04 0x06 gd f)
  | .or gd f => some (rawWord 0x04 0x07 gd f)
  | .xor gd f => some (rawWord 0x04 0x08 gd f)
  | .andn gd f => some (rawWord 0x04 0x09 gd f)
  | .shl gd f => some (rawWord 0x04 0x0A gd f)
  | .shr gd f => some (rawWord 0x04 0x0B gd f)
  | .sar gd f => some (rawWord 0x04 0x0C gd f)
  | .rot gd f => some (rawWord 0x04 0x0D gd f)
  | .clz gd f => some (rawWord 0x04 0x0E gd f)
  | .ctz gd f => some (rawWord 0x04 0x0F gd f)
  | .popc gd f => some (rawWord 0x04 0x10 gd f)
  | .min gd f => some (rawWord 0x04 0x11 gd f)
  | .max gd f => some (rawWord 0x04 0x12 gd f)
  | .sel gd f => some (rawWord 0x04 0x13 gd f)
  | .bext gd f => some (rawWord 0x04 0x14 gd f)
  | .bins gd f => some (rawWord 0x04 0x15 gd f)
  | .addImm gd f => some (rawWord 0x05 0x00 gd f)
  | .mulImm gd f => some (rawWord 0x05 0x02 gd f)
  | .andImm gd f => some (rawWord 0x05 0x06 gd f)
  | .orImm gd f => some (rawWord 0x05 0x07 gd f)
  | .xorImm gd f => some (rawWord 0x05 0x08 gd f)
  | .shlImm gd f => some (rawWord 0x05 0x0A gd f)
  | .shrImm gd f => some (rawWord 0x05 0x0B gd f)
  | .sarImm gd f => some (rawWord 0x05 0x0C gd f)
  | .rotImm gd f => some (rawWord 0x05 0x0D gd f)
  | .minImm gd f => some (rawWord 0x05 0x11 gd f)
  | .maxImm gd f => some (rawWord 0x05 0x12 gd f)
  | .bextImm gd f => some (rawWord 0x05 0x14 gd f)
  | .binsImm gd f => some (rawWord 0x05 0x15 gd f)
  | .leaPc gd f => some (rawWord 0x05 0x16 gd f)
  | .leaBase gd f => some (rawWord 0x05 0x16 gd f)
  | .leaIndex gd f => some (rawWord 0x05 0x16 gd f)
  | .li gd f => some (rawWord 0x05 0x20 gd f)
  | .lui gd f => some (rawWord 0x05 0x21 gd f)
  | .wid gd f => some (rawWord 0x05 0x22 gd f)
  | .fadd gd f => some (rawWord 0x08 0x00 gd f)
  | .fsub gd f => some (rawWord 0x08 0x01 gd f)
  | .fmul gd f => some (rawWord 0x08 0x02 gd f)
  | .ffma gd f => some (rawWord 0x08 0x03 gd f)
  | .fmin gd f => some (rawWord 0x08 0x04 gd f)
  | .fmax gd f => some (rawWord 0x08 0x05 gd f)
  | .fneg gd f => some (rawWord 0x08 0x06 gd f)
  | .fabs gd f => some (rawWord 0x08 0x07 gd f)
  | .fcls gd f => some (rawWord 0x08 0x08 gd f)
  | .frnd gd f => some (rawWord 0x08 0x09 gd f)
  | .fexf gd f => some (rawWord 0x08 0x0A gd f)
  | .fins gd f => some (rawWord 0x08 0x0B gd f)
  | .fdiv gd f => some (rawWord 0x08 0x0C gd f)
  | .fsqrt gd f => some (rawWord 0x08 0x0D gd f)
  | .frsq gd f => some (rawWord 0x08 0x0E gd f)
  | .iadd gd f => some (rawWord 0x09 0x00 gd f)
  | .isub gd f => some (rawWord 0x09 0x01 gd f)
  | .imul gd f => some (rawWord 0x09 0x02 gd f)
  | .idot4 gd f => some (rawWord 0x09 0x03 gd f)
  | .iabs gd f => some (rawWord 0x09 0x04 gd f)
  | .imin gd f => some (rawWord 0x09 0x05 gd f)
  | .imax gd f => some (rawWord 0x09 0x06 gd f)
  | .vsel gd f => some (rawWord 0x0A 0x00 gd f)
  | .vshf gd f => some (rawWord 0x0A 0x01 gd f)
  | .vshfRot gd f => some (rawWord 0x0A 0x01 gd f)
  | .vshfXor gd f => some (rawWord 0x0A 0x01 gd f)
  | .vredAdd gd f => some (rawWord 0x0A 0x02 gd f)
  | .vredMin gd f => some (rawWord 0x0A 0x02 gd f)
  | .vredMax gd f => some (rawWord 0x0A 0x02 gd f)
  | .vbc gd f => some (rawWord 0x0A 0x03 gd f)
  | .vbcLane gd f => some (rawWord 0x0A 0x03 gd f)
  | .vmov gd f => some (rawWord 0x0A 0x04 gd f)
  | .vmovExtract gd f => some (rawWord 0x0A 0x04 gd f)
  | .vmovInsert gd f => some (rawWord 0x0A 0x04 gd f)
  | .cvt gd f => some (rawWord 0x0C 0x00 gd f)
  | .cvtVector gd f => some (rawWord 0x0C 0x00 gd f)
  | .qsc gd f => some (rawWord 0x0C 0x01 gd f)
  | .qcb gd f => some (rawWord 0x0C 0x02 gd f)
  | .dqcb gd f => some (rawWord 0x0C 0x03 gd f)
  | .nanm gd f => some (rawWord 0x0C 0x04 gd f)
  | .nanx gd f => some (rawWord 0x0C 0x05 gd f)
  | .pspl gd f => some (rawWord 0x0D 0x00 gd f)
  | .pjn gd f => some (rawWord 0x0D 0x01 gd f)
  | .pupd gd f => some (rawWord 0x0D 0x02 gd f)
  | .pdec gd f => some (rawWord 0x0D 0x03 gd f)
  | .ld gd f => some (rawWord 0x10 0x00 gd f)
  | .st gd f => some (rawWord 0x10 0x01 gd f)
  | .migr gd f => some (rawWord 0x10 0x02 gd f)
  | .home gd f => some (rawWord 0x10 0x03 gd f)
  | .fence gd f => some (rawWord 0x10 0x04 gd f)
  | .vld gd f => some (rawWord 0x11 0x00 gd f)
  | .vst gd f => some (rawWord 0x11 0x01 gd f)
  | .vldp gd f => some (rawWord 0x11 0x02 gd f)
  | .vstp gd f => some (rawWord 0x11 0x03 gd f)
  | .lds gd f => some (rawWord 0x12 0x00 gd f)
  | .sts gd f => some (rawWord 0x12 0x01 gd f)
  | .tprb gd f => some (rawWord 0x12 0x02 gd f)
  | .kvfork gd f => some (rawWord 0x12 0x03 gd f)
  | .kvfree gd f => some (rawWord 0x12 0x04 gd f)
  | .tld gd f => some (rawWord 0x14 0x00 gd f)
  | .rdmSp gd f => some (rawWord 0x14 0x01 gd f)
  | .rdmV gd f => some (rawWord 0x14 0x02 gd f)
  | .rdmS gd f => some (rawWord 0x14 0x03 gd f)
  | .tqry gd f => some (rawWord 0x14 0x04 gd f)
  | .tdrop gd f => some (rawWord 0x14 0x05 gd f)
  | .cldX gd f => some (rawWord 0x18 0x00 gd f)
  | .cldB gd f => some (rawWord 0x18 0x01 gd f)
  | .cldtX gd f => some (rawWord 0x18 0x02 gd f)
  | .cldtB gd f => some (rawWord 0x18 0x03 gd f)
  | .cldg gd f => some (rawWord 0x18 0x04 gd f)
  | .rld gd f => some (rawWord 0x18 0x05 gd f)
  | .rldg gd f => some (rawWord 0x18 0x06 gd f)
  | .fold gd f => some (rawWord 0x18 0x07 gd f)
  | .acpV gd f => some (rawWord 0x18 0x08 gd f)
  | .acpSp gd f => some (rawWord 0x18 0x08 gd f)
  | .acps gd f => some (rawWord 0x18 0x09 gd f)
  | .aclrX gd f => some (rawWord 0x18 0x0A gd f)
  | .aclrF gd f => some (rawWord 0x18 0x0A gd f)
  | .skeep gd f => some (rawWord 0x18 0x0B gd f)
  | .cres gd f => some (rawWord 0x18 0x0C gd f)
  | .cresD gd f => some (rawWord 0x18 0x0C gd f)
  | .wlt gd f => some (rawWord 0x18 0x0D gd f)
  | .cgo gd f => some (rawWord 0x1A 0x00 gd f)
  | .binit gd f => some (rawWord 0x1A 0x01 gd f)
  | .barv gd f => some (rawWord 0x1A 0x02 gd f)
  | .bwait gd f => some (rawWord 0x1A 0x03 gd f)
  | .sbind gd f => some (rawWord 0x1A 0x04 gd f)
  | .xreq gd f => some (rawWord 0x1B 0x00 gd f)
  | .amoAdd gd f => some (rawWord 0x1C 0x00 gd f)
  | .amoMin gd f => some (rawWord 0x1C 0x01 gd f)
  | .amoMax gd f => some (rawWord 0x1C 0x02 gd f)
  | .amoAnd gd f => some (rawWord 0x1C 0x03 gd f)
  | .amoOr gd f => some (rawWord 0x1C 0x04 gd f)
  | .amoXor gd f => some (rawWord 0x1C 0x05 gd f)
  | .amoSwap gd f => some (rawWord 0x1C 0x06 gd f)
  | .amoCas gd f => some (rawWord 0x1C 0x07 gd f)
  | .redAdd gd f => some (rawWord 0x1C 0x10 gd f)
  | .redMin gd f => some (rawWord 0x1C 0x11 gd f)
  | .redMax gd f => some (rawWord 0x1C 0x12 gd f)
  | .redAnd gd f => some (rawWord 0x1C 0x13 gd f)
  | .redOr gd f => some (rawWord 0x1C 0x14 gd f)
  | .redXor gd f => some (rawWord 0x1C 0x15 gd f)
  | .redX gd f => some (rawWord 0x1C 0x18 gd f)
  | .inbx gd f => some (rawWord 0x1C 0x20 gd f)
  | .launch gd f => some (rawWord 0x20 0x00 gd f)
  | .texit gd f => some (rawWord 0x20 0x01 gd f)
  | .phase gd f => some (rawWord 0x20 0x02 gd f)
  | .cpin gd f => some (rawWord 0x20 0x03 gd f)
  | .cunpin gd f => some (rawWord 0x20 0x04 gd f)
  | .trap gd f => some (rawWord 0x24 0x00 gd f)
  | .rti gd f => some (rawWord 0x24 0x01 gd f)
  | .gets gd f => some (rawWord 0x24 0x02 gd f)
  | .sets gd f => some (rawWord 0x24 0x03 gd f)
  | .getsCpGo gd f => some (rawWord 0x24 0x02 gd f)
  | .brk gd f => some (rawWord 0x26 0x00 gd f)
  | .trc gd f => some (rawWord 0x26 0x01 gd f)
  | .lineFetchReply _ _ _ => none
  | .tableWalkComplete _ _ _ => none
  | .loadReply _ => none
  | .readPerform _ => none
  | .writePerform _ => none
  | .heldWriteRelease _ _ => none
  | .frontierUpdate _ => none
  | .pupdPerform _ => none
  | .kvStep _ => none
  | .kvBlockStep _ => none
  | .clusterBlockExpand _ _ _ => none
  | .atomicPerform _ => none
  | .amoReply _ => none
  | .redAck _ => none
  | .gatewayMerge _ _ => none
  | .mergeHoldExpiry _ _ => none
  | .nWordArrival _ => none
  | .migrArrival _ => none
  | .gangForm _ _ => none
  | .rejoinArrival _ => none
  | .xreqAnswer _ => none
  | .reportDelivery _ _ => none
  | .collectionWindowClose _ => none
  | .coreMachineCheck _ _ => none
  | .commandActivate _ => none
  | .unitArrival _ _ _ => none
  | .commandComplete _ _ => none
  | .engineFaultPark _ _ _ => none
  | .engineMigration _ _ _ => none
  | .partialReturn _ => none
  | .skeepBroadcast _ _ => none
  | .inboxMessageArrival _ => none
  | .copyStart _ => none
  | .copySectorLand _ _ _ => none
  | .copyPark _ _ _ => none
  | .copyComplete _ _ => none
  | .cpResResume _ _ => none
  | .cpResDiscard _ _ => none
  | .transformComplete _ _ => none
  | .tldRequest _ => none
  | .ticketGroupLanded _ _ _ => none
  | .ticketClaim _ => none
  | .ticketDelivery _ _ _ => none
  | .tdropAtSlice _ => none
  | .tqryAtSlice _ => none
  | .leaseExpiry _ _ => none
  | .launchAccept _ _ => none
  | .teamBind _ => none
  | .stealRequest _ _ => none
  | .stealReply _ => none
  | .stealBackoffExpiry _ => none
  | .launchComplete _ => none
  | .phaseCommit _ => none
  | .roundSwitch _ _ => none
  | .heartbeat _ _ => none
  | .dieFence _ _ => none
  | .swapInstant _ => none
  | .castlingOffer _ _ => none
  | .castlingSwap _ _ => none
  | .preemptStop _ _ => none
  | .preemptDrainDone _ => none
  | .preemptExchangeDone _ => none
  | .peCtlWrite _ _ => none
  | .tbInval _ _ => none
  | .serviceRegisterWrite _ _ _ _ _ => none
  | .jobDiscard _ => none
  | .arbiterResumeThread _ _ _ _ => none
  | .breakpointHalt _ _ _ => none
  | .debugResume _ _ _ => none
  | .debugTableWrite _ => none
  | .traceSample _ => none
  | .tcUnfreeze _ => none
  | .recorderDrain _ => none
  | .sinkTimeout _ => none
  | .clockFreeze => none
  | .thermalThrottle _ => none
  | .linkMessageReceive _ _ _ _ => none
  | .lkAckWrite _ _ => none
  | .lkAckReplay _ => none
  | .linkTrain _ => none
  | .peerHandshake _ _ => none
  | .peerConfigWrite _ => none
  | .spdmRequest _ => none
  | .keyUpdate _ => none
  | .lockInterfaceRequest _ => none
  | .startInterfaceRequest _ => none
  | .stopInterfaceRequest _ => none
  | .hostLaunch _ _ => none
  | .dmaDescriptor _ => none
  | .dmaComplete _ => none
  | .powerUp _ => none
  | .bootStatusQuery _ => none
  | .reset _ => none
  | .coreCycle _ _ => none
  | .bindRecordAging _ _ => none
  | .forwardedLineArrival _ => none
  | .linkFlitRetry _ _ => none
  | .linkLoss _ => none
  | .partitionResize _ _ => none
  | .arbiterFirmwareReplace => none
  | .arbiterWatchdogExpiry _ => none
  | .traceSinkWrite _ => none

/-- The form of an instruction; none for a step of another agent. -/
def opOf (i : Instr) : Option Op :=
  match i with
  | .br _ _ => some .br
  | .brl _ _ => some .brl
  | .jr _ _ => some .jr
  | .jrLink _ _ => some .jrLink
  | .ret _ _ => some .ret
  | .setp _ _ => some .setp
  | .setpReg _ _ => some .setpReg
  | .clrp _ _ => some .clrp
  | .pand _ _ => some .pand
  | .por _ _ => some .por
  | .pnot _ _ => some .pnot
  | .gang _ _ => some .gang
  | .rejoin _ _ => some .rejoin
  | .ungang _ _ => some .ungang
  | .nop _ _ => some .nop
  | .cmpEq _ _ => some .cmpEq
  | .cmpNe _ _ => some .cmpNe
  | .cmpLt _ _ => some .cmpLt
  | .cmpLe _ _ => some .cmpLe
  | .cmpGt _ _ => some .cmpGt
  | .cmpGe _ _ => some .cmpGe
  | .cmpUn _ _ => some .cmpUn
  | .cmpTst _ _ => some .cmpTst
  | .cmpNtst _ _ => some .cmpNtst
  | .cmpEqImm _ _ => some .cmpEqImm
  | .cmpNeImm _ _ => some .cmpNeImm
  | .cmpLtImm _ _ => some .cmpLtImm
  | .cmpLeImm _ _ => some .cmpLeImm
  | .cmpGtImm _ _ => some .cmpGtImm
  | .cmpGeImm _ _ => some .cmpGeImm
  | .cmpUnImm _ _ => some .cmpUnImm
  | .cmpTstImm _ _ => some .cmpTstImm
  | .cmpNtstImm _ _ => some .cmpNtstImm
  | .add _ _ => some .add
  | .sub _ _ => some .sub
  | .mul _ _ => some .mul
  | .mulh _ _ => some .mulh
  | .div _ _ => some .div
  | .rem _ _ => some .rem
  | .and _ _ => some .and
  | .or _ _ => some .or
  | .xor _ _ => some .xor
  | .andn _ _ => some .andn
  | .shl _ _ => some .shl
  | .shr _ _ => some .shr
  | .sar _ _ => some .sar
  | .rot _ _ => some .rot
  | .clz _ _ => some .clz
  | .ctz _ _ => some .ctz
  | .popc _ _ => some .popc
  | .min _ _ => some .min
  | .max _ _ => some .max
  | .sel _ _ => some .sel
  | .bext _ _ => some .bext
  | .bins _ _ => some .bins
  | .addImm _ _ => some .addImm
  | .mulImm _ _ => some .mulImm
  | .andImm _ _ => some .andImm
  | .orImm _ _ => some .orImm
  | .xorImm _ _ => some .xorImm
  | .shlImm _ _ => some .shlImm
  | .shrImm _ _ => some .shrImm
  | .sarImm _ _ => some .sarImm
  | .rotImm _ _ => some .rotImm
  | .minImm _ _ => some .minImm
  | .maxImm _ _ => some .maxImm
  | .bextImm _ _ => some .bextImm
  | .binsImm _ _ => some .binsImm
  | .leaPc _ _ => some .leaPc
  | .leaBase _ _ => some .leaBase
  | .leaIndex _ _ => some .leaIndex
  | .li _ _ => some .li
  | .lui _ _ => some .lui
  | .wid _ _ => some .wid
  | .fadd _ _ => some .fadd
  | .fsub _ _ => some .fsub
  | .fmul _ _ => some .fmul
  | .ffma _ _ => some .ffma
  | .fmin _ _ => some .fmin
  | .fmax _ _ => some .fmax
  | .fneg _ _ => some .fneg
  | .fabs _ _ => some .fabs
  | .fcls _ _ => some .fcls
  | .frnd _ _ => some .frnd
  | .fexf _ _ => some .fexf
  | .fins _ _ => some .fins
  | .fdiv _ _ => some .fdiv
  | .fsqrt _ _ => some .fsqrt
  | .frsq _ _ => some .frsq
  | .iadd _ _ => some .iadd
  | .isub _ _ => some .isub
  | .imul _ _ => some .imul
  | .idot4 _ _ => some .idot4
  | .iabs _ _ => some .iabs
  | .imin _ _ => some .imin
  | .imax _ _ => some .imax
  | .vsel _ _ => some .vsel
  | .vshf _ _ => some .vshf
  | .vshfRot _ _ => some .vshfRot
  | .vshfXor _ _ => some .vshfXor
  | .vredAdd _ _ => some .vredAdd
  | .vredMin _ _ => some .vredMin
  | .vredMax _ _ => some .vredMax
  | .vbc _ _ => some .vbc
  | .vbcLane _ _ => some .vbcLane
  | .vmov _ _ => some .vmov
  | .vmovExtract _ _ => some .vmovExtract
  | .vmovInsert _ _ => some .vmovInsert
  | .cvt _ _ => some .cvt
  | .cvtVector _ _ => some .cvtVector
  | .qsc _ _ => some .qsc
  | .qcb _ _ => some .qcb
  | .dqcb _ _ => some .dqcb
  | .nanm _ _ => some .nanm
  | .nanx _ _ => some .nanx
  | .pspl _ _ => some .pspl
  | .pjn _ _ => some .pjn
  | .pupd _ _ => some .pupd
  | .pdec _ _ => some .pdec
  | .ld _ _ => some .ld
  | .st _ _ => some .st
  | .migr _ _ => some .migr
  | .home _ _ => some .home
  | .fence _ _ => some .fence
  | .vld _ _ => some .vld
  | .vst _ _ => some .vst
  | .vldp _ _ => some .vldp
  | .vstp _ _ => some .vstp
  | .lds _ _ => some .lds
  | .sts _ _ => some .sts
  | .tprb _ _ => some .tprb
  | .kvfork _ _ => some .kvfork
  | .kvfree _ _ => some .kvfree
  | .tld _ _ => some .tld
  | .rdmSp _ _ => some .rdmSp
  | .rdmV _ _ => some .rdmV
  | .rdmS _ _ => some .rdmS
  | .tqry _ _ => some .tqry
  | .tdrop _ _ => some .tdrop
  | .cldX _ _ => some .cldX
  | .cldB _ _ => some .cldB
  | .cldtX _ _ => some .cldtX
  | .cldtB _ _ => some .cldtB
  | .cldg _ _ => some .cldg
  | .rld _ _ => some .rld
  | .rldg _ _ => some .rldg
  | .fold _ _ => some .fold
  | .acpV _ _ => some .acpV
  | .acpSp _ _ => some .acpSp
  | .acps _ _ => some .acps
  | .aclrX _ _ => some .aclrX
  | .aclrF _ _ => some .aclrF
  | .skeep _ _ => some .skeep
  | .cres _ _ => some .cres
  | .cresD _ _ => some .cresD
  | .wlt _ _ => some .wlt
  | .cgo _ _ => some .cgo
  | .binit _ _ => some .binit
  | .barv _ _ => some .barv
  | .bwait _ _ => some .bwait
  | .sbind _ _ => some .sbind
  | .xreq _ _ => some .xreq
  | .amoAdd _ _ => some .amoAdd
  | .amoMin _ _ => some .amoMin
  | .amoMax _ _ => some .amoMax
  | .amoAnd _ _ => some .amoAnd
  | .amoOr _ _ => some .amoOr
  | .amoXor _ _ => some .amoXor
  | .amoSwap _ _ => some .amoSwap
  | .amoCas _ _ => some .amoCas
  | .redAdd _ _ => some .redAdd
  | .redMin _ _ => some .redMin
  | .redMax _ _ => some .redMax
  | .redAnd _ _ => some .redAnd
  | .redOr _ _ => some .redOr
  | .redXor _ _ => some .redXor
  | .redX _ _ => some .redX
  | .inbx _ _ => some .inbx
  | .launch _ _ => some .launch
  | .texit _ _ => some .texit
  | .phase _ _ => some .phase
  | .cpin _ _ => some .cpin
  | .cunpin _ _ => some .cunpin
  | .trap _ _ => some .trap
  | .rti _ _ => some .rti
  | .gets _ _ => some .gets
  | .sets _ _ => some .sets
  | .getsCpGo _ _ => some .getsCpGo
  | .brk _ _ => some .brk
  | .trc _ _ => some .trc
  | .lineFetchReply _ _ _ => none
  | .tableWalkComplete _ _ _ => none
  | .loadReply _ => none
  | .readPerform _ => none
  | .writePerform _ => none
  | .heldWriteRelease _ _ => none
  | .frontierUpdate _ => none
  | .pupdPerform _ => none
  | .kvStep _ => none
  | .kvBlockStep _ => none
  | .clusterBlockExpand _ _ _ => none
  | .atomicPerform _ => none
  | .amoReply _ => none
  | .redAck _ => none
  | .gatewayMerge _ _ => none
  | .mergeHoldExpiry _ _ => none
  | .nWordArrival _ => none
  | .migrArrival _ => none
  | .gangForm _ _ => none
  | .rejoinArrival _ => none
  | .xreqAnswer _ => none
  | .reportDelivery _ _ => none
  | .collectionWindowClose _ => none
  | .coreMachineCheck _ _ => none
  | .commandActivate _ => none
  | .unitArrival _ _ _ => none
  | .commandComplete _ _ => none
  | .engineFaultPark _ _ _ => none
  | .engineMigration _ _ _ => none
  | .partialReturn _ => none
  | .skeepBroadcast _ _ => none
  | .inboxMessageArrival _ => none
  | .copyStart _ => none
  | .copySectorLand _ _ _ => none
  | .copyPark _ _ _ => none
  | .copyComplete _ _ => none
  | .cpResResume _ _ => none
  | .cpResDiscard _ _ => none
  | .transformComplete _ _ => none
  | .tldRequest _ => none
  | .ticketGroupLanded _ _ _ => none
  | .ticketClaim _ => none
  | .ticketDelivery _ _ _ => none
  | .tdropAtSlice _ => none
  | .tqryAtSlice _ => none
  | .leaseExpiry _ _ => none
  | .launchAccept _ _ => none
  | .teamBind _ => none
  | .stealRequest _ _ => none
  | .stealReply _ => none
  | .stealBackoffExpiry _ => none
  | .launchComplete _ => none
  | .phaseCommit _ => none
  | .roundSwitch _ _ => none
  | .heartbeat _ _ => none
  | .dieFence _ _ => none
  | .swapInstant _ => none
  | .castlingOffer _ _ => none
  | .castlingSwap _ _ => none
  | .preemptStop _ _ => none
  | .preemptDrainDone _ => none
  | .preemptExchangeDone _ => none
  | .peCtlWrite _ _ => none
  | .tbInval _ _ => none
  | .serviceRegisterWrite _ _ _ _ _ => none
  | .jobDiscard _ => none
  | .arbiterResumeThread _ _ _ _ => none
  | .breakpointHalt _ _ _ => none
  | .debugResume _ _ _ => none
  | .debugTableWrite _ => none
  | .traceSample _ => none
  | .tcUnfreeze _ => none
  | .recorderDrain _ => none
  | .sinkTimeout _ => none
  | .clockFreeze => none
  | .thermalThrottle _ => none
  | .linkMessageReceive _ _ _ _ => none
  | .lkAckWrite _ _ => none
  | .lkAckReplay _ => none
  | .linkTrain _ => none
  | .peerHandshake _ _ => none
  | .peerConfigWrite _ => none
  | .spdmRequest _ => none
  | .keyUpdate _ => none
  | .lockInterfaceRequest _ => none
  | .startInterfaceRequest _ => none
  | .stopInterfaceRequest _ => none
  | .hostLaunch _ _ => none
  | .dmaDescriptor _ => none
  | .dmaComplete _ => none
  | .powerUp _ => none
  | .bootStatusQuery _ => none
  | .reset _ => none
  | .coreCycle _ _ => none
  | .bindRecordAging _ _ => none
  | .forwardedLineArrival _ => none
  | .linkFlitRetry _ _ => none
  | .linkLoss _ => none
  | .partitionResize _ _ => none
  | .arbiterFirmwareReplace => none
  | .arbiterWatchdogExpiry _ => none
  | .traceSinkWrite _ => none

end Sys2Proof
end

