-- ==== Sys2Proof/WellFormed.lean ====
section
/-! DEFINITION. Which terms of `Instr` are instructions: those whose word passes the checks of the decoding order
(spec/02_encoding.md R45–R55). A step of another agent has no word and is always well formed. -/
namespace Sys2Proof
open Sys2Proof.Machine

/-- An instruction is well formed when its word passes every check at supervisor level and the bits select its own form. -/
def wellFormed (i : Instr) : Bool :=
  match rawOf i with
  | none => true
  | some w => illegalDetail true w == 0 && ((pick w).map fun f => f.name) == opOf i

end Sys2Proof
end

