-- ==== Sys2Proof/Decode.lean ====
section
/-! DEFINITION. From bits to instructions and back (spec/02_encoding.md R33, R44, R53). The decoder rejects a word by the detail
of R55; the encoder follows the same layout. -/
namespace Sys2Proof
open Sys2Proof.Machine

/-- The type of a code (R47). -/
def tyOf (c : Nat) : Ty :=
  match c with
  | 0 => .dflt
  | 1 => .s8
  | 2 => .s16
  | 3 => .s32
  | 4 => .s64
  | 5 => .z8
  | 6 => .z16
  | 7 => .z32
  | 8 => .z64
  | 9 => .f32
  | 10 => .bf16
  | 11 => .g8
  | 12 => .g16
  | 13 => .g32
  | 14 => .cb4
  | _ => .e8

/-- The register of a file and index that R49 allows (an index is taken modulo the file's size). -/
def regOf (file idx : Nat) : Reg :=
  match file with
  | 0 => .d (Fin.ofNat 16 idx)
  | 1 => .v (Fin.ofNat 8 idx)
  | 2 => .s (Fin.ofNat 4 idx)
  | 3 => .q (Fin.ofNat 4 idx)
  | 4 => .n (Fin.ofNat 6 idx)
  | 5 => .w (Fin.ofNat 8 idx)
  | 6 => .p (Fin.ofNat 8 idx)
  | _ => if idx < 4 then .a (Fin.ofNat 4 idx) else if idx < 8 then .y (Fin.ofNat 4 (idx - 4)) else .zero

/-- The modifier of two bits that R49 allows. -/
def modifOf (m : Nat) : Modif :=
  match m with
  | 1 => .sync
  | 2 => .neg
  | _ => .plain

/-- The operand of nine bits that R49 allows. -/
def opndOf (x : Nat) : Opnd := ⟨regOf (opFile x) (opIdx x), modifOf (opMod x)⟩

/-- The fields of a 96-bit word (R44). -/
def rawOfWord (w : Nat) : RawWord :=
  ⟨field w 90 6, field w 82 8, ⟨w.testBit 81, Fin.ofNat 8 (field w 78 3)⟩, field w 76 2, field w 72 4, field w 63 9, field w 54 9,
    field w 45 9, field w 36 9, field w 0 36⟩

/-- The 96-bit word of its fields (R44). -/
def wordOfRaw (r : RawWord) : Nat :=
  r.fmt + r.src3 * 2 ^ 36 + r.src2 * 2 ^ 45 + r.src1 * 2 ^ 54 + r.dst * 2 ^ 63 + r.ty * 2 ^ 72 + r.qual * 2 ^ 76
    + r.gd.idx.val * 2 ^ 78 + (if r.gd.neg then 2 ^ 81 else 0) + r.op * 2 ^ 82 + r.cls * 2 ^ 90

/-- The instruction of a form with its guard and fields. -/
def Machine.Op.build (name : Machine.Op) (gd : Guard) (f : Fields) : Instr :=
  match name with
  | .br => .br gd f
  | .brl => .brl gd f
  | .jr => .jr gd f
  | .jrLink => .jrLink gd f
  | .ret => .ret gd f
  | .setp => .setp gd f
  | .setpReg => .setpReg gd f
  | .clrp => .clrp gd f
  | .pand => .pand gd f
  | .por => .por gd f
  | .pnot => .pnot gd f
  | .gang => .gang gd f
  | .rejoin => .rejoin gd f
  | .ungang => .ungang gd f
  | .nop => .nop gd f
  | .cmpEq => .cmpEq gd f
  | .cmpNe => .cmpNe gd f
  | .cmpLt => .cmpLt gd f
  | .cmpLe => .cmpLe gd f
  | .cmpGt => .cmpGt gd f
  | .cmpGe => .cmpGe gd f
  | .cmpUn => .cmpUn gd f
  | .cmpTst => .cmpTst gd f
  | .cmpNtst => .cmpNtst gd f
  | .cmpEqImm => .cmpEqImm gd f
  | .cmpNeImm => .cmpNeImm gd f
  | .cmpLtImm => .cmpLtImm gd f
  | .cmpLeImm => .cmpLeImm gd f
  | .cmpGtImm => .cmpGtImm gd f
  | .cmpGeImm => .cmpGeImm gd f
  | .cmpUnImm => .cmpUnImm gd f
  | .cmpTstImm => .cmpTstImm gd f
  | .cmpNtstImm => .cmpNtstImm gd f
  | .add => .add gd f
  | .sub => .sub gd f
  | .mul => .mul gd f
  | .mulh => .mulh gd f
  | .div => .div gd f
  | .rem => .rem gd f
  | .and => .and gd f
  | .or => .or gd f
  | .xor => .xor gd f
  | .andn => .andn gd f
  | .shl => .shl gd f
  | .shr => .shr gd f
  | .sar => .sar gd f
  | .rot => .rot gd f
  | .clz => .clz gd f
  | .ctz => .ctz gd f
  | .popc => .popc gd f
  | .min => .min gd f
  | .max => .max gd f
  | .sel => .sel gd f
  | .bext => .bext gd f
  | .bins => .bins gd f
  | .addImm => .addImm gd f
  | .mulImm => .mulImm gd f
  | .andImm => .andImm gd f
  | .orImm => .orImm gd f
  | .xorImm => .xorImm gd f
  | .shlImm => .shlImm gd f
  | .shrImm => .shrImm gd f
  | .sarImm => .sarImm gd f
  | .rotImm => .rotImm gd f
  | .minImm => .minImm gd f
  | .maxImm => .maxImm gd f
  | .bextImm => .bextImm gd f
  | .binsImm => .binsImm gd f
  | .leaPc => .leaPc gd f
  | .leaBase => .leaBase gd f
  | .leaIndex => .leaIndex gd f
  | .li => .li gd f
  | .lui => .lui gd f
  | .wid => .wid gd f
  | .fadd => .fadd gd f
  | .fsub => .fsub gd f
  | .fmul => .fmul gd f
  | .ffma => .ffma gd f
  | .fmin => .fmin gd f
  | .fmax => .fmax gd f
  | .fneg => .fneg gd f
  | .fabs => .fabs gd f
  | .fcls => .fcls gd f
  | .frnd => .frnd gd f
  | .fexf => .fexf gd f
  | .fins => .fins gd f
  | .fdiv => .fdiv gd f
  | .fsqrt => .fsqrt gd f
  | .frsq => .frsq gd f
  | .iadd => .iadd gd f
  | .isub => .isub gd f
  | .imul => .imul gd f
  | .idot4 => .idot4 gd f
  | .iabs => .iabs gd f
  | .imin => .imin gd f
  | .imax => .imax gd f
  | .vsel => .vsel gd f
  | .vshf => .vshf gd f
  | .vshfRot => .vshfRot gd f
  | .vshfXor => .vshfXor gd f
  | .vredAdd => .vredAdd gd f
  | .vredMin => .vredMin gd f
  | .vredMax => .vredMax gd f
  | .vbc => .vbc gd f
  | .vbcLane => .vbcLane gd f
  | .vmov => .vmov gd f
  | .vmovExtract => .vmovExtract gd f
  | .vmovInsert => .vmovInsert gd f
  | .cvt => .cvt gd f
  | .cvtVector => .cvtVector gd f
  | .qsc => .qsc gd f
  | .qcb => .qcb gd f
  | .dqcb => .dqcb gd f
  | .nanm => .nanm gd f
  | .nanx => .nanx gd f
  | .pspl => .pspl gd f
  | .pjn => .pjn gd f
  | .pupd => .pupd gd f
  | .pdec => .pdec gd f
  | .ld => .ld gd f
  | .st => .st gd f
  | .migr => .migr gd f
  | .home => .home gd f
  | .fence => .fence gd f
  | .vld => .vld gd f
  | .vst => .vst gd f
  | .vldp => .vldp gd f
  | .vstp => .vstp gd f
  | .lds => .lds gd f
  | .sts => .sts gd f
  | .tprb => .tprb gd f
  | .kvfork => .kvfork gd f
  | .kvfree => .kvfree gd f
  | .tld => .tld gd f
  | .rdmSp => .rdmSp gd f
  | .rdmV => .rdmV gd f
  | .rdmS => .rdmS gd f
  | .tqry => .tqry gd f
  | .tdrop => .tdrop gd f
  | .cldX => .cldX gd f
  | .cldB => .cldB gd f
  | .cldtX => .cldtX gd f
  | .cldtB => .cldtB gd f
  | .cldg => .cldg gd f
  | .rld => .rld gd f
  | .rldg => .rldg gd f
  | .fold => .fold gd f
  | .acpV => .acpV gd f
  | .acpSp => .acpSp gd f
  | .acps => .acps gd f
  | .aclrX => .aclrX gd f
  | .aclrF => .aclrF gd f
  | .skeep => .skeep gd f
  | .cres => .cres gd f
  | .cresD => .cresD gd f
  | .wlt => .wlt gd f
  | .cgo => .cgo gd f
  | .binit => .binit gd f
  | .barv => .barv gd f
  | .bwait => .bwait gd f
  | .sbind => .sbind gd f
  | .xreq => .xreq gd f
  | .amoAdd => .amoAdd gd f
  | .amoMin => .amoMin gd f
  | .amoMax => .amoMax gd f
  | .amoAnd => .amoAnd gd f
  | .amoOr => .amoOr gd f
  | .amoXor => .amoXor gd f
  | .amoSwap => .amoSwap gd f
  | .amoCas => .amoCas gd f
  | .redAdd => .redAdd gd f
  | .redMin => .redMin gd f
  | .redMax => .redMax gd f
  | .redAnd => .redAnd gd f
  | .redOr => .redOr gd f
  | .redXor => .redXor gd f
  | .redX => .redX gd f
  | .inbx => .inbx gd f
  | .launch => .launch gd f
  | .texit => .texit gd f
  | .phase => .phase gd f
  | .cpin => .cpin gd f
  | .cunpin => .cunpin gd f
  | .trap => .trap gd f
  | .rti => .rti gd f
  | .gets => .gets gd f
  | .sets => .sets gd f
  | .getsCpGo => .getsCpGo gd f
  | .brk => .brk gd f
  | .trc => .trc gd f

/-- The fields of an instruction whose raw fields are legal. -/
def fieldsOf (w : RawWord) : Fields :=
  ⟨BitVec.ofNat 2 w.qual, tyOf w.ty, opndOf w.dst, opndOf w.src1, opndOf w.src2, opndOf w.src3, BitVec.ofNat 36 w.fmt⟩

/-- Decoding of a word's raw fields at a level: the instruction, or the detail of the illegal-instruction trap (R53, R55). -/
def decodeRaw (sup : Bool) (r : RawWord) : Except Nat Instr :=
  match illegalDetail sup r with
  | 0 =>
    match pick r with
    | some f => .ok (f.name.build r.gd (fieldsOf r))
    | none => .error 2
  | n + 1 => .error (n + 1)

/-- Decoding of a 96-bit word (R53): the all-zero and all-ones words have detail 7 (R61). -/
def decodeWord (sup : Bool) (w : Nat) : Except Nat Instr :=
  if w % 2 ^ 96 = 0 ∨ w % 2 ^ 96 = 2 ^ 96 - 1 then .error 7 else decodeRaw sup (rawOfWord w)

/-- The word of an instruction; a step of another agent has none. -/
def encode (i : Instr) : Option Nat := (rawOf i).map wordOfRaw

/-- The instruction the decoder reads from a 96-bit word given as the opcode table numbers bits: the word's bit n is line bit
96i + n of slot i (R33), and every bit above `nbits` is 0. -/
def decodeTableWord (nbits w : Nat) : Option Instr :=
  match decodeWord true (w % 2 ^ (min nbits 96)) with
  | .ok i => some i
  | .error _ => none

/-! The fetch line (R33–R37, R42). -/

/-- The instruction word of slot i of a line (R33). -/
def lineSlot (line : BitVec 512) (i : Nat) : Nat := field line.toNat (96 * i) 96

/-- The branch-target bit of slot i (R34). -/
def lineTgt (line : BitVec 512) (i : Nat) : Bool := line.getLsbD (480 + i)

/-- The pair bit of slots i and i + 1 (R34). -/
def linePair (line : BitVec 512) (i : Nat) : Bool := decide (i < 4) && line.getLsbD (485 + i)

/-- The reserved bits of the line word (R34). -/
def lineReserved (line : BitVec 512) : Nat := field line.toNat 489 7

/-- The exclusive OR of the low n bits of a number. -/
def parity : Nat → Nat → Bool
  | 0, _ => false
  | n + 1, x => xor (x.testBit n) (parity n x)

/-- parity_ok of R35: every group of 30 bits and its parity bit. -/
def parityOk (line : BitVec 512) : Bool :=
  (List.range 16).all fun j => parity 30 (field line.toNat (30 * j) 30) == line.getLsbD (496 + j)

/-- The line of five words with a target mask and a pairing template, its parity computed (R34, R35). -/
def makeLine (words : List Nat) (tgt pair : Nat) : BitVec 512 :=
  let area := (List.range 5).foldl (fun a i => a + words.getD i 0 * 2 ^ (96 * i)) 0
  let par := (List.range 16).foldl (fun a j => a + (if parity 30 (field area (30 * j) 30) then 2 ^ j else 0)) 0
  BitVec.ofNat 512 (area + 2 ^ 480 * (tgt + 2 ^ 5 * pair + 2 ^ 16 * par))

/-- Bytes to a number, the first byte the least significant (R3). -/
def leBytes : List Byte → Nat
  | [] => 0
  | b :: rest => b.toNat + 256 * leBytes rest

/-- A number as n bytes, the least significant first (R3). -/
def toBytes : Nat → Nat → List Byte
  | 0, _ => []
  | n + 1, x => BitVec.ofNat 8 x :: toBytes n (x / 256)

end Sys2Proof
end

