-- ==== Sys2Proof/Machine/Sha.lean ====
section
/-! DEFINITION. SHAKE256, which gives check codes, copy checksums and digests (spec/09_tickets.md R215; spec/11_copy_transform.md
R277; spec/17_host_package.md R401). The manual names the function; its definition is FIPS 202 (notes/assumptions/22.md). -/
namespace Sys2Proof.Machine

/-- Lane (x, y) of a state of 25 lanes. -/
def kLane (a : List Word) (x y : Nat) : Word := a.getD (x % 5 + 5 * (y % 5)) 0

/-- A state built lane by lane. -/
def kBuild (f : Nat → Nat → Word) : List Word := (List.range 25).map fun i => f (i % 5) (i / 5)

/-- θ: each lane with the parities of two columns. -/
def kTheta (a : List Word) : List Word :=
  let c := (List.range 5).map fun x => kLane a x 0 ^^^ kLane a x 1 ^^^ kLane a x 2 ^^^ kLane a x 3 ^^^ kLane a x 4
  let d := (List.range 5).map fun x => c.getD ((x + 4) % 5) 0 ^^^ (c.getD ((x + 1) % 5) 0).rotateLeft 1
  kBuild fun x y => kLane a x y ^^^ d.getD x 0

/-- The rotation of ρ for each lane. -/
def kOffsets : List Nat :=
  [0, 1, 62, 28, 27, 36, 44, 6, 55, 20, 3, 10, 43, 25, 39, 41, 45, 15, 21, 8, 18, 2, 61, 56, 14]

/-- ρ then π. -/
def kRhoPi (a : List Word) : List Word :=
  kBuild fun x y =>
    let sx := (x + 3 * y) % 5
    (kLane a sx x).rotateLeft (kOffsets.getD (sx + 5 * x) 0)

/-- χ. -/
def kChi (a : List Word) : List Word := kBuild fun x y => kLane a x y ^^^ ((~~~ kLane a (x + 1) y) &&& kLane a (x + 2) y)

/-- The round constants. -/
def kRounds : List Word :=
  [0x0000000000000001, 0x0000000000008082, 0x800000000000808A, 0x8000000080008000, 0x000000000000808B, 0x0000000080000001,
   0x8000000080008081, 0x8000000000008009, 0x000000000000008A, 0x0000000000000088, 0x0000000080008009, 0x000000008000000A]
  ++ [0x000000008000808B, 0x800000000000008B, 0x8000000000008089, 0x8000000000008003, 0x8000000000008002, 0x8000000000000080,
   0x000000000000800A, 0x800000008000000A, 0x8000000080008081, 0x8000000000008080, 0x0000000080000001, 0x8000000080008008]

/-- Keccak-f[1600]. -/
def keccak (a : List Word) : List Word :=
  kRounds.foldl (fun a rc =>
    match kChi (kRhoPi (kTheta a)) with
    | [] => []
    | l :: rest => (l ^^^ rc) :: rest) a

/-- A lane from up to eight bytes, least significant first. -/
def kWord (bs : List Byte) : Word := bs.foldr (fun b n => (n <<< 8) ||| b.setWidth 64) 0

/-- A block of 136 bytes absorbed. -/
def kAbsorb (a : List Word) (block : List Byte) : List Word :=
  keccak ((List.range 25).map fun i => a.getD i 0 ^^^ (if i < 17 then kWord ((block.drop (8 * i)).take 8) else 0))

/-- Blocks absorbed in order. -/
def kAbsorbAll : Nat → List Word → List Byte → List Word
  | 0, a, _ => a
  | n + 1, a, bs => kAbsorbAll n (kAbsorb a (bs.take 136)) (bs.drop 136)

/-- The padded message: 0x1F, zeros, and 0x80 in the last byte of the block. -/
def kPad (bs : List Byte) : List Byte :=
  let z := 135 - bs.length % 136
  if z = 0 then bs ++ [0x9F] else bs ++ [0x1F] ++ List.replicate (z - 1) 0 ++ [0x80]

/-- The first n bytes, n at most 136, of SHAKE256 of a message. -/
def shake256 (n : Nat) (bs : List Byte) : List Byte :=
  let p := kPad bs
  let a := kAbsorbAll (p.length / 136) (List.replicate 25 0) p
  ((a.take 17).flatMap fun (w : Word) => (List.range 8).map fun i => (w >>> (8 * i)).setWidth 8).take n

end Sys2Proof.Machine
end

