-- ==== Sys2Proof/Config.lean ====
section
/-! DEFINITION. What the manual leaves to the device (R7, R210, R215): free values, opaque constants without a body,
and the few sizes the model names. A claim about a free value holds for every value (notes/assumptions/5.md). -/
namespace Sys2Proof

/-- A value the manual calls undefined (R7), one for each count of `State.free`. -/
opaque Config.freeWord : Nat → Word

/-- Lane `i` of an undefined v register (R49, R329), one for each count of `State.free`. -/
opaque Config.freeLane : Nat → Nat → Lane

/-- An undefined guard value (`clrp`, R114), one for each count of `State.free`. -/
opaque Config.freeBool : Nat → Bool

/-- The byte at offset `o` of a scratchpad that nothing has written since its region was allocated at epoch `e`
(R329: the contents are undefined). -/
opaque Config.freeSpad : Nat → Nat → Byte

/-- The byte a peer package returns for a read (R192): another package's memory is not this machine's state. -/
opaque Config.peerByte : Nat → Nat → Byte

/-- A word of a KV table that no page maps, at a virtual address (R206 asks the program to fill the tables), one for each count of
`State.free`. -/
opaque Config.kvWord : Nat → Nat → Word

/-- The ticket key K of R215, 32 bytes drawn from an entropy source at power-up number `n`. -/
opaque Config.ticketKey : Nat → Nat → Byte

/-- This package's responder certificate chain and its digest (R396, R397). -/
opaque Config.certChain : List Byte
opaque Config.chainDigest : Nat

/-- What the fuses and an arbiter image report as measurement blocks 1 to 3 (R397): the image digest, the fuse configuration, the firmware security
version; the images are numbered in the order in which the firmware is replaced. -/
opaque Config.measurement : Nat → Nat → List Byte

/-- The signature of a message of bytes with the responder key (R401). -/
opaque Config.signature : List Byte → List Byte

/-- Whether a cluster-memory block that is neither all zero nor bound to fit by R210 compresses into one slot; the
block is named by its 32 counts of nonzero bytes. -/
opaque Config.fitsOneSlot : List Byte → Bool

end Sys2Proof
end

