-- ==== Sys2Proof/Machine/Sparse.lean ====
section
/-! DEFINITION. Sparse stores: a list of key and value pairs with strictly rising keys. A memory of bytes is such a list
with no entry equal to the byte an unlisted address reads as (spec/01_machine.md R19; notes/assumptions/3.md). -/
namespace Sys2Proof.Machine

/-- The entry of key `k`, if one is listed. -/
def smapFind {α : Type} : List (Nat × α) → Nat → Option α
  | [], _ => none
  | (j, v) :: rest, k => if j = k then some v else if k < j then none else smapFind rest k

/-- The value of key `k`, `d` where none is listed. -/
def smapGet {α : Type} (d : α) (m : List (Nat × α)) (k : Nat) : α := (smapFind m k).getD d

/-- The store with key `k` holding `v`. -/
def smapPut {α : Type} : List (Nat × α) → Nat → α → List (Nat × α)
  | [], k, v => [(k, v)]
  | (j, w) :: rest, k, v =>
    if j = k then (k, v) :: rest else if k < j then (k, v) :: (j, w) :: rest else (j, w) :: smapPut rest k v

/-- The store without key `k`. -/
def smapDel {α : Type} : List (Nat × α) → Nat → List (Nat × α)
  | [], _ => []
  | (j, w) :: rest, k => if j = k then rest else if k < j then (j, w) :: rest else (j, w) :: smapDel rest k

/-- Every key is above `lo` and the keys rise strictly. -/
def smapSorted {α : Type} : Nat → List (Nat × α) → Bool
  | _, [] => true
  | lo, (j, _) :: rest => decide (lo ≤ j) && smapSorted (j + 1) rest

/-- A write to a byte store whose unlisted addresses read 0: writing 0 removes the entry. -/
def memPut (m : List (Nat × Byte)) (a : Nat) (b : Byte) : List (Nat × Byte) :=
  if b = 0 then smapDel m a else smapPut m a b

/-- A read of a byte store whose unlisted addresses read 0. -/
def memGet (m : List (Nat × Byte)) (a : Nat) : Byte := smapGet 0 m a

/-- The canonical form: addresses strictly rising and no entry 0. -/
def Memory.wf (m : List (Nat × Byte)) : Bool := smapSorted 0 m && m.all (fun c => c.2 != 0)

/-- `n` bytes from address `a`, ascending. -/
def memGets (m : List (Nat × Byte)) (a : Nat) : Nat → List Byte
  | 0 => []
  | n + 1 => memGet m a :: memGets m (a + 1) n

/-- The bytes written one after another at their addresses. -/
def memPuts (m : List (Nat × Byte)) : List (Nat × Byte) → List (Nat × Byte)
  | [] => m
  | (a, b) :: rest => memPuts (memPut m a b) rest

/-- Addresses `a`, `a + 1`, … paired with the bytes of a list. -/
def enumFrom {α : Type} (a : Nat) : List α → List (Nat × α)
  | [] => []
  | b :: rest => (a, b) :: enumFrom (a + 1) rest

/-- An element put in a list before the first element it may stand before. -/
def insertBy {α : Type} (le : α → α → Bool) (x : α) : List α → List α
  | [] => [x]
  | y :: rest => if le x y then x :: y :: rest else y :: insertBy le x rest

/-- A list in an order, equals as they stood. -/
def sortBy {α : Type} (le : α → α → Bool) : List α → List α
  | [] => []
  | x :: rest => insertBy le x (sortBy le rest)

end Sys2Proof.Machine
end

