-- ==== Sys2Proof/Machine/State.lean ====
section
/-! DEFINITION. The state of the package as plain data: eight dies of 256 cores with their threads, engines, slices and
stores, the messages in flight, the arbiters' tables and the ports (INVENTORY.md, State). Sparse stores list only what
differs from its value at reset. Core `g` is core g mod 256 of die g / 256 (R14); cluster `c` is cluster c mod 16 of die
c / 16. A physical byte address below 2^39 is byte (pa mod 2^28) of the vault of core pa / 2^28; from 2^40 on it is
cluster memory of one colour (R19, R210). -/
namespace Sys2Proof.Machine

/-- The classes of an offered slot (R102). -/
inductive SlotClass where
  | issued | mem | msg | vacant
  deriving DecidableEq, Repr

/-- A barrel slot of a core. -/
structure SlotRef where
  g    : Nat
  slot : Nat
  deriving DecidableEq, Repr

/-- The contents of a trap or imprecise report (R359): the fields of tr.cause, the address, the unit and the command pc,
for a precise trap the pc it resumes at (R360), and the register whose pending bit its delivery clears (R212). -/
structure Report where
  kind   : BitVec 8
  detail : BitVec 8
  imp    : Bool
  fetch  : Bool
  ctr    : BitVec 3
  unit   : BitVec 2
  usel   : Bool
  addr   : Word
  eng    : Word
  cpc    : Word
  pc     : Word
  clr    : Option Reg
  deriving DecidableEq, Repr

/-- Where a thread stands with traps: running, parked in a collection window with its precise trap, parked with a queued
imprecise report, or the window's winner whose trap is delivered at its next turn (R364). -/
inductive Park where
  | none
  | precise (r : Report)
  | imprecise
  | winner (r : Report) (others : Nat)
  | winnerImp (others : Nat)
  deriving DecidableEq, Repr

/-- A stream binding of an s register (R287): the copy (0) or ticket (1) that feeds it, the bytes in its buffer, and the
bytes that have not entered the buffer. -/
structure Stream where
  ticket : Bool
  src    : Nat
  buf    : List Byte
  left   : Nat
  deriving DecidableEq, Repr

/-- A member of a gang as its leader knows it: its thread, and the label of its arrival at `rejoin` (R122, R125). -/
structure GangMember where
  tid      : Nat
  arrived  : Option Word
  deriving DecidableEq, Repr

/-- A line the leader has entered, as it is forwarded (R123): its address, its bits, the pc of entry, and, once the leader has
left it, the pc of the last instruction it issued from it (none within: it issued none). -/
structure FwdLine where
  line  : Word
  bits  : BitVec 512
  entry : Word
  exit  : Option (Option Word)
  deriving DecidableEq, Repr

/-- The gang state of a thread (R121–R126): outside; waiting for its gang to form; the leader with its members, the label it waits at
`rejoin` with, the pc it last issued from the line it forwarded and the pc that continues that line; or a follower with its leader,
whether it is attached and inside the first of the forwarded lines it holds, the pc it last issued there and whether it has left
the line, and the label it waits with. -/
inductive Gang where
  | none
  | forming (k : Nat)
  | leader (ms : List GangMember) (rejoin last next : Option Word)
  | follower (leader : Nat) (attached inLine : Bool) (lines : List FwdLine) (last : Option (Word × Bool)) (rejoin : Option Word)
  deriving DecidableEq, Repr

/-- The copy registers of a thread (R270). -/
structure CopyRegs where
  src : Word
  dst : Word
  shape : Word
  sstr : Word
  dstr : Word
  mode : Word
  aux : Word
  bar : Word
  pat : Word
  deriving DecidableEq, Repr

/-- Every copy register 0, as a thread starts (R270). -/
def CopyRegs.zero : CopyRegs := ⟨0, 0, 0, 0, 0, 0, 0, 0, 0⟩

/-- The report registers of a thread (R359). -/
structure TrapRegs where
  epc : Word
  cause : Word
  addr : Word
  eng : Word
  info : Word
  save : Word
  deriving DecidableEq, Repr

/-- The hand-off record of a thread stopped for the arbiter (R362). -/
structure HandOff where
  report : Report
  epc    : Word
  deriving DecidableEq, Repr

/-- What a KV-window translation step answers (R207): the physical address of the block, a fault, or the physical and effective address
of a word or sector that met an uncorrectable error (R212). -/
inductive KvRes where
  | block (pa : Nat)
  | fault (kind : BitVec 8) (detail : Nat)
  | check (pa : Nat) (va : Word)
  deriving DecidableEq, Repr

/-- A KV-window translation of a waiting access (R207): its answer once it has come. -/
structure KvAnswer where
  s     : Nat
  b     : Nat
  write : Bool
  res   : Option KvRes
  deriving DecidableEq, Repr

/-- A thread (R25, R104, R113, R235, R354 and the per-thread rows of INVENTORY.md); `second` marks a thread whose next issue is the
second instruction of a pair, the first being an `rdm` that has had its answer (R42, R223), and `taken` the d registers that the first of
a pair has read with the synchronised read and the second still finds full, both having been ready together (R42, R49, R51). `denied` is the
trap of a redeem whose claim has been denied, taken at the thread's next turn (R223, R364); `trapped` the pc of the instruction whose precise
trap was delivered last, for the gang that the thread leads (R124). -/
structure Thread where
  tid     : Nat
  colour  : Nat
  wid     : Word
  launch  : Nat
  team    : Nat
  pc      : Word
  d       : Vector Word 16
  dfull   : Vector Bool 16
  dpend   : Vector Bool 16
  v       : Vector VReg 8
  vfull   : Vector Bool 8
  vowed   : Vector Nat 8
  halves  : List (Fin 8 × Bool × List Byte)
  pval    : Vector Bool 8
  pres    : Vector Bool 8
  pans    : Vector Bool 8
  w       : Vector Nat 8
  flags   : Word
  cp      : CopyRegs
  ibWord  : Word
  ibSrc   : BitVec 3
  tr      : TrapRegs
  streams : Vector (Option Stream) 4
  outst   : List Nat
  loads   : List Nat
  hold    : List Nat
  nonret  : List Nat
  waitAns : Bool
  kvOut   : Nat
  kv      : List KvAnswer
  release : Nat
  entry   : Option Word
  vector  : Option Report
  reports : List Report
  ovf     : Bool
  park    : Park
  fromWin : Bool
  handed  : Option HandOff
  halted  : Bool
  haltReq : Bool
  steps   : Option Nat
  pass    : Bool
  gang    : Gang
  arrived : Option (BitVec 32)
  retry   : Bool
  second  : Bool
  taken   : List (Fin 16)
  denied  : Option Report
  trapped : Option Word
  deriving DecidableEq, Repr

/-- An entry of the inbox (R306): two words, a source code, and the colour it belongs to. -/
structure InboxEntry where
  w0     : Word
  w1     : Word
  src    : BitVec 3
  colour : Nat
  deriving DecidableEq, Repr

/-- A lane of an accumulator tile or an exact-sum word (R91, R302): value, tag and the infinities seen. In binary32 use
the value holds the bit pattern (R96). -/
structure XLane where
  val  : Int
  tag  : BitVec 2
  seen : BitVec 2
  deriving DecidableEq, Repr

/-- Exact +0 (R236). -/
def XLane.zero : XLane := ⟨0, 0, 0⟩

/-- A tile: its use (true for binary32) and its lanes by 64 × m + n, zero where unlisted (R91, R235). -/
structure Tile where
  f32   : Bool
  lanes : List (Nat × XLane)
  deriving DecidableEq, Repr

/-- An exact number: (−1)^neg × n × 2^e (a zero keeps its sign), an infinity, or a NaN with its sign and payload
(R65, R76–R78, R92). -/
inductive XNum where
  | fin (neg : Bool) (n : Nat) (e : Int)
  | inf (neg : Bool)
  | nan (neg : Bool) (pay : BitVec 24)
  deriving DecidableEq, Repr

/-- A resident slot: format (0 s8, 1 g8, 2 g16), row count, value count and values by 64 × m + k (R235); an unlisted value is 0,
or undefined with the free value of `junk` after a load that parked (R244). -/
structure RSlot where
  fmt  : BitVec 2
  mr   : Nat
  kc   : Nat
  vals : List (Nat × XNum)
  junk : Option Nat
  deriving DecidableEq, Repr

/-- The team a piece of state belongs to: the launch and the team number (R327). -/
structure TeamKey where
  launch : Nat
  team   : Nat
  deriving DecidableEq, Repr

/-- A command record (R252) with what the engine keeps beside it: its name, its owner, the v destination of `acp`, the words a
`fold` has taken, the first event it created by unit and lane with its code, the partial tile returned by another engine, whether
`cres.d` has discarded it, whether its gather is done, the descriptor and list it has read, what the bytes of the scratchpad written
since its issue were before each write (R423), and the sectors it may still write after a watch strike (R381). The fields up to wid and from vdst on are beside the record. -/
structure Cmd where
  uid   : Nat
  tid   : Nat
  team  : TeamKey
  colour : Nat
  wid   : Word
  op    : BitVec 8
  mod   : BitVec 6
  ctr   : BitVec 3
  bslot : BitVec 4
  gidx  : Fin 8
  gneg  : Bool
  gres  : Bool
  gval  : Bool
  tile  : Nat
  slot  : Nat
  pm    : BitVec 4
  shape : BitVec 6
  state : BitVec 3
  pc    : Word
  op2   : Word
  op3   : Word
  bm    : BitVec 256
  kind  : BitVec 8
  detail : BitVec 8
  faddr : Word
  vdst  : Option (Fin 8)
  wide  : List Word
  event : Option (Nat × Nat)
  partial_ : Option (List (Nat × XLane))
  disc  : Bool
  gathered : Bool
  desc  : List Word
  rows  : List Nat
  old   : List (Nat × Byte)
  skid  : Option Nat
  deriving DecidableEq, Repr

/-- A `cld.x` run on another core's engine (R265): the home core, the command, the slot it multiplies, the spare tile it took and
that tile's lanes. -/
structure Guest where
  home  : Nat
  cmd   : Cmd
  slot  : RSlot
  idx   : Nat
  tile  : List (Nat × XLane)
  deriving DecidableEq, Repr

/-- The state of a copy: queued, active, parked, or a distributor's queued again after a park, its barrier steps made (R280, R283). -/
inductive CopyState where
  | queued | active | parked | again
  deriving DecidableEq, Repr

/-- A copy or a transform request accepted by an engine (R280, R292): its identifier, owner, snapshot, stream, sector
count, the sectors landed, the data of sectors read and not yet written, and the skid left after a watch strike. `xop` is the transform op, if it is one. -/
structure Copy where
  id     : BitVec 32
  tid    : Nat
  team   : TeamKey
  colour : Nat
  wid    : Word
  bslot  : Nat
  pc     : Word
  regs   : CopyRegs
  xop    : Option Nat
  param  : Word
  stream : Option Nat
  total  : Nat
  landed : List Nat
  got    : List (Nat × List (Word × List Byte))
  bytes  : List (Nat × Byte)
  nzero  : Nat
  state  : CopyState
  skid   : Option Nat
  deriving DecidableEq, Repr

/-- A team bound on a core (R329, R334): its region (base, size in bytes, allocation epoch, the scratchpad offset from which the region is
new to the colour and so zero: R400), its tiles' physical indices, its bank vault (R195), its pin bit, and whether its threads have all
exited while copies drain (R285). -/
structure Team where
  key     : TeamKey
  colour  : Nat
  base    : Nat
  size    : Nat
  epoch   : Nat
  zeros   : Nat
  tiles   : List Nat
  bank    : Nat
  pin     : Bool
  retired : Bool
  deriving DecidableEq, Repr

/-- How a claim delivers its data (R224–R227): to the scratchpad at a region offset, half i of it to a v register, to a stream, to a
command of an engine, or nowhere once its redeemer has moved or released it (R232). -/
inductive ClaimForm where
  | sp (x : Nat) (team : TeamKey)
  | v (i : Fin 8) (half : Nat)
  | s (i : Fin 4)
  | engine (cmd : Nat) (planes : Nat) (tz : Bool) (ty : Ty) (units : Nat)
  | drop
  deriving DecidableEq, Repr

/-- A claim on a ticket entry (R222): its name, the redeemer, the form, and the d registers of synchronised reads. -/
structure Claim where
  id     : Nat
  tid    : Nat
  core   : Nat
  slot   : Nat
  colour : Nat
  pc     : Word
  form   : ClaimForm
  sync   : List (Fin 16)
  deriving DecidableEq, Repr

/-- An entry of a slice's ticket table (R217): state (0 free, 1 fetching, 2 ready, 3 claimed), generation, colour, lease
left in slice cycles, whether it never expires, the layout, the physical address of each sector-plane (plane q of sector i
at index q × n + i), the sector-planes in the buffer, those delivered, the groups marked by an uncorrectable error, the
thread and access that read it, the core it was issued on, the claim, the groups still to land after it is freed, and the KV blocks its
addresses were translated through (sequence, block, physical base: R207, R208). -/
structure TkEntry where
  st     : BitVec 2
  gen    : Nat
  colour : Nat
  lease  : Nat
  never  : Bool
  launch : Nat
  team   : Nat
  det    : Bool
  ty     : Ty
  tz     : Bool
  n      : Nat
  planes : Nat
  addrs  : List Nat
  data   : List (Nat × List Byte)
  sent   : List Nat
  marked : List Nat
  rd     : Option (Nat × Nat)
  src    : Nat
  claim  : Option Claim
  drain  : List Nat
  kv     : List (Nat × Nat × Nat)
  deriving DecidableEq, Repr

/-- A free entry that has never been allocated (R216, R217). -/
def TkEntry.free : TkEntry :=
  ⟨0, 0, 0, 0, false, 0, 0, false, .dflt, false, 0, 0, [], [], [], [], none, 0, none, [], []⟩

/-- What the issuer of a request is, as the request carries it: access id, thread, source core, barrel slot, colour, work
identifier, pc, whether its event NaNs trap, the clock of R323, and the KV blocks its addresses were translated through (sequence, block,
physical base: R207, R208). -/
structure Req where
  id     : Nat
  tid    : Nat
  src    : Nat
  bslot  : Nat
  colour : Nat
  wid    : Word
  pc     : Word
  evt    : Bool
  clock  : List Nat
  kv     : List (Nat × Nat × Nat)
  deriving DecidableEq, Repr

/-- What a packet that answers or serves a transaction bears: the core whose router injected the transaction, which counts it (R366), its
colour (R26), and the place that sends the packet, by the number of its home (R313). -/
structure Label where
  core   : Nat
  colour : Nat
  place  : Nat
  deriving DecidableEq, Repr

/-- Where a reply goes: nowhere, a d register with its extension type, one sector of a v register, or the planes of a
planar load with their read (type and truncation). `failed` is that of a sector whose load has been reported for its other one. -/
inductive Dest where
  | none
  | failed
  | d (i : Fin 16) (ty : Ty)
  | vsec (i : Fin 8) (hi : Bool)
  | vplanes (i : Fin 8) (ty : Ty) (tz : Bool)
  deriving DecidableEq, Repr

/-- The atomic operations of R298 and `red.x` of R303. -/
inductive AtomOp where
  | add | min | max | and | or | xor | swap | cas | x
  deriving DecidableEq, Repr

/-- An atomic or reduction on its way (R298, R303–R305): its operands, destination, watch tag (index and lowest watched
address, R381), the further contributions merged into it with the operand of each, whether it is of `.sys` scope, combinable,
or counted by a cell's control word, and the dies whose gateway it has passed. -/
structure Atomic where
  req   : Req
  op    : AtomOp
  ty    : Ty
  pa    : Nat
  va    : Word
  v     : Word
  c     : Word
  dst   : Option (Fin 16)
  watch : Option (Nat × Word)
  parts : List (Req × Word)
  sys   : Bool
  comb  : Bool
  cell  : Bool
  passed : List Nat
  deriving DecidableEq, Repr

/-- A planar update on its way (R181, R182): `pdec` or not, type, rounding, lead addresses of its planes, deltas, decay. -/
structure Planar where
  req   : Req
  pdec  : Bool
  ty    : Ty
  rnd   : BitVec 2
  addrs : List Nat
  va    : Word
  delta : List Lane
  lam   : Lane
  watch : Option (Nat × Word)
  deriving DecidableEq, Repr

/-- Messages in flight on the fabric (R312, R313 and the chapter of each); an inbox message bears the core whose router injected it,
a steal reply the colour of its blocks. -/
inductive Msg where
  | read (r : Req) (segs : List (Nat × Nat)) (dst : Dest) (va : Word)
  | write (r : Req) (bytes : List (Nat × Byte)) (va : Word)
  | atomic (a : Atomic)
  | planar (p : Planar)
  | reply (tid id : Nat) (dst : Dest) (data : List Byte) (clock : List Nat) (own : Label)
  | amoReply (tid id : Nat) (dst : Fin 16) (val : Word) (clock : List Nat) (own : Label)
  | redAck (tid id : Nat) (clock : List Nat) (own : Label)
  | kv (r : Req) (s b : Nat) (write : Bool) (va : Word)
  | kvBlocks (r : Req) (fork : Bool) (s t b left : Nat)
  | nword (launch lcore core : Nat) (dir : Fin 4) (w : Word) (clock : List Nat)
  | context (t : Thread) (source target cyc : Nat) (clock : List Nat)
  | rejoin (leader follower : Nat) (label : Word) (own : Label)
  | fwdLine (leader follower : Nat) (l : FwdLine) (own : Label)
  | xreq (r : Req) (clu cop : Nat) (p : Fin 8) (off : Nat) (op : Nat) (team : TeamKey)
  | inbox (team : Option TeamKey) (core : Nat) (e : InboxEntry) (src : Nat) (clock : List Nat)
  | tld (r : Req) (dst : Fin 16) (home : Nat) (ty : Ty) (tz : Bool) (n planes : Nat) (addrs : List Nat) (launch team : Nat) (det : Bool)
  | claim (t : Word) (c : Claim)
  | tdrop (r : Req) (t : Word)
  | tqry (r : Req) (dst : Fin 16) (t : Word)
  | launchReq (r : Req) (dst : Fin 16) (va : Word) (prio : Nat)
  | stealReply (thief : Nat) (blocks : List (Word × Nat)) (victim colour : Nat)
  deriving DecidableEq, Repr

/-- A cached translation (R193): colour, page number VA[54:16] (VA[54:29] of a 512 MiB page), leaf, and the level. -/
structure Tlb where
  colour : Nat
  big    : Bool
  page   : Nat
  leaf   : Word
  deriving DecidableEq, Repr

/-- A page-table walk in progress or ended with a fault (R193): `res` is the page-fault detail once it has ended. -/
structure Walk where
  colour : Nat
  page   : Nat
  res    : Option (BitVec 8)
  deriving DecidableEq, Repr

/-- A core (R18 and the per-core rows of INVENTORY.md); `checked` from a core machine check until the arbiter repairs the core, which
is dead until then (R370, R371); `fresh` the scratchpad offset from which no region of the present colour has been allocated since the
arbiters gave it the scratchpad, written with zeros (R400); `bar` the sent-message total at which the threefold rule began to bar the occupant (R349);
`away` the packets of this turn whose thread is away from its team's core, to be counted there as the turn ends (R345); `ibRel` the release
point that keeps what the core sends after an `inbx` behind the writes before it (R317, R319), 0 for none. A word in the receive
buffer of n0–n3 is kept with the launch and the logical core it is for (R328). -/
structure Core where
  cyc     : Nat
  stop    : Bool
  peCol   : BitVec 5
  mcCause : BitVec 4
  mcSlot  : BitVec 4
  checked : Bool
  threads : Vector (Option Thread) 16
  arrivals : List Thread
  q       : Vector (List Word) 4
  nin     : Vector (List (Nat × Nat × Word)) 4
  n4      : List Word
  inbox   : List InboxEntry
  lines   : List (Nat × Nat × BitVec 512)
  fetches : List (Nat × Nat)
  tlb     : List Tlb
  walks   : List Walk
  spad    : List (Nat × Byte)
  fresh   : Nat
  teams   : List Team
  tiles   : Vector Tile 4
  slots   : Vector RSlot 4
  queue   : List Cmd
  active  : List Cmd
  guest   : Option Guest
  copies  : List Copy
  seq     : BitVec 16
  window  : Option Nat
  winner  : Bool
  traffic : List (Nat × Nat)
  sent    : Nat
  records : List Nat
  bar     : Option Nat
  offer   : Option Nat
  offerIn : Option Nat
  swapDue : Bool
  tickets : List (Nat × TkEntry)
  held    : List Msg
  counts  : List (Nat × Nat)
  hist    : List (Nat × Nat)
  ready   : Nat
  sampled : Nat
  away    : List (TeamKey × Option Nat)
  ibRel   : Nat
  deriving DecidableEq, Repr

/-- A core at reset: stopped (R369), empty, its tiles exact +0 and its slots empty (R236). -/
def Core.reset : Core where
  cyc := 0
  stop := true
  peCol := 0
  mcCause := 0
  mcSlot := 0
  checked := false
  threads := Vector.replicate 16 none
  arrivals := []
  q := Vector.replicate 4 []
  nin := Vector.replicate 4 []
  n4 := []
  inbox := []
  lines := []
  fetches := []
  tlb := []
  walks := []
  spad := []
  fresh := 0
  teams := []
  tiles := Vector.replicate 4 ⟨false, []⟩
  slots := Vector.replicate 4 ⟨0, 0, 0, [], none⟩
  queue := []
  active := []
  guest := none
  copies := []
  seq := 0
  window := none
  winner := false
  traffic := []
  sent := 0
  records := [0, 0, 0]
  bar := none
  offer := none
  offerIn := none
  swapDue := false
  tickets := []
  held := []
  counts := []
  hist := []
  ready := 0
  sampled := 0
  away := []
  ibRel := 0

/-- A trace record (R382). -/
structure TraceRec where
  w0 : Word
  w1 : Word
  w2 : Word
  w3 : Word
  deriving DecidableEq, Repr

/-- A `skeep` broadcast accepted by a cluster (R255, R422): the command, its launch, the words formed so far (none until the first core takes
one, R423), and for each core of the cluster that must take them the number it has taken. -/
structure Broadcast where
  cmd    : Nat
  launch : Nat
  words  : List Word
  taken  : List (Nat × Nat)
  deriving DecidableEq, Repr

/-- A transform coprocessor (R292): its active and waiting requests. -/
structure Coproc where
  active  : Option (Nat × Copy)
  waiting : Option (Nat × Copy)
  deriving DecidableEq, Repr

/-- A cluster (R17 and the per-cluster rows of INVENTORY.md): the expander store (colour × 2^15 + block, most recent first),
the slots each block holds, the coprocessors, the broadcasts, the event recorder, the dispatcher's steal state (empty
replies in a row, whether it waits 4,096 cycles), and the cluster group it is binding: launch, group, teams still to bind. -/
structure Cluster where
  expander : List Nat
  slots    : List (Nat × Nat)
  waiting  : Bool
  cops     : Vector Coproc 2
  casts    : List Broadcast
  recs     : List TraceRec
  dropped  : Nat
  epochDue : Bool
  tcCtl    : Word
  tcSink   : Word
  frz      : Bool
  wofs     : BitVec 32
  steal    : Nat
  backoff  : Bool
  group    : Option (Nat × Nat × Nat)
  deriving DecidableEq, Repr

/-- A cluster at reset. -/
def Cluster.reset : Cluster where
  expander := []
  slots := []
  waiting := false
  cops := Vector.replicate 2 ⟨none, none⟩
  casts := []
  recs := []
  dropped := 0
  epochDue := false
  tcCtl := 0
  tcSink := 0
  frz := false
  wofs := 0
  steal := 0
  backoff := false
  group := none

/-- A bind record of the slot table (R332). -/
structure BindRec where
  st    : BitVec 3
  prio  : Nat
  steal : Bool
  any   : Bool
  clu   : Nat
  core  : Nat
  lent  : Nat
  age   : Nat
  first : Nat
  count : Nat
  next  : Nat
  deriving DecidableEq, Repr

/-- A die (the per-die rows of INVENTORY.md): `backlog` holds the bind records that wait for an entry of the slot table, `gate` the
contributions held by the gateway of each boundary, named by the neighbour die (R304), `retries` the link and cycle of each recent
flit retry, `frzDue` the cycle and cause of a freeze whose cycle has not ended, `cecc` the correctable errors counted (R385). -/
structure Die where
  cyc     : Nat
  fenced  : Bool
  misses  : List (Nat × Nat)
  boot    : BitVec 8
  table   : List (Nat × BindRec)
  backlog : List BindRec
  csCtl   : Word
  tcFrz   : Word
  issued  : Nat
  open_   : List (Nat × List Nat)
  front   : List Nat
  clock   : List Nat
  gate    : List (Nat × Atomic)
  black   : List TraceRec
  pkg     : Nat
  routes  : List (Nat × Nat)
  throttle : Nat
  retries : List (Nat × Nat)
  notices : Nat
  frzDue  : Option (Nat × Nat)
  cecc    : Nat
  deriving DecidableEq, Repr

/-- A die at reset: cs.ctl −256 and enabled (R346), every freeze trigger enabled (R385), boot status not reported (R403). -/
def Die.reset : Die where
  cyc := 0
  fenced := false
  misses := []
  boot := 0xFF
  table := []
  backlog := []
  csCtl := 0x1FFFFFF00
  tcFrz := 0xF
  issued := 0
  open_ := []
  front := [0, 0, 0, 0, 0, 0, 0, 0]
  clock := [0, 0, 0, 0, 0, 0, 0, 0]
  gate := []
  black := []
  pkg := 0
  routes := []
  throttle := 0
  retries := []
  notices := 0
  frzDue := none
  cecc := 0

/-- The states of a trusted device interface (R399). -/
inductive TdiState where
  | unlocked | locked | run | error
  deriving DecidableEq, Repr

/-- The registers and job of a colour (R206, R218, R304, R399–R401). -/
structure Colour where
  kvMap   : Word
  kvGeom  : Word
  kvPool  : Word
  kvFree  : Word
  lease   : Word
  cwBase  : Word
  cwLimit : Word
  tdi     : TdiState
  key     : Bool
  regions : List (Word × Nat)
  digest  : List Byte
  gap     : Bool
  seq     : Nat
  port    : Nat
  deriving DecidableEq, Repr

/-- A colour at reset: registers 0 but the lease exponent 0x16 (R218). -/
def Colour.reset : Colour where
  kvMap := 0
  kvGeom := 0
  kvPool := 0
  kvFree := 0
  lease := 0x16
  cwBase := 0
  cwLimit := 0
  tdi := .unlocked
  key := false
  regions := []
  digest := List.replicate 64 0
  gap := false
  seq := 0
  port := 0

/-- A launch (R326–R344): its table entry, colour, sequence number, header words, priority, partition, coordinating die, the
logical-to-physical map, teams retired, threads exited, phase number and state (0 open, 1 closing, 2 commit), the present
round of each physical cluster (R341), whether a phase has committed, and the host port it came by. -/
structure Launch where
  lent   : Nat
  colour : Nat
  seq    : Nat
  hdr    : List Word
  prio   : Nat
  sup    : Bool
  part   : Nat
  coord  : Nat
  map    : List Nat
  retired : Nat
  phase  : BitVec 32
  pst    : BitVec 2
  rounds : List (Nat × Nat)
  committed : Bool
  port   : Option Nat
  deriving DecidableEq, Repr

/-- Where the switch of a partition stands (R366). -/
inductive Switch where
  | none | stopping (dest : Nat) | exchanging (dest : Nat)
  deriving DecidableEq, Repr

/-- A partition: whole clusters running one colour (R26). -/
structure Partition where
  clusters : List Nat
  colours  : List Nat
  resident : Nat
  switch   : Switch
  deriving DecidableEq, Repr

/-- A message of the device to the host (R392), an SPDM response (R397), or a reply to another package's access (R395). -/
inductive DevMsg where
  | launchReply (w : Word)
  | completion (colour seq : Nat) (notifyFailed gap : Bool) (digest signature : List Byte)
  | faultReport (colour : Nat) (wid : Word) (h : HandOff)
  | jobEnd (colour : Nat) (seqs : List Nat)
  | dmaDone (colour : Nat) (ok : Bool) (bytes : List Byte)
  | management (code : Nat)
  | spdmResponse (code : Nat) (body : List Byte)
  | peerReply (tag : Nat) (ok : Bool) (data : List Byte)
  deriving DecidableEq, Repr

/-- What a receiver sends outside the numbered messages (R393): a message number accepted or a duplicate's, or the number it asks the
sender to resend from. -/
inductive LinkCtl where
  | ack (n : Nat)
  | resend (n : Nat)
  deriving DecidableEq, Repr

/-- A host port (0, 1) or peer port (2–17) (R393, R394, R396, R398): `ctl` what the receiver has answered, `spdm` the stage of the
SPDM exchange (R397), `lead` whether this end of a peer link is its SPDM requester, `sent` and `got` the messages of each direction
under the present keys, `users` the colours whose traffic has used the port. -/
structure Port where
  txl     : Nat
  rxl     : Nat
  ack     : Nat
  up      : Bool
  sess    : Bool
  tagf    : Nat
  tagRun  : Nat
  store   : List (Nat × DevMsg)
  wire    : List (Nat × DevMsg)
  waiting : List DevMsg
  rxq     : List LinkMsg
  dma     : List DevMsg
  digest  : Option Nat
  peer    : Nat
  keyGen  : Nat
  ctl     : List LinkCtl
  spdm    : Nat
  lead    : Bool
  sent    : Nat
  got     : Nat
  users   : List Nat
  deriving DecidableEq, Repr

/-- A port at reset. -/
def Port.reset : Port where
  txl := 0
  rxl := 0
  ack := 0
  up := false
  sess := false
  tagf := 0
  tagRun := 0
  store := []
  wire := []
  waiting := []
  rxq := []
  dma := []
  digest := none
  peer := 0
  keyGen := 0
  ctl := []
  spdm := 0
  lead := false
  sent := 0
  got := 0
  users := []

/-- A breakpoint entry (R376). -/
structure Breakpoint where
  v      : Bool
  colour : Nat
  scope  : BitVec 2
  wval   : Word
  wmask  : Word
  pc     : Word
  deriving DecidableEq, Repr

/-- A watch set (R379): the task and its four watchpoints (base, control). -/
structure WatchSet where
  colour : Nat
  wid    : Word
  wps    : Vector (Word × Word) 4
  deriving DecidableEq, Repr

/-- The machine (INVENTORY.md, State). wpBase, vlBase and vlLimit are keyed by 8 × colour + die (R189, R194);
`shadow` is the shadow storage, with one switched-out image for each core, and `moved` the images that the firmware has moved to vault memory,
both by 2,048 × colour + core (R365); `owed` lists the accesses of a thread that stand before a contribution counted on a cell, by the word of the
cell's notice, the thread and the contribution's access (R316, R318). lkBoot lists the boot status of each die that has reported, by 8 × host port
+ die (R403); `owners` the colour to which the
arbiter has given each 64 KiB vault frame (R400); badMem lists sectors and badSpad words that meet an error, true for an
uncorrectable one (R212); `warm` marks a reset that kept power (R389); `firmware` counts the replacements of the arbiters' image, which
the measurements follow (R397, R399). `agenda`, `cur`, `issue`, `cls`, `focus`, `free` and
`uid` are the model's own (notes/assumptions/1.md, 5.md, 11.md). -/
structure State where
  mem      : List Host.Cell
  net      : List Msg
  cores    : List (Nat × Core)
  clusters : List (Nat × Cluster)
  dies     : List (Nat × Die)
  colours  : List (Nat × Colour)
  wpBase   : List (Nat × Word)
  vlBase   : List (Nat × Word)
  vlLimit  : List (Nat × Word)
  launches : List (Nat × Launch)
  parts    : List (Nat × Partition)
  shadow   : List (Nat × Core)
  moved    : List (Nat × Core)
  saved    : List (Nat × Core)
  ports    : List (Nat × Port)
  breaks   : List (Nat × Breakpoint)
  watches  : List WatchSet
  owners   : List (Nat × Nat)
  badMem   : List (Nat × Bool)
  badSpad  : List (Nat × Bool)
  owed     : List (Word × Nat × Nat)
  powered  : Bool
  warm     : Bool
  lkBoot   : List (Nat × Nat)
  boots    : Nat
  firmware : Nat
  frozen   : Bool
  agenda   : List Instr
  cur      : SlotRef
  issue    : List Instr
  cls      : SlotClass
  focus    : Nat
  free     : Nat
  uid      : Nat
  deriving DecidableEq, Repr

/-- The package right after reset: nothing powered up, every core stopped, memory with nothing listed. -/
def State.reset : State where
  mem := []
  net := []
  cores := []
  clusters := []
  dies := []
  colours := []
  wpBase := []
  vlBase := []
  vlLimit := []
  launches := []
  parts := []
  shadow := []
  moved := []
  saved := []
  ports := []
  breaks := []
  watches := []
  owners := []
  badMem := []
  badSpad := []
  owed := []
  powered := false
  warm := false
  lkBoot := []
  boots := 0
  firmware := 0
  frozen := false
  agenda := []
  cur := ⟨0, 0⟩
  issue := []
  cls := .vacant
  focus := 0
  free := 0
  uid := 0

/-- Reasons the machine stops. -/
inductive Fault where
  /-- Raised by `step` for any move but RESET while the clocks are frozen (R390). Safe: the package does nothing then. -/
  | clockFrozen
  deriving DecidableEq, Repr

/-- Reasons a step has no meaning. -/
inductive Refusal where
  /-- Raised by exec's arm of an instruction that is not modelled yet. Safe: the run ends. -/
  | notModelled (mnemonic : String)
  /-- Raised by an event named in a state in which its rule does not let it happen. Safe: nothing is claimed of it. -/
  | notEnabled (mnemonic : String)
  /-- Raised by an instruction when the current barrel slot holds no thread to execute it. Safe: no step reaches it. -/
  | noThread
  deriving DecidableEq, Repr

end Sys2Proof.Machine
end

