-- ==== Sys2Proof/Machine/Num.lean ====
section
/-! DEFINITION. The number formats of spec/03_formats.md: rounding, binary32 and bfloat16, the planar G family, codebook-4,
wide scales and exact lanes, each from an exact number. -/
namespace Sys2Proof.Machine
open Sys2Proof

/-- Rounding modes, coded as in R48. -/
inductive Rnd where
  | rne | rtz | rup | rdn
  deriving DecidableEq, Repr

/-- The mode of a two-bit code (R48). -/
def rndOf (b : BitVec 2) : Rnd :=
  match b.toNat with
  | 0 => .rne
  | 1 => .rtz
  | 2 => .rup
  | _ => .rdn

/-- n / 2^sh rounded to an integer, the number having the sign `neg` (R65). -/
def roundShift (r : Rnd) (neg : Bool) (n sh : Nat) : Nat :=
  let q := n >>> sh
  let rem := n - (q <<< sh)
  let up := match r with
    | .rne => decide (2 ^ sh < 2 * rem) || (decide (2 * rem = 2 ^ sh) && decide (q % 2 = 1))
    | .rtz => false
    | .rup => !neg && decide (rem ≠ 0)
    | .rdn => neg && decide (rem ≠ 0)
  if up then q + 1 else q

/-- n × 2^e in units of 2^q, rounded to an integer. -/
def roundTo (r : Rnd) (neg : Bool) (n : Nat) (e q : Int) : Nat :=
  if q ≤ e then n <<< (e - q).toNat else roundShift r neg n (q - e).toNat

/-- The signed integer of a sign and a magnitude. -/
def signed (neg : Bool) (n : Nat) : Int := if neg then -(n : Int) else n

/-- The exact number of a signed integer times 2^e; a zero is +0. -/
def xOfInt (v : Int) (e : Int) : XNum := .fin (decide (v < 0)) v.natAbs e

/-- n × 2^e, negative if `neg`, rounded to an IEEE format with an 8-bit exponent and `fb` fraction bits (R65, R67, R68): the
bit pattern. -/
def packFloat (fb : Nat) (r : Rnd) (sat neg : Bool) (n : Nat) (e : Int) : Nat :=
  let sign := if neg then 2 ^ (fb + 8) else 0
  if n = 0 then sign else
    let top : Int := (Nat.log2 n : Int) + e
    let q : Int := max (top - fb) (-126 - (fb : Int))
    let body := (q + 126 + fb).toNat * 2 ^ fb + roundTo r neg n e q
    let inf := 255 * 2 ^ fb
    let toFinite := sat || (match r with | .rne => false | .rtz => true | .rup => neg | .rdn => !neg)
    sign + (if body < inf then body else if toFinite then inf - 1 else inf)

/-- An exact number rounded once to binary32 (R65, R67, R173): a NaN keeps its sign and payload [21:0] with bit 22 set. -/
def f32Of (r : Rnd) (sat : Bool) : XNum → Lane
  | .fin s n e => BitVec.ofNat 32 (packFloat 23 r sat s n e)
  | .inf s => if s then 0xFF800000 else 0x7F800000
  | .nan s p => (if s then 0xFFC00000 else 0x7FC00000) ||| (p.setWidth 22).setWidth 32

/-- The exact value of a binary32 (R65): a NaN's payload is bits [21:0]. -/
def f32Val (b : Lane) : XNum :=
  let s := b.getLsbD 31
  let e : Nat := (b.toNat / 2 ^ 23) % 256
  let f : Nat := b.toNat % 2 ^ 23
  if e = 255 then (if f = 0 then .inf s else .nan s (BitVec.ofNat 24 (f % 2 ^ 22)))
  else if e = 0 then .fin s f (-149)
  else .fin s (2 ^ 23 + f) ((e : Int) - 150)

/-- The bfloat16 of an exact number (R68): a binary32 payload's bits [21:16] become bits [5:0]. -/
def bf16Of (r : Rnd) (sat : Bool) : XNum → BitVec 16
  | .fin s n e => BitVec.ofNat 16 (packFloat 7 r sat s n e)
  | .inf s => if s then 0xFF80 else 0x7F80
  | .nan s p => (if s then 0xFFC0 else 0x7FC0) ||| (BitVec.ofNat 16 (p.toNat / 2 ^ 16 % 64))

/-- The exact value of a bfloat16 (R68). -/
def bf16Val (b : BitVec 16) : XNum :=
  match f32Val (b.setWidth 32 <<< 16) with
  | .nan s p => .nan s p
  | x => x

/-- A NaN bit pattern of binary32. -/
def f32IsNan (b : Lane) : Bool := decide (0x7F800000 < (b.toNat % 2 ^ 31))

/-- A signalling NaN of binary32: bit 22 clear. -/
def f32IsSnan (b : Lane) : Bool := f32IsNan b && !b.getLsbD 22

/-- R66: sign and payload bits [21:0] kept, bit 22 set. -/
def quieten (b : Lane) : Lane := b ||| 0x400000

/-- nan_prop of R66 and R98: the first NaN operand, quietened. -/
def nanProp (ops : List Lane) : Option Lane := (ops.find? f32IsNan).map quieten

/-- event_payload of R98: the code in [21:16] and the origin of R72 in [15:0]. -/
def eventPayload (code : Nat) (origin : BitVec 16) : BitVec 24 :=
  BitVec.ofNat 24 (code % 64 * 2 ^ 16) ||| origin.setWidth 24

/-- The event NaN of R70 in binary32. -/
def eventNan (code : Nat) (origin : BitVec 16) : Lane := 0x7FC00000 ||| (eventPayload code origin).setWidth 32

/-- An infinite exact number. -/
def XNum.isInf : XNum → Bool
  | .inf _ => true
  | _ => false

/-- A zero exact number. -/
def XNum.isZero : XNum → Bool
  | .fin _ n _ => n == 0
  | _ => false

/-- A NaN. -/
def XNum.isNan : XNum → Bool
  | .nan _ _ => true
  | _ => false

/-- The sign of an exact number. -/
def XNum.sign : XNum → Bool
  | .fin s _ _ => s
  | .inf s => s
  | .nan s _ => s

/-- The sign inverted. -/
def xNeg : XNum → XNum
  | .fin s n e => .fin (!s) n e
  | .inf s => .inf (!s)
  | .nan s p => .nan (!s) p

/-- A finite number in units of 2^q (q at or below its exponent). -/
def xUnits (q : Int) : XNum → Int
  | .fin s n e => signed s (n <<< (e - q).toNat)
  | _ => 0

/-- The exact sum, no operand a NaN and no infinities of opposite sign; an exact zero has IEEE 754's sign (R65). -/
def xAdd (r : Rnd) : XNum → XNum → XNum
  | .fin s n e, .fin s' n' e' =>
    let q := min e e'
    let t := xUnits q (.fin s n e) + xUnits q (.fin s' n' e')
    if t = 0 then .fin (if s = s' then s else decide (r = .rdn)) 0 0 else xOfInt t q
  | .fin _ _ _, y => y
  | x, _ => x

/-- The exact product, no operand a NaN and no zero times infinity. -/
def xMul : XNum → XNum → XNum
  | .fin s n e, .fin s' n' e' => .fin (xor s s') (n * n') (e + e')
  | x, y => .inf (xor x.sign y.sign)

/-- x ≤ y for finite and infinite numbers, −0 and +0 equal. -/
def xLe : XNum → XNum → Bool
  | .fin s n e, .fin s' n' e' => decide (xUnits (min e e') (.fin s n e) ≤ xUnits (min e e') (.fin s' n' e'))
  | .fin _ _ _, y => !y.sign
  | .inf s, .inf s' => s || !s'
  | x, _ => x.sign

/-- x rounded to an integer (`round(rnd, x, integer)`, R98); 0 for what is not finite. -/
def xRoundInt (r : Rnd) : XNum → Int
  | .fin s n e => signed s (roundTo r s n e 0)
  | _ => 0

/-- n / d with enough bits below binary32's for one later rounding: the quotient of n × 2^60 by d, and a last bit that is 1
when the division is inexact. The exponent falls by 61. -/
def divSticky (n d : Nat) : Nat :=
  let m := n <<< 60
  2 * (m / d) + (if m % d = 0 then 0 else 1)

/-- Newton's iteration for the integer square root, from above. -/
def isqrtGo (n : Nat) : Nat → Nat → Nat
  | 0, x => x
  | fuel + 1, x => let y := (x + n / x) / 2; if x ≤ y then x else isqrtGo n fuel y

/-- The integer part of the square root. -/
def isqrt (n : Nat) : Nat := if n = 0 then 0 else isqrtGo n 64 (2 ^ (Nat.log2 n / 2 + 1))

/-- √(n × 2^e) as an exact number with a sticky last bit. -/
def xSqrt (n : Nat) (e : Int) : XNum :=
  let m := if e % 2 = 0 then n else 2 * n
  let e' := if e % 2 = 0 then e else e - 1
  let r := isqrt (m <<< 80)
  .fin false (2 * r + (if r * r = m <<< 80 then 0 else 1)) (e' / 2 - 41)

/-- 1 / √(n × 2^e) as an exact number with a sticky last bit, n nonzero. -/
def xRsqrt (n : Nat) (e : Int) : XNum :=
  let m := if e % 2 = 0 then n else 2 * n
  let e' := if e % 2 = 0 then e else e - 1
  let r := isqrt (2 ^ 120 / m)
  .fin false (2 * r + (if r * r * m = 2 ^ 120 then 0 else 1)) (-60 - e' / 2 - 1)

/-- The product of 2^(2^−i) over the bits i = 1, 2, … of `bits`, in units of 2^−192, each factor the integer square root of
the one before. -/
def exp2Go : List Bool → Nat → Nat → Nat
  | [], _, acc => acc
  | b :: rest, s, acc =>
    let s' := isqrt (s <<< 192)
    exp2Go rest s' (if b then (acc * s') >>> 192 else acc)

/-- 2^a for 0 < |a| < 1 as an exact number with a sticky last bit (R156): a = ±n × 2^e. 2^a is irrational, so the last bit is
1; for |a| < 2^−30 the value lies between 1 and its neighbour (notes/assumptions/20.md). -/
def xExp2 (s : Bool) (n : Nat) (e : Int) : XNum :=
  if (Nat.log2 n : Int) + e < -30 then .fin false (if s then 2 ^ 40 - 1 else 2 ^ 40 + 1) (-40) else
    let m := n <<< (e + 54).toNat
    let a := if s then 2 ^ 54 - m else m
    let p := exp2Go ((List.range 54).map fun i => a.testBit (53 - i)) (2 ^ 193) (2 ^ 192)
    .fin false (2 * (p >>> 32) + 1) (if s then -162 else -161)

/-! The planar G family (R75–R84). -/

/-- A residual byte as a signed integer (R75). -/
def resVal (b : Byte) : Int := b.toInt

/-- The magnitude of lead number j = 2e + m in units of 2^−55 (R76), j at most 125. -/
def leadMag (j : Nat) : Nat := if j < 2 then j * 2 ^ 24 else (2 + j % 2) * 2 ^ (j / 2 + 23)

/-- The exponent of unit3 of lead number j in units of 2^−55: E + 30 (R77). -/
def leadUnit (j : Nat) : Nat := max (j / 2) 1 - 1

/-- read_g(p) of R77 and R78: p is the number of bytes given, the lead first. -/
def readG : List Byte → XNum
  | [] => .fin false 0 0
  | b0 :: rest =>
    let s := b0.getLsbD 7
    let j := b0.toNat % 128
    if j = 126 then .inf s
    else if j = 127 then
      .nan s (BitVec.ofNat 24 (((rest.getD 0 0).toNat * 2 ^ 8 + (rest.getD 1 0).toNat) * 2 ^ 8 + (rest.getD 2 0).toNat))
    else
      let r := resVal (rest.getD 0 0) * 65536 + resVal (rest.getD 1 0) * 256 + resVal (rest.getD 2 0)
      let v := signed s (leadMag j) + r * 2 ^ leadUnit j
      if v = 0 then .fin s 0 (-55) else xOfInt v (-55)

/-- The number of the lead of smaller magnitude, and its step: a truncating read of p planes from the p + 1 given (R84). -/
def readGTrunc (p : Nat) (bs : List Byte) : XNum :=
  let a := readG (bs.take p)
  let b := readG (bs.take (p + 1))
  match a, b with
  | .fin s n _, .fin _ n' _ =>
    if n ≤ n' then a else
      let j := (bs.getD 0 0).toNat % 128
      let m := if p = 1 then leadMag (j - 1) else n - 2 ^ (leadUnit j + 16)
      .fin s m (-55)
  | _, _ => a

/-- The largest lead number with magnitude at most n × 2^e, at most 125. -/
def leadFloor (n : Nat) (e : Int) : Nat :=
  if n = 0 then 0 else
    let t : Int := (Nat.log2 n : Int) + e
    if t < -31 then 0 else if t = -31 then 1 else
      let m := if n.testBit (Nat.log2 n - 1) && decide (Nat.log2 n ≠ 0) then 1 else 0
      min 125 ((t + 31).toNat * 2 + m)

/-- GMAX in units of 2^−55 (R82). -/
def gmax : Nat := 3755990976 * 2 ^ 55

/-- The four bytes of lead number j, sign s, and D in units of unit3 (R79). -/
def gBytes (s : Bool) (j : Nat) (d : Int) : Lane :=
  let r1 := (d + 32896) / 65536
  let t := d - 65536 * r1
  let r2 := (t + 128) / 256
  let r3 := t - 256 * r2
  BitVec.ofNat 32 (((if s then 128 else 0) + j) + (r1 % 256).toNat * 2 ^ 8 + (r2 % 256).toNat * 2 ^ 16
    + (r3 % 256).toNat * 2 ^ 24)

/-- overflow_g of R82. -/
def overflowG (r : Rnd) (sat s : Bool) : Lane :=
  let toFinite := sat || (match r with | .rne => false | .rtz => true | .rup => s | .rdn => !s)
  if toFinite then gBytes s 125 (if s then -8355711 else 8355711) else gBytes s 126 0

/-- D of R79: (x − L) / unit3(L) rounded, for the lead number j with the sign of x. -/
def gD (r : Rnd) (s : Bool) (n : Nat) (e : Int) (j : Nat) : Int :=
  let q := min e (-55)
  let diff := signed s (n <<< (e - q).toNat) - signed s (leadMag j <<< (-55 - q).toNat)
  signed (decide (diff < 0)) (roundTo r (decide (diff < 0)) diff.natAbs q ((leadUnit j : Int) - 55))

/-- encode_g of R79, R82, R173 in the packed lane form of R169: four planes. A magnitude below 2^−56 is a signed zero (R82). -/
def encodeG (r : Rnd) (sat : Bool) : XNum → Lane
  | .nan s p => gBytes s 127 0 ||| (BitVec.ofNat 32
      (p.toNat / 2 ^ 16 * 2 ^ 8 + p.toNat / 2 ^ 8 % 256 * 2 ^ 16 + p.toNat % 256 * 2 ^ 24))
  | .inf s => gBytes s 126 0
  | .fin s n e =>
    if n = 0 ∨ (Nat.log2 n : Int) + e < -56 then gBytes s 0 0
    else if 40 < (Nat.log2 n : Int) + e then overflowG r sat s
    else
      let j0 := leadFloor n e
      let q := min e (-56)
      let lo := leadMag j0 <<< (-55 - q).toNat
      let hi := leadMag (j0 + 1) <<< (-55 - q).toNat
      let two := 2 * (n <<< (e - q).toNat)
      let up := decide (j0 < 125) && (decide (lo + hi < two) || (decide (lo + hi = two) && !s))
      let j := if up then j0 + 1 else j0
      let d := gD r s n e j
      if 8355711 < d ∧ s = false ∧ j = 125 then overflowG r sat s
      else
        let j' := if 8355711 < d then (if s then j - 1 else j + 1) else j
        let d' := if 8355711 < d then gD r s n e j' else d
        if (gmax : Int) < (signed s (leadMag j') + d' * 2 ^ leadUnit j').natAbs then overflowG r sat s
        else gBytes s j' d'

/-- Plane k of a packed lane (R169). -/
def plane (k : Nat) (x : Lane) : Byte := BitVec.ofNat 8 (x.toNat / 2 ^ (8 * k))

/-- The first p planes of a packed lane, the others zero (R169). -/
def keepPlanes (p : Nat) (x : Lane) : Lane := BitVec.ofNat 32 (x.toNat % 2 ^ (8 * p))

/-- The four planes of a packed lane. -/
def planes (p : Nat) (x : Lane) : List Byte := (List.range p).map fun k => plane k x

/-- A packed lane from plane bytes, missing ones zero. -/
def packPlanes (bs : List Byte) : Lane :=
  BitVec.ofNat 32 ((bs.getD 0 0).toNat + (bs.getD 1 0).toNat * 2 ^ 8 + (bs.getD 2 0).toNat * 2 ^ 16
    + (bs.getD 3 0).toNat * 2 ^ 24)

/-! Codebook-4 (R85–R88). -/

/-- The numerator c_i of level i over 128 (R85). -/
def cbLevel (i : Nat) : Int :=
  [-127, -93, -70, -52, -37, -24, -12, 0, 11, 22, 34, 47, 62, 80, 101, 127].getD i 0

/-- The number of level boundaries that `above` says the value reaches: round_cb4 of R88, where `above t` says that the value
is at least t/256. -/
def roundCb4 (above : Int → Bool) : Nat :=
  ((List.range 15).filter fun i => above (cbLevel i + cbLevel (i + 1))).length

/-- Element n of packed bytes (R86). -/
def cbIndex (byteAt : Nat → Byte) (n : Nat) : Nat :=
  if n % 2 = 0 then (byteAt (n / 2)).toNat % 16 else (byteAt (n / 2)).toNat / 16

/-! Wide scales (R89, R90). -/

/-- wide_scale(S_A, b_A, S_B, b_B): words 0 and 1 (R89), the special cases settled in the order of R90. -/
def wideScale (sa : Lane) (ba : Nat) (sb : Lane) (bb : Nat) (origin : BitVec 16) : Word × Word :=
  let nanWord (s : Lane) : Word × Word :=
    (BitVec.ofNat 64 (2 ^ 22 + s.toNat % 2 ^ 22), (if s.getLsbD 31 then 3 else 1) <<< 62)
  if f32IsNan sa then nanWord sa
  else if f32IsNan sb then nanWord sb
  else if ba = 0 ∨ bb = 0 then (0, 0)
  else
    let x := f32Val sa
    let y := f32Val sb
    let s := xor x.sign y.sign
    if (x.isInf && y.isZero) || (y.isInf && x.isZero) then
      (BitVec.ofNat 64 (2 ^ 22 + (eventPayload 2 origin).toNat), 1 <<< 62)
    else if x.isInf || y.isInf then (0, (if s then 3 else 1) <<< 62)
    else if x.isZero || y.isZero then (0, 0)
    else match x, y with
      | .fin _ n e, .fin _ n' e' =>
        (BitVec.ofNat 64 (n * ba * n' * bb), (BitVec.ofInt 16 (e + e' - 16)).setWidth 64 ||| (if s then 1 <<< 63 else 0))
      | _, _ => (0, 0)

/-- The value of a wide scale's two words (R89). -/
def wideVal (w0 w1 : Word) : XNum :=
  let s := w1.getLsbD 63
  if w1.getLsbD 62 then (if w0 = 0 then .inf s else .nan s (BitVec.ofNat 24 (w0.toNat % 2 ^ 22)))
  else .fin s w0.toNat (w1.setWidth 16).toInt

/-! Exact lanes (R91–R95). -/

/-- A number as a contribution to a lane (R93); finite numbers are multiples of 2^−128. -/
def laneOf : XNum → XLane
  | .fin s n e => ⟨signed s (n <<< (e + 128).toNat), 0, 0⟩
  | .inf s => ⟨0, if s then 2 else 1, if s then 2 else 1⟩
  | .nan _ p => ⟨(p.toNat : Int), 3, 0⟩

/-- The greater of the NaN payloads of two lanes (R93). -/
def nanMax (a b : XLane) : Int := max (if a.tag = 3 then a.val else 0) (if b.tag = 3 then b.val else 0)

/-- exact_add of R93 for a contribution or a migrated partial, and whether it created the event of code 0x01. `origin` is that of the contribution
being added, also where seen is 0b11 already: R93 takes event_payload(0x01) in the maximum then too and names no origin for it (DESIGN CHOICE,
notes/assumptions/16.md). The last branch leaves the tag as it was; that R93 goes so on a word never cleared, infinite with seen 00, is the model's
reading of R303, which states no response there (DESIGN CHOICE, notes/assumptions/101.md). -/
def exactAdd (origin : BitVec 16) (l c : XLane) : XLane × Bool :=
  let seen := l.seen ||| (if c.tag = 1 then 1 else 0) ||| (if c.tag = 2 then 2 else 0) ||| c.seen
  let created := decide (seen = 3 ∧ l.seen ≠ 3 ∧ c.seen ≠ 3)
  if c.tag = 3 ∨ l.tag = 3 ∨ seen = 3 then
    let p := nanMax l c
    (⟨if seen = 3 then max p ((eventPayload 1 origin).toNat : Int) else p, 3, seen⟩, created)
  else if seen = 1 then (⟨0, 1, seen⟩, created)
  else if seen = 2 then (⟨0, 2, seen⟩, created)
  else (⟨l.val + c.val, l.tag, seen⟩, created)

/-- The lane's exact value is outside the range of R91. -/
def laneOut (l : XLane) : Bool := l.tag == 0 && (decide (2 ^ 199 ≤ l.val) || decide (l.val < -(2 ^ 199)))

/-- The range check of R94 at a command's completion, and whether it created an event. -/
def laneCheck (origin : BitVec 16) (l : XLane) : XLane × Bool :=
  if laneOut l then exactAdd origin l (laneOf (.inf (decide (l.val < 0)))) else (l, false)

/-- The exact number a lane holds (R91, R95); a zero is +0. -/
def laneVal (l : XLane) : XNum :=
  if l.tag = 3 then .nan false (BitVec.ofNat 24 l.val.toNat)
  else if l.tag = 1 then .inf false
  else if l.tag = 2 then .inf true
  else xOfInt l.val (-128)

/-- A product of two operands as a contribution (R92), and whether it created the event of code 0x02. -/
def xProduct (origin : BitVec 16) (a b : XNum) : XNum × Bool :=
  match a, b with
  | .nan _ p, .nan _ p' => (.nan false (if p.toNat < p'.toNat then p' else p), false)
  | .nan _ p, _ => (.nan false p, false)
  | _, .nan _ p => (.nan false p, false)
  | a, b =>
    if (a.isInf && b.isZero) || (a.isZero && b.isInf) then (.nan false (eventPayload 2 origin), true)
    else (xMul a b, false)

/-! Integers (R63, R64). -/

/-- Width in bits and signedness of an integer type (R63); others have none. -/
def tyInt : Ty → Option (Nat × Bool)
  | .s8 => some (8, true)
  | .s16 => some (16, true)
  | .s32 => some (32, true)
  | .s64 => some (64, true)
  | .z8 => some (8, false)
  | .z16 => some (16, false)
  | .z32 => some (32, false)
  | .z64 => some (64, false)
  | _ => none

/-- The least and greatest value of an n-bit integer type (R63). -/
def intMin (n : Nat) (sg : Bool) : Int := if sg then -(2 ^ (n - 1)) else 0
def intMax (n : Nat) (sg : Bool) : Int := if sg then 2 ^ (n - 1) - 1 else 2 ^ n - 1

/-- wrap_to of R98: the low n bits, as the value of the type. -/
def wrapTo (n : Nat) (sg : Bool) (x : Int) : Int :=
  let m := x % 2 ^ n
  if sg && decide (2 ^ (n - 1) ≤ m) then m - 2 ^ n else m

/-- sat_to of R98. -/
def satTo (n : Nat) (sg : Bool) (x : Int) : Int := max (intMin n sg) (min (intMax n sg) x)

/-- The value of the low n bits of a word as an integer of the type (R63). -/
def intVal (n : Nat) (sg : Bool) (x : Nat) : Int := wrapTo n sg (x : Int)

/-- An integer as a 64-bit word: sign-extended or zero-extended as its value is (R63). -/
def intWord (x : Int) : Word := BitVec.ofInt 64 x

/-- An exact number as an integer of n bits, rounded then saturated, NaN and infinities by R74. -/
def xToIntSat (r : Rnd) (n : Nat) (sg : Bool) (x : XNum) : Int :=
  match x with
  | .nan _ _ => 0
  | .inf s => if s then intMin n sg else intMax n sg
  | x => satTo n sg (xRoundInt r x)

end Sys2Proof.Machine
end

