-- ==== Sys2Proof/Machine/Ops.lean ====
section
/-! DEFINITION. The named operations every meaning is written over: reading and replacing parts of the state, the turn of a
thread, free values, the event recorder, and taking a trap and returning from one (spec/15_traps_preemption.md R359–R364). -/
namespace Sys2Proof.Machine
open Sys2Proof

/-- Bits [lo + n − 1 : lo] of a word. -/
def wbits (w : Word) (lo n : Nat) : Nat := w.toNat / 2 ^ lo % 2 ^ n

/-! Parts of the state. -/

def State.core (s : State) (g : Nat) : Core := smapGet Core.reset s.cores g
def State.setCore (s : State) (g : Nat) (c : Core) : State := { s with cores := smapPut s.cores g c }
def State.cluster (s : State) (k : Nat) : Cluster := smapGet Cluster.reset s.clusters k
def State.setCluster (s : State) (k : Nat) (c : Cluster) : State := { s with clusters := smapPut s.clusters k c }
def State.die (s : State) (d : Nat) : Die := smapGet Die.reset s.dies d
def State.setDie (s : State) (d : Nat) (x : Die) : State := { s with dies := smapPut s.dies d x }
def State.colour (s : State) (k : Nat) : Colour := smapGet Colour.reset s.colours k
def State.setColour (s : State) (k : Nat) (x : Colour) : State := { s with colours := smapPut s.colours k x }
def State.launch? (s : State) (l : Nat) : Option Launch := smapFind s.launches l
def State.setLaunch (s : State) (l : Nat) (x : Launch) : State := { s with launches := smapPut s.launches l x }
def State.port (s : State) (p : Nat) : Port := smapGet Port.reset s.ports p
def State.setPort (s : State) (p : Nat) (x : Port) : State := { s with ports := smapPut s.ports p x }

/-- The die of a core, its number on the die, its row and column (R14). -/
def dieOf (g : Nat) : Nat := g / 256
def numOf (g : Nat) : Nat := g % 256
def rowOf (g : Nat) : Nat := numOf g / 16
def colOf (g : Nat) : Nat := g % 16

/-- The cluster of a core, as 16 × die + k (R14). -/
def clusterOf (g : Nat) : Nat := 16 * dieOf g + 4 * (rowOf g / 4) + colOf g / 4

/-- The index of a core within its cluster, 0 to 15 by row and column (R382). -/
def indexOf (g : Nat) : Nat := 4 * (rowOf g % 4) + colOf g % 4

/-- The core of an index within a cluster (R14). -/
def coreAt (k idx : Nat) : Nat :=
  256 * (k / 16) + 16 * (4 * (k % 16 / 4) + idx / 4) + 4 * (k % 4) + idx % 4

/-- The cores of a cluster in order of their number. -/
def clusterCores (k : Nat) : List Nat := (List.range 16).map (coreAt k)

/-- The thread of a barrel slot. -/
def Core.thread (c : Core) (slot : Nat) : Option Thread := (c.threads.toList.getD slot none)

/-- A barrel slot given a thread or freed. -/
def Core.setThread (c : Core) (slot : Nat) (t : Option Thread) : Core :=
  { c with threads := c.threads.setIfInBounds slot t }

def State.thread (s : State) (g slot : Nat) : Option Thread := (s.core g).thread slot
def State.setThread (s : State) (g slot : Nat) (t : Option Thread) : State := s.setCore g ((s.core g).setThread slot t)

/-- The slot of the thread named `tid` in a list of slots, from slot k. -/
def slotOfTid (tid : Nat) : List (Option Thread) → Nat → Option Nat
  | [], _ => none
  | none :: rest, k => slotOfTid tid rest (k + 1)
  | some t :: rest, k => if t.tid = tid then some k else slotOfTid tid rest (k + 1)

/-- The barrel slot that holds the thread named `tid` (en passant forwarding finds a thread wherever it is: R345, R348). -/
def findTid (tid : Nat) : List (Nat × Core) → Option SlotRef
  | [] => none
  | (g, c) :: rest =>
    match slotOfTid tid c.threads.toList 0 with
    | some k => some ⟨g, k⟩
    | none => findTid tid rest

def State.findTid (s : State) (tid : Nat) : Option SlotRef := Machine.findTid tid s.cores

/-- A thread that has no slot now changed by a function of it: in a context on its way or in an arrival place (R202), switched out
(R367), or saved with its round (R341). -/
def State.onMoving (s : State) (tid : Nat) (f : Thread → Thread) : State :=
  let g (t : Thread) : Thread := if t.tid = tid then f t else t
  { s with
    net := s.net.map fun m => match m with
      | .context t a b c k => .context (g t) a b c k
      | m => m
    cores := s.cores.map fun e => (e.1, { e.2 with arrivals := e.2.arrivals.map g })
    shadow := s.shadow.map fun e => (e.1, { e.2 with threads := e.2.threads.map (Option.map g), arrivals := e.2.arrivals.map g })
    moved := s.moved.map fun e => (e.1, { e.2 with threads := e.2.threads.map (Option.map g), arrivals := e.2.arrivals.map g })
    saved := s.saved.map fun e => (e.1, { e.2 with threads := e.2.threads.map (Option.map g), arrivals := e.2.arrivals.map g }) }

/-- A thread replaced where it stands by a function of it, be it in a slot or on its way to one. -/
def State.onTid (s : State) (tid : Nat) (f : Thread → Thread) : State :=
  match s.findTid tid with
  | none => s.onMoving tid f
  | some r =>
    match s.thread r.g r.slot with
    | none => s
    | some t => s.setThread r.g r.slot (some (f t))

/-- A message sent. -/
def State.send (s : State) (m : Msg) : State := { s with net := s.net ++ [m] }

/-- The message numbered k taken from the fabric. -/
def State.takeMsg (s : State) (k : Nat) : State := { s with net := s.net.eraseIdx k }

/-- A fresh name for a thread, an access or a copy (notes/assumptions/11.md). -/
def State.bumpUid (s : State) : State := { s with uid := s.uid + 1 }

/-- A free value used up (notes/assumptions/5.md). -/
def State.bumpFree (s : State) : State := { s with free := s.free + 1 }

/-- A v register of undefined lanes (R49, R329). -/
def freeVReg (n : Nat) : VReg := Vector.ofFn fun i => Config.freeLane n i.val

/-! Launch headers (R326) and logical cores (R328). -/

def Launch.word (l : Launch) (i : Nat) : Nat := (l.hdr.getD i 0).toNat
def Launch.lr (l : Launch) : Nat := l.word 6 % 16
def Launch.lc (l : Launch) : Nat := l.word 6 / 16 % 16
def Launch.det (l : Launch) : Bool := (l.word 4).testBit 21
def Launch.castl (l : Launch) : Bool := (l.word 4).testBit 22
def Launch.reiss (l : Launch) : Bool := (l.word 4).testBit 23
def Launch.steal (l : Launch) : Bool := (l.word 4).testBit 24
def Launch.vbank (l : Launch) : Nat := l.word 6 / 2 ^ 8 % 2 ^ 13
def Launch.unplaced (l : Launch) : Bool := l.lr == 0 && l.lc == 0
def Launch.width (l : Launch) (k : Nat) : Nat := l.word 3 / 2 ^ (7 * k) % 128
def Launch.lcore (l : Launch) (team : Nat) : Nat := team % 2 ^ (l.lr + l.lc)

/-- The physical core of a logical core of a placed launch (R328). -/
def Launch.phys (l : Launch) (lcore : Nat) : Nat := l.map.getD lcore 0

/-- The logical core at which a thread of a launch executes on core g (R110, R202): its team's where that maps to g, otherwise the
lowest that does; none for an unplaced launch, or on a core to which the launch maps none, where the core is its own single
neighbour (DEDUCED, notes/assumptions/24.md). -/
def Launch.logicalOn (l : Launch) (g team : Nat) : Option Nat :=
  if l.unplaced then none
  else if l.phys (l.lcore team) = g then some (l.lcore team)
  else l.map.findIdx? fun p => p == g

/-- The logical neighbour in direction n0 north, n1 east, n2 south, n3 west (R110). -/
def Launch.neighbour (l : Launch) (lcore dir : Nat) : Nat :=
  let rows := 2 ^ l.lr
  let cols := 2 ^ l.lc
  let r := lcore / cols
  let c := lcore % cols
  match dir with
  | 0 => (r + rows - 1) % rows * cols + c
  | 1 => r * cols + (c + 1) % cols
  | 2 => (r + 1) % rows * cols + c
  | _ => r * cols + (c + cols - 1) % cols

/-- The logical cluster of a logical core of V1 (R339). -/
def logicalCluster (lcore : Nat) : Nat := 8 * (lcore / 128) + lcore % 32 / 4

/-- The thread's launch has det set (R339). -/
def State.det (s : State) (t : Thread) : Bool := ((s.launch? t.launch).map Launch.det).getD false

/-! The event recorders (R382–R389). -/

/-- The class bit of a record type (R383); none for the types that are always kept. -/
def classBit (ty : Nat) : Option Nat :=
  if 0x80 ≤ ty then some 0
  else match ty with
    | 0x01 => some 1
    | 0x02 => some 2
    | 0x03 => some 2
    | 0x04 => some 3
    | 0x05 => some 3
    | 0x06 => some 4
    | 0x07 => some 4
    | 0x08 => some 6
    | 0x09 => some 5
    | 0x0A => some 5
    | 0x0B => some 4
    | _ => none

/-- The record types a black box keeps (R389). -/
def blackBoxKeeps (ty : Nat) : Bool :=
  ty == 1 || ty == 2 || ty == 3 || ty == 6 || ty == 7 || ty == 0x0B || ty == 0x0F || ty == 0x10

/-- A record (R382): cycle count, type, slot, core index, colour. -/
def mkRec (cyc ty slot idx colour : Nat) (wid pc payload : Word) : TraceRec :=
  ⟨BitVec.ofNat 64 (cyc % 2 ^ 40 + 2 ^ 40 * ty + 2 ^ 48 * (slot % 16) + 2 ^ 52 * (idx % 16) + 2 ^ 56 * (colour % 32)), wid, pc,
    payload⟩

/-- The place of a record within its cycle: core index, then barrel slot (R385). -/
def TraceRec.place (r : TraceRec) : Nat := 16 * wbits r.w0 52 4 + wbits r.w0 48 4

/-- A record added to a buffer, before the records of its cycle that stand after it in the order of R385; a freeze record is the last. -/
def recInsert (rs : List TraceRec) (r : TraceRec) : List TraceRec :=
  if wbits r.w0 40 8 = 0x10 then rs ++ [r]
  else
    let later := rs.reverse.takeWhile fun x => wbits x.w0 0 40 == wbits r.w0 0 40 && decide (r.place < x.place)
    rs.take (rs.length - later.length) ++ r :: later.reverse

/-- A record written now is kept: there is room, or with `ring` the oldest is overwritten (R382, R384). -/
def Cluster.writable (k : Cluster) : Bool := decide (k.recs.length < 2048) || k.tcCtl.getLsbD 17

/-- A record put in a recorder's buffer of 2,048 (R382, R384): with `ring` the oldest is overwritten, otherwise a record that
finds the buffer full is dropped and counted. -/
def Cluster.put (k : Cluster) (r : TraceRec) : Cluster :=
  if k.recs.length < 2048 then { k with recs := recInsert k.recs r }
  else if k.tcCtl.getLsbD 17 then { k with recs := recInsert (k.recs.drop 1) r }
  else { k with dropped := k.dropped + 1 }

/-- The loss record due before the next record written (R387). -/
def Cluster.lossDue (k : Cluster) (cyc : Nat) : Option TraceRec :=
  if k.dropped ≠ 0 ∧ k.writable = true then some (mkRec cyc 0x0F 0 0 0 0 0 (BitVec.ofNat 64 k.dropped)) else none

/-- The loss record that precedes the first record written after drops, and the epoch record after a wrap (R386, R387). -/
def Cluster.putAfter (k : Cluster) (cyc : Nat) (r : TraceRec) : Cluster :=
  let k1 := match k.lossDue cyc with
    | some l => { k.put l with dropped := 0 }
    | none => k
  let k2 := if k1.epochDue then
      { k1.put (mkRec cyc 0x0E 0 0 0 0 0 (BitVec.ofNat 64 (cyc / 2 ^ 40))) with epochDue := false } else k1
  k2.put r

/-- A ring of the last 1,024 records, those of one cycle in the order of R385 (R389). -/
def Die.putBlack (d : Die) (r : TraceRec) : Die := { d with black := (recInsert d.black r).drop (d.black.length + 1 - 1024) }

/-- A record of type `ty` of the cluster of core g, if its recorder is not frozen: into the black box of the die, with a loss
record it follows, and into the buffer if the recorder is on and the type's class enabled (R383, R389). -/
def State.trace (s : State) (g slot ty colour : Nat) (wid pc payload : Word) : State :=
  let k := s.cluster (clusterOf g)
  if k.frz then s else
    let d := s.die (dieOf g)
    let r := mkRec d.cyc ty slot (indexOf g) colour wid pc payload
    let on := k.tcCtl.getLsbD 16 && (match classBit ty with | none => true | some b => k.tcCtl.getLsbD b)
    let loss := if on then (k.lossDue d.cyc).toList else []
    let black := loss ++ (if blackBoxKeeps ty then [r] else [])
    let s1 := if black.isEmpty then s else s.setDie (dieOf g) (black.foldl Die.putBlack d)
    if on then s1.setCluster (clusterOf g) (k.putAfter d.cyc r) else s1

/-- The die's recorders are to freeze when its present cycle ends, unless a freeze is due already (R385). -/
def State.freezeDie (s : State) (die cause : Nat) : State :=
  let d := s.die die
  if d.frzDue.isSome then s else s.setDie die { d with frzDue := some (d.cyc, cause) }

/-- The black box of a die is frozen with its recorders; a record that is no cluster's is kept once one of them is unfrozen (R385, R389;
notes/assumptions/82.md). -/
def State.blackFrozen (s : State) (die : Nat) : Bool := (List.range 16).all fun i => (s.cluster (16 * die + i)).frz

/-- The cycle of a trigger has ended: the recorders of the die freeze, the freeze record being the last (R385). -/
def State.settleFreeze (s : State) (die : Nat) : State :=
  match (s.die die).frzDue with
  | none => s
  | some (_, cause) =>
    let s1 := (List.range 16).foldl (fun s i =>
      let k := 16 * die + i
      if (s.cluster k).frz then s else
        let s1 := s.trace (coreAt k 0) 0 0x10 0 0 0 (BitVec.ofNat 64 cause)
        s1.setCluster k { s1.cluster k with frz := true }) s
    s1.setDie die { s1.die die with frzDue := none }

/-- A trigger of tc.frz (R385): the die is to freeze if the bit is set. -/
def State.trigger (s : State) (die bit : Nat) : State :=
  if (s.die die).tcFrz.getLsbD bit then s.freezeDie die bit else s

/-! The flags word (R354). -/

def Thread.evt (t : Thread) : Bool := t.flags.getLsbD 0
def Thread.inh (t : Thread) : Bool := t.flags.getLsbD 1
def Thread.sup (t : Thread) : Bool := t.flags.getLsbD 2
def Thread.vec (t : Thread) : Word := t.flags &&& 0xFFFFFFFFFFFFFFC0
def Thread.setInh (t : Thread) (b : Bool) : Thread :=
  { t with flags := (t.flags &&& 0xFFFFFFFFFFFFFFFD) ||| (if b then 2 else 0) }

/-- The origin of an event NaN: the low 16 bits of the work identifier (R72). -/
def Thread.origin (t : Thread) : BitVec 16 := t.wid.setWidth 16

/-! Traps (R357–R364). -/

/-- The kind codes of R357. -/
def kindIllegal : BitVec 8 := 0x01
def kindLine : BitVec 8 := 0x02
def kindTarget : BitVec 8 := 0x03
def kindAddress : BitVec 8 := 0x04
def kindAlign : BitVec 8 := 0x05
def kindPage : BitVec 8 := 0x06
def kindPlane : BitVec 8 := 0x07
def kindTicket : BitVec 8 := 0x08
def kindDet : BitVec 8 := 0x09
def kindEvent : BitVec 8 := 0x0A
def kindCopy : BitVec 8 := 0x0B
def kindStream : BitVec 8 := 0x0C
def kindCheck : BitVec 8 := 0x0D
def kindEngine : BitVec 8 := 0x0E
def kindWatch : BitVec 8 := 0x0F
def kindBreak : BitVec 8 := 0x10
def kindSoft : BitVec 8 := 0x11

/-- A precise report (R359): tr.epc is `pc`. -/
def preciseReport (kind : BitVec 8) (detail : Nat) (pc addr : Word) : Report :=
  ⟨kind, BitVec.ofNat 8 detail, false, false, 0, 0, false, addr, 0, 0, pc, none⟩

/-- tr.eng of a unit (R359): type, die, core. -/
def engWord (ty die core : Nat) : Word := BitVec.ofNat 64 (ty + 8 * die + 64 * core)

/-- An imprecise report (R359): the unit, the pc of the command, and an address. -/
def engineReport (eng : Word) (kind : BitVec 8) (detail : Nat) (cpc addr : Word) : Report :=
  ⟨kind, BitVec.ofNat 8 detail, true, false, 0, 0, false, addr, eng, cpc, 0, none⟩

/-- tr.cause (R359). -/
def causeWord (r : Report) (ovf : Bool) (others : Nat) : Word :=
  BitVec.ofNat 64 (r.kind.toNat + 2 ^ 8 * r.detail.toNat + (if r.imp then 2 ^ 16 else 0) + (if r.fetch then 2 ^ 17 else 0)
    + (if ovf then 2 ^ 18 else 0) + 2 ^ 19 * (others % 16) + 2 ^ 23 * r.ctr.toNat + 2 ^ 26 * r.unit.toNat
    + (if r.usel then 2 ^ 28 else 0))

/-- The thread whose trap a closed window delivers next (R364). -/
def Thread.winning (t : Thread) : Bool :=
  match t.park with
  | .winner _ _ => true
  | .winnerImp _ => true
  | _ => false

/-- A thread holds back the traps of its core: a window's winner, up to its handler's end (R364). -/
def Thread.holds (t : Thread) : Bool := t.winning || (t.fromWin && t.handed.isNone)

/-- Every parked thread of a core released (R364). -/
def Core.release (c : Core) : Core :=
  { c with
    winner := c.threads.toList.any fun o => (o.map Thread.holds).getD false
    threads := c.threads.map fun o => o.map fun t =>
      match t.park with
      | .precise _ => { t with park := .none }
      | .imprecise => { t with park := .none }
      | _ => t }

/-- A thread handed to the arbiter (R362): it stops, and if it is a collection window's winner the losers are released, then and when it is resumed. -/
def State.handOver (s : State) (g slot : Nat) (t : Thread) (r : Report) : State :=
  let held := t.fromWin || t.winning
  let t' := { t with handed := some ⟨r, r.pc⟩, park := .none, fromWin := held, vector := none }
  let s1 := s.setThread g slot (some t')
  if held then s1.setCore g (s1.core g).release else s1

/-- The gang state after a trap: a follower detaches and discards its forwarded lines (R124). A wait at `gang` or `rejoin` that the
trap breaks is over; the instruction is executed again when the handler returns to it (DEDUCED, notes/assumptions/23.md). -/
def Gang.afterTrap : Gang → Gang
  | .follower l _ _ _ _ _ => .follower l false false [] Option.none Option.none
  | .leader ms _ last next => .leader ms Option.none last next
  | .forming _ => Gang.none
  | Gang.none => Gang.none

/-- The register a failed access leaves without a reply: its pending bit is cleared, its full bit stays clear (R212). -/
def Thread.clearPending (t : Thread) : Option Reg → Thread
  | some (.d i) => { t with dpend := t.dpend.set i false }
  | some (.v i) => { t with vowed := t.vowed.set i 0, halves := t.halves.filter fun h => h.1 != i }
  | _ => t

/-- deliver of R360: the report registers are written, then the thread enters its handler by a checked transfer, or is handed
to the arbiter for a machine check, a trap within a handler, or a vector of 0. No answer of a KV step is kept (R207). -/
def State.deliver (s : State) (g slot : Nat) (t : Thread) (r : Report) (others : Nat) : State :=
  let cause := causeWord r t.ovf others
  let t1 := { t.clearPending r.clr with
    tr := if t.inh then t.tr else { t.tr with epc := r.pc, cause := cause, addr := r.addr, eng := r.eng, info := r.cpc }
    ovf := t.ovf && t.inh
    gang := t.gang.afterTrap
    kv := []
    trapped := if t.inh then t.trapped else if r.imp then none else some r.pc }
  let s1 := s.trace g slot 0x01 t.colour t.wid t.pc cause
  if r.kind = kindCheck ∨ t.inh ∨ t.vec = 0 then s1.handOver g slot t1 r
  else s1.setThread g slot (some { t1.setInh true with pc := t.vec, entry := some 0, vector := some r, park := .none })

/-- A thread that would take a trap is parked, and the core's collection window opens unless one is open or a handler of a window
runs (R364). A thread that traps after a window has closed and before its winner has entered its handler is parked without a window of its own
(DESIGN CHOICE, notes/assumptions/80.md). A trap within a handler goes to the arbiter at once (R360). -/
def State.park (s : State) (g slot : Nat) (t : Thread) (p : Park) : State :=
  let c := s.core g
  let c1 := if c.winner || c.window.isSome then c else { c with window := some c.cyc }
  s.setCore g (c1.setThread slot (some { t with park := p, retry := false, kv := [] }))

/-- What a report of a kind asks of the recorders of a die: a page fault is a trigger, an uncorrectable error freezes them (R374, R385). -/
def State.alarm (s : State) (die : Nat) (kind : BitVec 8) : State :=
  if kind = kindPage then s.trigger die 1 else if kind = kindCheck then s.freezeDie die 4 else s

/-- trap_precise of R54 for the thread of a slot: nothing of the instruction takes effect. -/
def State.raise (s : State) (g slot : Nat) (t : Thread) (r : Report) : State :=
  let s1 := s.alarm (dieOf g) r.kind
  let s2 := if t.inh then s1.deliver g slot t r 0 else s1.park g slot t (.precise r)
  { s2 with cls := .vacant }

/-- An imprecise report reaches its thread (R363): up to 8 are queued, further ones are dropped and set the mark. -/
def Thread.report (t : Thread) (r : Report) : Thread :=
  if t.reports.length < 8 then { t with reports := t.reports ++ [r] } else { t.clearPending r.clr with ovf := true }

/-- trap_engine of R54 for the thread named `tid`, wherever it is; `die` is the die of the unit that met the fault. -/
def State.trapEngine (s : State) (tid die : Nat) (r : Report) : State :=
  (s.alarm die r.kind).onTid tid fun t => t.report r

/-! The turn of a thread (R44, R51, R53). -/

/-- The thread whose instruction is executing, with its core. -/
structure Ctx where
  s    : State
  g    : Nat
  slot : Nat
  c    : Core
  t    : Thread
  deriving DecidableEq, Repr

/-- The context of the current slot, if it holds a thread. -/
def ctxOf (s : State) : Option Ctx :=
  match s.thread s.cur.g s.cur.slot with
  | none => none
  | some t => some ⟨s, s.cur.g, s.cur.slot, s.core s.cur.g, t⟩

/-- The pc of the sequential successor (R38). -/
def succPc (pc : Word) : Word :=
  if pc.toNat % 8 = 4 then (pc &&& 0xFFFFFFFFFFFFFFC0) + 64 else pc + 1

/-- The address of the line of a pc. -/
def lineAddr (pc : Word) : Word := pc &&& 0xFFFFFFFFFFFFFFC0

/-- The gang state after the thread has issued its last instruction at p and its next pc is `pc`: whether it is still in the line. -/
def Gang.issued (x : Gang) (inh rejoins : Bool) (p pc : Word) : Gang :=
  let stays := !rejoins && pc == succPc p && lineAddr pc == lineAddr p
  match x with
  | .leader ms rj last next => if inh then .leader ms rj last next else .leader ms rj (some p) (if stays then some pc else Option.none)
  | .follower l true true ls _ rj => .follower l true true ls (some (p, !stays)) rj
  | y => y

/-- A thread that a leader's handler, or the arbiter, has sent back to `pc`, its own pc now: a precise trap of the next instruction of the line it
forwards counts for its followers as that instruction issued, unless it is executed again (R124). -/
def Thread.sentBack (t : Thread) : Thread :=
  let u := { t with trapped := none }
  match t.trapped, t.gang with
  | some p, .leader _ _ _ (some n) => if t.inh = false ∧ n = p ∧ t.pc ≠ p then { u with gang := t.gang.issued false false p t.pc } else u
  | _, _ => u

/-- The thread does not issue; its slot has the class given (R102). -/
def Ctx.wait (x : Ctx) (k : SlotClass) : State := { x.s with cls := k }

/-- The instruction has issued: the core and the thread as it leaves them, its pc at the next instruction. -/
def Ctx.finish (x : Ctx) (c : Core) (t : Thread) : State :=
  { x.s.setCore x.g (c.setThread x.slot (some { t with entry := none, vector := none, retry := false, kv := [], pc := succPc t.pc }))
    with cls := .issued }

/-- The instruction has issued as a checked transfer to a pc (R39, R40). -/
def Ctx.transfer (x : Ctx) (c : Core) (t : Thread) (target : Word) : State :=
  { x.s.setCore x.g (c.setThread x.slot (some { t with entry := some t.pc, vector := none, retry := false, kv := [], pc := target }))
    with cls := .issued }

/-- The instruction raises a precise trap (R54). -/
def Ctx.trap (x : Ctx) (kind : BitVec 8) (detail : Nat) (addr : Word) : State :=
  x.s.raise x.g x.slot x.t (preciseReport kind detail x.t.pc addr)

/-- The context with another state around the same thread. -/
def Ctx.on (x : Ctx) (s : State) : Ctx := { x with s := s }

/-- A precise trap whose address the manual does not state: a free value (notes/assumptions/5.md). -/
def Ctx.trapFree (x : Ctx) (kind : BitVec 8) (detail : Nat) : State :=
  (x.on x.s.bumpFree).trap kind detail (Config.freeWord x.s.free)

/-- The class of a thread that is not ready for these reasons (R102): memory if any is. -/
def worst (ks : List SlotClass) : Option SlotClass :=
  if ks.contains .mem then some .mem else if ks.isEmpty then none else some .msg

/-- The guard's resolved bit and the decision p[gidx] xor gneg (R44). -/
def Thread.guardRes (t : Thread) (gd : Guard) : Bool := gd.idx = 0 || t.pres[gd.idx]
def Thread.guardVal (t : Thread) (gd : Guard) : Bool := xor (gd.idx = 0 || t.pval[gd.idx]) gd.neg

/-- One issue attempt (R53): an unresolved guard waits, a false one passes over the instruction, an operand that is not ready
waits, and otherwise the instruction takes effect. -/
def turn (gd : Guard) (s : State) (waits : Ctx → List SlotClass) (body : Ctx → State) : Host.Outcome State Fault Refusal :=
  match ctxOf s with
  | none => .refused .noThread
  | some x =>
    if x.t.guardRes gd = false then .next (x.wait ((worst (.msg :: waits x)).getD .msg))
    else if x.t.guardVal gd = false then .next (x.finish x.c x.t)
    else match worst (waits x) with
      | some k => .next (x.wait k)
      | none => .next (body x)

end Sys2Proof.Machine
end

