-- ==== Sys2Proof/Machine/Operands.lean ====
section
/-! DEFINITION. Operand forms: when a source or a destination is ready, reading sources in order, and writing a destination
(spec/02_encoding.md R49–R52; spec/04_control.md R104–R111; spec/06_vector.md R146, R147). -/
namespace Sys2Proof.Machine
open Sys2Proof

/-- What a source gives: one 64-bit word, or 32 lanes. -/
inductive Val where
  | w (x : Word)
  | v (x : VReg)
  deriving DecidableEq, Repr

/-- A value as 32 lanes: a word's low half in every lane (R146). -/
def Val.lanes : Val → VReg
  | .w x => Vector.replicate 32 (x.setWidth 32)
  | .v x => x

/-- A value as one word. -/
def Val.word : Val → Word
  | .w x => x
  | .v x => (x[0]).setWidth 64

/-- How many operands of a list name a register. -/
def countReg (os : List Opnd) (r : Reg) : Nat := (os.filter fun o => o.reg == r).length

/-- The launch and logical core under which a thread on core g sends and receives n-link words (R110, R328). -/
def State.linkTag (s : State) (g : Nat) (t : Thread) : Nat × Nat :=
  (t.launch, ((s.launch? t.launch).bind fun l => l.logicalOn g t.team).getD 0)

/-- The logical core and physical core that a word of direction `dir` goes to from a thread of core g (R110, R328). -/
def State.linkDest (s : State) (g : Nat) (t : Thread) (dir : Nat) : Nat × Nat :=
  match s.launch? t.launch with
  | none => (0, g)
  | some l =>
    match l.logicalOn g t.team with
    | none => (0, g)
    | some lc => (l.neighbour lc dir, l.phys (l.neighbour lc dir))

/-- Words held on the link into `core` under a tag and receive direction: in flight and in the buffer (R110). -/
def State.linkHeld (s : State) (tag : Nat × Nat) (core dir : Nat) : Nat :=
  (s.net.filter fun m => match m with
    | .nword l lc g d _ _ => l == tag.1 && lc == tag.2 && g == core && d.val == dir
    | _ => false).length
  + (((s.core core).nin.toList.getD dir []).filter fun e => e.1 == tag.1 && e.2.1 == tag.2).length

/-- The receive direction of a word sent in direction `dir` (R110). -/
def oppositeDir (dir : Nat) : Nat := (dir + 2) % 4

/-- The 128-byte pieces an s register still gives, the last one padded (R287). -/
def Stream.pieces (x : Stream) : Nat := (x.buf.length + x.left + 127) / 128

/-- The pieces of a stream register that have arrived. -/
def Stream.arrived (x : Stream) : Nat := if x.left = 0 then (x.buf.length + 127) / 128 else x.buf.length / 128

/-- Why a source is not ready, `before` being the sources read before it (R49, R51, R102). -/
def srcWait (x : Ctx) (before : List Opnd) (o : Opnd) : List SlotClass :=
  let n := countReg before o.reg
  match o.reg with
  | .d i => if x.t.dfull[i] then [] else [.mem]
  | .v i => if x.t.vfull[i] then [] else [.mem]
  | .s i =>
    match x.t.streams[i] with
    | none => []
    | some st => if n < st.arrived ∨ st.pieces ≤ n then [] else [.mem]
  | .q i => if n < (x.c.q[i]).length then [] else [.msg]
  | .n i =>
    if i.val < 4 then
      let tag := x.s.linkTag x.g x.t
      if n < ((x.c.nin.toList.getD i.val []).filter fun e => e.1 == tag.1 && e.2.1 == tag.2).length then [] else [.msg]
    else if i.val = 4 then (if n < x.c.n4.length then [] else [.msg])
    else if x.c.inbox.any (fun e => e.colour == x.t.colour) then [] else [.msg]
  | .p i => if i = 0 ∨ x.t.pres[i] then [] else [.msg]
  | _ => []

/-- Why the sources of a list are not ready, each with the ones before it. -/
def srcWaits (x : Ctx) (before : List Opnd) : List Opnd → List SlotClass
  | [] => []
  | o :: rest => srcWait x before o ++ srcWaits x (before ++ [o]) rest

/-- Why a destination is not ready (R49, R105, R108, R110, R113), `srcs` being the instruction's sources. Its own reads free room in
a queue (R108); on a link R110 counts a word until a reader has taken it, so they free none there. -/
def dstWait (x : Ctx) (srcs : List Opnd) (o : Opnd) : List SlotClass :=
  match o.reg with
  | .d i => if x.t.dpend[i] then [.mem] else []
  | .v i => if x.t.vowed[i] ≠ 0 then [.mem] else []
  | .q i => if (x.c.q[i]).length + 1 ≤ 8 + countReg srcs o.reg then [] else [.msg]
  | .n i =>
    let d := x.s.linkDest x.g x.t i.val
    if x.s.linkHeld (x.t.launch, d.1) d.2 (oppositeDir i.val) < 4 then [] else [.msg]
  | .p i => if x.t.pans[i] then [.msg] else []
  | _ => []

/-- A read of an s register with no binding, or with no piece left for it (R287). -/
def unboundStream (x : Ctx) (os : List Opnd) : Bool :=
  os.any fun o => match o.reg with
    | .s i => (match x.t.streams[i] with
      | none => true
      | some st => decide (st.pieces < countReg os o.reg))
    | _ => false

/-- The first entry of a receive buffer for a tag, and the buffer without it. -/
def takeTagged (tag : Nat × Nat) : List (Nat × Nat × Word) → Word × List (Nat × Nat × Word)
  | [] => (0, [])
  | e :: rest =>
    if e.1 = tag.1 ∧ e.2.1 = tag.2 then (e.2.2, rest)
    else let r := takeTagged tag rest; (r.1, e :: r.2)

/-- The 32 lanes of up to 128 bytes, padded with zero bytes (R145, R287). -/
def lanesOf (bs : List Byte) : VReg :=
  Vector.ofFn fun i =>
    let b (k : Nat) : Lane := (bs.getD (4 * i.val + k) 0).setWidth 32
    b 0 ||| (b 1 <<< 8) ||| (b 2 <<< 16) ||| (b 3 <<< 24)

/-- The 128-byte image of a v register (R145). -/
def bytesOfV (x : VReg) : List Byte :=
  x.toList.flatMap fun (l : Lane) => [l.setWidth 8, (l >>> 8).setWidth 8, (l >>> 16).setWidth 8, (l >>> 24).setWidth 8]

/-- One source read, a q, n or s entry taken (R49, R51). -/
def takeSrc (s : State) (g : Nat) (c : Core) (t : Thread) (o : Opnd) : Val × Core × Thread :=
  match o.reg with
  | .d i => (.w t.d[i], c, t)
  | .v i => (.v t.v[i], c, t)
  | .s i =>
    match t.streams[i] with
    | none => (.w 0, c, t)
    | some st =>
      let rest := st.buf.drop 128
      let st' := if rest.isEmpty && st.left == 0 then none else some { st with buf := rest }
      (.v (lanesOf (st.buf.take 128)), c, { t with streams := t.streams.set i st' })
  | .q i => (.w ((c.q[i]).headD 0), { c with q := c.q.set i ((c.q[i]).drop 1) }, t)
  | .n i =>
    if i.val < 4 then
      let r := takeTagged (s.linkTag g t) (c.nin.toList.getD i.val [])
      (.w r.1, { c with nin := c.nin.setIfInBounds i.val r.2 }, t)
    else if i.val = 4 then (.w (c.n4.headD 0), { c with n4 := c.n4.drop 1 }, t)
    else (.w (((c.inbox.find? fun e => e.colour == t.colour).map InboxEntry.w0).getD 0), c, t)
  | .p i => (.w (if i = 0 ∨ t.pval[i] then 1 else 0), c, t)
  | _ => (.w 0, c, t)

/-- Every source read in order (R51). -/
def takeSrcs (s : State) (g : Nat) (c : Core) (t : Thread) : List Opnd → List Val × Core × Thread
  | [] => ([], c, t)
  | o :: rest =>
    let r := takeSrc s g c t o
    let r' := takeSrcs s g r.2.1 r.2.2 rest
    (r.1 :: r'.1, r'.2.1, r'.2.2)

/-- After every source has been read, each synchronised read clears its full bit (R51, R106). -/
def clearSyncs (t : Thread) : List Opnd → Thread
  | [] => t
  | o :: rest =>
    clearSyncs (match o.m, o.reg with
      | .sync, .d i => { t with dfull := t.dfull.set i false }
      | _, _ => t) rest

/-- The sources of an instruction: their values, and the core and thread after every read. -/
def Ctx.take (x : Ctx) (os : List Opnd) : List Val × Core × Thread :=
  let r := takeSrcs x.s x.g x.c x.t os
  (r.1, r.2.1, clearSyncs r.2.2 os)

/-- A d register written, its full bit set (R104). -/
def Thread.putD (t : Thread) (i : Fin 16) (v : Word) : Thread := { t with d := t.d.set i v, dfull := t.dfull.set i true }

/-- A v register written, its full bit set (R104, R148). -/
def Thread.putV (t : Thread) (i : Fin 8) (v : VReg) : Thread := { t with v := t.v.set i v, vfull := t.vfull.set i true }

/-- A guard written and resolved (R114); p0 is never written. -/
def Thread.putP (t : Thread) (i : Fin 8) (b : Bool) : Thread :=
  if i = 0 then t else { t with pval := t.pval.set i b, pres := t.pres.set i true }

/-- The engine commands of a thread that were queued under a guard since resolved take its value (R115). -/
def Core.resolved (c : Core) (t : Thread) : Core :=
  { c with queue := c.queue.map fun (e : Cmd) =>
      if e.tid == t.tid && !e.gres && t.pres[e.gidx] then { e with gres := true, gval := t.pval[e.gidx] } else e }

/-- A guard written as an instruction's result (R114, R115), and the instruction issued. -/
def Ctx.writeP (x : Ctx) (c : Core) (t : Thread) (i : Fin 8) (b : Bool) : State :=
  x.finish (c.resolved (t.putP i b)) (t.putP i b)

/-- A reply requested into a d register: full bit cleared, pending bit set (R104). -/
def Thread.pendD (t : Thread) (i : Fin 16) : Thread := { t with dfull := t.dfull.set i false, dpend := t.dpend.set i true }

/-- A reply of n sectors requested into a v register (R49, R104). -/
def Thread.pendV (t : Thread) (i : Fin 8) (n : Nat) : Thread := { t with vfull := t.vfull.set i false, vowed := t.vowed.set i n }

/-- A packet counted by the castling hardware (R345): the sent-message total, and the traffic table's entry for its destination
if it has one, or else its entry of least count, lowest index first, the entries not listed counting 0. A swap instant falls due when the low 20 bits wrap, never at total zero (R349). -/
def Core.sentTo (c : Core) (dest : Option Nat) : Core :=
  let bump (n : Nat) : Nat := min (n + 1) (2 ^ 24 - 1)
  let tr := match dest with
    | none => c.traffic
    | some d =>
      if c.traffic.any (fun e => e.1 == d) then c.traffic.map fun e => if e.1 = d then (e.1, bump e.2) else e
      else if decide (c.traffic.length < 16) && c.traffic.all (fun e => e.2 != 0) then c.traffic ++ [(d, 1)]
      else
        let least := c.traffic.foldl (fun m e => min m e.2) (2 ^ 24)
        c.traffic.set (c.traffic.findIdx fun e => e.2 == least) (d, 1)
  { c with traffic := tr, sent := (c.sent + 1) % 2 ^ 40, swapDue := c.swapDue || ((c.sent + 1) % 2 ^ 20 == 0 && (c.sent + 1) % 2 ^ 40 != 0) }

/-- A packet of a thread counted for the occupant its team is of (R345): on this core if it is bound here, else on the team's own core as the turn ends. -/
def Core.sentBy (c : Core) (t : Thread) (dest : Option Nat) : Core :=
  if c.teams.any (fun tm => tm.key == ⟨t.launch, t.team⟩ && !tm.retired) then c.sentTo dest
  else { c with away := c.away ++ [(⟨t.launch, t.team⟩, dest)] }

/-- Entry-wise maximum of two clocks of eight entries. -/
def clockMax (a b : List Nat) : List Nat := (List.range 8).map fun i => max (a.getD i 0) (b.getD i 0)

/-- K of a die: the maximum of its frontier and every clock it has received (R323). -/
def Die.k (d : Die) : List Nat := clockMax d.front d.clock

/-- Destinations of the traffic table: a logical core of a launch, or the vault of a core (R345). -/
def trafficCore (launch lcore : Nat) : Nat := 2 * (2048 * launch + lcore)
def trafficVault (g : Nat) : Nat := 2 * g + 1

/-- The destination that core g is to a launch, at whose logical core lc it is: in an unplaced launch each core is its own logical core (R328). -/
def State.coreDest (s : State) (launch lc g : Nat) : Nat :=
  trafficCore launch (if ((s.launch? launch).map Launch.unplaced).getD false then g else lc)

/-- A d, q or n destination written with a word (R104, R108, R110) and the instruction issued. -/
def Ctx.writeW (x : Ctx) (c : Core) (t : Thread) (o : Opnd) (v : Word) : State :=
  match o.reg with
  | .d i => x.finish c (t.putD i v)
  | .q i => x.finish { c with q := c.q.set i (c.q[i] ++ [v]) } t
  | .n i =>
    let d := x.s.linkDest x.g x.t i.val
    (x.on (x.s.send (.nword x.t.launch d.1 d.2 (Fin.ofNat 4 (oppositeDir i.val)) v (x.s.die (dieOf x.g)).k))).finish
      (c.sentBy t (some (x.s.coreDest x.t.launch d.1 d.2))) t
  | _ => x.finish c t

/-- In a deterministic kernel, a write to n0–n3 toward a logical core of another logical cluster (R342). -/
def linkOutside (x : Ctx) (o : Opnd) : Bool :=
  match o.reg with
  | .n i =>
    (match x.s.launch? x.t.launch with
    | none => false
    | some l =>
      match l.logicalOn x.g x.t.team with
      | none => false
      | some lc => l.det && logicalCluster lc != logicalCluster (l.neighbour lc i.val))
  | _ => false

/-- A register instruction with a scalar destination (R132, R144): sources read in order, one word written. -/
def scalarTurn (gd : Guard) (s : State) (dst : Opnd) (srcs : List Opnd) (op : Ctx → List Val → Word) :
    Host.Outcome State Fault Refusal :=
  turn gd s (fun x => srcWaits x [] srcs ++ dstWait x srcs dst) fun x =>
    if linkOutside x dst then x.trap kindDet 3 0
    else
      let r := x.take srcs
      x.writeW r.2.1 r.2.2 dst (op x r.1)

/-- What a vector operation computes: lanes or a word, and the events it created as (lane, code). -/
structure VResult where
  val    : Val
  events : List (Nat × Nat)
  deriving DecidableEq, Repr

/-- The lanes of an event trap's mask (R149). -/
def eventMask (es : List (Nat × Nat)) : Word := es.foldl (fun m e => m ||| BitVec.ofNat 64 (2 ^ e.1)) 0

/-- A register instruction of the vector unit (R146–R149): an unbound stream traps, then the sources are read and the
destination written with its full bit set; created events trap when `tsk.ftrap` bit 0 is set, `addr` giving the report's
address, and then nothing is taken or written. -/
def vectorTurn (gd : Guard) (s : State) (dst : Opnd) (srcs reads : List Opnd) (op : Ctx → List Val → VResult)
    (addr : List (Nat × Nat) → Word) : Host.Outcome State Fault Refusal :=
  turn gd s (fun x => srcWaits x [] (srcs ++ reads) ++ dstWait x srcs dst) fun x =>
    if unboundStream x srcs then x.trap kindStream 0 0
    else
      let r := x.take srcs
      let y := op x r.1
      match y.events with
      | e :: _ =>
        if x.t.evt then x.trap kindEvent e.2 (addr y.events)
        else vfin x r.2.1 r.2.2 y.val
      | [] => vfin x r.2.1 r.2.2 y.val
where
  vfin (x : Ctx) (c : Core) (t : Thread) (v : Val) : State :=
    match dst.reg with
    | .v i => x.finish c (t.putV i v.lanes)
    | .d i => x.finish c (t.putD i v.word)
    | _ => x.finish c t

end Sys2Proof.Machine
end

