-- ==== Sys2Proof/Machine/Flags.lean ====
section
/-! DEFINITION. What the manual computes in place of flags: guard results of compares (spec/04_control.md R116–R118) and lane
classes (spec/06_vector.md R154). -/
namespace Sys2Proof.Machine
open Sys2Proof

/-- The conditions of R118. -/
inductive Cond where
  | eq | ne | lt | le | gt | ge | un | tst | ntst
  deriving DecidableEq, Repr

/-- The condition on exact integers and their 64-bit patterns; `.un` has no integer form (R118). -/
def condInt (cc : Cond) (sg : Bool) (a b : Word) : Bool :=
  let x := intVal 64 sg a.toNat
  let y := intVal 64 sg b.toNat
  match cc with
  | .eq => decide (x = y)
  | .ne => decide (x ≠ y)
  | .lt => decide (x < y)
  | .le => decide (x ≤ y)
  | .gt => decide (y < x)
  | .ge => decide (y ≤ x)
  | .un => false
  | .tst => decide (a &&& b ≠ 0)
  | .ntst => decide (a &&& b = 0)

/-- The condition on binary32 patterns; `.tst` and `.ntst` have no binary32 form (R118). -/
def condF32 (cc : Cond) (a b : Lane) : Bool :=
  let nan := f32IsNan a || f32IsNan b
  let x := f32Val a
  let y := f32Val b
  match cc with
  | .eq => !nan && xLe x y && xLe y x
  | .ne => nan || !(xLe x y && xLe y x)
  | .lt => !nan && !xLe y x
  | .le => !nan && xLe x y
  | .gt => !nan && !xLe x y
  | .ge => !nan && xLe y x
  | .un => nan
  | .tst => false
  | .ntst => false

/-- A compare's result for the type of R117: .f32 reads bits [31:0], .z64 is unsigned, the default is .s64. -/
def condResult (cc : Cond) (ty : Ty) (a b : Word) : Bool :=
  if ty = .f32 then condF32 cc (a.setWidth 32) (b.setWidth 32) else condInt cc (ty != .z64) a b

/-- The mask bit of the one class a lane value falls in (R154). -/
def laneClass (b : Lane) : Nat :=
  let s := b.getLsbD 31
  let e := b.toNat / 2 ^ 23 % 256
  let f := b.toNat % 2 ^ 23
  if e = 255 then
    if f = 0 then (if s then 3 else 10)
    else if f < 2 ^ 22 then 0
    else if f / 2 ^ 16 % 64 = 0 then 1 else 2
  else if e = 0 then
    if f = 0 then (if s then 6 else 7) else (if s then 5 else 8)
  else (if s then 4 else 9)

end Sys2Proof.Machine
end

