-- ==== Sys2Proof/Machine/Scalar.lean ====
section
/-! DEFINITION. Compares (spec/04_control.md R117, R118), scalar integer and address instructions (spec/05_scalar.md). -/
namespace Sys2Proof.Machine
open Sys2Proof

/-- The 32-bit immediate (R46), and a field of fmt. -/
def Fields.imm (f : Fields) : BitVec 32 := f.fmt.setWidth 32
def Fields.bits (f : Fields) (lo n : Nat) : Nat := f.fmt.toNat / 2 ^ lo % 2 ^ n

/-- The immediate sign-extended or zero-extended to 64 bits (R46). -/
def Fields.simm (f : Fields) : Word := (Fields.imm f).signExtend 64
def Fields.zimm (f : Fields) : Word := (Fields.imm f).setWidth 64

/-- Width and signedness of the operation type, .s64 by default (R130). -/
def Fields.width (f : Fields) : Nat := ((tyInt f.ty).getD (64, true)).1
def Fields.isSigned (f : Fields) : Bool := ((tyInt f.ty).getD (64, true)).2

/-- A source as an exact integer of the operation type; negation wraps in the width (R130). -/
def Fields.src (f : Fields) (o : Opnd) (v : Word) : Int :=
  let x := intVal (Fields.width f) (Fields.isSigned f) v.toNat
  if o.m = .neg then wrapTo (Fields.width f) (Fields.isSigned f) (-x) else x

/-- A source word, negated in 64 bits if it carries the negate modifier. -/
def srcWord (o : Opnd) (v : Word) : Word := if o.m = .neg then -v else v

/-- The n-bit pattern of an integer. -/
def pat (n : Nat) (x : Int) : Nat := (x % 2 ^ n).toNat

/-- The exact result reduced to the type and written as 64 bits (R130, R131). -/
def Fields.reduce (f : Fields) (x : Int) : Word :=
  intWord ((if f.qual = 1 then satTo else wrapTo) (Fields.width f) (Fields.isSigned f) x)

/-- The i-th source value. -/
def val (vs : List Val) (i : Nat) : Word := (vs.getD i (.w 0)).word

/-- A binary register form: the exact result of the two source integers (R133). -/
def alu2 (gd : Guard) (f : Fields) (s : State) (op : Nat → Int → Int → Int) : Host.Outcome State Fault Refusal :=
  scalarTurn gd s f.dst [f.src1, f.src2] fun _ vs =>
    Fields.reduce f (op (Fields.width f) (Fields.src f f.src1 (val vs 0)) (Fields.src f f.src2 (val vs 1)))

/-- A unary register form (R133). -/
def alu1 (gd : Guard) (f : Fields) (s : State) (op : Nat → Int → Int) : Host.Outcome State Fault Refusal :=
  scalarTurn gd s f.dst [f.src1] fun _ vs => Fields.reduce f (op (Fields.width f) (Fields.src f f.src1 (val vs 0)))

/-- An immediate form, the immediate sign-extended or zero-extended and then interpreted as a source (R134). -/
def aluImm (gd : Guard) (f : Fields) (s : State) (zext : Bool) (op : Nat → Int → Int → Int) :
    Host.Outcome State Fault Refusal :=
  scalarTurn gd s f.dst [f.src1] fun _ vs =>
    let imm := if zext then Fields.zimm f else Fields.simm f
    Fields.reduce f (op (Fields.width f) (Fields.src f f.src1 (val vs 0))
      (intVal (Fields.width f) (Fields.isSigned f) imm.toNat))

/-- A shift or rotate by a register count: bits [5:0] after any negation in 64 bits (R135). -/
def shift2 (gd : Guard) (f : Fields) (s : State) (op : Nat → Int → Nat → Int) : Host.Outcome State Fault Refusal :=
  scalarTurn gd s f.dst [f.src1, f.src2] fun _ vs =>
    Fields.reduce f (op (Fields.width f) (Fields.src f f.src1 (val vs 0)) ((srcWord f.src2 (val vs 1)).toNat % 64))

/-- A shift or rotate by an immediate count (R135). -/
def shiftImm (gd : Guard) (f : Fields) (s : State) (op : Nat → Int → Nat → Int) : Host.Outcome State Fault Refusal :=
  scalarTurn gd s f.dst [f.src1] fun _ vs =>
    Fields.reduce f (op (Fields.width f) (Fields.src f f.src1 (val vs 0)) ((Fields.imm f).toNat % 64))

/-! The operations of R133–R136 on exact integers. -/

def opMulh (n : Nat) (a b : Int) : Int := a * b / 2 ^ n
def opAnd (n : Nat) (a b : Int) : Int := ((pat n a &&& pat n b : Nat) : Int)
def opOr (n : Nat) (a b : Int) : Int := ((pat n a ||| pat n b : Nat) : Int)
def opXor (n : Nat) (a b : Int) : Int := ((pat n a ^^^ pat n b : Nat) : Int)
def opAndn (n : Nat) (a b : Int) : Int := ((pat n a &&& (2 ^ n - 1 - pat n b) : Nat) : Int)
def opShl (_ : Nat) (a : Int) (c : Nat) : Int := a * 2 ^ c
def opShr (n : Nat) (a : Int) (c : Nat) : Int := ((pat n a / 2 ^ c : Nat) : Int)
def opSar (n : Nat) (a : Int) (c : Nat) : Int := intVal n true (pat n a) / 2 ^ c
def opRot (n : Nat) (a : Int) (c : Nat) : Int := ((pat n a * 2 ^ (c % n) + pat n a / 2 ^ (n - c % n) : Nat) : Int)

/-- Leading and trailing zero bits and one bits of an n-bit pattern (R133). -/
def opClz (n : Nat) (a : Int) : Int := if pat n a = 0 then n else ((n - 1 - Nat.log2 (pat n a) : Nat) : Int)
def opCtz (n : Nat) (a : Int) : Int := (((List.range n).takeWhile fun i => !(pat n a).testBit i).length : Int)
def opPopc (n : Nat) (a : Int) : Int := (((List.range n).filter fun i => (pat n a).testBit i).length : Int)

/-- Quotient and remainder of R136, truncating toward zero, for a type of n bits. -/
def opDiv (sg : Bool) (n : Nat) (a b : Int) : Int :=
  if b = 0 then (if a = 0 then 0 else if 0 < a then intMax n sg else intMin n sg) else Int.tdiv a b
def opRem (a b : Int) : Int := if b = 0 then a else Int.tmod a b

def execAdd (gd : Guard) (f : Fields) (s : State) := alu2 gd f s fun _ a b => a + b
def execSub (gd : Guard) (f : Fields) (s : State) := alu2 gd f s fun _ a b => a - b
def execMul (gd : Guard) (f : Fields) (s : State) := alu2 gd f s fun _ a b => a * b
def execMulh (gd : Guard) (f : Fields) (s : State) := alu2 gd f s opMulh
def execDiv (gd : Guard) (f : Fields) (s : State) := alu2 gd f s (opDiv (Fields.isSigned f))
def execRem (gd : Guard) (f : Fields) (s : State) := alu2 gd f s fun _ a b => opRem a b
def execAnd (gd : Guard) (f : Fields) (s : State) := alu2 gd f s opAnd
def execOr (gd : Guard) (f : Fields) (s : State) := alu2 gd f s opOr
def execXor (gd : Guard) (f : Fields) (s : State) := alu2 gd f s opXor
def execAndn (gd : Guard) (f : Fields) (s : State) := alu2 gd f s opAndn
def execShl (gd : Guard) (f : Fields) (s : State) := shift2 gd f s opShl
def execShr (gd : Guard) (f : Fields) (s : State) := shift2 gd f s opShr
def execSar (gd : Guard) (f : Fields) (s : State) := shift2 gd f s opSar
def execRot (gd : Guard) (f : Fields) (s : State) := shift2 gd f s opRot
def execClz (gd : Guard) (f : Fields) (s : State) := alu1 gd f s opClz
def execCtz (gd : Guard) (f : Fields) (s : State) := alu1 gd f s opCtz
def execPopc (gd : Guard) (f : Fields) (s : State) := alu1 gd f s opPopc
def execMin (gd : Guard) (f : Fields) (s : State) := alu2 gd f s fun _ a b => min a b
def execMax (gd : Guard) (f : Fields) (s : State) := alu2 gd f s fun _ a b => max a b
def execAddImm (gd : Guard) (f : Fields) (s : State) := aluImm gd f s false fun _ a b => a + b
def execMulImm (gd : Guard) (f : Fields) (s : State) := aluImm gd f s false fun _ a b => a * b
def execAndImm (gd : Guard) (f : Fields) (s : State) := aluImm gd f s true opAnd
def execOrImm (gd : Guard) (f : Fields) (s : State) := aluImm gd f s true opOr
def execXorImm (gd : Guard) (f : Fields) (s : State) := aluImm gd f s true opXor
def execShlImm (gd : Guard) (f : Fields) (s : State) := shiftImm gd f s opShl
def execShrImm (gd : Guard) (f : Fields) (s : State) := shiftImm gd f s opShr
def execSarImm (gd : Guard) (f : Fields) (s : State) := shiftImm gd f s opSar
def execRotImm (gd : Guard) (f : Fields) (s : State) := shiftImm gd f s opRot
def execMinImm (gd : Guard) (f : Fields) (s : State) := aluImm gd f s false fun _ a b => min a b
def execMaxImm (gd : Guard) (f : Fields) (s : State) := aluImm gd f s false fun _ a b => max a b

/-- R137: both sources are read, the guard of src3 chooses. -/
def execSel (gd : Guard) (f : Fields) (s : State) : Host.Outcome State Fault Refusal :=
  scalarTurn gd s f.dst [f.src1, f.src2, f.src3] fun _ vs =>
    Fields.reduce f (if val vs 2 = 1 then Fields.src f f.src1 (val vs 0) else Fields.src f f.src2 (val vs 1))

/-- Position and effective length of a field descriptor (R138). -/
def fieldPos (d : Nat) : Nat := d % 64
def fieldLen (d : Nat) : Nat := min (d / 2 ^ 8 % 64 + 1) (64 - d % 64)

/-- R139: the field extracted. -/
def bextOf (f : Fields) (a : Word) (d : Nat) : Word :=
  intWord (intVal (fieldLen d) (Fields.isSigned f) (a.toNat / 2 ^ fieldPos d))

/-- R140: the field replaced. -/
def binsOf (b v : Word) (d : Nat) : Word :=
  let mask : Word := BitVec.ofNat 64 ((2 ^ fieldLen d - 1) * 2 ^ fieldPos d)
  (b &&& ~~~mask) ||| ((v <<< fieldPos d) &&& mask)

def execBext (gd : Guard) (f : Fields) (s : State) : Host.Outcome State Fault Refusal :=
  scalarTurn gd s f.dst [f.src1, f.src2] fun _ vs =>
    bextOf f (srcWord f.src1 (val vs 0)) (srcWord f.src2 (val vs 1)).toNat
def execBextImm (gd : Guard) (f : Fields) (s : State) : Host.Outcome State Fault Refusal :=
  scalarTurn gd s f.dst [f.src1] fun _ vs => bextOf f (srcWord f.src1 (val vs 0)) (Fields.imm f).toNat
def execBins (gd : Guard) (f : Fields) (s : State) : Host.Outcome State Fault Refusal :=
  scalarTurn gd s f.dst [f.src1, f.src2, f.src3] fun _ vs =>
    binsOf (srcWord f.src1 (val vs 0)) (srcWord f.src2 (val vs 1)) (srcWord f.src3 (val vs 2)).toNat
def execBinsImm (gd : Guard) (f : Fields) (s : State) : Host.Outcome State Fault Refusal :=
  scalarTurn gd s f.dst [f.src1, f.src2] fun _ vs =>
    binsOf (srcWord f.src1 (val vs 0)) (srcWord f.src2 (val vs 1)) (Fields.imm f).toNat

/-- R142: the line address of the instruction plus the immediate. -/
def execLeaPc (gd : Guard) (f : Fields) (s : State) : Host.Outcome State Fault Refusal :=
  scalarTurn gd s f.dst [] fun x _ => (x.t.pc &&& 0xFFFFFFFFFFFFFFC0) + Fields.simm f
def execLeaBase (gd : Guard) (f : Fields) (s : State) : Host.Outcome State Fault Refusal :=
  scalarTurn gd s f.dst [f.src1] fun _ vs => srcWord f.src1 (val vs 0) + Fields.simm f
def execLeaIndex (gd : Guard) (f : Fields) (s : State) : Host.Outcome State Fault Refusal :=
  scalarTurn gd s f.dst [f.src1, f.src2] fun _ vs =>
    srcWord f.src1 (val vs 0) + (srcWord f.src2 (val vs 1) <<< Fields.bits f 34 2) + Fields.simm f

/-- R141. -/
def execLi (gd : Guard) (f : Fields) (s : State) : Host.Outcome State Fault Refusal :=
  scalarTurn gd s f.dst [] fun _ _ => Fields.simm f
def execLui (gd : Guard) (f : Fields) (s : State) : Host.Outcome State Fault Refusal :=
  scalarTurn gd s f.dst [] fun _ _ => Fields.zimm f <<< 32

/-- Field k of a work identifier under a launch's widths (R143, R327); with no launch the one field f0 is 64 bits (R59). -/
def widField (l : Option Launch) (wid : Word) (k : Nat) : Word :=
  match l with
  | none => if k = 0 then wid else 0
  | some l =>
    let o := (List.range k).foldl (fun a i => a + l.width i) 0
    BitVec.ofNat 64 (wid.toNat / 2 ^ o % 2 ^ l.width k)

/-- R143. -/
def execWid (gd : Guard) (f : Fields) (s : State) : Host.Outcome State Fault Refusal :=
  scalarTurn gd s f.dst [] fun x _ =>
    let k := (Fields.imm f).toNat
    if k = 6 then x.t.wid
    else if k = 7 then BitVec.ofNat 64 x.t.colour
    else widField (x.s.launch? x.t.launch) x.t.wid k

/-! Compares. -/

/-- A compare of two registers into a guard (R117). -/
def cmpReg (gd : Guard) (f : Fields) (s : State) (cc : Cond) : Host.Outcome State Fault Refusal :=
  turn gd s (fun x => srcWaits x [] [f.src1, f.src2] ++ dstWait x [f.src1, f.src2] f.dst) fun x =>
    let r := x.take [f.src1, f.src2]
    match f.dst.reg with
    | .p i => x.writeP r.2.1 r.2.2 i (condResult cc f.ty (val r.1 0) (val r.1 1))
    | _ => x.finish r.2.1 r.2.2

/-- A compare with an immediate: sign-extended, or a binary32 pattern for .f32 (R117). -/
def cmpImm (gd : Guard) (f : Fields) (s : State) (cc : Cond) : Host.Outcome State Fault Refusal :=
  turn gd s (fun x => srcWaits x [] [f.src1] ++ dstWait x [f.src1] f.dst) fun x =>
    let r := x.take [f.src1]
    match f.dst.reg with
    | .p i => x.writeP r.2.1 r.2.2 i (condResult cc f.ty (val r.1 0) (Fields.simm f))
    | _ => x.finish r.2.1 r.2.2

def execCmpEq (gd : Guard) (f : Fields) (s : State) := cmpReg gd f s .eq
def execCmpNe (gd : Guard) (f : Fields) (s : State) := cmpReg gd f s .ne
def execCmpLt (gd : Guard) (f : Fields) (s : State) := cmpReg gd f s .lt
def execCmpLe (gd : Guard) (f : Fields) (s : State) := cmpReg gd f s .le
def execCmpGt (gd : Guard) (f : Fields) (s : State) := cmpReg gd f s .gt
def execCmpGe (gd : Guard) (f : Fields) (s : State) := cmpReg gd f s .ge
def execCmpUn (gd : Guard) (f : Fields) (s : State) := cmpReg gd f s .un
def execCmpTst (gd : Guard) (f : Fields) (s : State) := cmpReg gd f s .tst
def execCmpNtst (gd : Guard) (f : Fields) (s : State) := cmpReg gd f s .ntst
def execCmpEqImm (gd : Guard) (f : Fields) (s : State) := cmpImm gd f s .eq
def execCmpNeImm (gd : Guard) (f : Fields) (s : State) := cmpImm gd f s .ne
def execCmpLtImm (gd : Guard) (f : Fields) (s : State) := cmpImm gd f s .lt
def execCmpLeImm (gd : Guard) (f : Fields) (s : State) := cmpImm gd f s .le
def execCmpGtImm (gd : Guard) (f : Fields) (s : State) := cmpImm gd f s .gt
def execCmpGeImm (gd : Guard) (f : Fields) (s : State) := cmpImm gd f s .ge
def execCmpUnImm (gd : Guard) (f : Fields) (s : State) := cmpImm gd f s .un
def execCmpTstImm (gd : Guard) (f : Fields) (s : State) := cmpImm gd f s .tst
def execCmpNtstImm (gd : Guard) (f : Fields) (s : State) := cmpImm gd f s .ntst

end Sys2Proof.Machine
end

