-- ==== Sys2Proof/Machine/VecFloat.lean ====
section
/-! DEFINITION. Binary32 lane instructions, class 0x08 (spec/06_vector.md R150–R157). -/
namespace Sys2Proof.Machine
open Sys2Proof

/-- A lane result and the event code it created, 0 for none. -/
abbrev LaneOut := Lane × Nat

/-- A binary32 source's lanes, the sign inverted under the negate modifier (R146). -/
def f32Src (o : Opnd) (v : Val) : VReg := if o.m = .neg then v.lanes.map fun b => b ^^^ 0x80000000 else v.lanes

/-- The i-th source value. -/
def valAt (vs : List Val) (i : Nat) : Val := vs.getD i (.w 0)

/-- The events of a list of lane results, lane and code, from lane i. -/
def laneEvents : List LaneOut → Nat → List (Nat × Nat)
  | [], _ => []
  | (_, 0) :: rest, i => laneEvents rest (i + 1)
  | (_, c + 1) :: rest, i => (i, c + 1) :: laneEvents rest (i + 1)

/-- A vector of lane results as an operation's result. -/
def lanesResult (ls : Vector LaneOut 32) : VResult := ⟨.v (ls.map Prod.fst), laneEvents ls.toList 0⟩

/-- The lane scheme of R151: a NaN operand propagates, an invalid operation is an event NaN, and otherwise the exact result is
rounded once. -/
def arith (r : Rnd) (sat : Bool) (origin : BitVec 16) (ops : List Lane) (invalid : Nat) (exact : XNum) : LaneOut :=
  match nanProp ops with
  | some b => (b, 0)
  | none => if invalid ≠ 0 then (eventNan invalid origin, invalid) else (f32Of r sat exact, 0)

def laneAdd (r : Rnd) (sat : Bool) (origin : BitVec 16) (a b : Lane) : LaneOut :=
  let x := f32Val a
  let y := f32Val b
  arith r sat origin [a, b] (if x.isInf && y.isInf && x.sign != y.sign then 1 else 0) (xAdd r x y)

def laneSub (r : Rnd) (sat : Bool) (origin : BitVec 16) (a b : Lane) : LaneOut :=
  let x := f32Val a
  let y := f32Val b
  arith r sat origin [a, b] (if x.isInf && y.isInf && x.sign == y.sign then 1 else 0) (xAdd r x (xNeg y))

/-- Zero times infinity. -/
def zeroInf (x y : XNum) : Bool := (x.isZero && y.isInf) || (x.isInf && y.isZero)

def laneMul (r : Rnd) (sat : Bool) (origin : BitVec 16) (a b : Lane) : LaneOut :=
  let x := f32Val a
  let y := f32Val b
  arith r sat origin [a, b] (if zeroInf x y then 2 else 0) (xMul x y)

/-- The invalid cases of a fused multiply-add of exact numbers (R151). -/
def fmaInvalid (x y z : XNum) : Nat :=
  if zeroInf x y then 2
  else if (x.isInf || y.isInf) && z.isInf && xor x.sign y.sign != z.sign then 1 else 0

def laneFma (r : Rnd) (sat : Bool) (origin : BitVec 16) (a b c : Lane) : LaneOut :=
  let x := f32Val a
  let y := f32Val b
  let z := f32Val c
  arith r sat origin [a, b, c] (fmaInvalid x y z) (xAdd r (xMul x y) z)

/-- a / b, the special quotients of R151 included. -/
def xDiv : XNum → XNum → XNum
  | .fin s n e, .fin s' n' e' => if n' = 0 then .inf (xor s s') else .fin (xor s s') (divSticky n n') (e - e' - 61)
  | .fin s _ _, y => .fin (xor s y.sign) 0 0
  | x, y => .inf (xor x.sign y.sign)

def laneDiv (r : Rnd) (sat : Bool) (origin : BitVec 16) (a b : Lane) : LaneOut :=
  let x := f32Val a
  let y := f32Val b
  arith r sat origin [a, b] (if x.isZero && y.isZero then 3 else if x.isInf && y.isInf then 4 else 0) (xDiv x y)

def laneSqrt (r : Rnd) (origin : BitVec 16) (a : Lane) : LaneOut :=
  match f32Val a with
  | .fin s n e => arith r false origin [a] (if s && n != 0 then 5 else 0) (if n = 0 then .fin s 0 0 else xSqrt n e)
  | x => arith r false origin [a] (if x.sign then 5 else 0) x

def laneRsq (r : Rnd) (origin : BitVec 16) (a : Lane) : LaneOut :=
  match f32Val a with
  | .fin s n e => arith r false origin [a] (if s && n != 0 then 6 else 0) (if n = 0 then .inf s else xRsqrt n e)
  | x => arith r false origin [a] (if x.sign then 6 else 0) (.fin false 0 0)

/-- The order of R152: −0 below +0. -/
def f32Key (b : Lane) : Int :=
  let m : Int := (b.toNat % 2 ^ 31 : Nat)
  if b.getLsbD 31 then -m - 1 else m

def laneMin (a b : Lane) : LaneOut := ((nanProp [a, b]).getD (if f32Key a ≤ f32Key b then a else b), 0)
def laneMax (a b : Lane) : LaneOut := ((nanProp [a, b]).getD (if f32Key a ≤ f32Key b then b else a), 0)

/-- R155: an integral binary32 value; a lane that rounds to zero keeps its sign. -/
def laneRnd (r : Rnd) (a : Lane) : LaneOut :=
  match f32Val a with
  | .fin s n e => (f32Of .rne false (.fin s (roundTo r s n e 0) 0), 0)
  | _ => ((nanProp [a]).getD a, 0)

/-- R156. -/
def laneExf (r : Rnd) (origin : BitVec 16) (a : Lane) : LaneOut :=
  match f32Val a with
  | .fin s n e =>
    if n = 0 then (0x3F800000, 0)
    else if xLe (.fin false n e) (.fin false 1 0) then
      (if xLe (.fin false 1 0) (.fin false n e) then (if s then 0x3F000000 else 0x40000000)
       else f32Of r false (xExp2 s n e), 0)
    else (eventNan 7 origin, 7)
  | .inf _ => (eventNan 7 origin, 7)
  | .nan _ _ => (quieten a, 0)

/-- R157; a scale beyond ±4,096 rounds as ±4,096 does. -/
def laneIns (r : Rnd) (sat : Bool) (origin : BitVec 16) (a b : Lane) : LaneOut :=
  match nanProp [a, b] with
  | some q => (q, 0)
  | none =>
    match f32Val b, f32Val a with
    | .inf false, .fin s n _ => if n = 0 then (eventNan 2 origin, 2) else (f32Of r false (.inf s), 0)
    | .inf false, x => (f32Of r false (.inf x.sign), 0)
    | .inf true, .fin s _ _ => (f32Of r false (.fin s 0 0), 0)
    | .inf true, _ => (eventNan 2 origin, 2)
    | y, .fin s n e =>
      if n = 0 then (a, 0) else
        (f32Of r sat (.fin s n (e + max (-4096) (min 4096 (xRoundInt .rtz y)))), 0)
    | _, _ => (a, 0)

/-- The `.sat` bit and the rounding mode (R48, R150). -/
def Fields.sat32 (f : Fields) : Bool := f.fmt.getLsbD 32
def Fields.rnd (f : Fields) : Rnd := rndOf f.qual

/-- Lane-wise instructions of one, two and three sources, written to a v register; the mask of R149 is the trap's address. -/
def vec1 (gd : Guard) (f : Fields) (s : State) (op : BitVec 16 → Lane → LaneOut) : Host.Outcome State Fault Refusal :=
  vectorTurn gd s f.dst [f.src1] [] (fun x vs =>
    lanesResult ((f32Src f.src1 (valAt vs 0)).map (op x.t.origin))) eventMask
def vec2 (gd : Guard) (f : Fields) (s : State) (op : BitVec 16 → Lane → Lane → LaneOut) :
    Host.Outcome State Fault Refusal :=
  vectorTurn gd s f.dst [f.src1, f.src2] [] (fun x vs =>
    lanesResult (Vector.zipWith (op x.t.origin) (f32Src f.src1 (valAt vs 0)) (f32Src f.src2 (valAt vs 1)))) eventMask
def vec3 (gd : Guard) (f : Fields) (s : State) (op : BitVec 16 → Lane → Lane → Lane → LaneOut) :
    Host.Outcome State Fault Refusal :=
  vectorTurn gd s f.dst [f.src1, f.src2, f.src3] [] (fun x vs =>
    let c := f32Src f.src3 (valAt vs 2)
    lanesResult (Vector.zipWith (fun ab c => op x.t.origin ab.1 ab.2 c)
      (Vector.zipWith Prod.mk (f32Src f.src1 (valAt vs 0)) (f32Src f.src2 (valAt vs 1))) c)) eventMask

def execFadd (gd : Guard) (f : Fields) (s : State) := vec2 gd f s fun o => laneAdd (Fields.rnd f) (Fields.sat32 f) o
def execFsub (gd : Guard) (f : Fields) (s : State) := vec2 gd f s fun o => laneSub (Fields.rnd f) (Fields.sat32 f) o
def execFmul (gd : Guard) (f : Fields) (s : State) := vec2 gd f s fun o => laneMul (Fields.rnd f) (Fields.sat32 f) o
def execFfma (gd : Guard) (f : Fields) (s : State) := vec3 gd f s fun o => laneFma (Fields.rnd f) (Fields.sat32 f) o
def execFdiv (gd : Guard) (f : Fields) (s : State) := vec2 gd f s fun o => laneDiv (Fields.rnd f) (Fields.sat32 f) o
def execFsqrt (gd : Guard) (f : Fields) (s : State) := vec1 gd f s fun o => laneSqrt (Fields.rnd f) o
def execFrsq (gd : Guard) (f : Fields) (s : State) := vec1 gd f s fun o => laneRsq (Fields.rnd f) o
def execFmin (gd : Guard) (f : Fields) (s : State) := vec2 gd f s fun _ => laneMin
def execFmax (gd : Guard) (f : Fields) (s : State) := vec2 gd f s fun _ => laneMax
def execFneg (gd : Guard) (f : Fields) (s : State) := vec1 gd f s fun _ a => (a ^^^ 0x80000000, 0)
def execFabs (gd : Guard) (f : Fields) (s : State) := vec1 gd f s fun _ a => (a &&& 0x7FFFFFFF, 0)
def execFrnd (gd : Guard) (f : Fields) (s : State) := vec1 gd f s fun _ => laneRnd (Fields.rnd f)
def execFexf (gd : Guard) (f : Fields) (s : State) := vec1 gd f s fun o => laneExf (Fields.rnd f) o
def execFins (gd : Guard) (f : Fields) (s : State) := vec2 gd f s fun o => laneIns (Fields.rnd f) (Fields.sat32 f) o

/-- The word whose bit i is the i-th of a list of truths. -/
def maskWord (bs : List Bool) : Word :=
  BitVec.ofNat 64 ((bs.zipIdx.map fun p => if p.1 then 2 ^ p.2 else 0).sum)

/-- R154: the lanes in the classes of fmt[10:0]. -/
def execFcls (gd : Guard) (f : Fields) (s : State) : Host.Outcome State Fault Refusal :=
  vectorTurn gd s f.dst [f.src1] [] (fun _ vs =>
    ⟨.w (maskWord ((f32Src f.src1 (valAt vs 0)).toList.map fun a => f.fmt.getLsbD (laneClass a))), []⟩) eventMask

end Sys2Proof.Machine
end

