-- ==== Sys2Proof/Machine/VecInt.lean ====
section
/-! DEFINITION. Integer lane instructions, class 0x09, and permutes and reductions, class 0x0A (spec/06_vector.md R159–R167). -/
namespace Sys2Proof.Machine
open Sys2Proof

/-- Element width and signedness, .s32 by default (R159). -/
def Fields.elem (f : Fields) : Nat × Bool := (tyInt f.ty).getD (32, true)

/-- Element j of n bits of a lane as an integer (R63, R145). -/
def elemVal (n : Nat) (sg : Bool) (l : Lane) (j : Nat) : Int := intVal n sg (l.toNat / 2 ^ (n * j))

/-- A lane of 32 / n elements. -/
def laneOfElems (n : Nat) (xs : List Int) : Lane :=
  BitVec.ofNat 32 ((xs.zipIdx.map fun p => pat n p.1 * 2 ^ (n * p.2)).sum)

/-- Every element of a lane negated in its own width, with wrap (R146). -/
def negElems (n : Nat) (l : Lane) : Lane :=
  laneOfElems n ((List.range (32 / n)).map fun j => -elemVal n true l j)

/-- An integer source's lanes, its elements negated under the modifier (R146). -/
def intSrc (n : Nat) (o : Opnd) (v : Val) : VReg := if o.m = .neg then v.lanes.map (negElems n) else v.lanes

/-- One lane of an elementwise operation: the exact result of each element reduced once (R159). -/
def elementwise (sat : Bool) (n : Nat) (sg : Bool) (op : Int → Int → Int) (a b : Lane) : Lane :=
  laneOfElems n ((List.range (32 / n)).map fun j =>
    (if sat then satTo else wrapTo) n sg (op (elemVal n sg a j) (elemVal n sg b j)))

/-- An elementwise instruction of two sources. -/
def elem2 (gd : Guard) (f : Fields) (s : State) (op : Int → Int → Int) : Host.Outcome State Fault Refusal :=
  vectorTurn gd s f.dst [f.src1, f.src2] [] (fun _ vs =>
    let n := (Fields.elem f).1
    ⟨.v (Vector.zipWith (elementwise (f.qual = 1) n (Fields.elem f).2 op) (intSrc n f.src1 (valAt vs 0))
      (intSrc n f.src2 (valAt vs 1))), []⟩) eventMask

def execIadd (gd : Guard) (f : Fields) (s : State) := elem2 gd f s fun a b => a + b
def execIsub (gd : Guard) (f : Fields) (s : State) := elem2 gd f s fun a b => a - b
def execImul (gd : Guard) (f : Fields) (s : State) := elem2 gd f s fun a b => a * b
def execImin (gd : Guard) (f : Fields) (s : State) := elem2 gd f s fun a b => min a b
def execImax (gd : Guard) (f : Fields) (s : State) := elem2 gd f s fun a b => max a b
def execIabs (gd : Guard) (f : Fields) (s : State) : Host.Outcome State Fault Refusal :=
  vectorTurn gd s f.dst [f.src1] [] (fun _ vs =>
    let n := (Fields.elem f).1
    ⟨.v ((intSrc n f.src1 (valAt vs 0)).map fun a =>
      elementwise (f.qual = 1) n (Fields.elem f).2 (fun x _ => (x.natAbs : Int)) a 0), []⟩) eventMask

/-- One lane of `idot4` (R161): b's elements are unsigned for .z8 and for the mixed-sign flag. -/
def laneDot (sat sg mixed : Bool) (a b c : Lane) : Lane :=
  let p (j : Nat) : Int := elemVal 8 sg a j * elemVal 8 (sg && !mixed) b j
  let t := elemVal 32 sg c 0 + p 0 + p 1 + p 2 + p 3
  BitVec.ofInt 32 ((if sat then satTo else wrapTo) 32 sg t)

def execIdot4 (gd : Guard) (f : Fields) (s : State) : Host.Outcome State Fault Refusal :=
  vectorTurn gd s f.dst [f.src1, f.src2, f.src3] [] (fun _ vs =>
    let c := intSrc 32 f.src3 (valAt vs 2)
    ⟨.v (Vector.zipWith (fun ab c => laneDot (f.qual = 1) (f.ty != .z8) (f.fmt.getLsbD 0) ab.1 ab.2 c)
      (Vector.zipWith Prod.mk (intSrc 8 f.src1 (valAt vs 0)) (intSrc 8 f.src2 (valAt vs 1))) c), []⟩) eventMask

/-- Lane i of a register, lanes counted modulo 32. -/
def laneAt (v : VReg) (i : Nat) : Lane := v[i % 32]'(Nat.mod_lt _ (by decide))

/-- R163. -/
def execVsel (gd : Guard) (f : Fields) (s : State) : Host.Outcome State Fault Refusal :=
  vectorTurn gd s f.dst [f.src1, f.src2, f.src3] [] (fun _ vs =>
    let a := (valAt vs 0).lanes
    let b := (valAt vs 1).lanes
    let m := (valAt vs 2).word
    ⟨.v (Vector.ofFn fun i => if m.getLsbD i.val then a[i] else b[i]), []⟩) eventMask

/-- R164: the index form. -/
def execVshf (gd : Guard) (f : Fields) (s : State) : Host.Outcome State Fault Refusal :=
  vectorTurn gd s f.dst [f.src1, f.src2] [] (fun _ vs =>
    let a := (valAt vs 0).lanes
    ⟨.v ((valAt vs 1).lanes.map fun i => if i.getLsbD 31 then 0 else laneAt a (i.toNat % 32)), []⟩) eventMask
def execVshfRot (gd : Guard) (f : Fields) (s : State) : Host.Outcome State Fault Refusal :=
  vectorTurn gd s f.dst [f.src1] [] (fun _ vs =>
    ⟨.v (Vector.ofFn fun i => laneAt (valAt vs 0).lanes (i.val + Fields.bits f 4 5)), []⟩) eventMask
def execVshfXor (gd : Guard) (f : Fields) (s : State) : Host.Outcome State Fault Refusal :=
  vectorTurn gd s f.dst [f.src1] [] (fun _ vs =>
    ⟨.v (Vector.ofFn fun i => laneAt (valAt vs 0).lanes (i.val ^^^ Fields.bits f 4 5)), []⟩) eventMask

/-- One level of the reduction tree of R165: neighbours combined, each node with the lowest lane of its subtree. -/
def reduceLevel (op : Lane → Lane → LaneOut) : List (Nat × Lane) → List (Nat × Lane) × List (Nat × Nat)
  | (i, a) :: (_, b) :: rest =>
    let y := op a b
    let r := reduceLevel op rest
    ((i, y.1) :: r.1, if y.2 = 0 then r.2 else (i, y.2) :: r.2)
  | xs => (xs, [])

/-- The tree of n levels: the one value and the events of its nodes. -/
def reduceTree (op : Lane → Lane → LaneOut) : Nat → List (Nat × Lane) → Lane × List (Nat × Nat)
  | 0, xs => ((xs.headD (0, 0)).2, [])
  | n + 1, xs =>
    let r := reduceLevel op xs
    let r' := reduceTree op n r.1
    (r'.1, r.2 ++ r'.2)

/-- The lanes of a register with their numbers. -/
def numbered (v : VReg) : List (Nat × Lane) := v.toList.zipIdx.map fun p => (p.2, p.1)

/-- A reduction's result for its destination: a word extended by its type for d, every lane for v (R165). -/
def redResult (f : Fields) (l : Lane) (events : List (Nat × Nat)) : VResult :=
  match f.dst.reg with
  | .d _ => ⟨.w (if f.ty = .s32 then l.signExtend 64 else l.setWidth 64), events⟩
  | _ => ⟨.v (Vector.replicate 32 l), events⟩

def execVredAdd (gd : Guard) (f : Fields) (s : State) : Host.Outcome State Fault Refusal :=
  vectorTurn gd s f.dst [f.src1] [] (fun x vs =>
    let a := (valAt vs 0).lanes
    let sat := f.fmt.getLsbD 4
    if f.ty = .f32 then
      let r := reduceTree (laneAdd (rndOf (BitVec.ofNat 2 (Fields.bits f 2 2))) sat x.t.origin) 5 (numbered a)
      redResult f r.1 r.2
    else
      let sg := decide (f.ty = .s32)
      redResult f (BitVec.ofInt 32 ((if sat then satTo else wrapTo) 32 sg (a.toList.map fun l => elemVal 32 sg l 0).sum)) [])
    eventMask

/-- `vred.min` and `vred.max`: the tree of `fmin` or `fmax` for .f32, the extreme integer otherwise (R165). -/
def vredExtreme (gd : Guard) (f : Fields) (s : State) (opF : Lane → Lane → LaneOut) (least : Bool) :
    Host.Outcome State Fault Refusal :=
  vectorTurn gd s f.dst [f.src1] [] (fun _ vs =>
    let a := numbered (valAt vs 0).lanes
    if f.ty = .f32 then redResult f (reduceTree opF 5 a).1 []
    else
      let sg := decide (f.ty = .s32)
      let opI (x y : Lane) : LaneOut := (if (decide (elemVal 32 sg x 0 ≤ elemVal 32 sg y 0)) == least then x else y, 0)
      redResult f (reduceTree opI 5 a).1 []) eventMask

def execVredMin (gd : Guard) (f : Fields) (s : State) := vredExtreme gd f s laneMin true
def execVredMax (gd : Guard) (f : Fields) (s : State) := vredExtreme gd f s laneMax false

/-- R166. -/
def execVbc (gd : Guard) (f : Fields) (s : State) : Host.Outcome State Fault Refusal :=
  vectorTurn gd s f.dst [f.src1] [] (fun _ vs => ⟨.v (valAt vs 0).lanes, []⟩) eventMask
def execVbcLane (gd : Guard) (f : Fields) (s : State) : Host.Outcome State Fault Refusal :=
  vectorTurn gd s f.dst [f.src1] [] (fun _ vs =>
    ⟨.v (Vector.replicate 32 (laneAt (valAt vs 0).lanes (Fields.bits f 0 5))), []⟩) eventMask

/-- R167. -/
def execVmov (gd : Guard) (f : Fields) (s : State) : Host.Outcome State Fault Refusal :=
  vectorTurn gd s f.dst [f.src1] [] (fun _ vs => ⟨.v (valAt vs 0).lanes, []⟩) eventMask
def execVmovExtract (gd : Guard) (f : Fields) (s : State) : Host.Outcome State Fault Refusal :=
  vectorTurn gd s f.dst [f.src1] [] (fun _ vs =>
    ⟨.w ((laneAt (valAt vs 0).lanes (Fields.bits f 0 5)).setWidth 64), []⟩) eventMask

/-- The v register an instruction writes, as it stands. -/
def oldV (x : Ctx) (o : Opnd) : VReg :=
  match o.reg with
  | .v i => x.t.v[i]
  | _ => Vector.replicate 32 0

def execVmovInsert (gd : Guard) (f : Fields) (s : State) : Host.Outcome State Fault Refusal :=
  vectorTurn gd s f.dst [f.src1] [f.dst] (fun x vs =>
    ⟨.v ((oldV x f.dst).setIfInBounds (Fields.bits f 0 5) ((valAt vs 0).word.setWidth 32)), []⟩) eventMask

end Sys2Proof.Machine
end

