-- ==== Sys2Proof/Machine/Convert.lean ====
section
/-! DEFINITION. Conversion, quantisation, event NaNs and plane moves, class 0x0C and the register forms of class 0x0D
(spec/07_convert_planar.md R169–R180). -/
namespace Sys2Proof.Machine
open Sys2Proof

/-- Planes of a G type (R46). -/
def gPlanes (t : Ty) : Nat :=
  match t with
  | .g16 => 2
  | .g32 => 4
  | _ => 1

/-- The source type code in fmt[35:32] (R170). -/
def Fields.srcTy (f : Fields) : Ty :=
  match Fields.bits f 32 4 with
  | 0 => .dflt
  | 1 => .s8
  | 2 => .s16
  | 3 => .s32
  | 4 => .s64
  | 5 => .z8
  | 6 => .z16
  | 7 => .z32
  | 8 => .z64
  | 9 => .f32
  | 10 => .bf16
  | 11 => .g8
  | 12 => .g16
  | 13 => .g32
  | 14 => .cb4
  | _ => .e8

/-- The exact value of a source of a type (R171, R172). -/
def cvtVal (t : Ty) (x : Word) : XNum :=
  match tyInt t with
  | some (n, sg) => xOfInt (intVal n sg x.toNat) 0
  | none =>
    match t with
    | .f32 => f32Val (x.setWidth 32)
    | .bf16 => bf16Val (x.setWidth 16)
    | t => readG (planes (gPlanes t) (x.setWidth 32))

/-- An exact value converted to a type (R172): an integer saturates and is extended, .bf16 and G leave the bits above zero. -/
def cvtTo (t : Ty) (r : Rnd) (sat : Bool) (x : XNum) : Word :=
  match tyInt t with
  | some (n, sg) => intWord (xToIntSat r n sg x)
  | none =>
    match t with
    | .f32 => (f32Of r sat x).setWidth 64
    | .bf16 => (bf16Of r sat x).setWidth 64
    | t => (keepPlanes (gPlanes t) (encodeG r sat x)).setWidth 64

/-- `cvt` of one value. -/
def cvtOf (f : Fields) (x : Word) : Word := cvtTo f.ty (Fields.rnd f) (f.fmt.getLsbD 0) (cvtVal (Fields.srcTy f) x)

def execCvt (gd : Guard) (f : Fields) (s : State) : Host.Outcome State Fault Refusal :=
  scalarTurn gd s f.dst [f.src1] fun _ vs => cvtOf f (val vs 0)
def execCvtVector (gd : Guard) (f : Fields) (s : State) : Host.Outcome State Fault Refusal :=
  vectorTurn gd s f.dst [f.src1] [] (fun _ vs =>
    ⟨.v ((valAt vs 0).lanes.map fun l => (cvtOf f (l.setWidth 64)).setWidth 32), []⟩) fun _ => 0

/-- A magnitude in units of 2^−149. -/
def f32Mag (b : Lane) : Nat :=
  match f32Val b with
  | .fin _ n e => n <<< (e + 149).toNat
  | _ => 0

/-- A lane that is a NaN or an infinity. -/
def notFinite (b : Lane) : Bool := decide (0x7F800000 ≤ b.toNat % 2 ^ 31)

/-- R174: the scale code of a block in the word `qcb` and `dqcb` read, and its event. -/
def qscOf (origin : BitVec 16) (xs : List Lane) (sc : Lane) : VResult :=
  let out (hi : Lane) (b : Nat) : Word := BitVec.ofNat 64 (hi.toNat * 2 ^ 32 + b)
  if xs.any notFinite then ⟨.w (out (eventNan 8 origin) 0), [(0, 8)]⟩
  else if f32IsNan sc then ⟨.w (out (quieten sc) 0), []⟩
  else
    let m := xs.foldl (fun a x => max a (f32Mag x)) 0
    if m = 0 then ⟨.w (out sc 0), []⟩
    else if (f32Val sc).isInf then ⟨.w (out sc 1), []⟩
    else
      let d := 127 * f32Mag sc
      ⟨.w (out sc (if d = 0 then 255 else min 255 ((m * 2 ^ 15 + d - 1) / d))), []⟩

def execQsc (gd : Guard) (f : Fields) (s : State) : Host.Outcome State Fault Refusal :=
  vectorTurn gd s f.dst [f.src1, f.src2, f.src3] [] (fun x vs =>
    qscOf x.t.origin ((valAt vs 0).lanes.toList ++ (valAt vs 1).lanes.toList) ((valAt vs 2).word.setWidth 32)) fun _ => 0

/-- The level index of a value under scale S and code b (R88, R175): round_cb4 of x / (S × b / 256), decided exactly. -/
def cbIndexOf (x sc : Lane) (b : Nat) : Nat :=
  match f32Val sc with
  | .fin neg n e =>
    roundCb4 fun t =>
      let bound := XNum.fin (xor neg (decide (t < 0))) (n * b * t.natAbs) (e - 16)
      if neg then xLe (f32Val x) bound else xLe bound (f32Val x)
  | _ => 7

/-- The 32 bytes of packed indices (R86). -/
def packCb (ix : List Nat) : List Byte :=
  (List.range (ix.length / 2)).map fun j => BitVec.ofNat 8 (ix.getD (2 * j) 0 + 16 * ix.getD (2 * j + 1) 0)

/-- Eight lanes from 32 bytes. -/
def lanes8 (bs : List Byte) : List Lane := (List.range 8).map fun i => packPlanes (bs.drop (4 * i))

/-- Quarter j of a register replaced by eight lanes. -/
def putQuarter (v : VReg) (j : Nat) (q : List Lane) : VReg :=
  Vector.ofFn fun i => if i.val / 8 = j then q.getD (i.val % 8) 0 else v[i]

/-- R175: the eight lanes of a quarter, and the event. -/
def qcbOf (origin : BitVec 16) (xs : List Lane) (q : Word) : List Lane × List (Nat × Nat) :=
  let sc : Lane := (q >>> 32).setWidth 32
  let b := q.toNat % 256
  if f32IsNan sc then (List.replicate 8 (quieten sc), [])
  else if xs.any notFinite then (List.replicate 8 (eventNan 8 origin), [(0, 8)])
  else if b = 0 ∨ (f32Val sc).isZero then (List.replicate 8 0x77777777, [])
  else (lanes8 (packCb (xs.map fun x => cbIndexOf x sc b)), [])

def execQcb (gd : Guard) (f : Fields) (s : State) : Host.Outcome State Fault Refusal :=
  vectorTurn gd s f.dst [f.src1, f.src2, f.src3] [f.dst] (fun x vs =>
    let r := qcbOf x.t.origin ((valAt vs 0).lanes.toList ++ (valAt vs 1).lanes.toList) (valAt vs 2).word
    ⟨.v (putQuarter (oldV x f.dst) (Fields.bits f 0 2) r.1), r.2⟩) fun _ => 0

/-- R176: one lane from a level index. -/
def dqcbLane (r : Rnd) (origin : BitVec 16) (q : Word) (ix : Nat) : LaneOut :=
  let sc : Lane := (q >>> 32).setWidth 32
  let b := q.toNat % 256
  if b = 0 then (0, 0)
  else if f32IsNan sc then (quieten sc, 0)
  else if (f32Val sc).isInf && ix == 7 then (eventNan 2 origin, 2)
  else
    let c := cbLevel ix
    (f32Of r false (xMul (.fin (decide (c < 0)) (c.natAbs * b) (-15)) (f32Val sc)), 0)

def execDqcb (gd : Guard) (f : Fields) (s : State) : Host.Outcome State Fault Refusal :=
  vectorTurn gd s f.dst [f.src1, f.src2] [] (fun x vs =>
    let bs := bytesOfV (valAt vs 0).lanes
    let j := Fields.bits f 0 2
    let h := Fields.bits f 2 1
    lanesResult (Vector.ofFn fun i => dqcbLane (Fields.rnd f) x.t.origin (valAt vs 1).word
      (cbIndex (fun k => bs.getD (32 * j + k) 0) (32 * h + i.val)))) fun _ => 0

/-- R178: an event NaN of a software code in a lane of the type. -/
def nanmLane (t : Ty) (code : Nat) (origin : BitVec 16) : Lane :=
  match t with
  | .g32 => packPlanes [0x7F, BitVec.ofNat 8 code, (origin >>> 8).setWidth 8, origin.setWidth 8]
  | .g16 => packPlanes [0x7F, BitVec.ofNat 8 code, 0, 0]
  | _ => eventNan code origin

/-- A lane that `nanm` passes on: a signalling NaN of .f32 is quietened (R66, R185). -/
def nanmKeep (t : Ty) (l : Lane) : Lane :=
  match t with
  | .g16 => l
  | .g32 => l
  | _ => if f32IsNan l then quieten l else l

def execNanm (gd : Guard) (f : Fields) (s : State) : Host.Outcome State Fault Refusal :=
  vectorTurn gd s f.dst [f.src1, f.src2] [] (fun x vs =>
    let a := (valAt vs 0).lanes
    let m := (valAt vs 1).word
    ⟨.v (Vector.ofFn fun i =>
      if m.getLsbD i.val then nanmLane f.ty (Fields.bits f 0 6) x.t.origin else nanmKeep f.ty a[i]), []⟩) fun _ => 0

/-- R179: the code and origin of a lane that holds an event NaN of the type. -/
def nanxLane (t : Ty) (l : Lane) : Option (Nat × Nat) :=
  let code := l.toNat / 2 ^ 8 % 64
  let lead := l.toNat % 128 == 127
  match t with
  | .g8 => none
  | .g16 => if lead && code != 0 then some (code, 0) else none
  | .g32 => if lead && code != 0 then some (code, l.toNat / 2 ^ 16 % 256 * 256 + l.toNat / 2 ^ 24) else none
  | _ => if laneClass l = 2 then some (l.toNat / 2 ^ 16 % 64, l.toNat % 2 ^ 16) else none

def execNanx (gd : Guard) (f : Fields) (s : State) : Host.Outcome State Fault Refusal :=
  vectorTurn gd s f.dst [f.src1] [] (fun _ vs =>
    let found := ((numbered (valAt vs 0).lanes).drop (Fields.bits f 0 5)).filterMap fun p =>
      (nanxLane f.ty p.2).map fun e => (p.1, e)
    ⟨.w (match found with
      | [] => 32
      | e :: _ => BitVec.ofNat 64 (e.1 + 2 ^ 8 * e.2.1 + 2 ^ 16 * e.2.2 + 2 ^ 32 * found.length)), []⟩) fun _ => 0

/-- R180. -/
def execPspl (gd : Guard) (f : Fields) (s : State) : Host.Outcome State Fault Refusal :=
  vectorTurn gd s f.dst [f.src1] [f.dst] (fun x vs =>
    let j := Fields.bits f 0 2
    let a := (valAt vs 0).lanes
    ⟨.v (putQuarter (oldV x f.dst) j (lanes8 (a.toList.map (plane (Fields.bits f 2 2))))), []⟩) fun _ => 0
def execPjn (gd : Guard) (f : Fields) (s : State) : Host.Outcome State Fault Refusal :=
  vectorTurn gd s f.dst [f.src1] [f.dst] (fun x vs =>
    let j := Fields.bits f 0 2
    let k := Fields.bits f 2 2
    let bs := bytesOfV (valAt vs 0).lanes
    ⟨.v ((oldV x f.dst).mapFinIdx fun i l _ =>
      packPlanes (((planes 4 l)).set k (bs.getD (32 * j + i) 0))), []⟩) fun _ => 0

end Sys2Proof.Machine
end

