-- ==== Sys2Proof/Machine/Memory.lean ====
section
/-! DEFINITION. Addresses, translation and bytes: the address map (spec/08_memory.md R186, R187), page tables (R189–R193), the
windows (R194, R195, R210, R211), KV blocks (R206–R208), and reading and writing bytes where they are at home. -/
namespace Sys2Proof.Machine
open Sys2Proof

/-- The region of an effective address (R186). -/
inductive Region where
  | high
  | none
  | translated
  | vaultLocal (o : Nat)
  | cluster (clu o : Nat)
  | spad (o : Nat)
  | team (team o : Nat)
  | kv (s b o : Nat)
  deriving DecidableEq, Repr

/-- Where a byte is at home: a vault or cluster memory by its address in this package, the scratchpad of a core, or the vault
memory of another package (R19, R192, R210). -/
inductive Place where
  | mem (pa : Nat)
  | spad (g off : Nat)
  | peer (pkg off : Nat)
  deriving DecidableEq, Repr

/-- The outcome of the checks of an access: it may proceed, it waits for a walk or a step (the state with the request made), or
it fails the first check (R193, R196). -/
inductive Acc (α : Type) where
  | ok (a : α)
  | wait (s : State)
  | trap (kind : BitVec 8) (detail : Nat) (addr : Word)

/-- What an access does to its bytes: reads, writes or fetches them, or only finds where they are. -/
inductive UseKind where
  | read | write | fetch | locate
  deriving DecidableEq, Repr

/-- A use, and whether the access may go through a peer leaf (R192). -/
structure Use where
  kind  : UseKind
  peers : Bool
  deriving DecidableEq, Repr

def Use.read : Use := ⟨.read, true⟩
def Use.write : Use := ⟨.write, true⟩
def Use.fetch : Use := ⟨.fetch, false⟩
def Use.locate : Use := ⟨.locate, false⟩

/-- The team of a key on a core (R334); a retired one stays until its copies have drained (R285). -/
def Core.teamOf (c : Core) (k : TeamKey) : Option Team := c.teams.find? fun tm => tm.key == k

/-- The core on which a team is bound, and its record there. -/
def State.findTeam (s : State) (k : TeamKey) : Option (Nat × Team) :=
  s.cores.findSome? fun e => (e.2.teamOf k).map fun tm => (e.1, tm)
def Thread.key (t : Thread) : TeamKey := ⟨t.launch, t.team⟩

/-- The thread is on its team's core (R202). -/
def Core.atHome (c : Core) (t : Thread) : Bool := (c.teamOf t.key).isSome

/-- The partition that runs a colour (R26). -/
def State.partOf (s : State) (colour : Nat) : Option (Nat × Partition) := s.parts.find? fun p => p.2.colours.contains colour

/-- A cluster is in the partition of a colour and its die is not fenced (R186). -/
def State.clusterOk (s : State) (colour clu : Nat) : Bool :=
  ((s.partOf colour).map fun p => p.2.clusters.contains clu).getD false && !(s.die (clu / 16)).fenced

def State.wp (s : State) (colour die : Nat) : Word := smapGet 0 s.wpBase (8 * colour + die)
def State.vlFrame (s : State) (colour die : Nat) : Nat := (smapGet 0 s.vlBase (8 * colour + die)).toNat % 2 ^ 12
def State.vlSize (s : State) (colour die : Nat) : Nat := (smapGet 0 s.vlLimit (8 * colour + die)).toNat % 2 ^ 13

/-- Bytes of the vault-local window of a colour on a die, which ends at the vault's end (R194). -/
def State.vlBytes (s : State) (colour die : Nat) : Nat :=
  min (s.vlSize colour die) (4096 - s.vlFrame colour die) * 65536

/-- The cluster on which deterministic numbering puts logical core L (R340), in a partition's clusters. -/
def detCluster (clusters : List Nat) (L : Nat) : Nat := clusters.getD (logicalCluster L % clusters.length) 0

/-- The logical clusters that the cluster at place i of c runs, round by round (R340). -/
def ownRounds (c i : Nat) : List Nat := (List.range ((63 + c - i) / c)).map fun r => i + r * c

def Partition.onDie (p : Partition) (d : Nat) : List Nat := p.clusters.filter fun c => c / 16 == d

/-- The cluster that runs what is placed on a cluster: itself, or, if its die is fenced, the like cluster of the partition's next live die
(notes/assumptions/104.md). -/
def State.standIn (s : State) (p : Partition) (clu : Nat) : Nat :=
  let d := clu / 16
  match ((List.range 8).map fun i => (d + i) % 8).find? fun x => !(s.die x).fenced && !(p.onDie x).isEmpty with
  | some x => if x = d then clu else (p.onDie x).getD (clu % 16 % (p.onDie x).length) clu
  | none => clu

/-- The logical clusters that a cluster runs in a deterministic launch, one a round: its own (R340), then those of the clusters it stands in for, the
nearest die's first, so that a later fence moves none that it has (notes/assumptions/104.md). -/
def State.roundsOf (s : State) (p : Partition) (clu : Nat) : List Nat :=
  (List.range 8).flatMap fun i => ((p.onDie ((clu / 16 + 8 - i) % 8)).filter fun c => s.standIn p c == clu).flatMap fun c =>
    ownRounds p.clusters.length (p.clusters.idxOf c)

/-- Where a deterministic launch's logical core runs (R340): its physical core and its round. -/
def State.detPlace (s : State) (p : Partition) (L : Nat) : Nat × Nat :=
  let clu := s.standIn p (detCluster p.clusters L)
  (coreAt clu (4 * (L / 32 % 4) + L % 4), (s.roundsOf p clu).idxOf (logicalCluster L))

/-- The window of a thread in a deterministic launch is its logical core's bank in the thread's round (R339, R340). Away from its team's core
(R195 gives only the vault) it keeps the frame of its round and the size of a bank (DESIGN CHOICE, notes/assumptions/87.md). -/
def State.bankFrame (s : State) (g : Nat) (launch team : Nat) (colour : Nat) : Nat × Nat :=
  let frame := s.vlFrame colour (dieOf g)
  match s.launch? launch with
  | some l =>
    if l.det then
      let round := ((s.partOf colour).map fun p => (s.detPlace p.2 (l.lcore team)).2).getD 0
      (frame + round * l.vbank, l.vbank * 65536)
    else (frame, s.vlBytes colour (dieOf g))
  | none => (frame, s.vlBytes colour (dieOf g))

/-- kb and ks of kv.geom (R206): a value above 16, which the rule does not name, counts as 16 (DESIGN CHOICE,
notes/assumptions/34.md). -/
def Colour.kvKb (r : Colour) : Nat := min (r.kvGeom.toNat % 32) 16
def Colour.kvKs (r : Colour) : Nat := min (r.kvGeom.toNat / 32 % 32) 16

/-- The region an address lies in for a thread's colour and team on core g (R186). -/
def State.region (s : State) (g colour : Nat) (key : TeamKey) (a : Word) : Region :=
  let n := a.toNat
  if 2 ^ 55 ≤ n then .high
  else if n < 2 ^ 54 then .translated
  else
    let w := n / 2 ^ 48 % 64
    let o := n % 2 ^ 48
    if w = 0x00 then (if o < (s.bankFrame g key.launch key.team colour).2 then .vaultLocal o else .none)
    else if w = 0x01 then (if o < 2 ^ 26 then .cluster (clusterOf g) o else .none)
    else if w = 0x02 then
      (if o < 2 ^ 33 ∧ s.clusterOk colour (16 * (o / 2 ^ 30) + o / 2 ^ 26 % 16) then
        .cluster (16 * (o / 2 ^ 30) + o / 2 ^ 26 % 16) (o % 2 ^ 26) else .none)
    else if w = 0x03 then
      (if o < ((s.findTeam key).map fun e => e.2.size).getD 0 then .spad o else .none)
    else if 0x04 ≤ w ∧ w < 0x08 then
      let size : Nat := ((s.launch? key.launch).map fun l => l.word 4 % 2 ^ 13 * 128).getD 0
      (if o % 2 ^ 20 < size then .team ((n - 2 ^ 54 - 2 ^ 50) / 2 ^ 20) (o % 2 ^ 20) else .none)
    else if w = 0x10 then
      (if o / 2 ^ 32 < 2 ^ (s.colour colour).kvKs ∧ o / 2 ^ 16 % 2 ^ 16 < 2 ^ (s.colour colour).kvKb then
        .kv (o / 2 ^ 32) (o / 2 ^ 16 % 2 ^ 16) (o % 2 ^ 16) else .none)
    else .none

/-- An uncorrectable error is present in a sector the bytes touch (R212; notes/assumptions/18.md). -/
def State.bad (s : State) (pa n : Nat) : Bool :=
  s.badMem.any fun e => e.2 && decide (e.1 * 64 < pa + n ∧ pa < e.1 * 64 + 64)

/-! Homes. -/

/-- The core of a vault or the cluster of a cluster-memory address. -/
def homeCore (pa : Nat) : Nat := pa / 2 ^ 28
def isCluster (pa : Nat) : Bool := decide (2 ^ 40 ≤ pa ∧ pa < 2 ^ 48)
def isPeer (pa : Nat) : Bool := decide (2 ^ 48 ≤ pa)

/-- A byte of another package's vault memory, and a place as one number. -/
def peerAddr (pkg off : Nat) : Nat := 2 ^ 48 + pkg * 2 ^ 40 + off
def peerOf (pa : Nat) : Nat := (pa - 2 ^ 48) / 2 ^ 40
def Place.addr : Place → Nat
  | .mem pa => pa
  | .peer pkg off => peerAddr pkg off
  | .spad _ off => off
def clusterOfAddr (pa : Nat) : Nat := (pa - 2 ^ 40) / 2 ^ 26 % 128

/-- The home of an address as one number: the slice of a core, 4,096 and more for a cluster's crossbar, 8,192 and more for
another package (R192, R312). -/
def homeOf (pa : Nat) : Nat :=
  if isPeer pa then 8192 + peerOf pa else if isCluster pa then 4096 + clusterOfAddr pa else homeCore pa

/-- The core record that keeps what is held at a home: the slice's own, or the cluster's first core for a crossbar. -/
def homeKeeper (pa : Nat) : Nat := if isCluster pa then coreAt (clusterOfAddr pa) 0 else homeCore pa

/-- The die of a home. -/
def homeDie (pa : Nat) : Nat := if isCluster pa then clusterOfAddr pa / 16 else homeCore pa / 256

/-! The dies of a path (R313). -/

/-- The dies passed from die a to die b, b last: along the row of dies, then between the rows. -/
def diesPassed (a b : Nat) : List Nat :=
  let along := if a % 4 ≤ b % 4 then (List.range (b % 4 - a % 4)).map fun i => a + i + 1
    else (List.range (a % 4 - b % 4)).map fun i => a - i - 1
  if a / 4 = b / 4 then along else along ++ [b]

/-- The dies a message touches, its first and last among them. -/
def pathDies (a b : Nat) : List Nat := a :: diesPassed a b

/-- The die of a home number; none for one that is no place of a die. -/
def dieOfHome (home : Nat) : Option Nat :=
  if home < 2048 then some (dieOf home) else if 4096 ≤ home ∧ home < 4224 then some ((home - 4096) / 16) else none

/-- No die on the fixed path between two dies is fenced: a fenced die's gateways pass nothing (R313, R337). -/
def State.pathOpen (s : State) (a b : Nat) : Bool := (pathDies a b).all fun d => !(s.die d).fenced

/-- The die of a place, `here` for one in another package. -/
def Place.die (here : Nat) : Place → Nat
  | .mem pa => homeDie pa
  | .spad g _ => dieOf g
  | .peer _ _ => here

/-- The way between a die and the home of a byte is open both ways: a request goes and its answer comes back (R313, R337). -/
def State.twoWay (s : State) (die pa : Nat) : Bool := s.pathOpen die (homeDie pa) && s.pathOpen (homeDie pa) die

/-- tr.eng of a home: the slice of a core, or the cluster's unit (R359). -/
def homeUnit (pa : Nat) : Word :=
  if isCluster pa then engWord 6 (homeDie pa) (clusterOfAddr pa % 16) else engWord 3 (homeDie pa) (homeCore pa % 256)

/-- Correctable errors met: corrected in place, counted for the arbiter and a trigger of the recorders (R212, R385). -/
def State.countFixed (s : State) (die n : Nat) : State :=
  if n = 0 then s
  else (s.setDie die { s.die die with cecc := (s.die die).cecc + n }).trigger die 0

/-- The correctable errors in the bytes of an access to memory, each counted on its home's die. -/
def State.correct (s : State) (segs : List (Nat × Nat)) : State :=
  let hit (e : Nat × Bool) : Bool := !e.2 && segs.any fun g => decide (e.1 * 64 < g.1 + g.2 ∧ g.1 < e.1 * 64 + 64)
  if s.badMem.any hit then
    (s.badMem.filter hit).foldl (fun s e => s.countFixed (homeDie (e.1 * 64)) 1) { s with badMem := s.badMem.filter fun e => !hit e }
  else s

/-! Page tables. -/

/-- A little-endian number of n bytes in memory. -/
def State.memNum (s : State) (a n : Nat) : Nat := (leNum (memGets s.mem a n))
where
  leNum : List Byte → Nat
    | [] => 0
    | b :: rest => b.toNat + 256 * leNum rest

/-- The vault address of a pointer in the layout of wp.base (R189). -/
def ptrAddr (e : Nat) : Nat := (256 * (e / 2 ^ 16 % 8) + e / 2 ^ 24 % 256) * 2 ^ 28 + e / 2 ^ 32 % 2 ^ 16 * 4096

/-- Whether a valid non-leaf entry keeps the constraints of R189 and R190. -/
def ptrOk (e : Nat) : Bool :=
  e / 2 % 8 == 0 && e / 32 % 2 ^ 11 == 0 && e / 2 ^ 19 % 32 == 0 && e / 2 ^ 32 % 16 == 0 && e / 2 ^ 48 == 0

/-- The number of dies of an interleaving set. -/
def setDies (dset : Nat) : List Nat := (List.range 8).filter fun j => dset.testBit j

/-- Whether a leaf keeps the constraints of R190–R192, `big` for a 512 MiB page. -/
def leafOk (big : Bool) (e : Nat) : Bool :=
  let fofs := e / 2 ^ 32 % 2 ^ 16
  let dset := e / 2 ^ 16 % 256
  e / 2 ^ 48 == 0 &&
  match e / 32 % 4 with
  | 0 => !big && e / 2 ^ 7 % 2 ^ 9 == 0 && dset / 8 == 0 && fofs % 16 == 0
  | 1 =>
    let n := 256 * (setDies dset).length
    let p := if big then 131072 else 16
    e / 2 ^ 7 % 2 ^ 9 == 0 && e / 2 ^ 24 % 256 == 0 && dset != 0
      && decide (fofs * 4096 + 4096 * ((p + n - 1) / n) ≤ 2 ^ 28)
  | 2 => !big && e / 2 ^ 15 % 2 == 0 && dset / 8 == 0 && fofs % 16 == 0
  | _ => false

/-- Entry i of a table, unless it meets an uncorrectable error (R212). -/
def State.tableEntry (s : State) (table i : Nat) : Option Nat :=
  if s.bad (table + 8 * i) 8 then none else some (s.memNum (table + 8 * i) 8)

/-- The page fault of every translated access while wp.base is not valid or is malformed (R189). -/
def State.wpFault (s : State) (colour die : Nat) : Option Nat :=
  let wp := (s.wp colour die).toNat
  if wp % 2 = 0 then some 1 else if wp / 2 ^ 32 % 16 ≠ 0 then some 3 else none

/-- A walk of the tables of a colour on a die (R189, R190): whether the page is of 512 MiB and its leaf, or the page fault's
detail, 0 where an entry meets an uncorrectable error (notes/assumptions/18.md). -/
def State.walk (s : State) (colour die va : Nat) : Except Nat (Bool × Nat) :=
  match s.wpFault colour die with
  | some d => .error d
  | none =>
    match s.tableEntry (ptrAddr (s.wp colour die).toNat) (va / 2 ^ 42 % 2 ^ 13) with
    | none => .error 0
    | some e0 =>
      if e0 % 2 = 0 then .error 1
      else if e0.testBit 4 ∨ ptrOk e0 = false then .error 3
      else match s.tableEntry (ptrAddr e0) (va / 2 ^ 29 % 2 ^ 13) with
        | none => .error 0
        | some e1 =>
          if e1 % 2 = 0 then .error 1
          else if e1.testBit 4 then (if leafOk true e1 then .ok (true, e1) else .error 3)
          else if ptrOk e1 = false then .error 3
          else match s.tableEntry (ptrAddr e1) (va / 2 ^ 16 % 2 ^ 13) with
            | none => .error 0
            | some e2 =>
              if e2 % 2 = 0 then .error 1
              else if e2.testBit 4 = false ∨ leafOk false e2 = false then .error 3
              else .ok (false, e2)

/-- The table entries that a walk reads (R189, R190), each with its size. -/
def State.walkWords (s : State) (colour die va : Nat) : List (Nat × Nat) :=
  if (s.wpFault colour die).isSome then []
  else
    let a0 := ptrAddr (s.wp colour die).toNat + 8 * (va / 2 ^ 42 % 2 ^ 13)
    let e0 := s.memNum a0 8
    if e0 % 2 = 0 ∨ e0.testBit 4 ∨ ptrOk e0 = false then [(a0, 8)]
    else
      let a1 := ptrAddr e0 + 8 * (va / 2 ^ 29 % 2 ^ 13)
      let e1 := s.memNum a1 8
      if e1 % 2 = 0 ∨ e1.testBit 4 ∨ ptrOk e1 = false then [(a0, 8), (a1, 8)]
      else [(a0, 8), (a1, 8), (ptrAddr e1 + 8 * (va / 2 ^ 16 % 2 ^ 13), 8)]

/-- The tables that a walk reads are not behind a fenced die (R313, R337). -/
def State.walkOpen (s : State) (colour die va : Nat) : Bool := (s.walkWords colour die va).all fun w => s.twoWay die w.1

/-- The kind of the fault a walk ends with. -/
def walkKind (d : Nat) : BitVec 8 := if d = 0 then kindCheck else kindPage

/-- Where a leaf maps a byte (R191, R192). -/
def leafPlace (big : Bool) (e va : Nat) : Place :=
  let fofs := e / 2 ^ 32 % 2 ^ 16
  let dset := e / 2 ^ 16 % 256
  let core := e / 2 ^ 24 % 256
  match e / 32 % 4 with
  | 1 =>
    let ds := setDies dset
    let n := 256 * ds.length
    let v := va / 4096 % n
    let i := if big then va % 2 ^ 29 / 4096 else va % 2 ^ 16 / 4096
    .mem ((256 * ds.getD (v / 256) 0 + v % 256) * 2 ^ 28 + fofs * 4096 + 4096 * (i / n) + va % 4096)
  | 2 => .peer (e / 2 ^ 7 % 256) ((256 * (dset % 8) + core) * 2 ^ 28 + fofs * 4096 + va % 2 ^ 16)
  | _ => .mem ((256 * (dset % 8) + core) * 2 ^ 28 + fofs * 4096 + va % 2 ^ 16)

/-- The permission of a leaf for a use (R193). `migr` only locates a byte, and R202 names no permission: none is asked for
(DEDUCED, notes/assumptions/37.md). -/
def leafAllows (u : Use) (e : Nat) : Bool :=
  match u.kind with
  | .read => e.testBit 1
  | .write => e.testBit 2
  | .fetch => e.testBit 3
  | .locate => true

/-- The peer port a die's route table names for a package, if it has a session (R192). -/
def State.peerPort (s : State) (die pkg : Nat) : Option Nat :=
  match smapFind (s.die die).routes pkg with
  | none => none
  | some p => if (s.port p).sess then some p else none

/-- Traffic of a colour on a port (R398). -/
def State.portUsed (s : State) (port colour : Nat) : State :=
  if (s.port port).users.contains colour then s else s.setPort port { s.port port with users := (s.port port).users ++ [colour] }

/-- A job begins: its digest is 64 zero bytes, with no gap, and its launches are numbered from 1 (R401). -/
def Colour.newJob (c : Colour) : Colour := { c with digest := List.replicate 64 0, gap := false, seq := 0 }

/-- No port carries traffic of a colour any longer: its interface is left, or locked anew (R398). -/
def State.leavePorts (s : State) (colour : Nat) : State :=
  { s with ports := s.ports.map fun (e : Nat × Port) => (e.1, { e.2 with users := e.2.users.filter fun k => k != colour }) }

/-- Traffic of a colour uses the peer port that a die's route table names for a package (R398). -/
def State.usePort (s : State) (die pkg colour : Nat) : State :=
  match s.peerPort die pkg with
  | some p => s.portUsed p colour
  | none => s

/-! Vault memory of another colour (R7, R8, R400; notes/assumptions/33.md). -/

/-- A colour of a job without a DRAM key, which is drawn when its interface is locked and destroyed later: no vault byte can be read or
written for it (R400). Colour 0 is the arbiters' own. -/
def State.keyless (s : State) (colour : Nat) : Bool := colour != 0 && !(s.colour colour).key

/-- A vault byte that a colour may not reach: its frame of 64 KiB was given to another colour, or written first by another (DESIGN CHOICE,
notes/assumptions/33.md), or the colour has no key. -/
def State.foreign (s : State) (colour pa : Nat) : Bool :=
  decide (pa < 2 ^ 40) && (s.keyless colour || match smapFind s.owners (pa / 65536) with
    | some k => k != colour
    | none => false)

/-- Some of these bytes are foreign. -/
def State.foreignAny (s : State) (colour : Nat) (pas : List Nat) : Bool := pas.any (s.foreign colour)

/-- The frame of a written byte is the writer's, unless it was given to a colour or written before. -/
def claimFrame (colour : Nat) (owners : List (Nat × Nat)) (pa : Nat) : List (Nat × Nat) :=
  if 2 ^ 40 ≤ pa ∨ (smapFind owners (pa / 65536)).isSome then owners else smapPut owners (pa / 65536) colour

def State.claim (s : State) (colour : Nat) (pas : List Nat) : State :=
  { s with owners := pas.foldl (claimFrame colour) s.owners }

/-- The bytes written at their addresses. -/
def State.memWrite (s : State) (bytes : List (Nat × Byte)) : State := { s with mem := memPuts s.mem bytes }

/-- Bytes written for a colour. -/
def State.memStore (s : State) (colour : Nat) (bytes : List (Nat × Byte)) : State :=
  (s.memWrite bytes).claim colour (bytes.map Prod.fst)

/-- What a leaf gives an access of a colour on a die: permission first, then a peer page must be reachable (R192, R193), and the vault byte
the colour's (page_fault 3: DESIGN CHOICE, notes/assumptions/33.md). -/
def State.leafAccess (s : State) (die colour : Nat) (u : Use) (big : Bool) (e va : Nat) : Acc Place :=
  if leafAllows u e = false then .trap kindPage 2 (BitVec.ofNat 64 va)
  else match leafPlace big e va with
    | .peer pkg off =>
      if u.peers = false then .trap kindAddress 3 (BitVec.ofNat 64 va)
      else if (s.peerPort die pkg).isSome then .ok (.peer pkg off)
      else .trap kindAddress 7 (BitVec.ofNat 64 va)
    | p => if s.foreign colour p.addr then .trap kindPage 3 (BitVec.ofNat 64 va) else .ok p

/-- The cached translation of an address on a core (R193). -/
def Core.tlbFind (c : Core) (colour va : Nat) : Option Tlb :=
  c.tlb.find? fun e => e.colour == colour && e.page == (if e.big then va / 2 ^ 29 else va / 2 ^ 16)

/-- Walks in progress on a die, of at most 1,024 (R193). -/
def State.dieWalks (s : State) (die : Nat) : Nat :=
  ((s.cores.filter fun e => dieOf e.1 == die).map fun e => (e.2.walks.filter fun w => w.res.isNone).length).sum

/-- Translation of one translated address by a core (R193): wp.base must stand (R189); a cached leaf decides; otherwise a walk is
asked for and the access waits; a walk that has ended in a fault gives its fault once. -/
def State.coreTranslate (s : State) (g colour : Nat) (u : Use) (va : Nat) : Acc Place :=
  let c := s.core g
  match s.wpFault colour (dieOf g) with
  | some d => .trap kindPage d (BitVec.ofNat 64 va)
  | none =>
    match c.tlbFind colour va with
    | some e => s.leafAccess (dieOf g) colour u e.big e.leaf.toNat va
    | none =>
      match c.walks.find? fun w => w.colour == colour && w.page == va / 2 ^ 16 with
      | some w =>
        (match w.res with
        | none => .wait s
        | some d => .trap (walkKind d.toNat) d.toNat (BitVec.ofNat 64 va))
      | none =>
        if 1024 ≤ s.dieWalks (dieOf g) then .wait s
        else .wait (s.setCore g { c with walks := c.walks ++ [⟨colour, va / 2 ^ 16, none⟩] })

/-- The fault result of a walk taken up by the access it stopped. -/
def State.dropWalk (s : State) (g colour va : Nat) : State :=
  let c := s.core g
  s.setCore g { c with walks := c.walks.filter fun w => !(w.colour == colour && w.page == va / 2 ^ 16 && w.res.isSome) }

/-- The cached translation of a page's leaf. -/
def leafEntry (colour va : Nat) (big : Bool) (e : Nat) : Tlb :=
  ⟨colour, big, if big then va / 2 ^ 29 else va / 2 ^ 16, BitVec.ofNat 64 e⟩

/-- The leaf an engine, a copy or a KV step of core g uses (R193): the one cached on the core, which a changed entry does not
replace before `tb.inval`, or the one a walk finds, cached from then on; the walk is made within the step
(notes/assumptions/8.md). -/
def State.unitLeaf (s : State) (g colour va : Nat) : Except Nat (Bool × Nat × State) :=
  match s.wpFault colour (dieOf g) with
  | some d => .error d
  | none =>
    match (s.core g).tlbFind colour va with
    | some e => .ok (e.big, e.leaf.toNat, s)
    | none =>
      match s.walk colour (dieOf g) va with
      | .error d => .error d
      | .ok (big, e) =>
        let c := s.core g
        .ok (big, e,
          (s.setCore g { c with tlb := c.tlb ++ [leafEntry colour va big e] }).correct (s.walkWords colour (dieOf g) va))

/-- A unit of core g may look up an address: its leaf is cached, or one of the die's 1,024 walks is free (R193) and no fenced die is in its
way (R337). -/
def State.walkFree (s : State) (g colour va : Nat) : Bool :=
  ((s.core g).tlbFind colour va).isSome || (decide (s.dieWalks (dieOf g) < 1024) && s.walkOpen colour (dieOf g) va)

/-- Translation of one translated address by an engine or a copy of core g: it waits while it needs a walk and none is free. -/
def State.unitAccess (s : State) (g colour : Nat) (u : Use) (va : Nat) : Acc (State × Place) :=
  if s.walkFree g colour va = false then .wait s
  else match s.unitLeaf g colour va with
    | .error d => .trap (walkKind d) d (BitVec.ofNat 64 va)
    | .ok (big, e, s1) =>
      match s.leafAccess (dieOf g) colour u big e va with
      | .ok p => .ok (s1, p)
      | .wait s2 => .wait s2
      | .trap k d b => .trap k d b

/-- Translation for a unit that keeps no translations and walks the tables as they stand: the arbiter, a recorder, a host DMA
(notes/assumptions/8.md). It comes to no place while a fenced die closes the way to the tables or to the place (R337). -/
def State.walkAccess (s : State) (die colour : Nat) (u : Use) (va : Nat) : Acc Place :=
  if s.walkOpen colour die va = false then .wait s
  else match s.walk colour die va with
    | .error d => .trap (walkKind d) d (BitVec.ofNat 64 va)
    | .ok (big, e) => match s.leafAccess die colour u big e va with
      | .ok (.mem pa) => if s.twoWay die pa then .ok (.mem pa) else .wait s
      | r => r

/-- The address of a byte of a colour's cluster memory (R210). -/
def clusterAddr (colour clu o : Nat) : Nat := 2 ^ 40 + (colour * 128 + clu) * 2 ^ 26 + o

/-- The vault-local window's byte for a team on core g (R194, R195, R340). -/
def State.vaultLocal (s : State) (g colour : Nat) (key : TeamKey) (o : Nat) : Nat :=
  let bank := (((s.core g).teamOf key).map Team.bank).getD g
  bank * 2 ^ 28 + (s.bankFrame g key.launch key.team colour).1 * 65536 + o

/-- The place of a byte of the vault-local window; a foreign one gives page_fault 3 as a leaf's does (DESIGN CHOICE, notes/assumptions/33.md). -/
def State.localPlace (s : State) (g colour : Nat) (key : TeamKey) (o : Nat) (a : Word) : Acc Place :=
  let pa := s.vaultLocal g colour key o
  if s.foreign colour pa then .trap kindPage 3 a else .ok (.mem pa)

/-! KV blocks. The tables are reached from the core whose access, engine or copy needs them, by its translations. -/

/-- Where a word of the colour's own tables in translated space is. -/
def State.kvWordAt (s : State) (g colour : Nat) (u : Use) (va : Nat) : Option Nat :=
  match s.unitLeaf g colour va with
  | .error _ => none
  | .ok (big, e, _) =>
    match s.leafAccess (dieOf g) colour u big e va with
    | .ok (.mem pa) => some pa
    | _ => none

/-- The translation of a table word kept on the core. -/
def State.kvTouch (s : State) (g colour va : Nat) : State :=
  match s.unitLeaf g colour va with
  | .error _ => s
  | .ok (_, _, s1) => s1

/-- Addresses of the entry of (s, b), descriptor j, the free-list word and entry k of the list (R206). -/
def State.kvEntryVa (s : State) (colour sq b : Nat) : Nat :=
  let r := s.colour colour
  r.kvMap.toNat % 2 ^ 55 + 4 * (sq * 2 ^ r.kvKb + b)
def State.kvDescVa (s : State) (colour j : Nat) : Nat := (s.colour colour).kvPool.toNat % 2 ^ 55 + 8 * j
def State.kvFreeVa (s : State) (colour : Nat) : Nat := (s.colour colour).kvFree.toNat % 2 ^ 55

/-- Reading and writing n bytes of the tables; a word that is not mapped reads as a free value and is not written
(notes/assumptions/35.md). -/
def State.kvRead (s : State) (g colour va n : Nat) : Nat :=
  match s.kvWordAt g colour .read va with
  | some pa => s.memNum pa n
  | none => (Config.kvWord s.free va).toNat % 256 ^ n
def State.kvWrite (s : State) (g colour va n x : Nat) : State :=
  let s1 := s.kvTouch g colour va
  match s.kvWordAt g colour .write va with
  | none => s1
  | some pa => s1.memStore colour (enumFrom pa ((List.range n).map fun i => BitVec.ofNat 8 (x / 256 ^ i)))

/-- The block of a descriptor word (R206). -/
def kvBlockAddr (desc : Nat) : Nat := (256 * (desc / 2 ^ 32 % 8) + desc / 2 ^ 35 % 256) * 2 ^ 28 + desc / 2 ^ 43 % 2 ^ 12 * 65536

/-- The pool index of an entry, the block of an index, and the descriptor's reference count. -/
def kvIndex (e : Nat) : Nat := e / 2 % 2 ^ 20
def State.kvEntry (s : State) (g colour sq b : Nat) : Nat := s.kvRead g colour (s.kvEntryVa colour sq b) 4
def State.kvBlock (s : State) (g colour j : Nat) : Nat := kvBlockAddr (s.kvRead g colour (s.kvDescVa colour j) 8)
def State.kvCount (s : State) (g colour j : Nat) : Nat := s.kvRead g colour (s.kvDescVa colour j) 8 % 2 ^ 32

/-- The descriptor's reference count replaced. -/
def State.kvSetCount (s : State) (g colour j n : Nat) : State :=
  let d := s.kvRead g colour (s.kvDescVa colour j) 8
  s.kvWrite g colour (s.kvDescVa colour j) 8 (d / 2 ^ 32 * 2 ^ 32 + n % 2 ^ 32)

/-- The number of indices on the free list, and the address of the top one. -/
def State.kvFreeCount (s : State) (g colour : Nat) : Nat := s.kvRead g colour (s.kvFreeVa colour) 8 % 2 ^ 32
def State.kvTopVa (s : State) (g colour : Nat) : Nat := s.kvFreeVa colour + 8 + 4 * (s.kvFreeCount g colour - 1)
def State.kvTop (s : State) (g colour : Nat) : Nat := s.kvRead g colour (s.kvTopVa g colour) 4

/-- pop_free of R207: the index on top of the list. -/
def State.kvPop (s : State) (g colour : Nat) : Option (Nat × State) :=
  let va := s.kvFreeVa colour
  let w := s.kvRead g colour va 8
  if s.kvFreeCount g colour = 0 then none else
    some (s.kvTop g colour,
      (s.kvTouch g colour (s.kvTopVa g colour)).kvWrite g colour va 8 (w / 2 ^ 32 * 2 ^ 32 + (s.kvFreeCount g colour - 1)))

/-- An index pushed on the free list. -/
def State.kvPush (s : State) (g colour j : Nat) : State :=
  let va := s.kvFreeVa colour
  let w := s.kvRead g colour va 8
  let s1 := s.kvWrite g colour (va + 8 + 4 * (w % 2 ^ 32)) 4 j
  s1.kvWrite g colour va 8 (w / 2 ^ 32 * 2 ^ 32 + (w % 2 ^ 32 + 1) % 2 ^ 32)

/-- release(j) of R207: count − 1, and at 0 the index pushed. -/
def State.kvRelease (s : State) (g colour j : Nat) : State :=
  let n := s.kvCount g colour j
  let s1 := s.kvSetCount g colour j (n - 1)
  if n ≤ 1 then s1.kvPush g colour j else s1

/-- The valid entry word of an index (R206). -/
def kvValid (j : Nat) : Nat := 1 + 2 * (j % 2 ^ 20)

/-! What is under way through (s, b) (R208, R209): a request bears the blocks that it was translated through. -/

/-- A list of blocks names (s, b). -/
def kvNamed (sq b : Nat) (ks : List (Nat × Nat × Nat)) : Bool := ks.any fun e => e.1 == sq && e.2.1 == b

/-- A request with bytes at these addresses was translated through (s, b) of a colour for some of them: those in the block it had then. -/
def Req.through (r : Req) (colour sq b : Nat) (pas : List Nat) : Bool :=
  r.colour == colour && r.kv.any fun e => e.1 == sq && e.2.1 == b && pas.any fun pa => decide (e.2.2 ≤ pa ∧ pa < e.2.2 + 65536)

/-- The block of (s, b) is now at `to_`. -/
def kvMoved (sq b to_ : Nat) (ks : List (Nat × Nat × Nat)) : List (Nat × Nat × Nat) :=
  ks.map fun e => if e.1 = sq ∧ e.2.1 = b then (sq, b, to_) else e

/-- An address in the 64 KiB block at `a` moved to the block at `b`. -/
def moveAddr (a b pa : Nat) : Nat := if a ≤ pa ∧ pa < a + 65536 then b + (pa - a) else pa

/-- The request of a message that accesses memory bytes at a home. -/
def Msg.access? : Msg → Option Req
  | .read r _ _ _ => some r
  | .write r _ _ => some r
  | .atomic x => some x.req
  | .planar p => some p.req
  | .tld r _ _ _ _ _ _ _ _ _ _ => some r
  | _ => none

/-- Addresses that stand for the bytes such a message accesses, at least one in every sector. -/
def Msg.starts : Msg → List Nat
  | .read _ segs _ _ => segs.map Prod.fst
  | .write _ bytes _ => bytes.map Prod.fst
  | .atomic x => [x.pa]
  | .planar p => p.addrs
  | .tld _ _ _ _ _ _ _ addrs _ _ _ => addrs
  | _ => []

/-- A message is an access through (s, b) of a colour. -/
def Msg.through (colour sq b : Nat) (m : Msg) : Bool := match m.access? with
  | some r => r.through colour sq b m.starts
  | none => false

/-- A message through (s, b), whose block has moved from `a` to `to_`, sent on to the new block. -/
def Msg.moveBlock (colour sq b a to_ : Nat) (m : Msg) : Msg :=
  let req (r : Req) : Req := { r with kv := kvMoved sq b to_ r.kv }
  if Msg.through colour sq b m = false then m
  else match m with
    | .read r segs dst va => .read (req r) (segs.map fun e => (moveAddr a to_ e.1, e.2)) dst va
    | .write r bytes va => .write (req r) (bytes.map fun e => (moveAddr a to_ e.1, e.2)) va
    | .atomic x => .atomic { x with req := req x.req, pa := moveAddr a to_ x.pa }
    | .planar p => .planar { p with req := req p.req, addrs := p.addrs.map (moveAddr a to_) }
    | .tld r dst home ty tz n planes addrs launch team det =>
      .tld (req r) dst home ty tz n planes (addrs.map (moveAddr a to_)) launch team det
    | m => m

/-- A message through (s, b) that writes. -/
def Msg.writesThrough (colour sq b : Nat) (m : Msg) : Bool := match m with
  | .read _ _ _ _ => false
  | .tld _ _ _ _ _ _ _ _ _ _ _ => false
  | m => Msg.through colour sq b m

/-- Writes through (s, b) to the block at `a` that are under way: on the fabric, or held at its home. -/
def State.writing (s : State) (colour sq b a : Nat) : Bool :=
  s.net.any (Msg.writesThrough colour sq b) || (s.core (homeCore a)).held.any (Msg.writesThrough colour sq b)

/-- A ticket entry read through (s, b) whose block has moved: its groups still to be read are read at the new one. -/
def TkEntry.moveBlock (colour sq b a to_ : Nat) (k : TkEntry) : TkEntry :=
  if k.colour == colour && kvNamed sq b k.kv then
    { k with addrs := k.addrs.map (moveAddr a to_), kv := kvMoved sq b to_ k.kv }
  else k

/-- Every access under way through (s, b) goes on to the block at `to_` instead of `a`: the ones held at the old home go before the
others, and the groups of a ticket still to be read are read there. -/
def State.moveBlock (s : State) (colour sq b a to_ : Nat) : State :=
  let c := s.core (homeCore a)
  let gone := Msg.through colour sq b
  let s1 := s.setCore (homeCore a) { c with held := c.held.filter fun m => !gone m }
  { s1 with
    net := (c.held.filter gone ++ s.net).map (Msg.moveBlock colour sq b a to_)
    cores := s1.cores.map fun (e : Nat × Core) => (e.1, { e.2 with
      tickets := e.2.tickets.map fun k => (k.1, k.2.moveBlock colour sq b a to_) }) }

/-- Answers for (s, b) that threads of a colour have not used are forgotten: the access asks again. -/
def State.forgetKv (s : State) (colour sq b : Nat) : State :=
  { s with cores := s.cores.map fun e => (e.1, { e.2 with threads := e.2.threads.map (Option.map fun t =>
      if t.colour = colour then { t with kv := t.kv.filter fun k => !(k.s == sq && k.b == b && k.res.isSome) } else t) }) }

/-- A 64 KiB block of a colour copied, its correctable errors corrected (R207, R212). -/
def State.copyBlock (s : State) (colour a to_ : Nat) : State :=
  let s1 := s.correct [(a, 65536)]
  (s1.memWrite (enumFrom to_ (memGets s1.mem a 65536))).claim colour [to_]

/-- The procedure of R207 for one (s, b), one atomic step (R208). After a copy every access through (s, b), those under way included, is of
the private block; an answer kept from before a copy or an allocation is forgotten. A block of another colour is not copied, nor copied to
(notes/assumptions/33.md). -/
def State.kvProc (s : State) (g colour sq b : Nat) (write : Bool) : State × KvRes :=
  let eva := s.kvEntryVa colour sq b
  let e := s.kvEntry g colour sq b
  let found : Option (Nat × State) :=
    if e % 2 = 1 then some (kvIndex e, s.kvTouch g colour eva)
    else match s.kvPop g colour with
      | none => none
      | some (j, s1) => some (j, (s1.kvSetCount g colour j 1).kvWrite g colour eva 4 (kvValid j))
  if e % 2 = 0 ∧ write = false then (s, .fault kindPage 4)
  else match found with
    | none => (s, .fault kindPage 5)
    | some (j, s1) =>
      if write ∧ 1 < s1.kvCount g colour j then
        match s1.kvPop g colour with
        | none => (s, .fault kindPage 5)
        | some (j', s2) =>
          let dst := s2.kvBlock g colour j'
          let old := s2.kvBlock g colour j
          if s2.foreign colour dst ∨ s2.foreign colour old then (s, .fault kindPage 4)
          else
            let s4 := ((s2.copyBlock colour old dst).kvSetCount g colour j' 1).kvWrite g colour eva 4 (kvValid j')
            (((s4.kvRelease g colour j).forgetKv colour sq b).moveBlock colour sq b old dst, .block dst)
      else
        let s2 := s1.kvTouch g colour (s1.kvDescVa colour j)
        (if e % 2 = 0 then s2.forgetKv colour sq b else s2, .block (s1.kvBlock g colour j))

/-- The addresses and sizes of the table words that the procedure reads, and the indices whose blocks it uses. -/
def State.kvWords (s : State) (g colour sq b : Nat) (write : Bool) : List (Nat × Nat) × List Nat :=
  let e := s.kvEntry g colour sq b
  let entry : Nat × Nat := (s.kvEntryVa colour sq b, 4)
  let desc (j : Nat) : Nat × Nat := (s.kvDescVa colour j, 8)
  let pop : List (Nat × Nat) := if s.kvFreeCount g colour = 0 then [(s.kvFreeVa colour, 8)]
    else [(s.kvFreeVa colour, 8), (s.kvTopVa g colour, 4), desc (s.kvTop g colour)]
  let popped : List Nat := if s.kvFreeCount g colour = 0 then [] else [s.kvTop g colour]
  if e % 2 = 1 then
    if write ∧ 1 < s.kvCount g colour (kvIndex e) then
      ([entry, desc (kvIndex e)] ++ pop, kvIndex e :: popped)
    else ([entry, desc (kvIndex e)], [kvIndex e])
  else if write then (entry :: pop, popped)
  else ([entry], [])

/-- The bytes of some table words where they are mapped, each with its size. -/
def State.kvPlaces (s : State) (g colour : Nat) (ws : List (Nat × Nat)) : List (Nat × Nat) :=
  ws.filterMap fun w => (s.kvWordAt g colour .read w.1).map fun pa => (pa, w.2)

/-- The first of some table words that meets an uncorrectable error, itself or in the page table entries of its translation: the physical
address of the error and the virtual address of the word. -/
def State.kvBad (s : State) (g colour : Nat) (ws : List (Nat × Nat)) : Option (Nat × Word) :=
  ws.findSome? fun w => match s.unitLeaf g colour w.1 with
    | .error 0 => ((s.walkWords colour (dieOf g) w.1).find? fun e => s.bad e.1 8).map fun e => (e.1, BitVec.ofNat 64 w.1)
    | _ => match s.kvWordAt g colour .read w.1 with
      | some pa => if s.bad pa w.2 then some (pa, BitVec.ofNat 64 w.1) else none
      | none => none

/-- No fenced die is in the way to some table words that are looked up from core g, or to blocks that are copied (R313, R337), and the walks
they may need are free (R193). -/
def State.kvOpen (s : State) (g colour : Nat) (ws : List (Nat × Nat)) (blocks : List Nat) : Bool :=
  ws.all (fun w => s.walkFree g colour w.1)
    && ((s.kvPlaces g colour ws).map Prod.fst ++ blocks).all fun pa => s.twoWay (dieOf g) pa

/-- The blocks that the procedure copies from and to: two, or none where it copies nothing. -/
def State.kvCopied (s : State) (g colour sq b : Nat) (write : Bool) : List Nat :=
  let js := (s.kvWords g colour sq b write).2
  if 1 < js.length then js.map (s.kvBlock g colour) else []

/-- The first sector of the block of (s, b), at `pa`, that meets an uncorrectable error: its physical address and its address in the
window. -/
def State.kvBlockBad (s : State) (sq b pa : Nat) : Option (Nat × Word) :=
  ((List.range 1024).find? fun i => s.bad (pa + 64 * i) 64).map fun i =>
    (pa + 64 * i, BitVec.ofNat 64 (0x50 * 2 ^ 48 + sq * 2 ^ 32 + b * 2 ^ 16 + 64 * i))

/-- A KV step (R207, R208): an uncorrectable error in a table word or in the block to be copied stops it (R212), and so does a
descriptor that names a frame of another colour (R8), with nothing changed; otherwise the procedure of R207, correctable errors in the
words being corrected. -/
def State.kvStep (s : State) (g colour sq b : Nat) (write : Bool) : State × KvRes :=
  let ws := s.kvWords g colour sq b write
  match s.kvBad g colour ws.1 with
  | some e => (s, .check e.1 e.2)
  | none =>
    if ws.2.any fun j => s.foreign colour (s.kvBlock g colour j) then (s, .fault kindPage 4)
    else
      match (ws.2.take (ws.2.length - 1)).findSome? fun j => s.kvBlockBad sq b (s.kvBlock g colour j) with
      | some e => (s, .check e.1 e.2)
      | none => (s.correct (s.kvPlaces g colour ws.1)).kvProc g colour sq b write

/-- The home of the entry word of (s, b), for a thread that issued on core g; the core's own slice if no page maps the word. -/
def State.kvHome (s : State) (g colour sq b : Nat) : Nat := (s.kvWordAt g colour .read (s.kvEntryVa colour sq b)).getD (g * 2 ^ 28)

/-- The KV blocks that the accesses of a thread's present instruction have been translated to. -/
def Thread.kvBlocks (t : Thread) : List (Nat × Nat × Nat) :=
  t.kv.filterMap fun k => match k.res with
    | some (.block pa) => some (k.s, k.b, pa)
    | _ => none

/-! Clocks (R323). -/

/-- The clock a write carries (R323, point 4): its thread's latest release point, or the one that an `inbx` of the core has asked for (R317, R319;
notes/assumptions/107.md). -/
def State.writeClock (s : State) (g : Nat) (t : Thread) : List Nat :=
  ((s.die (dieOf g)).k).set (dieOf g) (max t.release (s.core g).ibRel)

/-! The checks of a core's access. -/

/-- Whether a set of regions accepts an address (R187): `kvw`, `clw`, `vlw` and `trw` for the four windows of loads. -/
structure Accepts where
  tr : Bool
  vl : Bool
  cl : Bool
  kv : Bool
  sp : Bool
  deriving DecidableEq, Repr

def Accepts.loads : Accepts := ⟨true, true, true, true, false⟩
def Accepts.planar : Accepts := ⟨true, true, false, true, false⟩
def Accepts.spad : Accepts := ⟨false, false, false, false, true⟩

def Accepts.has (k : Accepts) : Region → Bool
  | .translated => k.tr
  | .vaultLocal _ => k.vl
  | .cluster _ _ => k.cl
  | .kv _ _ _ => k.kv
  | .spad _ => k.sp
  | _ => false

/-- The address checks of R196 before alignment: the fault's detail, 0 where none. -/
def regionDetail (k : Accepts) (r : Region) : Nat :=
  match r with
  | .high => 1
  | .none => 2
  | r => if k.has r then 0 else 3

/-- The place of one byte for a thread's access (R193, R207), asking for a walk or a KV step where one is needed. -/
def Ctx.place (x : Ctx) (u : Use) (a : Word) : Acc Place :=
  match x.s.region x.g x.t.colour x.t.key a with
  | .high => .trap kindAddress 1 a
  | .none => .trap kindAddress 2 a
  | .translated => x.s.coreTranslate x.g x.t.colour u a.toNat
  | .vaultLocal o => x.s.localPlace x.g x.t.colour x.t.key o a
  | .cluster clu o => .ok (.mem (clusterAddr x.t.colour clu o))
  | .spad o => .ok (.spad x.g ((((x.c.teamOf x.t.key).map Team.base).getD 0) + o))
  | .team _ _ => .trap kindAddress 3 a
  | .kv sq b o =>
    if x.t.kvOut ≠ 0 then .wait x.s else
    match x.t.kv.find? fun k => k.s == sq && k.b == b && k.write == (u.kind == .write) with
    | some k =>
      match k.res with
      | none => .wait x.s
      | some (.block pa) => .ok (.mem (pa + o))
      | some (.fault kind d) => .trap kind d a
      | some (.check _ _) => .wait x.s
    | none =>
      let t' := { x.t with kv := x.t.kv ++ [⟨sq, b, u.kind == .write, none⟩] }
      let r : Req := ⟨x.s.uid, x.t.tid, x.g, x.slot, x.t.colour, x.t.wid, x.t.pc, x.t.evt,
        x.s.writeClock x.g x.t, []⟩
      .wait ((x.s.bumpUid.setThread x.g x.slot (some t')).send (.kv r sq b (u.kind == .write) a))

/-- Every address of an access translated in order; the first that does not proceed decides (R193). -/
def Ctx.places (x : Ctx) (u : Use) : List Word → Acc (List Place)
  | [] => .ok []
  | a :: rest =>
    match x.place u a with
    | .ok p =>
      (match x.places u rest with
      | .ok ps => .ok (p :: ps)
      | .wait s => .wait s
      | .trap k d b => .trap k d b)
    | .wait s => .wait s
    | .trap k d b => .trap k d b

/-- A trap of an access: the walk that ended in the fault is used up, and so are the answers of KV steps. -/
def Ctx.accTrap (x : Ctx) (kind : BitVec 8) (detail : Nat) (addr : Word) : State :=
  let s1 := if kind = kindPage ∨ kind = kindCheck then x.s.dropWalk x.g x.t.colour addr.toNat else x.s
  s1.raise x.g x.slot { x.t with kv := [] } (preciseReport kind detail x.t.pc addr)

/-! Bytes where they are at home. -/

/-- An uncorrectable error in a word of the team's scratchpad. -/
def State.badSp (s : State) (g off n : Nat) : Bool :=
  s.badSpad.any fun e => e.2 && decide (e.1 * 8 < g * 2 ^ 19 + off + n ∧ g * 2 ^ 19 + off < e.1 * 8 + 8)

/-- The correctable errors in n bytes of a core's scratchpad. -/
def State.correctSp (s : State) (g off n : Nat) : State :=
  let hit (e : Nat × Bool) : Bool := !e.2 && decide (e.1 * 8 < g * 2 ^ 19 + off + n ∧ g * 2 ^ 19 + off < e.1 * 8 + 8)
  if s.badSpad.any hit then
    { s with badSpad := s.badSpad.filter fun e => !hit e }.countFixed (dieOf g) (s.badSpad.filter hit).length
  else s

/-- A byte of a scratchpad: as written, else the undefined byte of its region's allocation (R329), which is zero in a region new to the
colour (R400). -/
def Core.spadByte (c : Core) (off : Nat) : Byte :=
  match smapFind c.spad off with
  | some b => b
  | none =>
    match c.teams.find? fun tm => decide (tm.base ≤ off ∧ off < tm.base + tm.size) with
    | some tm => if tm.zeros ≤ off then 0 else Config.freeSpad tm.epoch (off - tm.base)
    | none => Config.freeSpad 0 off

def Core.spadBytes (c : Core) (off n : Nat) : List Byte := (List.range n).map fun i => c.spadByte (off + i)

/-- The commands that may read the team's scratchpad. -/
def readsScratch (op : Nat) : Bool := op == 4 || op == 5 || op == 6 || op == 9 || op == 11

/-- Bytes written to a scratchpad; a command that may read it, from its issue on, keeps what they were before (R423). -/
def Core.spadPut (c : Core) (off : Nat) (bs : List Byte) : Core :=
  let keep (e : Cmd) : Cmd :=
    if readsScratch e.op.toNat then { e with old := e.old ++ enumFrom off (c.spadBytes off bs.length) } else e
  { c with
    spad := (enumFrom off bs).foldl (fun m e => smapPut m e.1 e.2) c.spad
    active := c.active.map keep
    queue := c.queue.map keep }

/-! Cluster memory: expansion and slots (R210, R211). -/

/-- A block of a colour in a cluster: colour × 2^15 + block number. -/
def blockKey (pa : Nat) : Nat := ((pa - 2 ^ 40) / 2 ^ 33) * 2 ^ 15 + (pa - 2 ^ 40) % 2 ^ 26 / 2048
def blockAddr (clu key : Nat) : Nat := clusterAddr (key / 2 ^ 15) clu (key % 2 ^ 15 * 2048)

/-- The slots a cluster's blocks hold, and `cm.free` (R211). -/
def Cluster.used (k : Cluster) : Nat := (k.slots.map Prod.snd).sum
def Cluster.free (k : Cluster) : Nat := 40960 - k.used

/-- The slots a block keeps when it is recompressed (R210): none if all zero, one where at most 15 of its sectors hold a nonzero
byte, otherwise as the implementation's method has it. -/
def State.recompressed (s : State) (clu key : Nat) : Nat :=
  let a := blockAddr clu key
  let counts := (List.range 32).map fun i => ((memGets s.mem (a + 64 * i) 64).filter fun b => b != 0).length
  let busy := (counts.filter fun n => n != 0).length
  if busy = 0 then 0 else if busy ≤ 15 then 1
  else if Config.fitsOneSlot (counts.map fun n => BitVec.ofNat 8 n) then 1 else 2

/-- A block is in the expander store of its cluster. -/
def State.expanded (s : State) (pa : Nat) : Bool :=
  !isCluster pa || (s.cluster (clusterOfAddr pa)).expander.contains (blockKey pa)

/-- A block made the most recently used of the store; the least recently used leaves it when there are more than 128 and is
recompressed (R211). -/
def State.expand (s : State) (clu key : Nat) : State :=
  let k := s.cluster clu
  let ex := key :: k.expander.filter fun b => b != key
  let s1 := s.setCluster clu { k with expander := ex.take 128 }
  match ex.drop 128 with
  | [] => s1
  | old :: _ =>
    let k1 := s1.cluster clu
    let n := s1.recompressed clu old
    s1.setCluster clu { k1 with slots := if n = 0 then smapDel k1.slots old else smapPut k1.slots old n }

/-- A write to a cluster block can take the slots it needs: it holds two from its first write (R211). -/
def State.slotsOk (s : State) (pa : Nat) : Bool :=
  !isCluster pa ||
    (let k := s.cluster (clusterOfAddr pa)
     decide (2 - smapGet 0 k.slots (blockKey pa) ≤ k.free))

/-- The slots of a block that is written. -/
def State.takeSlots (s : State) (pa : Nat) : State :=
  if isCluster pa then
    let clu := clusterOfAddr pa
    let k := s.cluster clu
    s.setCluster clu { k with slots := smapPut k.slots (blockKey pa) 2 }
  else s

end Sys2Proof.Machine
end

