-- ==== Sys2Proof/Machine/Order.lean ====
section
/-! DEFINITION. How order is kept: outstanding accesses, release points, frontiers and clocks, and messages of one source to one
home (spec/13_ordering.md R312–R314, R323; spec/08_memory.md R196, R204). -/
namespace Sys2Proof.Machine
open Sys2Proof

/-- A clock carried by a message received on a die. -/
def State.hearClock (s : State) (die : Nat) (v : List Nat) : State :=
  let d := s.die die
  s.setDie die { d with clock := clockMax d.clock v }

/-- The die's own frontier entry: the highest n with release points 1 to n complete (R323). -/
def Die.settle (d : Die) (own : Nat) : Die :=
  let n := d.open_.foldl (fun (m : Nat) (e : Nat × List Nat) => min m (e.1 - 1)) d.issued
  { d with front := d.front.set own n }

/-- A release point numbered on a die, waiting for the accesses listed (R323). -/
def State.releasePoint (s : State) (die : Nat) (waiting : List Nat) : State × Nat :=
  let d := s.die die
  let n := d.issued + 1
  let d1 := { d with issued := n, open_ := if waiting.isEmpty then d.open_ else d.open_ ++ [(n, waiting)] }
  (s.setDie die (d1.settle die), n)

/-- An access performed, as the release points that wait for it see it. -/
def Die.donePoint (d : Die) (own id : Nat) : Die :=
  ({ d with open_ := (d.open_.map fun (e : Nat × List Nat) => (e.1, e.2.filter fun i => i != id)).filter fun (e : Nat × List Nat) => !e.2.isEmpty }).settle own

/-- An access performed: it leaves its thread's outstanding list, and no release point waits for it (R204, R323). -/
def State.performed (s : State) (tid id : Nat) : State :=
  let s1 := s.onTid tid fun t => { t with outst := t.outst.filter (fun i => i != id) }
  { s1 with dies := s1.dies.map fun e => (e.1, e.2.donePoint e.1 id) }

/-- A load replied: later accesses held by an acquire no longer wait for it (R204). -/
def Thread.replied (t : Thread) (id : Nat) : Thread :=
  { t with loads := t.loads.filter (fun i => i != id), hold := t.hold.filter fun i => i != id }

/-- Requests of a core's threads on its memory port, of 64 (R196). -/
def Core.portUse (c : Core) : Nat :=
  (c.threads.toList.map fun o => match o with
    | none => 0
    | some t => t.outst.length + (t.loads.filter fun i => !t.outst.contains i).length).sum

/-! Messages of the device on its ports (R393, R394). -/

/-- The number after a sequence number: it wraps past 0xFFFFFFFF to 1 (R393). -/
def nextSeq (n : Nat) : Nat := if n = 2 ^ 32 - 1 then 1 else n + 1

/-- Messages of one direction under one set of keys: after 2^32 − 1 a sequence number would repeat (R398). -/
def keyLife : Nat := 2 ^ 32 - 1

/-- A message of the management class, which needs no session: its SPDM exchange makes one (R392, R396, R397). -/
def DevMsg.plain : DevMsg → Bool
  | .management _ => true
  | .spdmResponse _ _ => true
  | _ => false

/-- A device message sent: numbered, kept in the replay store of 4,096, put on the wire; it is held while the store is full, the link
is down (R394), its number would repeat under the session's keys, or it needs a session and the port has none (R396, R398). -/
def Port.send (p : Port) (m : DevMsg) : Port :=
  if p.up && (m.plain || p.sess) && decide (p.store.length < 4096) && !(p.waiting.any fun w => w.plain || !m.plain)
      && decide (p.sent < keyLife) then
    { p with
      txl := nextSeq p.txl, sent := p.sent + 1, store := p.store ++ [(nextSeq p.txl, m)]
      wire := p.wire ++ [(nextSeq p.txl, m)] }
  else { p with waiting := p.waiting ++ [m] }

/-- Held messages sent while there is room, in order. -/
def Port.flush (p : Port) : Port := p.waiting.foldl Port.send { p with waiting := [] }

/-- A peer port can carry an access of this package and its answer now: their numbers are not used up under the session's keys (R398). -/
def Port.crosses (p : Port) : Bool :=
  p.up && p.sess && decide (p.store.length < 4096) && decide (p.sent < keyLife) && decide (p.got < keyLife)

/-- An access to another package and its answer: a numbered message each way; the answer acknowledges the access (R393, R398; that both
are made in one step is notes/assumptions/40.md). -/
def Port.exchange (p : Port) : Port :=
  { p with txl := nextSeq p.txl, sent := p.sent + 1, rxl := nextSeq p.rxl, got := p.got + 1 }

/-- The host port that carries messages without one of their own: port 0, or port 1 where only that one is trained. -/
def State.hostPort (s : State) : Nat := if (s.port 1).up && !(s.port 0).up then 1 else 0

def State.toHost (s : State) (port : Nat) (m : DevMsg) : State := s.setPort port ((s.port port).send m)

/-! Requests of other packages (R395): their source is 2,048 + the peer port they came by, they carry no clock (R323), and what
answers them goes out on that port under their tag. -/

def Req.fromPeer (r : Req) : Bool := decide (2048 ≤ r.src)

/-- Another package's request answered on its port, which the colour's traffic uses (R395, R398). -/
def State.peerAnswer (s : State) (r : Req) (ok : Bool) (data : List Byte) : State :=
  (s.portUsed (r.src - 2048) r.colour).toHost (r.src - 2048) (.peerReply r.id ok data)

/-- A request performed is answered: a thread of this package by a message of the fabric, another package by one on the port. -/
def State.reply (s : State) (r : Req) (m : Msg) (ok : Bool) (data : List Byte) : State :=
  if r.fromPeer then s.peerAnswer r ok data else s.send m

/-! Release points waiting for room. -/

/-- A die may number another release point: at most 2^30 beyond the lowest entry a frontier holds for it (R323). -/
def State.relRoom (s : State) (die : Nat) : Bool :=
  (List.range 8).all fun h => decide ((s.die die).issued + 1 ≤ (s.die h).front.getD die 0 + 2 ^ 30)

/-- Why a release point is not numbered yet. -/
def relWait (x : Ctx) (rel : Bool) : List SlotClass := if rel && !x.s.relRoom (dieOf x.g) then [.mem] else []

/-- Why a memory access of n requests does not issue: an acquire holds it, or the port is full (R196, R204). -/
def memWait (x : Ctx) (n : Nat) : List SlotClass :=
  if x.t.hold.isEmpty ∧ x.c.portUse + n ≤ 64 then [] else [.mem]

/-- Scope and order codes of format M (R46). -/
def relBits (f : Fields) : Bool := Fields.bits f 32 2 == 2 || Fields.bits f 32 2 == 3
def acqBits (f : Fields) : Bool := Fields.bits f 32 2 == 1 || Fields.bits f 32 2 == 3

/-- A `.sys` release waits at the issuing core until its predecessors are performed, and any release until it can be numbered
(R323). -/
def sysRelWait (x : Ctx) (f : Fields) : List SlotClass :=
  (if relBits f && Fields.bits f 34 2 == 3 && !x.t.outst.isEmpty then [.mem] else []) ++ relWait x (relBits f)

/-- The release point of a release-ordered access, and the state and thread after it; its predecessors at `.team` scope have left
the port (R314, R323). -/
def Ctx.orderPoint (x : Ctx) (t : Thread) (f : Fields) : State × Thread :=
  if relBits f then
    let r := x.s.releasePoint (dieOf x.g) (if Fields.bits f 34 2 = 0 then [] else t.outst)
    (r.1, { t with release := r.2 })
  else (x.s, t)

/-- The frontier of a die covers a clock (R323, point 5). -/
def State.covers (s : State) (die : Nat) (v : List Nat) : Bool :=
  (List.range 8).all fun i => decide (v.getD i 0 ≤ (s.die die).front.getD i 0)

/-- A request of an instruction. -/
def Ctx.req (x : Ctx) (s : State) (t : Thread) (clock : List Nat) : Req :=
  ⟨s.uid, t.tid, x.g, x.slot, t.colour, t.wid, t.pc, t.evt, clock, x.t.kvBlocks⟩

/-- What the answer of a request bears, sent from the home numbered `place` (R26, R366). -/
def Req.label (r : Req) (place : Nat) : Label := ⟨r.src, r.colour, place⟩

/-- Bytes of a scalar access (R197). -/
def accessBytes (t : Ty) : Nat := if t = .f32 then 4 else ((tyInt t).getD (64, true)).1 / 8

/-- Bytes of the location of an atomic: 32 for an exact sum (R297). -/
def atomBytes (op : AtomOp) (ty : Ty) : Nat := if op = .x then 32 else accessBytes ty

/-! Paths (R313). -/

/-- The positions passed on a ring of 16 from a to b, b last: the shorter way round, a tie toward increasing index. -/
def ringPath (a b : Nat) : List Nat :=
  let up := (b + 16 - a) % 16
  let down := (a + 16 - b) % 16
  if up ≤ down then (List.range up).map fun i => (a + i + 1) % 16 else (List.range down).map fun i => (a + 15 - i) % 16

/-- The routers passed on one die from x to y: across along the row, then up or down the column. -/
def diePath (x y : Nat) : List Nat :=
  (ringPath (colOf x) (colOf y)).map (fun c => 256 * dieOf x + 16 * rowOf x + c)
    ++ (ringPath (rowOf x) (rowOf y)).map fun r => 256 * dieOf x + 16 * r + colOf y

/-- The exit router toward a neighbour die for a message at router x, and the router at which it enters that die. -/
def exitRouter (x die : Nat) : Nat :=
  let d := dieOf x
  if d % 4 < die % 4 then 256 * d + 16 * rowOf x + 15
  else if die % 4 < d % 4 then 256 * d + 16 * rowOf x
  else if d / 4 < die / 4 then 256 * d + 240 + colOf x
  else 256 * d + colOf x
def entryRouter (e die : Nat) : Nat :=
  let d := dieOf e
  if d % 4 < die % 4 then 256 * die + 16 * rowOf e
  else if die % 4 < d % 4 then 256 * die + 16 * rowOf e + 15
  else if d / 4 < die / 4 then 256 * die + colOf e
  else 256 * die + 240 + colOf e

/-- The routers passed from x through the listed dies to g. -/
def pathVia (x : Nat) : List Nat → Nat → List Nat
  | [], g => diePath x g
  | d :: rest, g =>
    let e := exitRouter x d
    diePath x e ++ entryRouter e d :: pathVia (entryRouter e d) rest g

/-- The fixed path of a message from core x to core g, g last. -/
def pathOf (x g : Nat) : List Nat := pathVia x (diesPassed (dieOf x) (dieOf g)) g

/-- A message of core x reaches a home. -/
def State.reaches (s : State) (x home : Nat) : Bool :=
  match dieOfHome home with
  | some d => decide (2048 ≤ x) || s.pathOpen (dieOf x) d
  | none => true

/-- A claim or a query is answered whether or not its way is open: of one on a slice that is fenced off the answer is detail 6 (R228,
R337). -/
def Msg.alwaysAnswered : Msg → Bool
  | .claim _ _ => true
  | .tqry _ _ _ => true
  | _ => false

/-- The source and home of a request, and the bytes it touches (R313); a KV step's home is its entry word's (`State.routeOf`). -/
def Msg.route? : Msg → Option (Nat × Nat × List (Nat × Nat))
  | .read r segs _ _ => some (r.src, homeOf (segs.headD (0, 0)).1, segs)
  | .write r bytes _ => some (r.src, homeOf (bytes.headD (0, 0)).1, bytes.map fun b => (b.1, 1))
  | .atomic a => some (a.req.src, homeOf a.pa, [(a.pa, atomBytes a.op a.ty)])
  | .planar p => some (p.req.src, homeOf (p.addrs.headD 0), p.addrs.map fun a => (a, 32))
  | .tld r _ home _ _ _ _ addrs _ _ _ => some (r.src, home, addrs.map fun a => (a, 64))
  | .tdrop r t => some (r.src, (t.toNat / 2 ^ 8) % 2048, [])
  | .tqry r _ t => some (r.src, (t.toNat / 2 ^ 8) % 2048, [])
  | .claim t c => some (c.core, (t.toNat / 2 ^ 8) % 2048, [])
  | _ => none

/-- The sources of an atomic: its issuer's core and those of the contributions merged into it (R304). -/
def Atomic.sources (a : Atomic) : List Nat := a.req.src :: a.parts.map fun p => p.1.src

/-- The route of a message; a KV step goes to the home of the entry word it starts with (R208). -/
def State.routeOf (s : State) (m : Msg) : Option (Nat × Nat × List (Nat × Nat)) :=
  let entry (r : Req) (sq b : Nat) : Option (Nat × Nat × List (Nat × Nat)) :=
    let pa := s.kvHome r.src r.colour sq b
    some (r.src, homeOf pa, [(pa, 4)])
  match m with
  | .kv r sq b _ _ => entry r sq b
  | .kvBlocks r _ sq _ b _ => entry r sq b
  | m => m.route?

/-- What an answer bears. -/
def Msg.answer? : Msg → Option Label
  | .reply _ _ _ _ _ l => some l
  | .amoReply _ _ _ _ _ l => some l
  | .redAck _ _ _ l => some l
  | _ => none

/-- The way of an answer back to the router that injected its transaction is open (R313, R337). -/
def State.wayBack (s : State) (l : Label) : Bool :=
  match dieOfHome l.place with
  | some d => decide (2048 ≤ l.core) || s.pathOpen d (dieOf l.core)
  | none => true

/-- A message bears a request of a source. -/
def Msg.from_ (m : Msg) (src : Nat) : Bool :=
  match m with
  | .atomic a => a.sources.contains src
  | .kv r _ _ _ _ => r.src == src
  | .kvBlocks r _ _ _ _ _ => r.src == src
  | m => match m.route? with
    | some (src', _, _) => src' == src
    | none => false

/-- Two byte ranges meet. -/
def overlap (a b : Nat × Nat) : Bool := decide (a.1 < b.1 + b.2 ∧ b.1 < a.1 + a.2)
def overlaps (xs ys : List (Nat × Nat)) : Bool := xs.any fun a => ys.any fun b => overlap a b

/-- The sources whose requests a message bears. -/
def Msg.sources (m : Msg) (src : Nat) : List Nat :=
  match m with
  | .atomic a => a.sources
  | _ => [src]

/-- A read need not wait for an earlier access of its source to other bytes: they arrive in the order sent, and R313 does not order how they are
performed (R312, R321; notes/assumptions/70.md). -/
def Msg.passes (m earlier : Msg) : Bool :=
  let apart : Bool := match m.route?, earlier.route? with
    | some (_, _, xs), some (_, _, ys) => !overlaps xs ys
    | _, _ => false
  match m, earlier with
  | .read _ _ _ _, .read _ _ _ _ => apart
  | .read _ _ _ _, .write _ _ _ => apart
  | .read _ _ _ _, .atomic _ => apart
  | .read _ _ _ _, .planar _ => apart
  | .read _ _ _ _, .tld _ _ _ _ _ _ _ _ _ _ _ => apart
  | _, _ => false

/-- A gateway holds a contribution of a source for a home (R304) that a message of the source may not pass. -/
def State.gated (s : State) (m : Msg) (src home : Nat) : Bool :=
  s.dies.any fun e => e.2.gate.any fun h => h.2.sources.contains src && homeOf h.2.pa == home && !m.passes (.atomic h.2)

/-- Requests of one source to one home arrive in the order sent (R313), those of a merged contribution for each of its sources (R304): no earlier
message, on the way or held at a gateway, has a source of it and its home, and no die of the way is fenced; a claim or query whose way is closed is
answered at once (R228). Answers of one home to one core arrive in the order sent. -/
def State.arrived (s : State) (k : Nat) : Bool :=
  match s.net[k]? with
  | none => false
  | some m =>
    match m.answer?, s.routeOf m with
    | some l, _ => (s.net.take k).all fun m' => match m'.answer? with
      | some l' => l'.place != l.place || l'.core != l.core
      | none => true
    | none, none => true
    | none, some (src, home, _) =>
      if s.reaches src home = false then m.alwaysAnswered
      else (m.sources src).all fun q => !s.gated m q home && (s.net.take k).all fun m' => match s.routeOf m' with
        | none => true
        | some (_, home', _) => !m'.from_ q || home' != home || m.passes m'

/-- A write of the same source to some of these bytes is held at the home (R323): a later write of that source to them is held
too, and so is a later read of that source, as R318 and R321 ask (notes/assumptions/21.md). -/
def State.heldBefore (s : State) (keeper src : Nat) (segs : List (Nat × Nat)) : Bool :=
  (s.core keeper).held.any fun m => m.from_ src && match m.route? with
    | some (_, _, segs') => overlaps segs segs'
    | none => false

/-- Groups of an entry that have entered the buffer, or are marked. -/
def TkEntry.landed (k : TkEntry) (i : Nat) : Bool := k.marked.contains i || (smapFind k.data i).isSome

/-- A group of an entry that is still to be read: one that has not landed, also after a claim, or one still awaited after the entry is
freed. -/
def TkEntry.unread (k : TkEntry) (i : Nat) : Bool := if k.st = 0 then k.drain.contains i else !k.landed i

/-- The group reads of a `tld` still to be made of some bytes, issued by the same core or thread before access `id` (R221, R311): they
stand at the `tld`'s place in program order, so a later access of theirs to the bytes waits for them (R318, R321). -/
def State.tldBefore (s : State) (src tid id : Nat) (segs : List (Nat × Nat)) : Bool :=
  s.cores.any fun c => c.2.tickets.any fun e => match e.2.rd with
    | none => false
    | some (tid', id') => (e.2.src == src || tid' == tid) && decide (id' < id) && (enumFrom 0 e.2.addrs).any fun a =>
        e.2.unread (a.1 % max 1 e.2.n) && overlaps [(a.2, 64)] segs

/-- An access may not be performed before earlier accesses of its own source or thread to the same bytes. -/
def State.ownWaits (s : State) (keeper : Nat) (r : Req) (segs : List (Nat × Nat)) : Bool :=
  s.heldBefore keeper r.src segs || s.tldBefore r.src r.tid r.id segs

/-- A request held at its home until the frontier covers its clock (R323). -/
def State.holdMsg (s : State) (keeper : Nat) (m : Msg) : State :=
  let c := s.core keeper
  s.setCore keeper { c with held := c.held ++ [m] }

/-- An event that does not happen in this state. -/
def orNot (name : String) (o : Option State) : Host.Outcome State Fault Refusal :=
  match o with
  | some s => .next s
  | none => .refused (.notEnabled name)

/-- Watchpoints (R379–R381). The armed watchpoints of a task that these bytes strike, each with its lowest byte struck. -/
def State.struck (s : State) (colour : Nat) (wid : Word) (addrs : List Nat) : List (Nat × Nat × Bool) :=
  match s.watches.find? fun w => w.colour == colour && w.wid == wid with
  | none => []
  | some w =>
    (List.range 4).filterMap fun k =>
      let wp := w.wps.toList.getD k (0, 0)
      let base := wp.1.toNat / 16 * 16
      let hit := addrs.filter fun a => wp.2.getLsbD 16 && decide (base ≤ a ∧ a < base + 16) && wp.2.getLsbD (a - base)
      match hit with
      | [] => none
      | a :: rest => some (k, rest.foldl min a, wp.2.getLsbD 17)

/-- The pass bits of the listed watchpoints cleared (R379). -/
def State.clearPass (s : State) (colour : Nat) (wid : Word) (ks : List Nat) : State :=
  { s with watches := s.watches.map fun w =>
      if w.colour = colour ∧ w.wid = wid then
        { w with wps := w.wps.mapFinIdx fun i wp _ =>
            if ks.contains i then (wp.1, wp.2 &&& 0xFFFFFFFFFFFDFFFF) else wp }
      else w }

/-- The outcome of a store's strike: the state with pass bits cleared, or the watchpoint to report and its address (R380). -/
def State.storeStrike (s : State) (t : Thread) (addrs : List Nat) : State ⊕ (Nat × Nat) :=
  let st := s.struck t.colour t.wid addrs
  match st.find? fun e => !e.2.2 with
  | some e => .inr (e.1, e.2.1)
  | none => .inl (if st.isEmpty then s else s.clearPass t.colour t.wid (st.map Prod.fst))

/-- A core store that passes its access checks: a strike traps with class 0 and nothing is performed (R381). -/
def Ctx.storing (x : Ctx) (addrs : List Nat) (k : Ctx → State) : State :=
  match x.s.storeStrike x.t addrs with
  | .inl s => k (x.on s)
  | .inr (w, a) =>
    { (x.s.trace x.g x.slot 0x03 x.t.colour x.t.wid x.t.pc (BitVec.ofNat 64 a)) with cls := .vacant }.raise x.g x.slot x.t
      (preciseReport kindWatch w x.t.pc (BitVec.ofNat 64 a))

/-- n consecutive addresses. -/
def addrRange (a n : Nat) : List Nat := (List.range n).map fun i => a + i

/-- The lowest watched byte a request for a home writes, with its watchpoint: the tag of R381. -/
def State.watchTag (s : State) (t : Thread) (addrs : List Nat) : Option (Nat × Word) :=
  ((s.struck t.colour t.wid addrs).head?).map fun e => (e.1, BitVec.ofNat 64 e.2.1)

end Sys2Proof.Machine
end

