-- ==== Sys2Proof/Machine/Loads.lean ====
section
/-! DEFINITION. Loads, stores, fences, probes, planar updates and KV operations, classes 0x10 to 0x12 and 0x0D, and the steps at
their homes (spec/08_memory.md R196–R213; spec/07_convert_planar.md R181–R184; spec/13_ordering.md R312, R323). -/
namespace Sys2Proof.Machine
open Sys2Proof

/-! What an access does at issue. -/

/-- The effective address (R196). -/
def Fields.addr (f : Fields) (b : Word) : Word := b + Fields.simm f

/-- A loaded value as a word (R197). -/
def extendTo (t : Ty) (bs : List Byte) : Word :=
  let n := leNum bs
  match t with
  | .f32 => BitVec.ofNat 64 n
  | t => let p := (tyInt t).getD (64, true); intWord (intVal p.1 p.2 n)
where
  leNum : List Byte → Nat
    | [] => 0
    | b :: rest => b.toNat + 256 * leNum rest

/-- The low n bytes of a word, ascending. -/
def wordBytes (n : Nat) (v : Word) : List Byte := (List.range n).map fun i => BitVec.ofNat 8 (v.toNat / 256 ^ i)

/-- Every address translated in ascending order, each in a region the instruction accepts (R187, R193). A plane other than the lead outside those is
address_fault 2 or 3 at its turn, after alignment (R181 does not say which check finds it: DESIGN CHOICE, notes/assumptions/85.md). -/
def Ctx.placesIn (x : Ctx) (k : Accepts) (u : Use) : List Word → Acc (List Place)
  | [] => .ok []
  | a :: rest =>
    let d := regionDetail k (x.s.region x.g x.t.colour x.t.key a)
    if d ≠ 0 then .trap kindAddress d a
    else match x.place u a with
      | .ok p =>
        (match x.placesIn k u rest with
        | .ok ps => .ok (p :: ps)
        | .wait s => .wait s
        | .trap kd e b => .trap kd e b)
      | .wait s => .wait s
      | .trap kd e b => .trap kd e b

/-- The checks of R196 in order: the bits of the addresses listed in `bits`, the region of the first of them, alignment of the
effective address, translation of every address. An access that touches nothing has no `bits` and only its alignment is checked
(R199, R213). -/
def Ctx.access (x : Ctx) (k : Accepts) (u : Use) (a : Word) (aligned : Bool) (bits addrs : List Word) (go : List Place → State) :
    State :=
  match bits.find? fun b => decide (2 ^ 55 ≤ b.toNat) with
  | some b => x.trap kindAddress 1 b
  | none =>
    let first := bits.headD a
    let d := if bits.isEmpty then 0 else regionDetail k (x.s.region x.g x.t.colour x.t.key first)
    if d ≠ 0 then x.trap kindAddress d first
    else if aligned = false then x.trap kindAlign 0 a
    else match x.placesIn k u addrs with
      | .ok ps => go ps
      | .wait s => (x.on s).wait .mem
      | .trap kd e b => x.accTrap kd e b

/-- A request counted by the castling hardware under the vault position it goes to (R345). -/
def Core.sentPa (c : Core) (t : Thread) (pa : Nat) : Core :=
  c.sentBy t (if isCluster pa ∨ isPeer pa then none else some (trafficVault (homeCore pa)))

/-- A request to read: the ranges it reads, where its data go, its address, and the port entries it takes (R196). -/
structure ReadReq where
  segs : List (Nat × Nat)
  dst  : Dest
  va   : Word
  n    : Nat

/-- The requests of a load sent, each outstanding and unanswered; an acquire holds later accesses until it replies (R204). -/
def Ctx.sendReads (x : Ctx) (acq : Bool) (s : State) (c : Core) (t : Thread) : List ReadReq → State × Core × Thread
  | [] => (s, c, t)
  | r :: rest =>
    let ids := List.replicate r.n s.uid
    let m := Msg.read (x.req s t []) r.segs r.dst r.va
    x.sendReads acq (s.send m).bumpUid ((List.range r.n).foldl (fun c _ => c.sentPa t (r.segs.headD (0, 0)).1) c)
      { t with outst := t.outst ++ ids, loads := t.loads ++ ids, hold := if acq then t.hold ++ [s.uid] else t.hold } rest

/-- A write sent, outstanding until it is performed. -/
def Ctx.sendWrite (x : Ctx) (clock : List Nat) (n : Nat) (s : State) (c : Core) (t : Thread) (va : Word)
    (bytes : List (Nat × Byte)) : State × Core × Thread :=
  let m := Msg.write (x.req s t clock) bytes va
  ((s.send m).bumpUid, (List.range n).foldl (fun c _ => c.sentPa t (bytes.headD (0, 0)).1) c,
    { t with outst := t.outst ++ List.replicate n s.uid })

/-- The arbiter is notified that an access waits for slots of a cluster (R211). -/
def State.askSlots (s : State) (pa : Nat) : State :=
  let k := clusterOfAddr pa
  s.setCluster k { s.cluster k with waiting := true }

/-- A store whose cluster block lacks slots waits, and the arbiter is notified (R211). -/
def Ctx.needSlots (x : Ctx) (pas : List Nat) (go : State) : State :=
  match pas.find? fun pa => !x.s.slotsOk pa with
  | none => go
  | some pa => (x.on (x.s.askSlots pa)).wait .mem

/-- A write at its home lacks slots: it waits there, and the arbiter is notified unless it has been (R211). -/
def State.lacksSlots (s : State) (pa : Nat) : Option State :=
  if (s.cluster (clusterOfAddr pa)).waiting then none else some (s.askSlots pa)

/-! Scalar and vector loads and stores (R197, R199, R200). -/

def execLd (gd : Guard) (f : Fields) (s : State) : Host.Outcome State Fault Refusal :=
  turn gd s (fun x => srcWaits x [] [f.src1] ++ dstWait x [f.src1] f.dst ++ memWait x 1) fun x =>
    let r := x.take [f.src1]
    let a := Fields.addr f (val r.1 0)
    let n := accessBytes f.ty
    x.access .loads .read a (a.toNat % n == 0) [a] [a] fun ps =>
      match f.dst.reg with
      | .d i =>
        let y := x.sendReads (acqBits f) x.s r.2.1 (r.2.2.pendD i) (ps.map fun p => ⟨[(p.addr, n)], .d i f.ty, a, 1⟩)
        (x.on y.1).finish y.2.1 y.2.2
      | _ => x.finish r.2.1 r.2.2

def execSt (gd : Guard) (f : Fields) (s : State) : Host.Outcome State Fault Refusal :=
  turn gd s (fun x => srcWaits x [] [f.src1, f.src2] ++ memWait x 1 ++ sysRelWait x f) fun x =>
    let r := x.take [f.src1, f.src2]
    let a := Fields.addr f (val r.1 0)
    let n := accessBytes f.ty
    x.access .loads .write a (a.toNat % n == 0) [a] [a] fun ps =>
      let pa := (ps.map Place.addr).headD 0
      x.needSlots [pa] (x.storing (addrRange a.toNat n) fun x =>
        let o := x.orderPoint r.2.2 f
        let y := x.sendWrite (o.1.writeClock x.g o.2) 1 o.1 r.2.1 o.2 a (enumFrom pa (wordBytes n (val r.1 1)))
        (x.on y.1).finish y.2.1 y.2.2)

def execVld (gd : Guard) (f : Fields) (s : State) : Host.Outcome State Fault Refusal :=
  turn gd s (fun x => srcWaits x [] [f.src1] ++ dstWait x [f.src1] f.dst ++ memWait x 2) fun x =>
    let r := x.take [f.src1]
    let a := Fields.addr f (val r.1 0)
    x.access .loads .read a (a.toNat % 64 == 0) [a] [a, a + 64] fun ps =>
      match f.dst.reg with
      | .v i =>
        let reqs := (enumFrom 0 ps).map fun e =>
          (⟨[(e.2.addr, 64)], .vsec i (e.1 == 1), a + BitVec.ofNat 64 (64 * e.1), 1⟩ : ReadReq)
        let y := x.sendReads (acqBits f) x.s r.2.1 (r.2.2.pendV i 2) reqs
        (x.on y.1).finish y.2.1 y.2.2
      | _ => x.finish r.2.1 r.2.2

/-- The lane mask of `vst` and `sts`: the low 32 bits of dM, every lane for the zero source (R199). -/
def maskOf (o : Opnd) (v : Word) : BitVec 32 := if o.reg = .zero then BitVec.allOnes 32 else v.setWidth 32

/-- The lane mask that an instruction will use, before its sources are taken. -/
def peekMask (x : Ctx) (o : Opnd) : BitVec 32 :=
  match o.reg with
  | .d i => x.t.d[i].setWidth 32
  | _ => BitVec.allOnes 32

/-- The lanes of a half that a mask enables. -/
def maskHalf (m : BitVec 32) (h : Nat) : List Nat := ((List.range 16).map fun i => 16 * h + i).filter fun i => m.getLsbD i

/-- The halves with an enabled lane. -/
def maskSectors (m : BitVec 32) : List Nat := [0, 1].filter fun h => !(maskHalf m h).isEmpty

/-- The bytes of the enabled lanes of a half, at a sector's address. -/
def maskBytes (m : BitVec 32) (v : VReg) (h pa : Nat) : List (Nat × Byte) :=
  (maskHalf m h).flatMap fun i => enumFrom (pa + 4 * (i - 16 * h)) (planes 4 (v.toList.getD i 0))

/-- The effective addresses of the enabled lanes. -/
def maskAddrs (m : BitVec 32) (a : Word) : List Nat :=
  (List.range 32).flatMap fun i => if m.getLsbD i then addrRange (a.toNat + 4 * i) 4 else []

/-- The writes of a vector store, one sector after another. -/
def Ctx.sendSectors (x : Ctx) (clock : List Nat) (s : State) (c : Core) (t : Thread) :
    List (Word × List (Nat × Byte)) → State × Core × Thread
  | [] => (s, c, t)
  | e :: rest =>
    let y := x.sendWrite clock 1 s c t e.1 e.2
    x.sendSectors clock y.1 y.2.1 y.2.2 rest

def execVst (gd : Guard) (f : Fields) (s : State) : Host.Outcome State Fault Refusal :=
  turn gd s (fun x => srcWaits x [] [f.src1, f.src2, f.src3]
      ++ memWait x (maskSectors (peekMask x f.src3)).length ++ sysRelWait x f) fun x =>
    if unboundStream x [f.src2] then x.trap kindStream 0 0
    else
      let r := x.take [f.src1, f.src2, f.src3]
      let a := Fields.addr f (val r.1 0)
      let m := maskOf f.src3 (val r.1 2)
      let hs := maskSectors m
      let at_ (h : Nat) : Word := a + BitVec.ofNat 64 (64 * h)
      x.access .loads .write a (a.toNat % 64 == 0) ((hs.take 1).map at_) (hs.map at_) fun ps =>
        let pas := ps.map Place.addr
        x.needSlots pas (x.storing (maskAddrs m a) fun x =>
          let o := x.orderPoint r.2.2 f
          let ws := (hs.zip pas).map fun e => (a + BitVec.ofNat 64 (64 * e.1), maskBytes m (valAt r.1 1).lanes e.1 e.2)
          let y := x.sendSectors (o.1.writeClock x.g o.2) o.1 r.2.1 o.2 ws
          (x.on y.1).finish y.2.1 y.2.2)

/-- The addresses of n planes (R200). -/
def planeAddrs (a : Word) (stride : Word) (n : Nat) : List Word :=
  (List.range n).map fun q => a + BitVec.ofNat 64 (64 * q) * (stride >>> 32)

/-- The slice or crossbar of a place (R181: planes of one group have one home). -/
def Place.home : Place → Nat × Nat
  | .mem pa => (0, homeOf pa)
  | .peer pkg off => (1 + pkg, off / 2 ^ 28)
  | .spad g _ => (0, g)

/-- The first plane whose home differs from the lead's. -/
def planeSplit (addrs : List Word) (ps : List Place) : Option Word :=
  match ps with
  | [] => none
  | p :: _ => ((addrs.zip ps).find? fun e => e.2.home != p.home).map Prod.fst

/-- The checks of a planar access (R181, R200). -/
def Ctx.planarAccess (x : Ctx) (u : Use) (a stride : Word) (n : Nat) (go : List Word → List Place → State) : State :=
  let addrs := planeAddrs a stride n
  x.access .planar u a (a.toNat % 32 == 0 && (stride >>> 32) != 0) addrs addrs fun ps =>
    match planeSplit addrs ps with
    | some b => x.trap kindPlane 0 b
    | none => go addrs ps

/-- Planes that a planar load fetches. -/
def Fields.fetched (f : Fields) : Nat := gPlanes f.ty + (if f.qual = 1 then 1 else 0)

def execVldp (gd : Guard) (f : Fields) (s : State) : Host.Outcome State Fault Refusal :=
  turn gd s (fun x => srcWaits x [] [f.src1, f.src2] ++ dstWait x [f.src1, f.src2] f.dst ++ memWait x (Fields.fetched f)) fun x =>
    let r := x.take [f.src1, f.src2]
    let a := Fields.addr f (val r.1 0)
    x.planarAccess .read a (val r.1 1) (Fields.fetched f) fun _ ps =>
      match f.dst.reg with
      | .v i =>
        let y := x.sendReads (acqBits f) x.s r.2.1 (r.2.2.pendV i 1)
          [⟨ps.map fun p => (p.addr, 32), .vplanes i f.ty (f.qual = 1), a, Fields.fetched f⟩]
        (x.on y.1).finish y.2.1 y.2.2
      | _ => x.finish r.2.1 r.2.2

def execVstp (gd : Guard) (f : Fields) (s : State) : Host.Outcome State Fault Refusal :=
  turn gd s (fun x => srcWaits x [] [f.src1, f.src2, f.src3] ++ memWait x (gPlanes f.ty) ++ sysRelWait x f) fun x =>
    if unboundStream x [f.src2] then x.trap kindStream 0 0
    else
      let r := x.take [f.src1, f.src2, f.src3]
      let a := Fields.addr f (val r.1 0)
      let n := gPlanes f.ty
      x.planarAccess .write a (val r.1 2) n fun addrs ps =>
        x.storing (addrs.flatMap fun b => addrRange b.toNat 32) fun x =>
          let o := x.orderPoint r.2.2 f
          let ls := (valAt r.1 1).lanes.toList
          let bytes := (enumFrom 0 ps).flatMap fun e => enumFrom e.2.addr (ls.map (plane e.1))
          let y := x.sendWrite (o.1.writeClock x.g o.2) n o.1 r.2.1 o.2 a bytes
          (x.on y.1).finish y.2.1 y.2.2

/-! Scratchpad accesses (R201). -/

/-- Accessed bytes of a sector that lie outside the region, which gives address_fault 2 (R186); `os` are their offsets, rising. -/
def beyondRegion (x : Ctx) (a : Word) (os : List Nat) : Bool :=
  let out (o : Nat) : Bool := match x.s.region x.g x.t.colour x.t.key (a + BitVec.ofNat 64 o) with
    | .spad _ => false
    | _ => true
  match os with
  | [] => false
  | o :: _ => out o || out (os.getLastD o)

/-- The checks of `lds`, `sts` and the team-scope atomics (R186, R188, R201, R212) on the bytes at the offsets `os` from a, rising and
none at all where nothing is accessed; a fault names the effective address of the sector that fails. `go` has the place of an offset in the
scratchpad. -/
def Ctx.spadAccess (x : Ctx) (a : Word) (align : Nat) (os : List Nat) (go : Ctx → (Nat → Nat) → State) : State :=
  let hs := [0, 1].filter fun h => os.any fun o => o / 64 == h
  let sect (h : Nat) : Word := a + BitVec.ofNat 64 (64 * h)
  let part (h : Nat) : List Nat := os.filter fun o => o / 64 == h
  if x.c.atHome x.t = false then x.trap kindAddress 4 0
  else x.access .spad .read a (a.toNat % align == 0) ((hs.take 1).map sect) ((hs.take 1).map sect) fun ps =>
    let pos (o : Nat) : Nat := (ps.map Place.addr).headD 0 + o - 64 * hs.headD 0
    let bad (h : Nat) : Bool :=
      match part h with
      | [] => false
      | o :: rest => (o :: rest).any fun o => x.s.badSp x.g (pos o) 1
    match hs.find? fun h => beyondRegion x a (part h) with
    | some h => x.trap kindAddress 2 (sect h)
    | none =>
      match hs.find? bad with
      | some h => x.trap kindCheck 0 (sect h)
      | none => go (x.on (os.foldl (fun s o => s.correctSp x.g (pos o) 1) x.s)) pos

def execLds (gd : Guard) (f : Fields) (s : State) : Host.Outcome State Fault Refusal :=
  turn gd s (fun x => srcWaits x [] [f.src1] ++ dstWait x [f.src1] f.dst ++ memWait x 0) fun x =>
    let r := x.take [f.src1]
    let a := Fields.addr f (val r.1 0)
    match f.dst.reg with
    | .v i => x.spadAccess a 8 (List.range 128) fun x pos => x.finish r.2.1 (r.2.2.putV i (lanesOf (x.c.spadBytes (pos 0) 128)))
    | .d i =>
      let n := accessBytes f.ty
      x.spadAccess a n (List.range n) fun x pos => x.finish r.2.1 (r.2.2.putD i (extendTo f.ty (x.c.spadBytes (pos 0) n)))
    | _ => x.finish r.2.1 r.2.2

/-- The sources of `sts`: the mask is read by the vector form only (R50, R199, R201). -/
def Fields.stsSrcs (f : Fields) : List Opnd :=
  match f.src2.reg with
  | .v _ => [f.src1, f.src2, f.src3]
  | _ => [f.src1, f.src2]

/-- The byte offsets of the enabled lanes. -/
def maskOffsets (m : BitVec 32) : List Nat :=
  (List.range 32).flatMap fun i => if m.getLsbD i then addrRange (4 * i) 4 else []

def execSts (gd : Guard) (f : Fields) (s : State) : Host.Outcome State Fault Refusal :=
  turn gd s (fun x => srcWaits x [] (Fields.stsSrcs f) ++ memWait x 0) fun x =>
    let r := x.take (Fields.stsSrcs f)
    let a := Fields.addr f (val r.1 0)
    match f.src2.reg with
    | .v _ =>
      let m := maskOf f.src3 (val r.1 2)
      x.spadAccess a 8 (maskOffsets m) fun x pos =>
        x.storing (maskAddrs m a) fun x =>
          let bytes (h : Nat) : List (Nat × Byte) :=
            (maskHalf m h).flatMap fun i => enumFrom (pos (4 * i)) (planes 4 ((valAt r.1 1).lanes.toList.getD i 0))
          x.finish ((bytes 0 ++ bytes 1).foldl (fun c e => c.spadPut e.1 [e.2]) r.2.1) r.2.2
    | _ =>
      let n := accessBytes f.ty
      x.spadAccess a n (List.range n) fun x pos =>
        x.storing (addrRange a.toNat n) fun x => x.finish (r.2.1.spadPut (pos 0) (wordBytes n (val r.1 1))) r.2.2

/-! Fences (R204) and probes (R205). -/

def execFence (gd : Guard) (f : Fields) (s : State) : Host.Outcome State Fault Refusal :=
  turn gd s (fun x =>
      (if relBits f && Fields.bits f 34 2 != 0 && !(x.t.outst.isEmpty && x.t.kvOut == 0) then [.mem] else [])
        ++ relWait x (relBits f)) fun x =>
    let o := x.orderPoint x.t f
    (x.on o.1).finish x.c (if acqBits f then { o.2 with hold := o.2.hold ++ o.2.loads } else o.2)

/-- A probe's word for what maps (R205): permissions as v, rd, wr, ex in bits 0 to 3, region code, interleaved, page size, die,
core, offset, package. -/
def probeWord (perm code inter big die core off pkg : Nat) : Word :=
  BitVec.ofNat 64 (perm % 16 + 16 * (code % 4) + 64 * inter + 128 * big + 256 * die + 2 ^ 11 * core + 2 ^ 19 * off
    + 2 ^ 47 * (code / 4) + 2 ^ 48 * pkg)

/-- A probe's word for a failure. -/
def probeFail (x : Nat) : Word := BitVec.ofNat 64 (2 ^ 56 * x)

/-- The probe of a vault byte. -/
def probeVault (perm code inter big pa pkg : Nat) : Word :=
  probeWord perm code inter big (homeCore pa / 256 % 8) (homeCore pa % 256) (pa % 2 ^ 28) pkg

/-- The table words that a probe of (s, b) reads: the entry, and the descriptor of a valid one (R205, R206). -/
def State.probeWords (s : State) (g colour sq b : Nat) : List (Nat × Nat) :=
  let e := s.kvEntry g colour sq b
  (s.kvEntryVa colour sq b, 4) :: (if e % 2 = 1 then [(s.kvDescVa colour (kvIndex e), 8)] else [])

/-- The word `tprb` writes for an address: of a translated one, from its leaf; it waits for walks like a load. A vault byte of another colour is the
failure its access would give (notes/assumptions/33.md). A peer page whose package cannot be reached is the failure 0x27 of that access: R192 says
only that a probe reports region 101 (DESIGN CHOICE, notes/assumptions/86.md). A walk or a table word that
met an uncorrectable error is no page fault to report: it is the precise machine check of R212 (notes/assumptions/18.md). -/
def probeOf (x : Ctx) (a : Word) : Acc Word :=
  match x.s.region x.g x.t.colour x.t.key a with
  | .high => .ok (probeFail 0x21)
  | .none => .ok (probeFail 0x22)
  | .vaultLocal o =>
    match x.s.localPlace x.g x.t.colour x.t.key o a with
    | .ok p => .ok (probeVault 7 1 0 0 p.addr 0)
    | _ => .ok (probeFail 0x13)
  | .cluster clu o => .ok (probeWord 7 2 0 0 (clu / 16) (clu % 16) o 0)
  | .spad o =>
    let g := ((x.s.findTeam x.t.key).map Prod.fst).getD x.g
    .ok (probeWord 7 4 0 0 (dieOf g) (numOf g) o 0)
  | .team n o =>
    match x.s.findTeam ⟨x.t.launch, n⟩ with
    | some e => .ok (if e.2.retired || decide (e.2.size ≤ o) then probeFail 0x22 else probeWord 7 6 0 0 (dieOf e.1) (numOf e.1) o 0)
    | none => .ok (probeFail 0x22)
  | .kv sq b o =>
    let e := x.s.kvEntry x.g x.t.colour sq b
    let ws := x.s.probeWords x.g x.t.colour sq b
    if x.s.kvOpen x.g x.t.colour ws [] = false then .wait x.s
    else if (x.s.kvBad x.g x.t.colour ws).isSome then .trap kindCheck 0 a
    else if e % 2 = 0 ∨ x.s.foreign x.t.colour (x.s.kvBlock x.g x.t.colour (kvIndex e)) then .ok (probeFail 0x14)
    else .ok (probeVault 7 3 0 0 (x.s.kvBlock x.g x.t.colour (kvIndex e) + o) 0)
  | .translated =>
    if (x.s.wpFault x.t.colour (dieOf x.g)).isSome then
      .ok (probeFail (0x10 + (x.s.wpFault x.t.colour (dieOf x.g)).getD 0))
    else match x.c.tlbFind x.t.colour a.toNat with
    | some e =>
      let w := e.leaf.toNat
      let perm := 1 + 2 * (w / 2 % 8)
      let inter := if w / 32 % 4 = 1 then 1 else 0
      let big := if e.big then 1 else 0
      (match leafPlace e.big w a.toNat with
      | .mem pa => .ok (if x.s.foreign x.t.colour pa then probeFail 0x13 else probeVault perm 0 inter big pa 0)
      | .peer pkg off =>
        if (x.s.peerPort (dieOf x.g) pkg).isSome then .ok (probeVault perm 5 inter big off pkg) else .ok (probeFail 0x27)
      | .spad _ _ => .ok 0)
    | none =>
      match x.s.coreTranslate x.g x.t.colour .locate a.toNat with
      | .trap _ 0 b => .trap kindCheck 0 b
      | .trap _ d _ => .ok (probeFail (0x10 + d))
      | .wait s => .wait s
      | .ok _ => .ok 0

/-- The table words of the KV tables that a probe of an address reads, where they are. -/
def probeSegs (x : Ctx) (a : Word) : List (Nat × Nat) :=
  match x.s.region x.g x.t.colour x.t.key a with
  | .kv sq b _ => x.s.kvPlaces x.g x.t.colour (x.s.probeWords x.g x.t.colour sq b)
  | _ => []

def execTprb (gd : Guard) (f : Fields) (s : State) : Host.Outcome State Fault Refusal :=
  turn gd s (fun x => srcWaits x [] [f.src1] ++ dstWait x [f.src1] f.dst) fun x =>
    let r := x.take [f.src1]
    let a := Fields.addr f (val r.1 0)
    match probeOf x a, f.dst.reg with
    | .ok w, .d i =>
      let s1 := (x.s.correct (probeSegs x a)).dropWalk x.g x.t.colour a.toNat
      (x.on s1).finish { r.2.1 with walks := (s1.core x.g).walks } (r.2.2.putD i w)
    | .wait s, _ => (x.on s).wait .mem
    | .trap kd d b, _ => x.accTrap kd d b
    | _, _ => x.finish r.2.1 r.2.2

/-! Planar updates (R181). -/

/-- A non-returning operation waits while sixteen are outstanding (R300). -/
def nonretWait (x : Ctx) : List SlotClass := if x.t.nonret.length < 16 then [] else [.mem]

def planarTurn (pdec : Bool) (gd : Guard) (f : Fields) (s : State) : Host.Outcome State Fault Refusal :=
  turn gd s (fun x => srcWaits x [] [f.src1, f.src2, f.src3] ++ memWait x (gPlanes f.ty) ++ nonretWait x
      ++ relWait x (relBits f)) fun x =>
    if unboundStream x [f.src2] then x.trap kindStream 0 0
    else
      let r := x.take [f.src1, f.src2, f.src3]
      let a := Fields.addr f (val r.1 0)
      let n := gPlanes f.ty
      x.planarAccess ⟨.write, false⟩ a (val r.1 2) n fun addrs ps =>
        let o := x.orderPoint r.2.2 f
        let pas := ps.map Place.addr
        let m := Msg.planar ⟨x.req o.1 o.2 (o.1.writeClock x.g o.2), pdec, f.ty, f.qual, pas, a, (valAt r.1 1).lanes.toList,
          (val r.1 2).setWidth 32, x.s.watchTag x.t (addrs.flatMap fun b => addrRange b.toNat 32)⟩
        let c := (List.range n).foldl (fun c _ => c.sentPa x.t (pas.headD 0)) r.2.1
        (x.on (o.1.send m).bumpUid).finish c
          { o.2 with outst := o.2.outst ++ List.replicate n o.1.uid, nonret := o.2.nonret ++ [o.1.uid] }

def execPupd (gd : Guard) (f : Fields) (s : State) : Host.Outcome State Fault Refusal := planarTurn false gd f s
def execPdec (gd : Guard) (f : Fields) (s : State) : Host.Outcome State Fault Refusal := planarTurn true gd f s

/-! KV blocks (R209). -/

/-- A range of blocks and sequences within `kv.geom`. An empty range whose first block lies above is not within it (DESIGN CHOICE,
notes/assumptions/72.md). -/
def kvWithin (r : Colour) (ss : List Nat) (b n : Nat) : Bool :=
  ss.all (fun q => decide (q < 2 ^ r.kvKs)) && decide (b + n ≤ 2 ^ r.kvKb)

/-- A KV operation on a range of blocks: a message that takes one block step after another. It takes one entry of the memory port until its
last block step (DESIGN CHOICE, notes/assumptions/71.md). -/
def kvTurn (fork : Bool) (gd : Guard) (f : Fields) (s : State) : Host.Outcome State Fault Refusal :=
  turn gd s (fun x => srcWaits x [] [f.src1, f.src2, f.src3] ++ memWait x 1 ++ nonretWait x) fun x =>
    let r := x.take [f.src1, f.src2, f.src3]
    let q := (val r.1 0).toNat
    let b := (val r.1 1).toNat
    let n := (val r.1 2).toNat
    if kvWithin (x.s.colour x.t.colour) (if fork then [q, b] else [q]) (if fork then 0 else b) n = false then
      x.trapFree kindAddress 2
    else if n = 0 ∨ (fork ∧ q = b) then x.finish r.2.1 r.2.2
    else
      let m := Msg.kvBlocks (x.req x.s x.t (x.s.writeClock x.g x.t)) fork q (if fork then b else 0) (if fork then 0 else b) n
      (x.on (x.s.send m).bumpUid).finish r.2.1
        { r.2.2 with outst := r.2.2.outst ++ [x.s.uid], nonret := r.2.2.nonret ++ [x.s.uid], kvOut := r.2.2.kvOut + 1 }

def execKvfork (gd : Guard) (f : Fields) (s : State) : Host.Outcome State Fault Refusal := kvTurn true gd f s
def execKvfree (gd : Guard) (f : Fields) (s : State) : Host.Outcome State Fault Refusal := kvTurn false gd f s

/-! Steps at the homes. -/

/-- A table walk ends (R193): the leaf is cached on the core, or the fault is kept for the access that waits. It does not end while a
fenced die is in its way (R337). -/
def execTableWalkComplete (g colour vpage : Nat) (s : State) : Host.Outcome State Fault Refusal :=
  let c := s.core g
  if c.walks.any (fun w => w.colour == colour && w.page == vpage && w.res.isNone) = false then
    .refused (.notEnabled "TABLE_WALK_COMPLETE")
  else
    let others := c.walks.filter fun w => !(w.colour == colour && w.page == vpage)
    let s0 := s.correct (s.walkWords colour (dieOf g) (vpage * 2 ^ 16))
    if s.walkOpen colour (dieOf g) (vpage * 2 ^ 16) = false then .refused (.notEnabled "TABLE_WALK_COMPLETE")
    else match s.walk colour (dieOf g) (vpage * 2 ^ 16) with
    | .ok (big, e) =>
      .next (s0.setCore g { c with walks := others, tlb := c.tlb ++ [leafEntry colour (vpage * 2 ^ 16) big e] })
    | .error d => .next (s0.setCore g { c with walks := others ++ [⟨colour, vpage, some (BitVec.ofNat 8 d)⟩] })

/-- An access that failed at its home with an imprecise report (R212): its port entry is free and it will not reply. Another package's is
answered with a failure (R395). -/
def State.failAccess (s : State) (r : Req) (reg : Option Reg) (rep : Report) (die : Nat) : State :=
  if r.fromPeer then
    (if rep.kind = kindCheck then s.freezeDie die 4 else s).peerAnswer r false []
  else
  let drop (m : Msg) : Msg := match m, reg with
    | .read q segs (.vsec i h) va, some (.v j) => .read q segs (if q.tid = r.tid ∧ i = j then .failed else .vsec i h) va
    | .reply t id (.vsec i h) data k l, some (.v j) => .reply t id (if t = r.tid ∧ i = j then .failed else .vsec i h) data k l
    | m, _ => m
  let s1 := (s.performed r.tid r.id).onTid r.tid fun t =>
    { t.replied r.id with nonret := t.nonret.filter fun i => i != r.id, waitAns := false }
  { s1 with net := s1.net.map drop }.trapEngine r.tid die { rep with clr := reg }

/-- The register a destination names. -/
def Dest.reg : Dest → Option Reg
  | Dest.none => Option.none
  | .failed => Option.none
  | .d i _ => some (.d i)
  | .vsec i _ => some (.v i)
  | .vplanes i _ _ => some (.v i)

/-- The bytes a home returns: a peer package's are free values (R192). -/
def State.readBytes (s : State) (segs : List (Nat × Nat)) : List Byte :=
  segs.flatMap fun e =>
    if isPeer e.1 then (List.range e.2).map fun i => Config.peerByte s.free (e.1 + i) else memGets s.mem e.1 e.2

/-- The peer session that a request relies on has ended (R192). -/
def State.peerLost (s : State) (src pa : Nat) : Bool := isPeer pa && (s.peerPort (dieOf src) (peerOf pa)).isNone

/-- An access of a core to another package waits at the port until the session's numbers allow it (R398). -/
def State.peerWaits (s : State) (src pa : Nat) : Bool :=
  isPeer pa && match s.peerPort (dieOf src) (peerOf pa) with
    | some p => !(s.port p).crosses
    | none => false

/-- An access of a colour made in another package: a message each way on the port, which the colour's traffic then uses (R398). -/
def State.peerAccess (s : State) (src pa colour : Nat) : State :=
  let s1 := s.usePort (dieOf src) (peerOf pa) colour
  match s.peerPort (dieOf src) (peerOf pa) with
  | some p => s1.setPort p (s1.port p).exchange
  | none => s1

/-- tr.eng of the fabric port that a package is reached by from a die (R359). -/
def State.portWord (s : State) (src pa : Nat) : Word :=
  engWord 7 (dieOf src) ((smapFind (s.die (dieOf src)).routes (peerOf pa)).getD 0)

/-- An uncorrectable error in the bytes of an access. -/
def State.badSegs (s : State) (segs : List (Nat × Nat)) : Bool := segs.any fun e => s.bad e.1 e.2

/-- Why the slice of these bytes refuses an access of a colour (R8, R212; notes/assumptions/33.md): kind and detail. -/
def State.refuses (s : State) (colour : Nat) (segs : List (Nat × Nat)) : Option (BitVec 8 × Nat) :=
  if s.foreignAny colour (segs.map Prod.fst) then some (kindPage, 3)
  else if s.badSegs segs then some (kindCheck, 0)
  else none

/-- The report of a slice that refuses an access, none for the other sector of a load that has been reported. -/
def State.readRefused (s : State) (r : Req) (segs : List (Nat × Nat)) (dst : Dest) : Option (BitVec 8 × Nat) :=
  if dst = .failed ∧ r.fromPeer = false then none else s.refuses r.colour segs

/-- A block made most recently used by a read or write of a cluster location. -/
def State.touch (s : State) (pa : Nat) : State := if isCluster pa then s.expand (clusterOfAddr pa) (blockKey pa) else s

/-- A read is performed at its home (R312): the value is determined and the reply sent with the home die's clock (R323). An uncorrectable error in the
other sector of a load that has been reported freezes the recorders of its own die too (R374). -/
def execReadPerform (k : Nat) (s : State) : Host.Outcome State Fault Refusal :=
  orNot "READ_PERFORM" (match s.net[k]? with
    | some (.read r segs dst va) =>
      let pa := (segs.headD (0, 0)).1
      if s.arrived k = false ∨ s.expanded pa = false ∨ s.peerWaits r.src pa ∨ (!isPeer pa && s.ownWaits (homeKeeper pa) r segs) then none
      else
        let s0 := (s.takeMsg k).touch pa
        if s.peerLost r.src pa then
          some (s0.failAccess r dst.reg (engineReport (s.portWord r.src pa) kindAddress 7 r.pc va) (dieOf r.src))
        else match s.readRefused r segs dst with
        | some (kind, d) => some (s0.failAccess r dst.reg (engineReport (homeUnit pa) kind d r.pc va) (homeDie pa))
        | none =>
          let s1 := (if isPeer pa then s0.bumpFree.peerAccess r.src pa r.colour else s0.correct segs).performed r.tid r.id
          let s2 := if dst = .failed ∧ s.badSegs segs then s1.freezeDie (homeDie pa) 4 else s1
          some (s2.reply r (.reply r.tid r.id dst (s.readBytes segs) (if isPeer pa then [] else (s.die (homeDie pa)).k)
            (r.label (homeOf pa))) true (s.readBytes segs))
    | _ => none)

/-- Another package is told that its write is performed (R395); a core's write needs no answer. -/
def State.writeDone (s : State) (r : Req) : State :=
  if r.fromPeer then s.peerAnswer r true [] else s.performed r.tid r.id

/-- The effect of a write once it may be performed: the bytes are applied, unless the slice refuses them. -/
def State.applyWrite (s : State) (r : Req) (bytes : List (Nat × Byte)) (va : Word) : State :=
  let pa := (bytes.headD (0, 0)).1
  if isPeer pa then
    if s.peerLost r.src pa then
      s.failAccess r none (engineReport (s.portWord r.src pa) kindAddress 7 r.pc va) (dieOf r.src)
    else (s.peerAccess r.src pa r.colour).performed r.tid r.id
  else match s.refuses r.colour (bytes.map fun b => (b.1, 1)) with
    | some (kind, d) => s.failAccess r none (engineReport (homeUnit pa) kind d r.pc va) (homeDie pa)
    | none => ((((s.correct (bytes.map fun b => (b.1, 1))).takeSlots pa).touch pa).memStore r.colour bytes).writeDone r

/-- A write that must wait at its home: for the frontier to cover its clock, or for accesses to the same bytes of its own source or of that
of a contribution merged into it, `rs` being the requests it stands for (R311, R323). -/
def State.mustHold (s : State) (rs : List Req) (pa : Nat) (segs : List (Nat × Nat)) : Bool :=
  !isPeer pa && rs.any fun r => !s.covers (homeDie pa) r.clock || s.ownWaits (homeKeeper pa) r segs

/-- The clock of a request that its home's die has received joins K there (R323, point 3). -/
def State.hearReq (s : State) (pa : Nat) (r : Req) : State := if isPeer pa || r.clock.isEmpty then s else s.hearClock (homeDie pa) r.clock

/-- A write reaches its home (R312, R323): it is performed, or held, or waits for slots of its cluster (R211). -/
def execWritePerform (k : Nat) (s : State) : Host.Outcome State Fault Refusal :=
  orNot "WRITE_PERFORM" (match s.net[k]? with
    | some (.write r bytes va) =>
      let pa := (bytes.headD (0, 0)).1
      if s.arrived k = false ∨ s.peerWaits r.src pa then none
      else if s.slotsOk pa = false then s.lacksSlots pa
      else
        let s1 := (s.takeMsg k).hearReq pa r
        some (if s.mustHold [r] pa (bytes.map fun b => (b.1, 1)) then s1.holdMsg (homeKeeper pa) (.write r bytes va)
          else s1.applyWrite r bytes va)
    | _ => none)

/-- A die's frontier entry is sent to every other die (R323). -/
def execFrontierUpdate (die : Nat) (s : State) : Host.Outcome State Fault Refusal :=
  let n := (s.die die).front.getD die 0
  let others := (List.range 8).filter fun h => decide ((s.die h).front.getD die 0 < n)
  if others.isEmpty then .refused (.notEnabled "FRONTIER_UPDATE")
  else .next (others.foldl (fun s h => s.setDie h { s.die h with front := (s.die h).front.set die n }) s)

/-- The lanes of a planar load's reply (R200). -/
def planarLanes (ty : Ty) (tz : Bool) (data : List Byte) : VReg :=
  Vector.ofFn fun i =>
    let bs := (List.range (data.length / 32)).map fun q => data.getD (32 * q + i.val) 0
    if tz then f32Of .rne false (readGTrunc (gPlanes ty) bs) else packPlanes bs

/-- A sector for a v register arrives: the register is written once both are there (R49). -/
def Thread.putHalf (t : Thread) (i : Fin 8) (hi : Bool) (data : List Byte) : Thread :=
  if t.vowed[i] = 0 then t
  else match t.halves.find? fun h => h.1 == i && h.2.1 != hi with
    | some h =>
      let bs := if hi then h.2.2 ++ data else data ++ h.2.2
      { t.putV i (lanesOf bs) with vowed := t.vowed.set i 0, halves := t.halves.filter fun h => h.1 != i }
    | none => { t with halves := t.halves ++ [(i, hi, data)], vowed := t.vowed.set i (t.vowed[i] - 1) }

/-- A reply's data reach the thread (R104). -/
def Thread.receive (t : Thread) (dst : Dest) (data : List Byte) : Thread :=
  match dst with
  | .none => t
  | .failed => t
  | .d i ty => { t.putD i (extendTo ty data) with dpend := t.dpend.set i false }
  | .vsec i hi => t.putHalf i hi data
  | .vplanes i ty tz =>
    if t.vowed[i] = 0 then t else { t.putV i (planarLanes ty tz data) with vowed := t.vowed.set i 0 }

/-- The die of the core where a thread is, if it has a slot. -/
def State.dieOfTid (s : State) (tid : Nat) : Option Nat := (s.findTid tid).map fun r => dieOf r.g

/-- A message's clock heard where its thread is. -/
def State.hearAt (s : State) (tid : Nat) (clock : List Nat) : State :=
  match s.dieOfTid tid with
  | some d => s.hearClock d clock
  | none => s

/-- An answer reaches its thread, wherever that is (R104, R345), after those of its home to its core sent before it; one whose way leads
through a fenced die is lost (R313, R337). -/
def State.answered (s : State) (k tid : Nat) (clock : List Nat) (own : Label) (f : Thread → Thread) : Option State :=
  if s.arrived k = false then none
  else if s.wayBack own = false then some (s.takeMsg k)
  else some (((s.takeMsg k).hearAt tid clock).onTid tid f)

/-- LOAD_REPLY: the data reach their register. -/
def execLoadReply (k : Nat) (s : State) : Host.Outcome State Fault Refusal :=
  orNot "LOAD_REPLY" (match s.net[k]? with
    | some (.reply tid id dst data clock own) => s.answered k tid clock own fun t => (t.receive dst data).replied id
    | _ => none)

/-! Planar updates at the home slice (R182–R184). -/

/-- A planar update's value before encoding, and its event code: nan_prop with G or binary32 payloads kept (R182); an exact zero
has the sign of the rounding in use (R65), and 1 − λ is +0 where λ is 1. -/
def planarValue (pdec : Bool) (r : Rnd) (origin : BitVec 16) (w d lam : XNum) : XNum × Nat :=
  let event (c : Nat) : XNum × Nat := (.nan false (eventPayload c origin), c)
  if pdec then
    match w, lam, d with
    | .nan s p, _, _ => (.nan s p, 0)
    | _, .nan s p, _ => (.nan s p, 0)
    | _, _, .nan s p => (.nan s p, 0)
    | w, lam, d =>
      let f := xAdd .rne (.fin false 1 0) (xNeg lam)
      if zeroInf w f then event 2
      else
        let m := xMul w f
        if m.isInf && d.isInf && m.sign != d.sign then event 1 else (xAdd r m d, 0)
  else
    match w, d with
    | .nan s p, _ => (.nan s p, 0)
    | _, .nan s p => (.nan s p, 0)
    | w, d => if w.isInf && d.isInf && w.sign != d.sign then event 1 else (xAdd r w d, 0)

/-- The new planes of element i, and its event. -/
def planarElem (s : State) (p : Planar) (i : Nat) : List (Nat × Byte) × Nat :=
  let n := gPlanes p.ty
  let w := readG (p.addrs.map fun a => memGet s.mem (a + i))
  let y := planarValue p.pdec (rndOf p.rnd) (p.req.wid.setWidth 16) w (f32Val (p.delta.getD i 0)) (f32Val p.lam)
  ((p.addrs.zip (planes n (encodeG (rndOf p.rnd) false y.1))).map fun e => (e.1 + i, e.2), y.2)

/-- A watch strike of class 2 reported after the write (R381), recorded at the core that issued the access where its thread has no slot now
(R383). -/
def State.homeStrike (s : State) (r : Req) (eng : Word) (die : Nat) (w : Option (Nat × Word)) : State :=
  match w with
  | none => s
  | some (k, a) =>
    let at_ := (s.findTid r.tid).getD ⟨r.src, r.bslot⟩
    (s.trace at_.g at_.slot 0x03 r.colour r.wid r.pc a).trapEngine r.tid die (engineReport eng kindWatch (8 + k) r.pc a)

/-- A planar update performed on 32 elements in one step; an uncorrectable error in any of its planes is reported with the lead
address (DESIGN CHOICE, notes/assumptions/43.md). -/
def State.applyPlanar (s : State) (p : Planar) : State :=
  let pa := p.addrs.headD 0
  let segs := p.addrs.map fun a => (a, 32)
  match s.refuses p.req.colour segs with
  | some (kind, d) => s.failAccess p.req none (engineReport (homeUnit pa) kind d p.req.pc p.va) (homeDie pa)
  | none =>
    let es := (List.range 32).map (planarElem s p)
    let s1 := (((s.correct segs).memStore p.req.colour (es.flatMap Prod.fst)).performed p.req.tid p.req.id).send
      (.redAck p.req.tid p.req.id (s.die (homeDie pa)).k (p.req.label (homeOf pa)))
    let s2 := match (enumFrom 0 es).find? fun e => e.2.2 != 0 with
      | some e =>
        if p.req.evt then
          s1.trapEngine p.req.tid (homeDie pa)
            (engineReport (homeUnit pa) kindEvent e.2.2 p.req.pc (p.va + BitVec.ofNat 64 e.1))
        else s1
      | none => s1
    s2.homeStrike p.req (homeUnit pa) (homeDie pa) p.watch

/-- PUPD_PERFORM: the update is performed, or held. -/
def execPupdPerform (k : Nat) (s : State) : Host.Outcome State Fault Refusal :=
  orNot "PUPD_PERFORM" (match s.net[k]? with
    | some (.planar p) =>
      let pa := p.addrs.headD 0
      if s.arrived k = false then none
      else
        let s1 := (s.takeMsg k).hearReq pa p.req
        some (if s.mustHold [p.req] pa (p.addrs.map fun a => (a, 32)) then s1.holdMsg (homeKeeper pa) (.planar p)
          else s1.applyPlanar p)
    | _ => none)

/-! KV steps (R207–R209). They are made at the home of the entry word, when its frontier covers the clock they carry (R323). -/

/-- The answer of a KV step reaches the thread whose access waits. -/
def Thread.kvAnswered (t : Thread) (sq b : Nat) (write : Bool) (res : KvRes) : Thread :=
  { t with kv := t.kv.map fun e => if e.s = sq ∧ e.b = b ∧ e.write = write then { e with res := some res } else e }

/-- A KV step of a request that reads the table words `ws` and copies between `blocks` may be made: its clock is covered, the walks that it
may need are free (R193), no fenced die is in the way (R337), and no earlier access of its source to the words is on its way, held at its
home, or a group read still to be made (R318, R321). `k` is its place among the messages. -/
def State.kvReady (s : State) (k : Nat) (r : Req) (sq b : Nat) (ws : List (Nat × Nat)) (blocks : List Nat) : Bool :=
  let segs := s.kvPlaces r.src r.colour ws
  let die := homeDie (s.kvHome r.src r.colour sq b)
  s.covers die r.clock && s.kvOpen r.src r.colour ws blocks && (segs.map Prod.fst ++ blocks).all (s.twoWay die)
    && segs.all (fun e => !s.ownWaits (homeKeeper e.1) r [e])
    && (s.net.take k).all fun m => !m.from_ r.src || match m.route? with
      | some (_, _, segs') => !overlaps segs segs'
      | none => true

/-- KV_STEP: the answer, with the clock of the home's die, reaches the thread, unless its way back is closed (R313, R337); a step that meets an
uncorrectable error ends with the report of R212 and the access is tried again when the thread issues it next. -/
def execKvStep (k : Nat) (s : State) : Host.Outcome State Fault Refusal :=
  orNot "KV_STEP" (match s.net[k]? with
    | some (.kv r sq b write _) =>
      if s.arrived k = false ∨ s.kvReady k r sq b (s.kvWords r.src r.colour sq b write).1 (s.kvCopied r.src r.colour sq b write) = false then none
      else
        let pa := s.kvHome r.src r.colour sq b
        let s1 := ((s.takeMsg k).hearReq pa r).hearAt r.tid (s.die (homeDie pa)).k
        let y := s1.kvStep r.src r.colour sq b write
        some (match y.2 with
          | .check bad va =>
            (y.1.onTid r.tid fun t => { t with kv := t.kv.filter fun e => !(e.s == sq && e.b == b && e.write == write) }).trapEngine
              r.tid (homeDie bad) (engineReport (homeUnit bad) kindCheck 0 r.pc va)
          | res => if s.wayBack (r.label (homeOf pa)) then y.1.onTid r.tid fun t => t.kvAnswered sq b write res else y.1)
    | _ => none)

/-- The target's entry of a `kvfork` released, and the source's entry copied and counted (R209). No answer of before is kept for the
target. -/
def State.kvShare (s : State) (g colour sq tq b : Nat) : State :=
  let s := s.forgetKv colour tq b
  let te := s.kvEntry g colour tq b
  let s1 := if te % 2 = 1 then s.kvRelease g colour (kvIndex te) else s
  let se := s1.kvEntry g colour sq b
  let s2 := s1.kvWrite g colour (s1.kvEntryVa colour tq b) 4 se
  if se % 2 = 1 then s2.kvSetCount g colour (kvIndex se) (s2.kvCount g colour (kvIndex se) + 1) else s2

/-- A `kvfork` of (s, b) copies its block: a write through (s, b) is under way to it. -/
def State.kvCopies (s : State) (g colour sq b : Nat) : Bool :=
  let e := s.kvEntry g colour sq b
  e % 2 == 1 && s.writing colour sq b (s.kvBlock g colour (kvIndex e))

/-- One block step of `kvfork` (R209). A write through (s, b) that is already under way is performed after the copying, so it copies
under R207: the source gets a private block with the write and what else is under way to the old one. Where no block is free for
that the step waits for the write. -/
def State.kvForkStep (s : State) (g colour sq tq b : Nat) : Option State :=
  let s1 := s.forgetKv colour sq b
  let e := s1.kvEntry g colour sq b
  let old := s1.kvBlock g colour (kvIndex e)
  if s1.kvCopies g colour sq b then
    (State.kvPop (s1.kvShare g colour sq tq b) g colour).map fun (j, s2) =>
      let new := s2.kvBlock g colour j
      let s4 := ((s2.copyBlock colour old new).kvSetCount g colour j 1).kvWrite g colour (s2.kvEntryVa colour sq b) 4 (kvValid j)
      (s4.kvRelease g colour (kvIndex e)).moveBlock colour sq b old new
  else some (s1.kvShare g colour sq tq b)

/-- One block step of `kvfree` (R209); no answer of before is kept. -/
def State.kvFreeStep (s : State) (g colour sq b : Nat) : State :=
  let s := s.forgetKv colour sq b
  let e := s.kvEntry g colour sq b
  if e % 2 = 1 then (s.kvWrite g colour (s.kvEntryVa colour sq b) 4 0).kvRelease g colour (kvIndex e) else s

/-- The table words a block step reads. -/
def State.kvStepWords (s : State) (g colour : Nat) (fork : Bool) (sq tq b : Nat) : List (Nat × Nat) :=
  let words (q : Nat) : List (Nat × Nat) :=
    let e := s.kvEntry g colour q b
    (s.kvEntryVa colour q b, 4) :: (if e % 2 = 1 then [(s.kvDescVa colour (kvIndex e), 8)] else [])
  let pop : List (Nat × Nat) := if fork && s.kvCopies g colour sq b && s.kvFreeCount g colour != 0 then
      [(s.kvTopVa g colour, 4), (s.kvDescVa colour (s.kvTop g colour), 8)] else []
  words sq ++ (if fork then words tq else []) ++ [(s.kvFreeVa colour, 8)] ++ pop

/-- The slot of the free list that a block step writes as it releases an index for the last time. -/
def State.kvStepPush (s : State) (g colour : Nat) (fork : Bool) (sq tq b : Nat) : List (Nat × Nat) :=
  let e := s.kvEntry g colour (if fork then tq else sq) b
  if e % 2 = 1 ∧ s.kvCount g colour (kvIndex e) ≤ 1 then [(s.kvFreeVa colour + 8 + 4 * s.kvFreeCount g colour, 4)] else []

/-- The blocks that a `kvfork` copies from and to, where it copies: the source's, and that of the index it pops once the target's entry is
released. -/
def State.kvStepBlocks (s : State) (g colour : Nat) (fork : Bool) (sq tq b : Nat) : List Nat :=
  if fork && s.kvCopies g colour sq b then
    s.kvBlock g colour (kvIndex (s.kvEntry g colour sq b)) ::
      (match (s.kvShare g colour sq tq b).kvPop g colour with
      | some (j, s1) => [s1.kvBlock g colour j]
      | none => [])
  else []

/-- A `kvfork` whose table words are sound would copy a block of another colour, or into one (R8; notes/assumptions/33.md). -/
def State.kvStepForeign (s : State) (g colour : Nat) (fork : Bool) (sq tq b : Nat) : Bool :=
  (s.kvBad g colour (s.kvStepWords g colour fork sq tq b)).isNone && s.foreignAny colour (s.kvStepBlocks g colour fork sq tq b)

/-- The first uncorrectable error that a block step meets: in its table words, or in a block that a `kvfork` copies. -/
def State.kvStepBad (s : State) (g colour : Nat) (fork : Bool) (sq tq b : Nat) : Option (Nat × Word) :=
  (s.kvBad g colour (s.kvStepWords g colour fork sq tq b)).orElse fun _ =>
    if fork && s.kvCopies g colour sq b then s.kvBlockBad sq b (s.kvBlock g colour (kvIndex (s.kvEntry g colour sq b))) else none

/-- A KV operation on a range has ended. -/
def State.kvDone (s : State) (r : Req) : State := s.onTid r.tid fun t => { t with kvOut := t.kvOut - 1 }

/-- The next block of a KV operation, ascending; after the last the operation is performed. An uncorrectable error in a table word, or in a
block to be copied, ends it with the report of R212, and a block of another colour with page_fault 4. -/
def execKvBlockStep (k : Nat) (s : State) : Host.Outcome State Fault Refusal :=
  orNot "KV_BLOCK_STEP" (match s.net[k]? with
    | some (.kvBlocks r fork sq tq b left) =>
      let g := r.src
      let ws := s.kvStepWords g r.colour fork sq tq b
      if s.arrived k = false
          ∨ s.kvReady k r sq b (ws ++ s.kvStepPush g r.colour fork sq tq b) (s.kvStepBlocks g r.colour fork sq tq b) = false then none
      else
        let s0 := (s.takeMsg k).correct (s.kvPlaces g r.colour ws)
        if s0.kvStepForeign g r.colour fork sq tq b then
          let pa := s.kvHome g r.colour sq b
          some ((s0.kvDone r).failAccess r none (engineReport (homeUnit pa) kindPage 4 r.pc (BitVec.ofNat 64 (s.kvEntryVa r.colour sq b))) (homeDie pa))
        else match s0.kvStepBad g r.colour fork sq tq b with
        | some bad =>
          some ((s0.kvDone r).failAccess r none (engineReport (homeUnit bad.1) kindCheck 0 r.pc bad.2) (homeDie bad.1))
        | none =>
          let pa := s.kvHome g r.colour sq b
          (if fork then s0.kvForkStep g r.colour sq tq b else some (s0.kvFreeStep g r.colour sq b)).map fun s1 =>
            let s2 := s1.hearReq pa r
            if left ≤ 1 then ((s2.performed r.tid r.id).send (.redAck r.tid r.id (s.die (homeDie pa)).k
              (r.label (homeOf pa)))).kvDone r
            else
              let n := s2.net.length - (s0.net.length - k)
              { s2 with net := s2.net.take n ++ [.kvBlocks r fork sq tq (b + 1) (left - 1)] ++ s2.net.drop n }
    | _ => none)

/-! Cluster memory (R211). -/

/-- A block that a waiting read needs is expanded. -/
def execClusterBlockExpand (clu colour blk : Nat) (s : State) : Host.Outcome State Fault Refusal :=
  let key := colour * 2 ^ 15 + blk
  if clu < 128 ∧ blk < 2 ^ 15 ∧ (s.cluster clu).expander.contains key = false then .next (s.expand clu key)
  else .refused (.notEnabled "CLUSTER_BLOCK_EXPAND")

end Sys2Proof.Machine
end

