-- ==== Sys2Proof/Machine/Sync.lean ====
section
/-! DEFINITION. Atomics, reductions, gateways and the inbox, class 0x1C (spec/12_atomics_sync.md), and writes released at their
home (spec/13_ordering.md R323). -/
namespace Sys2Proof.Machine
open Sys2Proof

/-! Messages to an inbox (R306, R308). -/

/-- An access of a thread that comes before its access `id` is not performed yet. -/
def State.stillOwed (s : State) (o : Word × Nat × Nat) : Bool :=
  match (s.findTid o.2.1).bind fun r => s.thread r.g r.slot with
  | some t => t.outst.any fun i => decide (i < o.2.2)
  | none => false

/-- A message for the inbox of a team's core, posted by a unit at the router of core `src` (R323: it carries that die's clock). -/
def State.post (s : State) (src : Nat) (team : Option TeamKey) (core : Nat) (e : InboxEntry) : State :=
  s.send (.inbox team core e src (s.die (dieOf src)).k)

/-- The colour is resident in its partition. -/
def State.resident (s : State) (colour : Nat) : Bool := ((s.partOf colour).map fun p => p.2.resident == colour).getD false

/-- The saved core of a team whose round is out (R341). -/
def State.savedHome (s : State) (key : TeamKey) : Option Nat := (s.saved.find? fun e => (e.2.teamOf key).isSome).map Prod.fst

/-- The notice of a cell waits: an access that stands before a contribution counted on the cell is still to be performed (R316, R318;
notes/assumptions/108.md). -/
def State.noticeOwed (s : State) (e : InboxEntry) : Bool :=
  s.owed.any fun o => o.1 == e.w0 && s.stillOwed o

/-- A message joins the queue of its core, wherever its team now is, its saved round included; a message for a switched-out colour is
held; a notice for a core outside the colour's partition or on a fenced die is dropped and counted (R305, R306, R308, R341). A notice arrives
once what its contributions follow in program order is performed. -/
def execInboxMessageArrival (k : Nat) (s : State) : Host.Outcome State Fault Refusal :=
  orNot "INBOX_MESSAGE_ARRIVAL" (match s.net[k]? with
    | some (.inbox team core e src clock) =>
      let g := ((team.bind s.findTeam).map Prod.fst).getD core
      if team.isNone && !s.clusterOk e.colour (clusterOf core) then
        some ((s.takeMsg k).setDie (dieOf core) { s.die (dieOf core) with notices := (s.die (dieOf core)).notices + 1 })
      else if s.resident e.colour = false ∨ s.reaches src g = false ∨ (team.isNone && s.noticeOwed e) then none
      else match team.bind s.savedHome with
      | some key =>
        let c := smapGet Core.reset s.saved key
        some ((({ s.takeMsg k with saved := smapPut s.saved key { c with inbox := c.inbox ++ [e] } } : State)).hearClock (dieOf core) clock)
      | none =>
        let s1 := (s.takeMsg k).hearClock (dieOf g) clock
        let c := s1.core g
        let s2 := s1.setCore g { c with inbox := c.inbox ++ [e] }
        some (if c.inbox.length < 64 + 992 then s2
          else s2.setDie (dieOf g) { s2.die (dieOf g) with notices := (s2.die (dieOf g)).notices + 1 })
    | _ => none)

/-- The head entry of a colour, and the queue without it. -/
def takeInbox (colour : Nat) : List InboxEntry → Option (InboxEntry × List InboxEntry)
  | [] => none
  | e :: rest =>
    if e.colour = colour then some (e, rest)
    else (takeInbox colour rest).map fun r => (r.1, e :: r.2)

/-- The writes of a thread that are not performed yet. -/
def Thread.unperformed (t : Thread) : List Nat := t.outst.filter fun i => !t.loads.contains i

/-- The release point that an `inbx` asks for while its thread has writes not yet performed: they are causally before what the core sends later
(R317, R319; notes/assumptions/107.md). -/
def Ctx.inbxPoint (x : Ctx) : State × Nat :=
  if x.t.unperformed.isEmpty then (x.s, x.c.ibRel) else x.s.releasePoint (dieOf x.g) x.t.unperformed

/-- `inbx` (R307). -/
def execInbx (gd : Guard) (f : Fields) (s : State) : Host.Outcome State Fault Refusal :=
  turn gd s (fun x => dstWait x [] f.dst ++
      (if x.c.atHome x.t && !x.c.inbox.any (fun e => e.colour == x.t.colour) then [.msg] else [])
      ++ relWait x (x.c.atHome x.t && !x.t.unperformed.isEmpty)) fun x =>
    if x.c.atHome x.t = false then x.trap kindAddress 4 0
    else match takeInbox x.t.colour x.c.inbox, f.dst.reg with
      | some (e, rest), .d i =>
        let o := x.inbxPoint
        (x.on o.1).finish { x.c with inbox := rest, ibRel := o.2 } { x.t.putD i e.w0 with ibWord := e.w1, ibSrc := e.src }
      | _, _ => x.finish x.c x.t

/-! Values (R298, R303). -/

/-- The f32 minimum or maximum of R298, o first. -/
def atomMinMax (isMin : Bool) (o v : Lane) : Lane :=
  if f32IsNan o && f32IsNan v then (if o.toNat % 2 ^ 22 < v.toNat % 2 ^ 22 then quieten v else quieten o)
  else if f32IsNan o then quieten o
  else if f32IsNan v then quieten v
  else if isMin then (if f32Key v < f32Key o then v else o)
  else (if f32Key o < f32Key v then v else o)

/-- The new value of an atomic as an n-bit pattern, and its event code (R298). -/
def atomValue (op : AtomOp) (ty : Ty) (origin : BitVec 16) (o v c : Nat) : Nat × Nat :=
  let n := 8 * accessBytes ty
  let sg := ((tyInt ty).getD (64, true)).2
  let so := intVal n sg o
  let sv := intVal n sg v
  match op with
  | .add =>
    if ty = .f32 then
      let r := laneAdd .rne false origin (BitVec.ofNat 32 o) (BitVec.ofNat 32 v)
      (r.1.toNat, r.2)
    else ((o + v) % 2 ^ n, 0)
  | .min =>
    if ty = .f32 then ((atomMinMax true (BitVec.ofNat 32 o) (BitVec.ofNat 32 v)).toNat, 0)
    else (if sv < so then v % 2 ^ n else o, 0)
  | .max =>
    if ty = .f32 then ((atomMinMax false (BitVec.ofNat 32 o) (BitVec.ofNat 32 v)).toNat, 0)
    else (if so < sv then v % 2 ^ n else o, 0)
  | .and => ((o &&& v) % 2 ^ n, 0)
  | .or => ((o ||| v) % 2 ^ n, 0)
  | .xor => ((o ^^^ v) % 2 ^ n, 0)
  | .swap => (v % 2 ^ n, 0)
  | .cas => (if o = c % 2 ^ n then v % 2 ^ n else o, 0)
  | .x => (o, 0)

/-- Whether the atomic writes the location (R380: a failed comparison does not). -/
def atomWrites (op : AtomOp) (ty : Ty) (o c : Nat) : Bool := op != .cas || o == c % 2 ^ (8 * accessBytes ty)

/-- The exact-sum word of 256 bits as a lane of units 2^−149 (R302). -/
def sumOf (w : Nat) : XLane :=
  let tag := BitVec.ofNat 2 (w / 2 ^ 250)
  ⟨if tag = 0 then intVal 250 true (w % 2 ^ 250) else (w % 2 ^ 24 : Nat), tag, BitVec.ofNat 2 (w / 2 ^ 252)⟩

/-- A lane written as an exact-sum word; a sum outside the range of R302 leaves val undefined, `free` giving its bits (R303). -/
def sumWord (free : Nat) (l : XLane) : Nat :=
  let bits : Nat :=
    if l.tag ≠ 0 then l.val.toNat % 2 ^ 24
    else if -(2 ^ 249) ≤ l.val ∧ l.val < 2 ^ 249 then pat 250 l.val
    else ((List.range 4).foldl (fun a i => a + (Config.freeWord (free + i)).toNat * 2 ^ (64 * i)) 0) % 2 ^ 250
  bits + 2 ^ 250 * l.tag.toNat + 2 ^ 252 * l.seen.toNat

/-- The contribution of a binary32 value to an exact sum (R303). -/
def sumContrib (x : Lane) : XLane :=
  match f32Val x with
  | .nan _ p => ⟨(p.toNat % 2 ^ 22 : Nat), 3, 0⟩
  | .inf s => laneOf (.inf s)
  | .fin s n e =>
    if n ≠ 0 ∧ (90 : Int) ≤ (Nat.log2 n : Int) + e then laneOf (.inf s)
    else ⟨signed s (n <<< (e + 149).toNat), 0, 0⟩

/-! Issue (R295–R301). -/

/-- Regions accepted by scope (R295). -/
def scopeAccepts (scope : Nat) : Accepts :=
  if scope = 0 then .spad else if scope = 1 then ⟨false, false, true, false, false⟩ else .planar

/-- A numeric event of a team-scope atomic traps precisely and writes nothing; otherwise the word is written and the old value
returned (R296, R298). -/
def Ctx.teamAtomic (x : Ctx) (op : AtomOp) (ret : Bool) (f : Fields) (c : Core) (t : Thread) (a : Word) (off : Nat) (v k : Word) : State :=
  let n := accessBytes f.ty
  let bs := x.c.spadBytes off n
  let o := extendTo.leNum bs
  let y := atomValue op f.ty x.t.origin o v.toNat k.toNat
  if y.2 ≠ 0 ∧ x.t.evt then x.trap kindEvent y.2 a
  else
    let t' := match f.dst.reg with
      | .d i => if ret then t.putD i (extendTo f.ty bs) else t
      | _ => t
    let done (x : Ctx) (c : Core) : State :=
      let o := x.orderPoint t' f
      (x.on o.1).finish c o.2
    if atomWrites op f.ty o k.toNat then
      x.storing (addrRange a.toNat n) fun x => done x (c.spadPut off (wordBytes n (BitVec.ofNat 64 y.1)))
    else done x c

/-- The address lies in the combining window of the colour (R304). -/
def State.inWindow (s : State) (colour : Nat) (a : Word) : Bool :=
  let r := s.colour colour
  let b := r.cwBase.toNat % 2 ^ 55 / 2 ^ 16 * 2 ^ 16
  decide (b ≤ a.toNat ∧ a.toNat < b + r.cwLimit.toNat % 2 ^ 16 * 2 ^ 16)

/-- The common course of `amo` and `red` (R295–R301). Only reductions of `.dev` scope count in a cell of the combining window, those of which R304 speaks,
though R305 says each contribution (DESIGN CHOICE, notes/assumptions/102.md). -/
def atomTurn (op : AtomOp) (ret : Bool) (gd : Guard) (f : Fields) (s : State) : Host.Outcome State Fault Refusal :=
  let scope := Fields.bits f 34 2
  let srcs := if op = .cas then [f.src1, f.src2, f.src3] else [f.src1, f.src2]
  turn gd s (fun x => srcWaits x [] srcs ++ (if ret then dstWait x srcs f.dst else nonretWait x)
      ++ memWait x (if scope = 0 then 0 else 1) ++ sysRelWait x f) fun x =>
    let r := x.take srcs
    let a := Fields.addr f (val r.1 0)
    let n := atomBytes op f.ty
    if x.s.det x.t && op == .add && f.ty == .f32 then x.trap kindDet 2 a
    else if scope = 0 then
      x.spadAccess a n (List.range n) fun x pos => x.teamAtomic op ret f r.2.1 r.2.2 a (pos 0) (val r.1 1) (val r.1 2)
    else x.access (scopeAccepts scope) ⟨.write, scope == 3⟩ a (a.toNat % n == 0) [a] [a] fun ps =>
      let pa := (ps.map Place.addr).headD 0
      x.needSlots [pa]
        (let o := x.orderPoint r.2.2 f
        let t := o.2
        let inCw := scope == 2 && !ret && x.s.inWindow x.t.colour a
        let watch := x.s.watchTag x.t (addrRange a.toNat n)
        let m : Atomic :=
          { req := x.req o.1 t (o.1.writeClock x.g t), op := op, ty := f.ty, pa := pa, va := a, v := val r.1 1, c := val r.1 2,
            dst := (if ret then (match f.dst.reg with | .d i => some i | _ => none) else none), watch := watch, parts := [],
            sys := scope == 3,
            comb := inCw && !relBits f && !(op == .add && f.ty == .f32) && watch.isNone && homeDie pa != dieOf x.g,
            cell := inCw && decide (a.toNat % 64 + n ≤ 56) && (op != .x || a.toNat % 64 == 0), passed := [] }
        let t1 := { t with outst := t.outst ++ [o.1.uid] }
        let t2 := match m.dst with
          | some i => { t1.pendD i with waitAns := true }
          | none => { t1 with nonret := t1.nonret ++ [o.1.uid] }
        (x.on (o.1.send (.atomic m)).bumpUid).finish (r.2.1.sentPa x.t pa) t2)

def execAmoAdd (gd : Guard) (f : Fields) (s : State) := atomTurn .add true gd f s
def execAmoMin (gd : Guard) (f : Fields) (s : State) := atomTurn .min true gd f s
def execAmoMax (gd : Guard) (f : Fields) (s : State) := atomTurn .max true gd f s
def execAmoAnd (gd : Guard) (f : Fields) (s : State) := atomTurn .and true gd f s
def execAmoOr (gd : Guard) (f : Fields) (s : State) := atomTurn .or true gd f s
def execAmoXor (gd : Guard) (f : Fields) (s : State) := atomTurn .xor true gd f s
def execAmoSwap (gd : Guard) (f : Fields) (s : State) := atomTurn .swap true gd f s
def execAmoCas (gd : Guard) (f : Fields) (s : State) := atomTurn .cas true gd f s
def execRedAdd (gd : Guard) (f : Fields) (s : State) := atomTurn .add false gd f s
def execRedMin (gd : Guard) (f : Fields) (s : State) := atomTurn .min false gd f s
def execRedMax (gd : Guard) (f : Fields) (s : State) := atomTurn .max false gd f s
def execRedAnd (gd : Guard) (f : Fields) (s : State) := atomTurn .and false gd f s
def execRedOr (gd : Guard) (f : Fields) (s : State) := atomTurn .or false gd f s
def execRedXor (gd : Guard) (f : Fields) (s : State) := atomTurn .xor false gd f s
def execRedX (gd : Guard) (f : Fields) (s : State) := atomTurn .x false gd f s

/-! Performance (R298, R303, R305). -/

/-- tr.eng of the unit that executes an atomic (R295, R359): of one performed in another package, the port it left by. -/
def State.atomUnit (s : State) (a : Atomic) : Word :=
  if isPeer a.pa then s.portWord a.req.src a.pa
  else if a.sys then engWord 7 (homeDie a.pa) (2 * homeDie a.pa + 2) else homeUnit a.pa

/-- The contributions of an atomic in the order they are applied: its own, then the ones merged into it (R304). -/
def Atomic.contribs (a : Atomic) : List (Req × Word) := (a.req, a.v) :: a.parts
def Atomic.issuers (a : Atomic) : List Req := a.contribs.map Prod.fst

/-- Word 0 of the notice of a cell (R306). -/
def noticeWord (cell : Nat) : Word :=
  BitVec.ofNat 64 (0x90 + 2 ^ 8 * (homeCore cell / 256) + 2 ^ 11 * (homeCore cell % 256) + 2 ^ 19 * (cell % 2 ^ 28))

/-- Contributions counted on a cell: its notice follows what each issuer has sent before. -/
def State.owe (s : State) (cell : Nat) (rs : List Req) : State :=
  { s with owed := (s.owed ++ ((rs.filter fun r => !r.fromPeer).map fun r => (noticeWord cell, r.tid, r.id))).filter s.stillOwed }

/-- The count of a cell after n contributions (R305): at 0 a subtraction is dropped; reaching 0 with `en` set posts a notice. A count larger
than what is left, which R305 does not speak of, brings it to 0 (DESIGN CHOICE, notes/assumptions/73.md). -/
def State.countCell (s : State) (colour pa n : Nat) : State :=
  let cell := pa / 64 * 64
  let w := s.memNum (cell + 56) 8
  let left := w % 2 ^ 32
  if left = 0 then s else
    let left' := left - n
    let s1 := s.memStore colour (enumFrom (cell + 56) (wordBytes 8 (BitVec.ofNat 64 (w - left + left'))))
    if left' = 0 ∧ w.testBit 43 then
      s1.post (homeCore pa) none (256 * (w / 2 ^ 32 % 8) + w / 2 ^ 35 % 256)
        ⟨noticeWord cell, 0, 3, colour⟩
    else s1

/-- Every issuer is told that the operation is performed, with the clock of the home's die: an `amo` by its reply, the others by
acknowledgements (R299, R300, R323). -/
def State.answer (s : State) (a : Atomic) (old : Word) : State :=
  let k := if isPeer a.pa then [] else (s.die (homeDie a.pa)).k
  match a.dst with
  | some i => s.reply a.req (.amoReply a.req.tid a.req.id i old k (a.req.label (homeOf a.pa))) true (wordBytes (accessBytes a.ty) old)
  | none => a.issuers.foldl (fun s r => s.reply r (.redAck r.tid r.id k (r.label (homeOf a.pa))) true []) s

/-- The location after the contributions of an atomic, one after another (R298, R303, R304), and the contribution that created an event, with
its code. Of a merged `red.x` it is the one that makes seen 0b11, in the order they were merged (DEDUCED, notes/assumptions/16.md). -/
def Atomic.result (a : Atomic) (free o : Nat) : Nat × Option (Req × Nat) :=
  if a.op = .x then
    let y := a.contribs.foldl (fun (acc : XLane × Option (Req × Nat)) p =>
      let r := exactAdd (p.1.wid.setWidth 16) acc.1 (sumContrib (p.2.setWidth 32))
      (r.1, if r.2 then acc.2.orElse fun _ => some (p.1, 1) else acc.2)) (sumOf o, none)
    (sumWord free y.1, y.2)
  else
    a.contribs.foldl (fun (acc : Nat × Option (Req × Nat)) p =>
      let r := atomValue a.op a.ty (p.1.wid.setWidth 16) acc.1 p.2.toNat a.c.toNat
      (r.1, if r.2 ≠ 0 then acc.2.orElse fun _ => some (p.1, r.2) else acc.2)) (o, none)

/-- The reports of an atomic performed: its event, and its watch strike where it wrote (R298, R381). -/
def State.atomReports (s : State) (a : Atomic) (die : Nat) (ev : Option (Req × Nat)) (wrote : Bool) : State :=
  let s1 := match ev with
    | some (r, code) => if r.evt then s.trapEngine r.tid die (engineReport (s.atomUnit a) kindEvent code r.pc a.va) else s
    | none => s
  if wrote then s1.homeStrike a.req (s1.atomUnit a) die a.watch else s1

/-- An atomic performed at its unit in one step; in another package its old value is free (R192). -/
def State.applyAtomic (s : State) (a : Atomic) : State :=
  let n := atomBytes a.op a.ty
  let done (s : State) : State := a.issuers.foldl (fun s r => s.performed r.tid r.id) s
  let fails (s : State) (unit : Word) (kind : BitVec 8) (detail die : Nat) : State :=
    a.issuers.foldl (fun s r => s.failAccess r (a.dst.map Reg.d) (engineReport unit kind detail r.pc a.va) die) s
  let number (bs : List Byte) : Nat := extendTo.leNum bs
  if isPeer a.pa then
    if s.peerLost a.req.src a.pa then fails s (s.atomUnit a) kindAddress 7 (dieOf a.req.src)
    else
      let bs := s.readBytes [(a.pa, n)]
      let y := a.result s.free (number bs)
      ((done ({ s with free := s.free + 4 }.peerAccess a.req.src a.pa a.req.colour)).atomReports a (dieOf a.req.src) y.2
        (a.op == .x || atomWrites a.op a.ty (number bs) a.c.toNat)).answer a (extendTo a.ty bs)
  else match s.refuses a.req.colour [(a.pa, n)] with
  | some (kind, d) => fails s (s.atomUnit a) kind d (homeDie a.pa)
  | none =>
    let o := s.memNum a.pa n
    let y := a.result s.free o
    let wrote := a.op == .x || atomWrites a.op a.ty o a.c.toNat
    let s0 := (if a.op = .x then { s with free := s.free + 4 } else s).correct [(a.pa, n)]
    let s1 := if wrote then
        ((s0.takeSlots a.pa).touch a.pa).memStore a.req.colour (enumFrom a.pa ((List.range n).map fun i => BitVec.ofNat 8 (y.1 / 256 ^ i)))
      else s0.touch a.pa
    let s2 := (done s1).atomReports a (homeDie a.pa) y.2 wrote
    let s3 := if a.cell then (s2.owe (a.pa / 64 * 64) a.issuers).countCell a.req.colour a.pa a.issuers.length else s2
    s3.answer a (extendTo a.ty ((List.range n).map fun i => BitVec.ofNat 8 (o / 256 ^ i)))

/-- ATOMIC_PERFORM: performed, or held, or it waits for slots of its cluster (R211). -/
def execAtomicPerform (k : Nat) (s : State) : Host.Outcome State Fault Refusal :=
  orNot "ATOMIC_PERFORM" (match s.net[k]? with
    | some (.atomic a) =>
      if s.arrived k = false ∨ s.peerWaits a.req.src a.pa then none
      else if s.slotsOk a.pa = false then s.lacksSlots a.pa
      else
        let s1 := (s.takeMsg k).hearReq a.pa a.req
        some (if s.mustHold a.issuers a.pa [(a.pa, atomBytes a.op a.ty)] then s1.holdMsg (homeKeeper a.pa) (.atomic a)
          else s1.applyAtomic a)
    | _ => none)

/-- The old value reaches the thread of an `amo` (R299). -/
def execAmoReply (k : Nat) (s : State) : Host.Outcome State Fault Refusal :=
  orNot "AMO_REPLY" (match s.net[k]? with
    | some (.amoReply tid _ dst v clock own) =>
      s.answered k tid clock own fun t => { t.putD dst v with dpend := t.dpend.set dst false, waitAns := false }
    | _ => none)

/-- An acknowledgement lowers the count of non-returning operations (R300), and carries the clock of its sender's die (R323). -/
def execRedAck (k : Nat) (s : State) : Host.Outcome State Fault Refusal :=
  orNot "RED_ACK" (match s.net[k]? with
    | some (.redAck tid id clock own) => s.answered k tid clock own fun t => { t with nonret := t.nonret.filter fun i => i != id }
    | _ => none)

/-! Gateways (R304, R313): one on each side of every boundary, named by its die and the die across. -/

/-- The dies on a contribution's way, its source's first and its home's last. -/
def Atomic.way (a : Atomic) : List Nat := pathDies (dieOf a.req.src) (homeDie a.pa)

/-- The die whose gateway lies next on the contribution's way, and the die across the boundary there. -/
def Atomic.gateway (a : Atomic) : Option (Nat × Nat) :=
  match a.way[a.passed.length]?, a.way[a.passed.length + 1]? with
  | some d, some e => some (d, e)
  | _, _ => none

/-- Two contributions that may merge. -/
def Atomic.mates (a b : Atomic) : Bool :=
  a.req.colour == b.req.colour && a.va == b.va && a.op == b.op && a.ty == b.ty && a.pa == b.pa

/-- b merged into a (R304): the contributions, each with its operand, are applied one after another at the home, which is the op applied to
the operands together; the clock is the maximum of the two (R323). -/
def Atomic.merge (a b : Atomic) : Atomic :=
  { a with parts := a.parts ++ b.contribs, req := { a.req with clock := clockMax a.req.clock b.req.clock } }

/-- Two atomics that share a source and have one home, so that they keep their order (R313). -/
def Atomic.sameWay (a b : Atomic) : Bool := homeOf a.pa == homeOf b.pa && a.sources.any fun g => b.sources.contains g

/-- A contribution meets a partner among those a gateway holds, none of which held after the partner may be of its own source to its home:
merging keeps the order of a thread's other accesses. -/
def mergeInto (b : Atomic) (across : Nat) : List (Nat × Atomic) → Option (List (Nat × Atomic))
  | [] => none
  | (e, a) :: rest =>
    if e = across ∧ a.mates b ∧ (rest.all fun h => h.1 != across || !h.2.sameWay b) then some ((e, a.merge b) :: rest)
    else (mergeInto b across rest).map fun r => (e, a) :: r

/-- A contribution that has passed a gateway goes on ahead of everything sent later, behind what passed before it. -/
def State.passOn (s : State) (a : Atomic) : State :=
  let mine (m : Msg) : Bool := match m with
    | .atomic b => !b.passed.isEmpty && b.sameWay a
    | _ => false
  let n := match s.net.reverse.findIdx? mine with
    | some i => s.net.length - i
    | none => 0
  { s with net := s.net.take n ++ .atomic a :: s.net.drop n }

/-- A contribution reaches a gateway, after everything its sources sent before it to its home but what that gateway holds: it merges with a
partner, is held for one, or passes without merging where the buffer of 256 is full (R304), not before what is held there of its own
sources for its home (R313). -/
def execGatewayMerge (k die : Nat) (s : State) : Host.Outcome State Fault Refusal :=
  orNot "GATEWAY_MERGE" (match s.net[k]? with
    | some (.atomic b) =>
      (match b.gateway with
      | some (d, across) =>
        let earlier := (s.net.take k).any fun m => b.sources.any fun g => m.from_ g && match s.routeOf m with
          | some (_, home, _) => home == homeOf b.pa
          | none => false
        let full := decide (256 ≤ ((s.die die).gate.filter fun h => h.1 == across).length)
        let behind := full && (s.die die).gate.any fun h => h.1 == across && h.2.sameWay b
        let elsewhere := s.dies.any fun e => e.2.gate.any fun h => (e.1 != die || h.1 != across) && h.2.sameWay b
        if b.comb = false ∨ d ≠ die ∨ earlier ∨ elsewhere ∨ behind then none
        else
          let s0 := s.takeMsg k
          let x := s0.die die
          if full then some (s0.passOn { b with passed := b.passed ++ [die] })
          else match mergeInto b across x.gate with
            | some gate => some (s0.setDie die { x with gate := gate })
            | none => some (s0.setDie die { x with gate := x.gate ++ [(across, b)] })
      | none => none)
    | _ => none)

/-- The hold of a contribution ends and it crosses the boundary, in the order of its sources. -/
def execMergeHoldExpiry (die i : Nat) (s : State) : Host.Outcome State Fault Refusal :=
  orNot "MERGE_HOLD_EXPIRY" (match (s.die die).gate[i]? with
    | some (_, a) =>
      if ((s.die die).gate.take i).any fun h => h.2.sameWay a then none
      else some ((s.setDie die { s.die die with gate := (s.die die).gate.eraseIdx i }).passOn { a with passed := a.passed ++ [die] })
    | none => none)

/-! Held writes (R323). -/

/-- A held request is performed once the frontier of its home covers its clock and no earlier access of its source, or of that of a
contribution merged into it, to the same bytes is still to be performed. -/
def execHeldWriteRelease (g k : Nat) (s : State) : Host.Outcome State Fault Refusal :=
  orNot "HELD_WRITE_RELEASE" (match (s.core g).held[k]? with
    | some m =>
      let c := s.core g
      let s0 := s.setCore g { c with held := c.held.eraseIdx k }
      let before := s.setCore g { c with held := c.held.take k }
      let waits (rs : List Req) (pa : Nat) (segs : List (Nat × Nat)) : Bool :=
        rs.any fun r => !s.covers (homeDie pa) r.clock || before.ownWaits g r segs
      (match m with
      | .write r bytes va =>
        let pa := (bytes.headD (0, 0)).1
        if waits [r] pa (bytes.map fun b => (b.1, 1)) then none
        else if s.slotsOk pa = false then s.lacksSlots pa
        else some (s0.applyWrite r bytes va)
      | .atomic a =>
        if waits a.issuers a.pa [(a.pa, atomBytes a.op a.ty)] then none
        else if s.slotsOk a.pa = false then s.lacksSlots a.pa
        else some (s0.applyAtomic a)
      | .planar p =>
        if waits [p.req] (p.addrs.headD 0) (p.addrs.map fun a => (a, 32)) then none else some (s0.applyPlanar p)
      | _ => none)
    | none => none)

end Sys2Proof.Machine
end

