-- ==== Sys2Proof/Machine/Copy.lean ====
section
/-! DEFINITION. What a copy or a transform moves, sector by sector, and the barrier words (spec/11_copy_transform.md R270–R278,
R287, R288, R293). -/
namespace Sys2Proof.Machine
open Sys2Proof

/-! The registers (R271, R272, R278). -/

/-- Extents and strides. -/
def CopyRegs.ext (r : CopyRegs) (i : Nat) : Nat := wbits r.shape (16 * i) 16
def CopyRegs.sStr (r : CopyRegs) (i : Nat) : Int := intVal 21 true (wbits r.sstr (21 * i) 21)
def CopyRegs.dStr (r : CopyRegs) (i : Nat) : Int := intVal 21 true (wbits r.dstr (21 * i) 21)
def CopyRegs.barEn (r : CopyRegs) : Bool := r.bar.getLsbD 0
def CopyRegs.barArr (r : CopyRegs) : Bool := r.bar.getLsbD 1
def CopyRegs.barOff (r : CopyRegs) : Nat := 16 * wbits r.bar 4 15
def CopyRegs.check (r : CopyRegs) : Bool := r.mode.getLsbD 3

/-- dist.pat (R278). -/
def CopyRegs.blk (r : CopyRegs) : Nat := wbits r.pat 0 16
def CopyRegs.cstr (r : CopyRegs) : Nat := wbits r.pat 16 8
def CopyRegs.cnt (r : CopyRegs) : Nat := wbits r.pat 24 4
def CopyRegs.first (r : CopyRegs) : Nat := wbits r.pat 28 30

/-- What a copy or transform does: copies 0 to 4 by kind, then quantisation, checksum, layout into planes, layout from planes. -/
inductive Moves where
  | plain | transpose | expand | expandT | deal | quant | sum | unpack | pack
  deriving DecidableEq, Repr

/-- A copy seen through its registers: what it does, its element size, plane count and plane stride. -/
structure Plan where
  r    : CopyRegs
  m    : Moves
  esz  : Nat
  p    : Nat
  pstr : Nat
  deriving DecidableEq, Repr

/-- The plan of a shadow set (R272). A reserved kind is refused before a plan is used. -/
def CopyRegs.plan (r : CopyRegs) : Plan :=
  let m : Moves := match wbits r.mode 0 3 with
    | 0 => .plain
    | 1 => .transpose
    | 2 => .expand
    | 3 => .expandT
    | _ => .deal
  ⟨r, m, 2 ^ wbits r.mode 4 2, 1, wbits r.mode 32 32⟩

/-- The plan of a transform descriptor (R293). -/
def xopPlan (r : CopyRegs) (op : Nat) (param : Word) : Plan :=
  let m : Moves := match op with
    | 0 => .transpose
    | 1 => if param.getLsbD 0 then .expandT else .expand
    | 2 => .quant
    | 3 => .sum
    | _ => if param.getLsbD 0 then .pack else .unpack
  ⟨r, m, 2 ^ wbits param 0 2, 2 ^ wbits param 1 2, wbits param 32 32⟩

def Copy.plan (c : Copy) : Plan :=
  match c.xop with
  | none => c.regs.plan
  | some op => xopPlan c.regs op c.param

/-- Destination rows of dimension 1, planes per row, and bytes per run (R273–R275, R293). -/
def Plan.rows (p : Plan) : Nat :=
  match p.m with
  | .transpose => p.r.ext 0 / p.esz
  | .expandT => 2 * p.r.ext 0
  | _ => p.r.ext 1
def Plan.planes (p : Plan) : Nat :=
  match p.m with
  | .expand => 2
  | .expandT => 2
  | .unpack => p.p
  | _ => 1
def Plan.len (p : Plan) : Nat :=
  match p.m with
  | .transpose => p.r.ext 1 * p.esz
  | .expand => 2 * p.r.ext 0
  | .expandT => p.r.ext 1
  | .quant => p.r.ext 0 / 8
  | .unpack => p.r.ext 0 / 4
  | _ => p.r.ext 0

/-- An extent is 0: nothing moves (R273). -/
def Plan.empty (p : Plan) : Bool := (List.range 4).any fun i => p.r.ext i == 0

/-- Bytes of the source burst (R278). -/
def Plan.burst (p : Plan) : Nat := p.r.ext 0 * p.r.ext 1 * p.r.ext 2 * p.r.ext 3

/-- The number of runs. -/
def Plan.runs (p : Plan) : Nat :=
  if p.empty then 0 else if p.m = .deal then p.burst / 64 else p.rows * p.r.ext 2 * p.r.ext 3 * p.planes

/-- The source and destination address of a row (R273). -/
def Plan.x (p : Plan) (i1 i2 i3 : Nat) : Word :=
  p.r.src + BitVec.ofInt 64 (16 * (i1 * p.r.sStr 0 + i2 * p.r.sStr 1 + i3 * p.r.sStr 2))
def Plan.y (p : Plan) (i1 i2 i3 q : Nat) : Word :=
  p.r.dst + BitVec.ofInt 64 (16 * (i1 * p.r.dStr 0 + i2 * p.r.dStr 1 + i3 * p.r.dStr 2)) + BitVec.ofNat 64 (64 * p.pstr * q)

/-- The block-cyclic target of burst sector k: its team and region offset (R278). -/
def Plan.target (p : Plan) (k : Nat) : Nat × Nat :=
  let j := k / p.r.blk
  (p.r.first + j % (p.r.cnt + 1) * p.r.cstr, p.r.dst.toNat + 64 * p.r.blk * (j / (p.r.cnt + 1)) + 64 * (k % p.r.blk))

/-- The copy-only team window (R276). -/
def teamWindow (team off : Nat) : Word := BitVec.ofNat 64 (0x44 * 2 ^ 48 + team * 2 ^ 20 + off)

/-- The destination of run r. -/
def Plan.runDst (p : Plan) (r : Nat) : Word :=
  if p.m = .deal then let t := p.target r; teamWindow t.1 t.2
  else
    let b := r / p.planes
    p.y (b % p.rows) (b / p.rows % p.r.ext 2) (b / p.rows / p.r.ext 2) (r % p.planes)

/-- How a destination byte is made: a source byte, the plane q of an expanded index, byte k of a quantised block or its code, or
zero. -/
inductive ByteSrc where
  | byte (a : Word)
  | nib (a : Word) (hi : Bool) (code : Word) (q : Nat)
  | quant (x : Word) (k : Nat)
  | code (x : Word)
  | zero
  deriving DecidableEq, Repr

/-- Byte o of run r (R273–R275, R278, R293). -/
def Plan.byteSrc (p : Plan) (r o : Nat) : ByteSrc :=
  let e0 := p.r.ext 0
  let e1 := p.r.ext 1
  let e2 := p.r.ext 2
  let b := r / p.planes
  let q := r % p.planes
  let i1 := b % p.rows
  let i2 := b / p.rows % e2
  let i3 := b / p.rows / e2
  let row := b / p.rows
  match p.m with
  | .transpose => .byte (p.x (o / p.esz) i2 i3 + BitVec.ofNat 64 (i1 * p.esz + o % p.esz))
  | .expand =>
    .nib (p.x i1 i2 i3 + BitVec.ofNat 64 (o / 2)) (o % 2 == 1) (p.r.aux + BitVec.ofNat 64 (b * (e0 / 32) + o / 64)) q
  | .expandT =>
    .nib (p.x o i2 i3 + BitVec.ofNat 64 (i1 / 2)) (i1 % 2 == 1)
      (p.r.aux + BitVec.ofNat 64 ((row * e1 + o) * (e0 / 32) + i1 / 64)) q
  | .deal =>
    let pos := 64 * r + o
    let n := pos / e0
    .byte (p.x (n % e1) (n / e1 % e2) (n / e1 / e2) + BitVec.ofNat 64 (pos % e0))
  | .quant => .quant (p.x i1 i2 i3 + BitVec.ofNat 64 (256 * (o / 32))) (o % 32)
  | .unpack => .byte (p.x i1 i2 i3 + BitVec.ofNat 64 (4 * o + q))
  | .pack =>
    if o % 4 < p.p then .byte (p.x i1 i2 i3 + BitVec.ofNat 64 (o / 4 + 64 * p.pstr * (o % 4))) else .zero
  | _ => .byte (p.x i1 i2 i3 + BitVec.ofNat 64 o)

/-- A sector to be written: its destination (none for a stream or a checksum), the position of its first byte in destination
order, how its bytes are made, and the scale codes written with it. -/
structure Piece where
  dst   : Option Word
  pos   : Nat
  bytes : List ByteSrc
  codes : List (Word × ByteSrc)
  deriving DecidableEq, Repr

/-- Whether the bytes are taken in destination order without addresses: streams and checksums (R287, R293). -/
def Copy.flat (c : Copy) : Bool := c.stream.isSome || c.plan.m == .sum

/-- The bytes of a run that sector j of it covers: its first offset and their number (R273). -/
def runSlice (y len j : Nat) : Nat × Nat :=
  let start := if j = 0 then 0 else 64 * j - y % 64
  (start, min (if j = 0 then 64 - y % 64 else 64) (len - start))

/-- A sector's code: run × 2^14 + its place in the run, or the place of the 64-byte piece in destination order × 2^14. -/
def Copy.piece (c : Copy) (sec : Nat) : Piece :=
  let p := c.plan
  let r := sec / 2 ^ 14
  let j := sec % 2 ^ 14
  if c.flat then
    let n := min 64 (p.runs * p.len - 64 * r)
    ⟨none, 64 * r, (List.range n).map fun k => p.byteSrc ((64 * r + k) / p.len) ((64 * r + k) % p.len), []⟩
  else if p.m = .deal then ⟨some (p.runDst r), 64 * r, (List.range 64).map (p.byteSrc r), []⟩
  else
    let y := p.runDst r
    let s := runSlice y.toNat p.len j
    let codes := if p.m = .quant then
        ((List.range s.2).filter fun k => (s.1 + k) % 32 == 0).map fun k =>
          (p.r.aux + BitVec.ofNat 64 (r * (p.len / 32) + (s.1 + k) / 32),
            match p.byteSrc r (s.1 + k) with
            | .quant x _ => .code x
            | b => b)
      else []
    ⟨some (y + BitVec.ofNat 64 s.1), r * p.len + s.1, (List.range s.2).map fun k => p.byteSrc r (s.1 + k), codes⟩

/-- How many i below n have i × t in the class r modulo 4. -/
def classCount (n : Nat) (t : Int) (r : Nat) : Nat :=
  ((List.range 4).map fun (j : Nat) => if ((j : Int) * t - (r : Int)) % 4 = 0 then (n + 3 - j) / 4 else 0).sum

/-- The sectors of all destination runs (R273): rows are counted by the place of their start in a sector. -/
def Plan.sectors (p : Plan) : Nat :=
  if p.empty then 0
  else if p.m = .deal then p.burst / 64
  else
    let at1 (r : Nat) : Nat :=
      ((List.range 4).map fun a => ((List.range 4).map fun b =>
        classCount p.rows (p.r.dStr 0) a * classCount (p.r.ext 2) (p.r.dStr 1) b
          * classCount (p.r.ext 3) (p.r.dStr 2) ((r + 12 - a - b - p.r.dst.toNat / 16 % 4) % 4)).sum).sum
    p.planes * ((List.range 4).map fun r => at1 r * ((16 * r + p.len + 63) / 64)).sum

/-- Bytes in destination order. -/
def Plan.total (p : Plan) : Nat := if p.empty then 0 else p.runs * (if p.m = .deal then 64 else p.len)

/-- The sectors a copy lands, and those it counts on its barrier: a checksum writes nothing (R286, R293). -/
def Plan.count (p : Plan) (flat : Bool) : Nat := if flat then (p.total + 63) / 64 else p.sectors
def Plan.counted (p : Plan) (flat : Bool) : Nat := if p.m = .sum then 0 else p.count flat

/-- Sectors dealt to target number k of a distributor copy (R278). -/
def Plan.dealt (p : Plan) (k : Nat) : Nat :=
  let blocks := p.burst / (64 * p.r.blk)
  p.r.blk * ((blocks + p.r.cnt - k) / (p.r.cnt + 1))

/-- The checks of R281 on register values, in order: the detail of the first that fails, or 0. `size` is the team's region. A distributor's
sector count is per target (R280): no target has more than the first. An op 4 whose param[2:1] is 11, a plane count that R293 does not name, gives
detail 2 (DESIGN CHOICE, notes/assumptions/100.md). -/
def Plan.bad (p : Plan) (kindOk stream : Bool) (size : Nat) : Nat :=
  let e0 := p.r.ext 0
  let e1 := p.r.ext 1
  let deal := p.m == .deal
  if !kindOk || (deal && (p.r.check || stream)) then 1
  else if e0 % 16 != 0
      || (p.m == .transpose && (e0 % p.esz != 0 || e1 * p.esz % 16 != 0))
      || ((p.m == .expand || p.m == .expandT) && (e0 % 32 != 0 || p.pstr == 0))
      || (p.m == .expandT && e1 % 16 != 0)
      || (p.m == .quant && e0 % 256 != 0)
      || ((p.m == .unpack || p.m == .pack) && (e0 % 64 != 0 || p.p == 8)) then 2
  else if p.r.src.toNat % 16 != 0 || (!stream && p.r.dst.toNat % 16 != 0) then 3
  else if deal && (p.r.blk == 0 || p.r.cstr == 0 || p.burst % (64 * p.r.blk) != 0 || p.r.dst.toNat % 64 != 0) then 4
  else if 2 ^ 32 - 1 < (if deal then p.dealt 0 else p.counted stream) then 5
  else if p.r.barEn && decide (size < p.r.barOff + 16) then 6
  else 0

/-- The kind of a shadow set is not reserved (R272). -/
def CopyRegs.kindOk (r : CopyRegs) : Bool := decide (wbits r.mode 0 3 ≤ 4)

/-! Barrier words (R288). -/

/-- Fields of a barrier word. -/
def barPhase (w : Nat) : Nat := w % 16
def barArr (w : Nat) : Nat := w / 2 ^ 4 % 2 ^ 20
def barSec (w : Nat) : Nat := w / 2 ^ 24 % 2 ^ 40
def barExp (w : Nat) : Nat := w / 2 ^ 64 % 2 ^ 20

/-- A word from its fields, the reserved bits kept as they are. -/
def barWord (old phase arr sec : Nat) : Nat :=
  old / 2 ^ 64 * 2 ^ 64 + sec % 2 ^ 40 * 2 ^ 24 + arr % 2 ^ 20 * 2 ^ 4 + phase % 16

/-- The phase advance after an update (R288). -/
def barAdvance (w : Nat) : Nat :=
  if barArr w = 0 ∧ barSec w = 0 then barWord w (barPhase w + 1) (barExp w) 0 else w

/-- The barrier step of an accepted copy (R280), one arrival (R289), and n sectors landed or given up, dropped at 0 (R288). -/
def barCopy (n : Nat) (arr : Bool) (w : Nat) : Nat :=
  barAdvance (barWord w (barPhase w) (barArr w - (if arr then 1 else 0)) (barSec w + n))
def barArrive (w : Nat) : Nat := barAdvance (barWord w (barPhase w) (barArr w - 1) (barSec w))
def barLand (n : Nat) (w : Nat) : Nat :=
  if barSec w = 0 then w else barAdvance (barWord w (barPhase w) (barArr w) (barSec w - n))

/-- A 16-byte word of a scratchpad, read and updated. -/
def Core.barAt (c : Core) (off : Nat) : Nat := extendTo.leNum (c.spadBytes off 16)
def Core.barPut (c : Core) (off w : Nat) : Core :=
  c.spadPut off ((List.range 16).map fun i => BitVec.ofNat 8 (w / 256 ^ i))

/-- The update of the barrier of a copy or transform, of the unit `unit`, in the region of a team, wherever the team is. A word with an
uncorrectable error stays as it is, and the error is reported to the issuer of the copy, which goes on (R212; notes/assumptions/18.md). -/
def State.barUpdate (s : State) (c : Copy) (unit : Word) (key : TeamKey) (f : Nat → Nat) : State :=
  match s.findTeam key with
  | none => s
  | some (g, tm) =>
    let off := tm.base + c.regs.barOff
    if s.badSp g off 16 then
      s.trapEngine c.tid (dieOf g) (engineReport unit kindCheck 0 c.pc
        (if key = c.team then BitVec.ofNat 64 (0x43 * 2 ^ 48 + c.regs.barOff) else teamWindow key.team c.regs.barOff))
    else
      let s1 := s.correctSp g off 16
      s1.setCore g ((s1.core g).barPut off (f ((s1.core g).barAt off)))

/-- A team's barrier has no pending arrival; of a word with an uncorrectable error that is not asked (R212). -/
def State.barSpent (s : State) (key : TeamKey) (off : Nat) : Bool :=
  match s.findTeam key with
  | none => false
  | some (g, tm) => !s.badSp g (tm.base + off) 16 && barArr ((s.core g).barAt (tm.base + off)) == 0

/-! Translation by an engine. -/

/-- What stops an engine's access: kind, detail, address. Kind 0 is no fault: the access waits, with detail 1 for slots of the cluster
in `addr` (R211), with detail 0 for a walk, an expansion or a frontier. -/
structure Stop where
  kind   : BitVec 8
  detail : Nat
  addr   : Word
  deriving DecidableEq, Repr

/-- An access that waits. -/
def Stop.later (a : Word) : Stop := ⟨0, 0, a⟩
def Stop.isFault (e : Stop) : Bool := e.kind != 0

/-- The arbiter notified that an engine lacks slots in a cluster, if it has not been (R211). -/
def State.stalled (s : State) (e : Stop) : Option State :=
  if e.kind = 0 ∧ e.detail = 1 then s.lacksSlots (clusterAddr 0 e.addr.toNat 0) else none

/-- The clock that an engine's write carries (R323, point 4): no release point of its own die is asked for. -/
def State.unitClock (s : State) (die : Nat) : List Nat := (s.die die).k.set die 0

/-- What a unit of core g finds for an access: its place, unless it accesses bytes to which a fenced die closes the way (R313, R337). -/
def State.wayTo (s : State) (g : Nat) (u : Use) (a : Word) (p : Place) : Except Stop (State × Place) :=
  if u.kind = .locate ∨ s.pathOpen (dieOf g) (p.die (dieOf g)) then .ok (s, p) else .error (Stop.later a)

/-- Where a byte is for an engine of core g working for a team (R276): the copy-only window where `win` allows it; the KV window by
the procedure of R207. A page of another package that the unit does not accept gives address_fault 3 once the package is found
reachable (R192, R240). -/
def State.enginePlace (s : State) (g colour : Nat) (key : TeamKey) (u : Use) (spad win : Bool) (a : Word) :
    Except Stop (State × Place) :=
  match s.region g colour key a with
  | .high => .error ⟨kindAddress, 1, a⟩
  | .none => .error ⟨kindAddress, 2, a⟩
  | .translated =>
    (match s.unitAccess g colour ⟨u.kind, true⟩ a.toNat with
    | .ok (s1, .peer pkg off) =>
      if u.peers = false then .error ⟨kindAddress, 3, a⟩
      else if u.kind = .locate then .ok (s1, .peer pkg off)
      else if s1.peerWaits g (peerAddr pkg off) ∨ (s1.die (dieOf g)).fenced then .error (Stop.later a)
      else .ok (s1.peerAccess g (peerAddr pkg off) colour, .peer pkg off)
    | .ok (s1, p) => s1.wayTo g u a p
    | .trap k d b => .error ⟨k, d, b⟩
    | .wait _ => .error (Stop.later a))
  | .vaultLocal o =>
    (match s.localPlace g colour key o a with
    | .ok p => s.wayTo g u a p
    | .trap k d b => .error ⟨k, d, b⟩
    | .wait _ => .error (Stop.later a))
  | .cluster clu o => s.wayTo g u a (.mem (clusterAddr colour clu o))
  | .spad o =>
    if spad then s.wayTo g u a (.spad g (((((s.core g).teamOf key).map Team.base).getD 0) + o)) else .error ⟨kindAddress, 3, a⟩
  | .team t o =>
    if win = false then .error ⟨kindAddress, 3, a⟩
    else match s.findTeam ⟨key.launch, t⟩ with
      | some (h, tm) =>
        if tm.retired ∨ tm.size ≤ o then .error ⟨kindAddress, 2, a⟩ else s.wayTo g u a (.spad h (tm.base + o))
      | none => .error ⟨kindAddress, 2, a⟩
  | .kv sq b o =>
    let write := u.kind == .write
    if s.kvOpen g colour (s.kvWords g colour sq b write).1 (s.kvCopied g colour sq b write) = false ∨ s.covers (homeDie (s.kvHome g colour sq b)) (s.unitClock (dieOf g)) = false then .error (Stop.later a)
    else
      let y := s.kvStep g colour sq b write
      match y.2 with
      | .block pa => y.1.wayTo g u a (.mem (pa + o))
      | .fault k d => .error ⟨k, d, a⟩
      | .check _ va => .error ⟨kindCheck, 0, va⟩

/-- A byte where it is at home; another package's is a free value. -/
def State.placeByte (s : State) (p : Place) (i : Nat) : Byte :=
  match p with
  | .mem pa => memGet s.mem (pa + i)
  | .spad g off => (s.core g).spadByte (off + i)
  | .peer pkg off => Config.peerByte s.free (peerAddr pkg off + i)

/-- An uncorrectable error in a place of n bytes. -/
def State.placeBad (s : State) (p : Place) (n : Nat) : Bool :=
  match p with
  | .mem pa => s.bad pa n
  | .spad g off => s.badSp g off n
  | .peer _ _ => false

/-- Bytes of a colour written at a place (R192: a write to another package leaves this machine). -/
def State.placeWrite (s : State) (colour : Nat) (p : Place) (bs : List Byte) : State :=
  match p with
  | .mem pa => ((s.takeSlots pa).touch pa).memStore colour (enumFrom pa bs)
  | .spad g off => s.setCore g ((s.core g).spadPut off bs)
  | .peer _ _ => s

/-- A read of a cluster block waits for its expansion, and a write for its slots (R211). -/
def State.readReady (s : State) : Place → Bool
  | .mem pa => s.expanded pa
  | _ => true

/-- A write may be performed: its slots are there, and the frontier of its home covers the clock of the engine's die (R323). -/
def State.writeReady (s : State) (die : Nat) : Place → Bool
  | .mem pa => s.slotsOk pa && s.covers (homeDie pa) (s.unitClock die)
  | _ => true

/-- Why a write of a unit at a place is not performed yet. -/
def State.writeStop (s : State) (die : Nat) (p : Place) (a : Word) : Option Stop :=
  match p with
  | .mem pa =>
    if s.slotsOk pa = false then some ⟨0, 1, BitVec.ofNat 64 (clusterOfAddr pa)⟩
    else if s.writeReady die p then none else some (Stop.later a)
  | _ => none

/-- A place's correctable errors corrected (R212). -/
def State.placeFix (s : State) (p : Place) (n : Nat) : State :=
  match p with
  | .mem pa => s.correct [(pa, n)]
  | .spad g off => s.correctSp g off n
  | .peer _ _ => s

/-- The packet of a request or sector of an engine of core g counted (R345): to a slice under its vault position, into another team's
region under that team's logical core, to a crossbar or another package in the total only; none within the own region. -/
def State.countUnit (s : State) (g : Nat) (key : TeamKey) (p : Place) : State :=
  match p with
  | .mem pa => s.setCore g ((s.core g).sentTo (if isCluster pa then none else some (trafficVault (homeCore pa))))
  | .peer _ _ => s.setCore g ((s.core g).sentTo none)
  | .spad h off =>
    match (s.core h).teams.find? fun tm => decide (tm.base ≤ off ∧ off < tm.base + tm.size) with
    | some tm =>
      if tm.key = key then s
      else s.setCore g ((s.core g).sentTo
        (some (s.coreDest tm.key.launch (((s.launch? tm.key.launch).map fun l => l.lcore tm.key.team).getD 0) h)))
    | none => s

/-- The 64-byte lines a byte's making reads. -/
def ByteSrc.lines : ByteSrc → List Word
  | .byte a => [a &&& 0xFFFFFFFFFFFFFFC0]
  | .nib a _ c _ => [a &&& 0xFFFFFFFFFFFFFFC0, c &&& 0xFFFFFFFFFFFFFFC0]
  | .quant x _ => (List.range 5).map fun i => (x + BitVec.ofNat 64 (min (64 * i) 255)) &&& 0xFFFFFFFFFFFFFFC0
  | .code x => (List.range 5).map fun i => (x + BitVec.ofNat 64 (min (64 * i) 255)) &&& 0xFFFFFFFFFFFFFFC0
  | .zero => []

/-- Every line once, in the order first met. -/
def dedup : List Word → List Word → List Word
  | seen, [] => seen
  | seen, a :: rest => if seen.contains a then dedup seen rest else dedup (seen ++ [a]) rest

/-- A byte of the lines that have been read. -/
def lineByte (ls : List (Word × List Byte)) (a : Word) : Byte :=
  match ls.find? fun e => e.1 == (a &&& 0xFFFFFFFFFFFFFFC0) with
  | some e => e.2.getD (a.toNat % 64) 0
  | none => 0

/-- The 64 values of a block and the word `qcb` reads: a block with a NaN or infinity, or a NaN scale, becomes zero (R293). -/
def quantBlock (ls : List (Word × List Byte)) (x : Word) (sc : Lane) : Option Nat × List Byte :=
  let v (i : Nat) : Lane := packPlanes ((List.range 4).map fun k => lineByte ls (x + BitVec.ofNat 64 (4 * i + k)))
  let xs := (List.range 64).map v
  if f32IsNan sc ∨ xs.any notFinite then (none, List.replicate 32 0x77)
  else
    let w := (qscOf 0 xs sc).val.word
    (some (w.toNat % 256), ((qcbOf 0 xs w).1).flatMap (planes 4))

/-- A destination byte from the lines read (R275, R293). -/
def ByteSrc.make (ls : List (Word × List Byte)) (sc : Lane) : ByteSrc → Byte
  | .byte a => lineByte ls a
  | .nib a hi c q =>
    let b := (lineByte ls a).toNat
    let i := cbLevel (if hi then b / 16 else b % 16)
    plane q (encodeG .rne false (.fin (decide (i < 0 ∧ (lineByte ls c).toNat ≠ 0)) (i.natAbs * (lineByte ls c).toNat) (-15)))
  | .quant x k => (quantBlock ls x sc).2.getD k 0
  | .code x => BitVec.ofNat 8 ((quantBlock ls x sc).1.getD 0)
  | .zero => 0

/-- Lines translated, read and counted: their bytes, or what stops the engine. -/
def State.readLines (s : State) (g colour : Nat) (key : TeamKey) (u : Use) (counted : Bool) : List Word →
    Except Stop (State × List (Word × List Byte))
  | [] => .ok (s, [])
  | a :: rest =>
    match s.enginePlace g colour key u true false a with
    | .error e => .error e
    | .ok (s1, p) =>
      if s1.placeBad p 64 then .error ⟨kindCheck, 0, a⟩
      else if s1.readReady p = false then .error (Stop.later a)
      else
        let s2 := s1.placeFix p 64
        match (if counted then s2.countUnit g key p else s2).readLines g colour key u counted rest with
        | .error e => .error e
        | .ok (s3, ls) => .ok (s3, (a, (List.range 64).map (s1.placeByte p)) :: ls)

/-- The addresses and lengths of the runs of source bytes (R273–R275, R293). -/
def Plan.sourceRuns (p : Plan) : List (Word × Nat) :=
  let rows := (List.range (p.r.ext 1 * p.r.ext 2 * p.r.ext 3)).map fun n =>
    p.x (n % p.r.ext 1) (n / p.r.ext 1 % p.r.ext 2) (n / p.r.ext 1 / p.r.ext 2)
  if p.m = .pack then
    rows.flatMap fun x => (List.range p.p).map fun q => (x + BitVec.ofNat 64 (64 * p.pstr * q), p.r.ext 0 / 4)
  else rows.map fun x => (x, p.r.ext 0)

/-- The lines of the source. -/
def Plan.sourceLines (p : Plan) : List Word :=
  dedup [] (p.sourceRuns.flatMap fun e =>
    (List.range ((e.1.toNat % 64 + e.2 + 63) / 64)).map fun i => (e.1 &&& 0xFFFFFFFFFFFFFFC0) + BitVec.ofNat 64 (64 * i))

/-- An address lies in the source. -/
def Plan.inSource (p : Plan) (a : Word) : Bool := p.sourceRuns.any fun e => decide ((a - e.1).toNat < e.2)

/-- The lines of the source whose bytes are at home within 64 bytes of a place, with the place of each: two addresses of one byte, as of the
scratchpad region and its team's window, name the same place. -/
def State.nearSource (s : State) (g : Nat) (c : Copy) (p : Place) : List (Word × Place) :=
  c.plan.sourceLines.filterMap fun a =>
    match s.enginePlace g c.colour c.team ⟨.locate, true⟩ true true a, p with
    | .ok (_, .mem x), .mem y => if x < y + 64 ∧ y < x + 64 then some (a, .mem x) else none
    | .ok (_, .spad h x), .spad k y => if h = k ∧ x < y + 64 ∧ y < x + 64 then some (a, .spad h x) else none
    | .ok (_, .peer q x), .peer k y => if q = k ∧ x < y + 64 ∧ y < x + 64 then some (a, .peer q x) else none
    | _, _ => none

/-- Byte i of a place is a byte of the source. -/
def Plan.overlapsAt (pl : Plan) (near : List (Word × Place)) (p : Place) (i : Nat) : Bool :=
  near.any fun e => decide (e.2.addr ≤ p.addr + i ∧ p.addr + i < e.2.addr + 64)
    && pl.inSource (e.1 + BitVec.ofNat 64 (p.addr + i - e.2.addr))

/-- The bytes of a piece as made from the lines read. -/
def Copy.made (c : Copy) (pc : Piece) (ls : List (Word × List Byte)) : List Byte :=
  pc.bytes.map (ByteSrc.make ls (c.param.setWidth 32))

/-- The bytes of a piece as written at a place: those that overlap the source, or that another run of the copy has written, are free values
(R277, R294). -/
def Copy.landBytes (c : Copy) (free : Nat) (d : Word) (near : List (Word × Place)) (p : Place) (bs : List Byte) : List Byte :=
  (enumFrom 0 bs).map fun e =>
    if (smapFind c.bytes (d + BitVec.ofNat 64 e.1).toNat).isSome ∨ c.plan.overlapsAt near p e.1 then
      (Config.freeLane free e.1).setWidth 8
    else e.2

/-- The use a copy or a transform makes of an address: a transform request accepts no page of another package (R192). -/
def Copy.use (c : Copy) (k : UseKind) : Use := ⟨k, c.xop.isNone⟩

/-- The scale codes of a piece written each at its address. -/
def State.writeCodes (s : State) (g : Nat) (c : Copy) : List (Word × Byte) → Except Stop State
  | [] => .ok s
  | (a, b) :: rest =>
    match s.enginePlace g c.colour c.team (c.use .write) true true a with
    | .error e => .error e
    | .ok (s1, p) =>
      if s1.placeBad p 1 then .error ⟨kindCheck, 0, a⟩
      else match s1.writeStop (dieOf g) p a with
        | some e => .error e
        | none => ((s1.placeFix p 1).placeWrite c.colour p [b]).writeCodes g c rest

/-- The read of a sector of a copy of core g: the lines its bytes are made from (R273). -/
def State.landRead (s : State) (g : Nat) (c : Copy) (sec : Nat) : Except Stop (State × List (Word × List Byte)) :=
  s.readLines g c.colour c.team (c.use .read) c.xop.isNone (dedup [] ((c.piece sec).bytes.flatMap ByteSrc.lines))

/-- The blocks of a piece that a quantisation writes as zero (R293). -/
def Copy.zeroed (c : Copy) (sec : Nat) (ls : List (Word × List Byte)) : Nat :=
  ((c.piece sec).codes.filter fun e => match e.2 with
    | .code x => (quantBlock ls x (c.param.setWidth 32)).1.isNone
    | _ => false).length

/-- The write of a sector that has been read: the state with it written and its bytes, by address or by position in a stream or
checksum. -/
def State.landWrite (s : State) (g : Nat) (c : Copy) (sec : Nat) (ls : List (Word × List Byte)) : Except Stop (State × List (Nat × Byte)) :=
  let pc := c.piece sec
  let bs := c.made pc ls
  match pc.dst with
  | none => .ok (s, enumFrom pc.pos bs)
  | some d =>
    if c.plan.m = .deal ∧ 2 ^ 20 ≤ (c.plan.target (sec / 2 ^ 14)).2 then .error ⟨kindAddress, 2, d⟩
    else match s.enginePlace g c.colour c.team (c.use .write) true true d with
      | .error e => .error e
      | .ok (s1, p) =>
        if s1.placeBad p bs.length then .error ⟨kindCheck, 0, d⟩
        else match s1.writeStop (dieOf g) p d with
          | some e => .error e
          | none =>
            let out := c.landBytes s1.free d (s1.nearSource g c p) p bs
            let s2 := (s1.bumpFree.placeFix p bs.length).placeWrite c.colour p out
            match (if c.xop.isNone then s2.countUnit g c.team p else s2).writeCodes g c
                (pc.codes.map fun e => (e.1, e.2.make ls (c.param.setWidth 32))) with
            | .error e => .error e
            | .ok s3 => .ok (s3, enumFrom d.toNat out)

end Sys2Proof.Machine
end

