-- ==== Sys2Proof/Machine/CopyOps.lean ====
section
/-! DEFINITION. Copies, streams, barriers and transforms, classes 0x1A and 0x1B, and the steps of the copy engines, distributors
and coprocessors (spec/11_copy_transform.md R279–R294). -/
namespace Sys2Proof.Machine
open Sys2Proof

/-- Word 0 of a completion message (R284): kind, status, barrel slot, identifier. -/
def copyWord (kind status bslot : Nat) (id : BitVec 32) : Word :=
  BitVec.ofNat 64 (kind + 2 ^ 8 * status + 2 ^ 10 * (bslot % 16) + 2 ^ 32 * id.toNat)

/-- The kind byte of a copy's message. -/
def Copy.msgKind (c : Copy) : Nat := if c.xop.isSome then 0x82 else if c.stream.isSome then 0x81 else 0x80

/-- Word 1: the checksum, or the blocks a quantisation wrote as zero (R284). The checksum of bytes that two runs wrote is made of
free values, as those bytes are (R277). -/
def Copy.word1 (c : Copy) : Word :=
  if c.plan.m = .sum ∨ (c.xop.isNone ∧ c.regs.check) then kWord (shake256 8 (c.bytes.map Prod.snd))
  else if c.plan.m = .quant then BitVec.ofNat 64 c.nzero
  else 0

/-- A copy's message posted to the inbox of its team's core. -/
def State.postCopy (s : State) (g : Nat) (c : Copy) (status : Nat) (w1 : Word) : State :=
  s.post g (some c.team) g ⟨copyWord c.msgKind status c.bslot c.id, w1, 1, c.colour⟩

/-- Where a copy or transform is kept: in the engine of its core, or in a coprocessor of the cluster. -/
inductive CopyLoc where
  | engine (g : Nat)
  | cop (clu k : Nat)
  deriving DecidableEq, Repr

/-- tr.eng of the unit of a copy (R359). -/
def CopyLoc.unit (l : CopyLoc) (deal : Bool) : Word :=
  match l with
  | .engine g => if deal then engWord 5 (dieOf g) (clusterOf g % 16) else engWord 2 (dieOf g) (numOf g)
  | .cop clu k => engWord 4 (clu / 16) (clu % 16 + 16 * k)

/-- The coprocessor of a core: by the lower or upper pair of its cluster's columns (R17). -/
def copOf (g : Nat) : Nat := colOf g % 4 / 2

def Cluster.cop (k : Cluster) (i : Nat) : Coproc := k.cops.toList.getD i ⟨none, none⟩

/-- The copy or active transform of core g with an identifier; a transform is in the coprocessor that accepted it, wherever castling has
moved its core since (R292, R348). -/
def State.getCopy (s : State) (g id : Nat) : Option (Copy × CopyLoc) :=
  match (s.core g).copies.find? fun c => c.id.toNat == id with
  | some c => some (c, .engine g)
  | none => s.clusters.findSome? fun e => [0, 1].findSome? fun i =>
      match (e.2.cop i).active with
      | some (h, c) => if h = g ∧ c.id.toNat = id then some (c, CopyLoc.cop e.1 i) else none
      | none => none

/-- The copy replaced. -/
def State.putCopy (s : State) (g : Nat) (loc : CopyLoc) (c : Copy) : State :=
  match loc with
  | .engine h => s.setCore h { s.core h with copies := (s.core h).copies.map fun d => if d.id = c.id then c else d }
  | .cop clu k =>
    s.setCluster clu { s.cluster clu with
      cops := (s.cluster clu).cops.setIfInBounds k { (s.cluster clu).cop k with active := some (g, c) } }

/-- A retired team's region is freed once its last copy is gone (R285). -/
def Core.dropDrained (c : Core) : Core :=
  { c with teams := c.teams.filter fun tm => !(tm.retired && !c.copies.any fun d => d.team == tm.key) }

/-- The copy removed; a coprocessor takes up its waiting request. -/
def State.removeCopy (s : State) (loc : CopyLoc) (c : Copy) : State :=
  match loc with
  | .engine h =>
    s.setCore h ({ s.core h with copies := (s.core h).copies.filter fun d => d.id != c.id }.dropDrained)
  | .cop clu k =>
    s.setCluster clu { s.cluster clu with
      cops := (s.cluster clu).cops.setIfInBounds k ⟨((s.cluster clu).cop k).waiting, none⟩ }

/-- The targets of a distributor copy (R278): every one is checked and has its barrier step, with or without a block. -/
def Plan.targets (p : Plan) : List Nat := (List.range (p.r.cnt + 1)).map fun k => p.r.first + k * p.r.cstr

/-- Sectors not yet landed are taken from the copy's barrier, or from each target's (R283, R287). -/
def State.barGiveUp (s : State) (loc : CopyLoc) (c : Copy) : State :=
  let p := c.plan
  if c.regs.barEn = false then s
  else if p.m = .deal then
    (enumFrom 0 p.targets).foldl (fun s e =>
      let landed := (c.landed.filter fun sec => (p.target (sec / 2 ^ 14)).1 == e.2).length
      s.barUpdate c (loc.unit true) ⟨c.team.launch, e.2⟩ (barLand (p.dealt e.1 - landed))) s
  else s.barUpdate c (loc.unit false) c.team (barLand (p.counted c.stream.isSome - c.landed.length))

/-- A copy ended with status 01, released or discarded; its message carries no checksum (DESIGN CHOICE, notes/assumptions/75.md). -/
def State.endCopy (s : State) (g : Nat) (loc : CopyLoc) (c : Copy) : State :=
  ((s.barGiveUp loc c).removeCopy loc c).postCopy g c 1 0

/-- STREAM_RELEASE (R287): the binding of an s register ends; a copy that has not landed every sector ends with status 01, and a
ticket's remaining bytes are discarded as they come. -/
def State.releaseStream (s : State) (g tid : Nat) (i : Fin 4) : State :=
  match s.findTid tid with
  | none => s
  | some r =>
    match s.thread r.g r.slot with
    | none => s
    | some t =>
      let s1 := s.setThread r.g r.slot (some { t with streams := t.streams.set i none })
      match t.streams[i] with
      | none => s1
      | some st =>
        if st.ticket then s1
        else match s1.getCopy g st.src with
          | some (c, loc) => if c.landed.length < c.total then s1.endCopy g loc c else s1
          | none => s1

/-- A new binding of an s register of the thread of a slot. -/
def State.bindStream (s : State) (g slot : Nat) (i : Fin 4) (b : Option Stream) : State :=
  match s.thread g slot with
  | some t => s.setThread g slot (some { t with streams := t.streams.set i b })
  | none => s

/-! Starting a copy (R279–R281, R286). -/

/-- The transfer identifier (R280). -/
def transferId (g slot : Nat) (seq : BitVec 16) : BitVec 32 :=
  BitVec.ofNat 32 (seq.toNat + 2 ^ 16 * slot + 2 ^ 20 * numOf g + 2 ^ 28 * dieOf g + 2 ^ 31)

/-- The copy's arrival must find a pending arrival to count down (R280). -/
def barWaits (x : Ctx) (r : CopyRegs) (deal : Bool) : Bool :=
  r.barEn && r.barArr && !deal && x.s.barSpent x.t.key r.barOff

/-- A target is bound, running, and in the issuer's cluster. -/
def State.targetOk (s : State) (g launch team : Nat) : Bool :=
  match s.findTeam ⟨launch, team⟩ with
  | some (h, tm) => !tm.retired && clusterOf h == clusterOf g
  | none => false

/-- The first target of a distributor copy that fails the check of R278. -/
def State.dealBad (s : State) (g : Nat) (c : Copy) : Option Nat := c.plan.targets.find? fun t => !s.targetOk g c.team.launch t

/-- The report of that target. -/
def dealReport (g : Nat) (c : Copy) (t : Nat) : Report :=
  engineReport ((CopyLoc.engine g).unit true) kindAddress 2 c.pc (teamWindow t 0)

/-- A target's barrier has no pending arrival for the copy to count down. R280 has the thread wait at `cgo`, R278 applies a distributor's steps later: a
distributor copy is accepted and waits at the head of the queue, later ones behind it (DESIGN CHOICE, notes/assumptions/93.md). -/
def State.dealWaits (s : State) (c : Copy) : Bool :=
  c.regs.barEn && c.regs.barArr && c.plan.targets.any fun t => s.barSpent ⟨c.team.launch, t⟩ c.regs.barOff

/-- Each target's barrier step, in its own region (R278, R280). -/
def State.dealBars (s : State) (g : Nat) (c : Copy) : State :=
  if c.regs.barEn then
    (enumFrom 0 c.plan.targets).foldl (fun s e =>
      s.barUpdate c ((CopyLoc.engine g).unit true) ⟨c.team.launch, e.2⟩ (barCopy (c.plan.dealt e.1) c.regs.barArr)) s
  else s

/-- A copy that moves nothing completes as it is accepted (R280): a distributor's after the check and the barrier steps of its targets. -/
def State.emptyCopy (s : State) (g : Nat) (c : Copy) : State :=
  if c.plan.m = .deal then
    match s.dealBad g c with
    | some t => (s.postCopy g c 2 0).trapEngine c.tid (dieOf g) (dealReport g c t)
    | none => (s.dealBars g c).postCopy g c 0 c.word1
  else s.postCopy g c 0 c.word1

/-- The common course of `cgo`, a `gets` of cp.go and `sbind`. -/
def copyTurn (stream : Option (Fin 4)) (gd : Guard) (f : Fields) (s : State) : Host.Outcome State Fault Refusal :=
  turn gd s (fun x => dstWait x [] f.dst ++ (if x.c.atHome x.t && decide (8 ≤ x.c.copies.length) then [.msg] else [])) fun x =>
    if x.c.atHome x.t = false then x.trap kindAddress 4 0
    else
      let r := x.t.cp
      let p := r.plan
      let size := ((x.c.teamOf x.t.key).map Team.size).getD 0
      let bad := p.bad r.kindOk stream.isSome size
      if bad ≠ 0 then x.trap kindCopy bad 0
      else
        let id := transferId x.g x.slot x.c.seq
        let n := p.count stream.isSome
        let c : Copy := ⟨id, x.t.tid, x.t.key, x.t.colour, x.t.wid, x.slot, x.t.pc, r, none, 0, stream.map Fin.val, n, [], [], [], 0,
          .queued, none⟩
        if barWaits x r (p.m == .deal) || (n == 0 && p.m == .deal && (x.s.dealBad x.g c).isNone && x.s.dealWaits c) then x.wait .msg
        else match f.dst.reg with
        | .d i =>
          let done := n == 0
          let s1 := x.finish { x.c with seq := x.c.seq + 1, copies := if done then x.c.copies else x.c.copies ++ [c] }
            (x.t.putD i (id.setWidth 64))
          let s2 := if r.barEn && p.m != .deal then s1.barUpdate c ((CopyLoc.engine x.g).unit false) x.t.key (barCopy n r.barArr) else s1
          let bound : Option Stream := if p.total = 0 then none else some ⟨false, id.toNat, [], p.total⟩
          let s3 := match stream with
            | some j => (s2.releaseStream x.g x.t.tid j).bindStream x.g x.slot j bound
            | none => s2
          if done then s3.emptyCopy x.g c else s3
        | _ => x.finish x.c x.t

def execCgo (gd : Guard) (f : Fields) (s : State) : Host.Outcome State Fault Refusal := copyTurn none gd f s

/-- A read of cp.go is `cgo` (R279). -/
def execGetsCpGo (gd : Guard) (f : Fields) (s : State) : Host.Outcome State Fault Refusal := copyTurn none gd f s

def execSbind (gd : Guard) (f : Fields) (s : State) : Host.Outcome State Fault Refusal :=
  match f.src1.reg with
  | .s j => copyTurn (some j) gd f s
  | _ => copyTurn none gd f s

/-! Barriers (R289). -/

/-- The checks of a barrier instruction, and the scratchpad offset of its word: an address outside the team's region is address_fault 3. -/
def Ctx.barAccess (x : Ctx) (a : Word) (go : Ctx → Nat → State) : State :=
  let outside : Bool := match x.s.region x.g x.t.colour x.t.key a with
    | .spad _ => false
    | _ => decide (a.toNat < 2 ^ 55)
  if x.c.atHome x.t && outside then x.trap kindAddress 3 a
  else x.spadAccess a 16 (List.range 16) fun x pos => go x (pos 0)

def execBinit (gd : Guard) (f : Fields) (s : State) : Host.Outcome State Fault Refusal :=
  turn gd s (fun x => srcWaits x [] [f.src1, f.src2]) fun x =>
    let r := x.take [f.src1, f.src2]
    let a := Fields.addr f (val r.1 0)
    let n := (val r.1 1).toNat % 2 ^ 20
    x.barAccess a fun x off =>
      if n = 0 then x.trap kindAlign 2 a
      else x.finish (r.2.1.barPut off (n * 2 ^ 64 + n * 2 ^ 4)) r.2.2

/-- `barv.rel` first waits as `fence.rel.dev` does. -/
def barvWait (x : Ctx) (f : Fields) : List SlotClass :=
  (if relBits f && !(x.t.outst.isEmpty && x.t.kvOut == 0) then [.mem] else []) ++ relWait x (relBits f)

def execBarv (gd : Guard) (f : Fields) (s : State) : Host.Outcome State Fault Refusal :=
  turn gd s (fun x => srcWaits x [] [f.src1] ++ barvWait x f) fun x =>
    let r := x.take [f.src1]
    x.barAccess (Fields.addr f (val r.1 0)) fun x off =>
      let w := x.c.barAt off
      if barArr w = 0 then x.wait .msg
      else
        let o := x.orderPoint r.2.2 f
        (x.on o.1).finish (r.2.1.barPut off (barArrive w)) o.2

def execBwait (gd : Guard) (f : Fields) (s : State) : Host.Outcome State Fault Refusal :=
  turn gd s (fun x => srcWaits x [] [f.src1, f.src2]) fun x =>
    let r := x.take [f.src1, f.src2]
    x.barAccess (Fields.addr f (val r.1 0)) fun x off =>
      if barPhase (x.c.barAt off) = (val r.1 1).toNat % 16 then x.wait .msg
      else x.finish r.2.1 (if acqBits f then { r.2.2 with hold := r.2.2.hold ++ r.2.2.loads } else r.2.2)

/-! Transform requests (R291–R293). -/

def execXreq (gd : Guard) (f : Fields) (s : State) : Host.Outcome State Fault Refusal :=
  turn gd s (fun x => srcWaits x [] [f.src1] ++ dstWait x [f.src1] f.dst) fun x =>
    if x.c.atHome x.t = false then x.trap kindAddress 4 0
    else
      let r := x.take [f.src1]
      match f.dst.reg with
      | .p i =>
        let m := Msg.xreq (x.req x.s x.t []) (clusterOf x.g) (copOf x.g) i (val r.1 0).toNat (Fields.bits f 0 4) x.t.key
        (x.on (x.s.send m).bumpUid).finish r.2.1
          { r.2.2 with pres := r.2.2.pres.set i false, pans := r.2.2.pans.set i true }
      | _ => x.finish r.2.1 r.2.2

/-- The answer of a coprocessor resolves the guard. -/
def Thread.answered (t : Thread) (p : Fin 8) (b : Bool) : Thread :=
  { t.putP p b with pans := t.pans.set p false }

/-- The guard of the thread named `tid` resolved by an answer, with the commands queued under it (R115, R292). -/
def State.answerP (s : State) (tid : Nat) (p : Fin 8) (b : Bool) : State :=
  match s.findTid tid with
  | none => s
  | some r =>
    match s.thread r.g r.slot with
    | none => s
    | some t => s.setCore r.g
        (((s.core r.g).setThread r.slot (some (t.answered p b))).resolved (t.answered p b))

/-- The descriptor's words. -/
def Core.descriptor (c : Core) (off : Nat) : List Word :=
  (List.range 8).map fun i => kWord (c.spadBytes (off + 8 * i) 8)

/-- The request of a descriptor, and the detail of R281 or R293 that it breaks; a descriptor that is not aligned or lies beyond the region,
for which neither rule names a detail, gives 3 and 6 (DESIGN CHOICE, notes/assumptions/74.md). -/
def descCopy (r : Req) (key : TeamKey) (off op size : Nat) (ws : List Word) : Copy × Nat :=
  let w (i : Nat) : Word := ws.getD i 0
  let regs : CopyRegs := ⟨w 0, w 1, w 2, w 3, w 4, 0, w 5, w 7, 0⟩
  let p := xopPlan regs op (w 6)
  let n := p.count (p.m == .sum)
  (⟨BitVec.ofNat 32 (off % 2 ^ 31), r.tid, key, r.colour, r.wid, r.bslot, r.pc, regs, some op, w 6, none, n, [], [], [], 0, .active, none⟩,
    if off % 64 ≠ 0 then 3 else if size < off + 64 then 6 else p.bad true false size)

/-- An uncorrectable error in the descriptor of a transform request (R212). -/
def State.descriptorBad (s : State) (g base off size : Nat) : Bool := decide (off % 64 = 0 ∧ off + 64 ≤ size) && s.badSp g (base + off) 64

/-- The coprocessor answers (R292): busy when both places are taken; otherwise accepted, the descriptor read and its barrier step
applied; a descriptor that breaks a check, or meets an uncorrectable error (R212), ends with status 10 and a report. While the descriptor's own arrival finds
none pending the answer is withheld: R292 does not say who waits (DESIGN CHOICE, notes/assumptions/94.md). -/
def execXreqAnswer (k : Nat) (s : State) : Host.Outcome State Fault Refusal :=
  orNot "XREQ_ANSWER" (match s.net[k]? with
    | some (.xreq r clu i p off op key) =>
      let cop := (s.cluster clu).cop i
      let s0 := s.takeMsg k
      if cop.active.isSome ∧ cop.waiting.isSome then some (s0.answerP r.tid p false)
      else match s.findTeam key with
        | none => none
        | some (g, tm) =>
          let y := descCopy r key off op tm.size ((s.core g).descriptor (tm.base + off))
          let c := y.1
          let s1 := s0.answerP r.tid p true
          let fails (kind : BitVec 8) (d : Nat) : State := (s1.postCopy g c 2 0).trapEngine r.tid (clu / 16)
            (engineReport (engWord 4 (clu / 16) (clu % 16 + 16 * i)) kind d r.pc (BitVec.ofNat 64 off))
          if s.descriptorBad g tm.base off tm.size then some (fails kindCheck 0)
          else if y.2 ≠ 0 then some (fails kindCopy y.2)
          else if c.regs.barEn && c.regs.barArr && s.barSpent key c.regs.barOff then none
          else
            let unit := engWord 4 (clu / 16) (clu % 16 + 16 * i)
            let s2 := (if c.regs.barEn then s1.barUpdate c unit key (barCopy (c.plan.counted false) c.regs.barArr) else s1).correctSp g
              (tm.base + off) 64
            let cop' : Coproc := if cop.active.isNone then ⟨some (g, c), cop.waiting⟩ else ⟨cop.active, some (g, c)⟩
            some (s2.setCluster clu { s2.cluster clu with cops := (s2.cluster clu).cops.setIfInBounds i cop' })
    | _ => none)

/-! The engines (R282–R285). -/

/-- The engine starts the first queued copy, four at once at most; the distributor first checks its targets and applies their
barrier steps, unless it has before its copy parked. -/
def execCopyStart (g : Nat) (s : State) : Host.Outcome State Fault Refusal :=
  orNot "COPY_START" (
    let cr := s.core g
    if cr.stop ∨ 4 ≤ (cr.copies.filter fun c => c.state == .active).length then none
    else match cr.copies.find? fun c => c.state == .queued || c.state == .again with
      | none => none
      | some c =>
        let go (s : State) : State := s.putCopy g (.engine g) { c with state := .active }
        let p := c.plan
        if p.m ≠ .deal ∨ c.state = .again then some (go s)
        else
          match s.dealBad g c with
          | some t =>
            some (((s.removeCopy (.engine g) c).postCopy g c 2 0).trapEngine c.tid (dieOf g) (dealReport g c t))
          | none => if s.dealWaits c then none else some (go (s.dealBars g c)))

/-- The team whose barrier counts a landed sector (R282). -/
def Copy.barTeam (c : Copy) (sec : Nat) : TeamKey :=
  if c.plan.m = .deal then ⟨c.team.launch, (c.plan.target (sec / 2 ^ 14)).1⟩ else c.team

/-- The code names a sector of the copy. -/
def Copy.hasSector (c : Copy) (sec : Nat) : Bool :=
  let p := c.plan
  let r := sec / 2 ^ 14
  let j := sec % 2 ^ 14
  if c.flat then j == 0 && decide (64 * r < p.total)
  else decide (r < p.runs) && (if p.m = .deal then j == 0 else decide (j < ((p.runDst r).toNat % 64 + p.len + 63) / 64))

/-- A stream takes its sectors in order, and only those for which its buffer has room (R287). -/
def State.streamRoom (s : State) (c : Copy) (sec n : Nat) : Bool :=
  match c.stream with
  | none => true
  | some i =>
    sec == c.landed.length * 2 ^ 14 &&
    match s.findTid c.tid with
    | none => false
    | some r =>
      (match s.thread r.g r.slot with
      | none => false
      | some t => (match t.streams.toList.getD i none with
        | some st => decide (st.buf.length + n ≤ 512)
        | none => false))

/-- Bytes entering a stream's buffer. -/
def Thread.feed (t : Thread) (i : Nat) (bs : List Byte) : Thread :=
  match t.streams.toList.getD i none with
  | some st => { t with streams := t.streams.setIfInBounds i (some { st with buf := st.buf ++ bs, left := st.left - bs.length }) }
  | none => t

/-- The lines of a sector that has been read and not yet written. -/
def Copy.read? (c : Copy) (sec : Nat) : Option (List (Word × List Byte)) := smapFind c.got sec

/-- The engine of a core that has met a machine check has stopped; a coprocessor is no part of the core (R370). -/
def State.engineStopped (s : State) (g : Nat) (c : Copy) : Bool := (s.core g).checked && c.xop.isNone

/-- The unit may work on the sector now: not yet landed, and either read already, so that it lands (R283, R285), or to be read, the copy active
and its core not stopped by pre-emption (R285); a machine check of the core stops its engine at once (R370). -/
def State.copyMoves (s : State) (g : Nat) (c : Copy) (sec : Nat) : Bool :=
  !s.engineStopped g c && !c.landed.contains sec && c.hasSector sec && s.streamRoom c sec (c.piece sec).bytes.length && c.skid != some 0
    && c.state == .active && ((c.read? sec).isSome || !((s.core g).stop && c.xop.isNone))

/-- A watch strike of a copy or transform sector, its scale codes included (R381): the watchpoint and the struck sector's address. It is
reported once the sector has been written; at most four more follow. -/
def State.copyStrike (s : State) (c : Copy) (sec : Nat) : Option (Nat × Word) :=
  let pc := c.piece sec
  match pc.dst with
  | none => none
  | some d =>
    ((s.struck c.colour c.wid (addrRange d.toNat pc.bytes.length ++ pc.codes.map fun e => e.1.toNat)).head?).map fun e =>
      (e.1, BitVec.ofNat 64 (e.2.1 / 64 * 64))

/-- A watch strike of class 1 reported and recorded (R381, R383), the record at the issuer's slot, or at the unit's core where it has none
now. -/
def State.unitStrike (s : State) (g bslot tid colour : Nat) (wid : Word) (r : Report) : State :=
  let at_ := (s.findTid tid).getD ⟨g, bslot⟩
  (s.trace at_.g at_.slot 0x03 colour wid r.cpc r.addr).trapEngine tid (dieOf g) r

/-- The sectors that may still be written after a strike (R381). -/
def nextSkid (skid : Option Nat) (strike : Bool) : Option Nat :=
  match skid, strike with
  | some n, _ => some (n - 1)
  | none, true => some 4
  | none, false => none

/-- A sector that has been read is written, or enters the stream's buffer, and its barrier is counted down (R282). -/
def State.landSector (s : State) (g : Nat) (c : Copy) (loc : CopyLoc) (sec : Nat) (ls : List (Word × List Byte)) : Except Stop State :=
  match s.landWrite g c sec ls with
  | .error e => .error e
  | .ok (s1, bytes) =>
    let strike := s.copyStrike c sec
    let c' := { c with
      landed := c.landed ++ [sec]
      got := smapDel c.got sec
      bytes := bytes.foldl (fun m e => smapPut m e.1 e.2) c.bytes
      nzero := c.nzero + c.zeroed sec ls
      skid := nextSkid c.skid strike.isSome }
    let s2 := s1.putCopy g loc c'
    let s3 := match c.stream with
      | some i => s2.onTid c.tid fun t => t.feed i (bytes.map Prod.snd)
      | none => s2
    let s4 := if c.regs.barEn && c.plan.m != .sum then s3.barUpdate c (loc.unit (c.plan.m == .deal)) (c.barTeam sec) (barLand 1) else s3
    .ok (match strike with
      | some (k, a) => s4.unitStrike g c.bslot c.tid c.colour c.wid
          (engineReport (loc.unit (c.plan.m == .deal)) kindWatch (4 + k) c.pc a)
      | none => s4)

/-- The next step of a sector: its read, and then its write (R311). -/
def State.sectorStep (s : State) (g : Nat) (c : Copy) (loc : CopyLoc) (sec : Nat) : Except Stop State :=
  match c.read? sec with
  | some ls => s.landSector g c loc sec ls
  | none =>
    match s.landRead g c sec with
    | .error e => .error e
    | .ok (s1, ls) => .ok (s1.putCopy g loc { c with got := smapPut c.got sec ls })

/-- COPY_SECTOR_LAND: the sector is read, or one that has been read lands; one that lacks slots notifies the arbiter (R211). -/
def execCopySectorLand (g id sec : Nat) (s : State) : Host.Outcome State Fault Refusal :=
  orNot "COPY_SECTOR_LAND" (match s.getCopy g id with
    | none => none
    | some (c, loc) =>
      if s.copyMoves g c sec = false then none
      else match s.sectorStep g c loc sec with
        | .ok s1 => some s1
        | .error e => s.stalled e)

/-- The fault that the next step of a sector meets. -/
def State.sectorFault (s : State) (g : Nat) (c : Copy) (loc : CopyLoc) (sec : Nat) : Option Stop :=
  match s.sectorStep g c loc sec with
  | .error e => if e.isFault then some e else none
  | .ok _ => none

/-- A copy parks: at a sector that meets a fault, once every other sector that it has requested has landed or meets one too, reported to the issuer
(R283); or after the sectors that follow a watch strike (R381). A sector it has read and not written is read again after a resume. -/
def execCopyPark (g id sec : Nat) (s : State) : Host.Outcome State Fault Refusal :=
  orNot "COPY_PARK" (match s.getCopy g id with
    | none => none
    | some (c, loc) =>
      let parked (s : State) : State := s.putCopy g loc { c with state := .parked, got := [] }
      if c.state ≠ .active ∨ s.engineStopped g c then none
      else if c.skid.isSome then (if c.landed.length < c.total then some (parked s) else none)
      else if s.copyMoves g c sec = false ∨ (c.got.any fun e => (s.sectorFault g c loc e.1).isNone) then none
      else (s.sectorFault g c loc sec).map fun e =>
        (parked s).trapEngine c.tid (dieOf g) (engineReport (loc.unit (c.plan.m == .deal)) e.kind e.detail c.pc e.addr))

/-- Every sector has landed: the message is posted (R284). -/
def execCopyComplete (g id : Nat) (s : State) : Host.Outcome State Fault Refusal :=
  orNot "COPY_COMPLETE" (match (s.core g).copies.find? fun c => c.id.toNat == id with
    | some c =>
      if c.state = .active ∧ c.total ≤ c.landed.length ∧ (s.core g).checked = false then
        some ((s.removeCopy (.engine g) c).postCopy g c 0 c.word1)
      else none
    | none => none)

/-- A transform request finishes (R292, R293). -/
def execTransformComplete (clu cop : Nat) (s : State) : Host.Outcome State Fault Refusal :=
  orNot "TRANSFORM_COMPLETE" (match ((s.cluster clu).cop cop).active with
    | some (g, c) =>
      if c.state = .active ∧ c.total ≤ c.landed.length then
        some ((s.removeCopy (.cop clu cop) c).postCopy g c 0 c.word1)
      else none
    | none => none)

/-! cp.res (R283). -/

/-- The parked copy or transform of a thread that an identifier names. -/
def State.parkedCopy (s : State) (tid id : Nat) : Option (Nat × Copy × CopyLoc) :=
  let ofCore := s.cores.findSome? fun e => (e.2.copies.find? fun c =>
    c.tid == tid && c.id.toNat == id && c.state == .parked).map fun c => (e.1, c, CopyLoc.engine e.1)
  match ofCore with
  | some y => some y
  | none => s.clusters.findSome? fun e => [0, 1].findSome? fun i =>
      match (e.2.cop i).active with
      | some (g, c) =>
        if c.tid = tid ∧ c.id.toNat = id ∧ c.state = .parked then some (g, c, CopyLoc.cop e.1 i) else none
      | none => none

/-- A resumed copy waits for its engine to start it again, which works on four at once (R282); a transform has its coprocessor. -/
def Copy.resumed (c : Copy) : CopyState := if c.xop.isSome then .active else if c.plan.m = .deal then .again else .queued

/-- A write to cp.res: resume, or discard with status 01; no parked copy, no effect. -/
def State.cpRes (s : State) (tid id : Nat) (disc : Bool) : State :=
  match s.parkedCopy tid id with
  | none => s
  | some (g, c, loc) =>
    if disc then s.endCopy g loc c
    else s.putCopy g loc { c with state := c.resumed, skid := none }

def execCpResResume (tid id : Nat) (s : State) : Host.Outcome State Fault Refusal :=
  if (s.parkedCopy tid id).isSome then .next (s.cpRes tid id false) else .refused (.notEnabled "CP_RES_RESUME")

def execCpResDiscard (tid id : Nat) (s : State) : Host.Outcome State Fault Refusal :=
  if (s.parkedCopy tid id).isSome then .next (s.cpRes tid id true) else .refused (.notEnabled "CP_RES_DISCARD")

end Sys2Proof.Machine
end

