-- ==== Sys2Proof/Machine/Engine.lean ====
section
/-! DEFINITION. The matrix engine: what a command's record says, its units and their addresses, products, folds and conversions,
the shape checks, and how a command starts, ends, parks and is discarded (spec/10_contract.md R235–R269, R427). -/
namespace Sys2Proof.Machine
open Sys2Proof

/-! Tiles and slots (R235, R236). -/

/-- A lane of a tile, exact +0 where unlisted, and a tile with one lane replaced. -/
def lanesGet (m : List (Nat × XLane)) (i : Nat) : XLane := smapGet XLane.zero m i
def lanesPut (m : List (Nat × XLane)) (i : Nat) (l : XLane) : List (Nat × XLane) :=
  if l = XLane.zero then smapDel m i else smapPut m i l

def Core.tile (c : Core) (i : Nat) : Tile := c.tiles.toList.getD i ⟨false, []⟩
def Core.setTile (c : Core) (i : Nat) (t : Tile) : Core := { c with tiles := c.tiles.setIfInBounds i t }
def Core.rslot (c : Core) (i : Nat) : RSlot := c.slots.toList.getD i ⟨0, 0, 0, [], none⟩
def Core.setRslot (c : Core) (i : Nat) (y : RSlot) : Core := { c with slots := c.slots.setIfInBounds i y }

/-- A resident value as decoded from its bytes (R244). -/
def residentValue (fmt : BitVec 2) (bs : List Byte) : XNum :=
  if fmt = 0 then xOfInt ((bs.getD 0 0).toInt) 0 else readG (bs.take (if fmt = 2 then 2 else 1))

/-- Value (m, k) of a slot; undefined after a load that parked. -/
def RSlot.value (y : RSlot) (m k : Nat) : XNum :=
  if y.mr ≤ m ∨ y.kc ≤ k then .fin false 0 0
  else match smapFind y.vals (64 * m + k) with
    | some v => v
    | none =>
      match y.junk with
      | none => .fin false 0 0
      | some n => residentValue y.fmt (planes 2 (Config.freeLane n (64 * m + k)))

/-- The physical tile or slot of a team's index (R236). -/
def Core.physical (c : Core) (key : TeamKey) (i : Nat) : Nat := ((c.teamOf key).map fun tm => tm.tiles.getD i 0).getD 0

/-! The command record (R238, R252). -/

/-- The type code of mod[75:72] in a record. -/
def engTyCode (t : Ty) : Nat :=
  match t with
  | .s8 => 1
  | .s32 => 3
  | .f32 => 9
  | .g8 => 11
  | .g16 => 12
  | .g32 => 13
  | .cb4 => 14
  | _ => 0

/-- The type, the qualifier, planes read, and `.tz` of a command. -/
def Cmd.ty (c : Cmd) : Ty :=
  match c.mod.toNat % 16 with
  | 1 => .s8
  | 3 => .s32
  | 9 => .f32
  | 11 => .g8
  | 12 => .g16
  | 13 => .g32
  | 14 => .cb4
  | _ => .dflt
def Cmd.qual (c : Cmd) : BitVec 2 := BitVec.ofNat 2 (c.mod.toNat / 16)
def Cmd.tz (c : Cmd) : Bool := c.pm.toNat % 4 == 1
def Cmd.read (c : Cmd) : Nat := gPlanes c.ty
def Cmd.fetched (c : Cmd) : Nat := c.read + (if c.tz then 1 else 0)
def Cmd.blitz (c : Cmd) : Bool := c.op == 1 || c.op == 3
def Cmd.origin (c : Cmd) : BitVec 16 := c.wid.setWidth 16

/-- Planes of a resident value: two for g16 (R238). -/
def Cmd.resPlanes (c : Cmd) : Nat := if c.qual = 2 then 2 else 1

/-- The guard decision taken for a command (R115). -/
def Cmd.decided (c : Cmd) : Bool := xor c.gval c.gneg

/-- A length word (R241). -/
def lenA (w : Word) : Nat := wbits w 0 7
def lenB (w : Word) : Nat := wbits w 7 7
def lenPl (w : Word) : Nat := wbits w 14 2
def lenPitch (w : Word) : Nat := wbits w 16 16
def lenStride (w : Word) : Nat := wbits w 32 32

/-- Which units a command works on: a streamed range, a ticket's groups, the rows of a resident load, rows written, or none. -/
inductive Work where
  | stream | ticket | gather | rows | whole
  deriving DecidableEq, Repr

def Cmd.work (c : Cmd) : Work :=
  match c.op.toNat with
  | 0 => .stream
  | 1 => .stream
  | 2 => .ticket
  | 3 => .ticket
  | 4 => if c.gathered then .stream else .gather
  | 5 => .gather
  | 6 => .gather
  | 8 => if c.vdst.isNone then .rows else .whole
  | 9 => .rows
  | _ => .whole

/-- The stream's length word and its base; the resident load's; k-count and n-count; rows and values. -/
def Cmd.slen (c : Cmd) : Word := if c.op = 4 then c.desc.getD 0 0 else c.op3
def Cmd.rlen (c : Cmd) : Word := if c.op = 5 then c.op3 else c.desc.getD 2 0
def Cmd.rbase (c : Cmd) : Word := if c.op = 5 then c.op2 else c.desc.getD 1 0
def Cmd.kc (c : Cmd) : Nat := lenA c.slen
def Cmd.nc (c : Cmd) : Nat := lenB c.slen

/-- dR of a copy out of a tile: first row, rows, pitch, stride (R260). -/
def Cmd.m0 (c : Cmd) : Nat := wbits c.op3 0 6
def Cmd.rowCount (c : Cmd) : Nat := wbits c.op3 6 7

/-- Sectors of a row written: two planes for .g16, else four (R260). -/
def Cmd.perRow (c : Cmd) : Nat := if c.ty = .g16 then 2 else 4

/-- The number of units of a command. -/
def Cmd.units (c : Cmd) : Nat :=
  match c.work with
  | .stream => if c.ty = .cb4 then c.nc else c.kc
  | .ticket => if c.ty = .cb4 then c.nc else c.kc
  | .gather => lenA c.rlen
  | .rows => c.rowCount * c.perRow
  | .whole => 0

/-- Bitmap bits of unit u (R242): bits 64q + u of a row unit, otherwise one bit. -/
def Cmd.unitBits (c : Cmd) (u : Nat) : List Nat :=
  match c.work with
  | .gather => (List.range c.resPlanes).map fun q => 64 * q + u
  | .rows => [u]
  | _ => if c.ty = .cb4 then [u] else (List.range c.fetched).map fun q => 64 * q + u

def Cmd.marked (c : Cmd) (u : Nat) : Bool := (c.unitBits u).all fun b => c.bm.getLsbD b
def Cmd.mark (c : Cmd) (us : List Nat) : Cmd :=
  { c with bm := (us.flatMap c.unitBits).foldl (fun b i => b ||| BitVec.ofNat 256 (2 ^ i)) c.bm }
def Cmd.allMarked (c : Cmd) : Bool := (List.range c.units).all c.marked

/-- The address of column n's block of a cb4 range (R242). -/
def Cmd.blockAddr (c : Cmd) (n : Nat) : Word := c.op2 + BitVec.ofNat 64 (32 * lenPitch c.slen * n)

/-- The sector-planes of unit u, ascending by plane (R242, R244, R245, R260). -/
def Cmd.unitAddrs (c : Cmd) (u : Nat) : List Word :=
  match c.work with
  | .stream =>
    if c.ty = .cb4 then [c.blockAddr u &&& 0xFFFFFFFFFFFFFFC0]
    else (List.range c.fetched).map fun q => c.op2 + BitVec.ofNat 64 (64 * lenPitch c.slen * u + 64 * lenStride c.slen * q)
  | .gather =>
    let row := if c.op = 5 then u else c.rows.getD u 0
    (List.range c.resPlanes).map fun q => c.rbase + BitVec.ofNat 64 (64 * lenPitch c.rlen * row + 64 * lenStride c.rlen * q)
  | .rows =>
    let i := u / c.perRow
    let j := u % c.perRow
    let row : Word := if c.op = 9 then BitVec.ofNat 64 (c.rows.getD i 0) else c.op2 + BitVec.ofNat 64 (64 * lenPitch c.op3 * i)
    [row + BitVec.ofNat 64 (if c.ty = .g16 then 64 * lenStride c.op3 * j else 64 * j)]
  | _ => []

/-! Products (R92, R93, R246, R247). -/

/-- A lane of a tile in binary32 use as its bits (R96). -/
def laneBits (l : XLane) : Lane := BitVec.ofInt 32 l.val
def bitsLane (b : Lane) : XLane := ⟨(b.toNat : Int), 0, 0⟩

/-- `ffma.rne` of two exact operands and a binary32 lane, and the event code it created (R247). -/
def blitzAdd (origin : BitVec 16) (l : XLane) (a b : XNum) : XLane × Nat :=
  let c := laneBits l
  if a.isNan then (bitsLane (f32Of .rne false a), 0)
  else if b.isNan then (bitsLane (f32Of .rne false b), 0)
  else if f32IsNan c then (bitsLane (quieten c), 0)
  else
    let inv := fmaInvalid a b (f32Val c)
    if inv ≠ 0 then (bitsLane (eventNan inv origin), inv) else (bitsLane (f32Of .rne false (xAdd .rne (xMul a b) (f32Val c))), 0)

/-- A product added to a lane, and the event code it created. -/
def productAdd (blitz : Bool) (origin : BitVec 16) (l : XLane) (a b : XNum) : XLane × Nat :=
  if blitz then blitzAdd origin l a b
  else
    let p := xProduct origin a b
    let r := exactAdd origin l (laneOf p.1)
    (r.1, if p.2 then 2 else if r.2 then 1 else 0)

/-- The lanes of a tile with the first event by unit and lane (R427). -/
structure Acc1 where
  lanes : List (Nat × XLane)
  event : Option (Nat × Nat)
  deriving DecidableEq, Repr

/-- The earlier of two events. -/
def firstEvent (e : Option (Nat × Nat)) (k code : Nat) : Option (Nat × Nat) :=
  if code = 0 then e
  else match e with
    | none => some (k, code)
    | some (k', c') => if k < k' then some (k, code) else some (k', c')

/-- y[m][k] × b added to lane (m, n) for unit u. -/
def Acc1.add (blitz : Bool) (origin : BitVec 16) (u : Nat) (y : RSlot) (k n : Nat) (b : XNum) (r : Acc1) (m : Nat) : Acc1 :=
  let x := productAdd blitz origin (lanesGet r.lanes (64 * m + n)) (y.value m k) b
  ⟨lanesPut r.lanes (64 * m + n) x.1, firstEvent r.event (4096 * u + 64 * m + n) x.2⟩

/-- The streamed value of plane bytes (R77, R78, R84; s8 as an integer). -/
def Cmd.element (c : Cmd) (bs : List Byte) : XNum :=
  if c.ty = .s8 then xOfInt ((bs.getD 0 0).toInt) 0
  else if c.tz then readGTrunc c.read bs else readG (bs.take c.read)

/-- Row unit k from its planes: B[k][n] for n < nc. -/
def Cmd.addRow (c : Cmd) (y : RSlot) (r : Acc1) (k : Nat) (data : List (List Byte)) : Acc1 :=
  (List.range c.nc).foldl (fun r n =>
    let b := c.element (data.map fun pl => pl.getD n 0)
    (List.range y.mr).foldl (Acc1.add c.blitz c.origin k y k n b) r) r

/-- Column unit n from its 32-byte block, k ascending (R247). -/
def Cmd.addColumn (c : Cmd) (y : RSlot) (r : Acc1) (n : Nat) (block : List Byte) : Acc1 :=
  (List.range c.kc).foldl (fun r k =>
    let i := cbLevel (cbIndex (fun j => block.getD j 0) k)
    (List.range y.mr).foldl (Acc1.add c.blitz c.origin n y k n (.fin (decide (i < 0)) i.natAbs (-7))) r) r

/-- The units a fetched sector or group serves: with cb4 every unmarked column whose block lies in the sector (R242). -/
def Cmd.served (c : Cmd) (u : Nat) : List Nat :=
  if c.work = .stream ∧ c.ty = .cb4 then
    (List.range c.nc).filter fun n => !c.marked n && c.unitAddrs n == c.unitAddrs u
  else [u]

/-- The data of unit u added to a tile, and the units marked. -/
def Cmd.absorb (c : Cmd) (y : RSlot) (r : Acc1) (u : Nat) (data : List (List Byte)) : Acc1 × Cmd :=
  let us := c.served u
  let r' := if c.ty = .cb4 then
      us.foldl (fun r n => c.addColumn y r n (((data.getD 0 []).drop ((c.blockAddr n).toNat % 64)).take 32)) r
    else c.addRow y r u data
  (r', c.mark us)

/-! Folds and conversions (R256, R258, R95). -/

/-- One lane of a fold, and the event code it created (R256). -/
def foldLane (r : Rnd) (sat : Bool) (origin : BitVec 16) (x : XLane) (w : XNum) (d : Lane) : Lane × Nat :=
  let a := laneVal x
  if a.isNan then (f32Of r sat a, 0)
  else if w.isNan then (f32Of r sat w, 0)
  else if f32IsNan d then (quieten d, 0)
  else
    let inv := fmaInvalid a w (f32Val d)
    if inv ≠ 0 then (eventNan inv origin, inv) else (f32Of r sat (xAdd r (xMul a w) (f32Val d)), 0)

/-- The wide scale of column n from the words taken (R89). -/
def wideOf (ws : List Word) (n : Nat) : XNum := wideVal (ws.getD (2 * n) 0) (ws.getD (2 * n + 1) 0)

/-- A whole fold: the lanes of aD, and the first event by row and column. -/
def foldTile (r : Rnd) (sat : Bool) (origin : BitVec 16) (src dst : List (Nat × XLane)) (ws : List Word) : Acc1 :=
  (List.range 4096).foldl (fun acc i =>
    let y := foldLane r sat origin (lanesGet src i) (wideOf ws (i % 64)) (laneBits (lanesGet dst i))
    ⟨lanesPut acc.lanes i (bitsLane y.1), firstEvent acc.event i y.2⟩) ⟨dst, none⟩

/-- A number as .s32, rounded once, then wrapped or saturated (R95, R258). -/
def toS32 (r : Rnd) (wrap : Bool) (x : XNum) : Int :=
  match x with
  | .fin s n e => (if wrap then wrapTo else satTo) 32 true (xRoundInt r (.fin s n e))
  | x => xToIntSat r 32 true x

/-- One lane leaving a tile, as 32 bits (R258): .g16 in the packed form of R169. -/
def Cmd.convert (c : Cmd) (t : Tile) (i : Nat) : Lane :=
  let l := lanesGet t.lanes i
  let r := rndOf c.qual
  let wrap := c.shape.getLsbD 0
  let sat := c.shape.getLsbD 1
  let x := if t.f32 then f32Val (laneBits l) else laneVal l
  if c.ty = .s32 then BitVec.ofInt 32 (toS32 r wrap x)
  else if c.ty = .f32 then (if t.f32 then laneBits l else f32Of r sat x)
  else keepPlanes 2 (encodeG r sat x)

/-- The 64 bytes of sector u of a copy of rows (R260). -/
def Cmd.rowSector (c : Cmd) (t : Tile) (u : Nat) : List Byte :=
  let m := c.m0 + u / c.perRow
  let j := u % c.perRow
  if c.ty = .g16 then (List.range 64).map fun n => plane j (c.convert t (64 * m + n))
  else (List.range 16).flatMap fun n => planes 4 (c.convert t (64 * m + 16 * j + n))

/-! Resources (R261, R262): tile i is i, slot i is 4 + i, n4 is 8. -/

def Cmd.readsOf (p : Nat → Nat) (c : Cmd) : List Nat :=
  match c.op.toNat with
  | 0 => [4 + p c.slot]
  | 1 => [4 + p c.slot]
  | 2 => [4 + p c.slot]
  | 3 => [4 + p c.slot]
  | 7 => [p c.slot, 8]
  | 8 => [p c.slot]
  | 9 => [p c.slot]
  | _ => []

def Cmd.writesOf (p : Nat → Nat) (c : Cmd) : List Nat :=
  match c.op.toNat with
  | 0 => [p c.tile]
  | 1 => [p c.tile]
  | 2 => [p c.tile]
  | 3 => [p c.tile]
  | 4 => [4 + p c.slot, p c.tile]
  | 5 => [4 + p c.slot]
  | 6 => [4 + p c.slot]
  | 7 => [p c.slot, p c.tile, 8]
  | 10 => [p c.tile]
  | _ => []

def Core.cmdReads (c : Core) (e : Cmd) : List Nat := e.readsOf (c.physical e.team)
def Core.cmdWrites (c : Core) (e : Cmd) : List Nat := e.writesOf (c.physical e.team)

def meets (xs ys : List Nat) : Bool := xs.any fun a => ys.contains a

/-- A command in a command slot writes what e reads or writes, or reads what it writes. A placeholder behind the head holds nothing back: the migrated
commands that R262 lists count where they hold a slot (DESIGN CHOICE, notes/assumptions/92.md). -/
def Core.conflict (c : Core) (e : Cmd) : Bool :=
  c.active.any fun a => meets (c.cmdWrites a) (c.cmdReads e ++ c.cmdWrites e) || meets (c.cmdReads a) (c.cmdWrites e)

/-! Where a unit is (R243, R244, R250, R260). -/

/-- The address of a sector-plane at its place; cluster memory is not accepted (address_fault 3), nor is another package: 7 where it is
unreachable, otherwise 3 (R192, R240). -/
def State.unitPlace (s : State) (g : Nat) (c : Cmd) (a : Word) : Except Stop (State × Place) :=
  let spad := match c.work with
    | .gather => true
    | .rows => true
    | _ => false
  match s.region g c.colour c.team a with
  | .cluster _ _ => .error ⟨kindAddress, 3, a⟩
  | _ => s.enginePlace g c.colour c.team ⟨if c.work = .rows then .write else .read, false⟩ spad false a

/-- The sector-planes of a unit in order, the first stop deciding. -/
def State.unitPlacesOf (s : State) (g : Nat) (c : Cmd) : List Word → Except Stop (State × List Place)
  | [] => .ok (s, [])
  | a :: rest =>
    match s.unitPlace g c a with
    | .error e => .error e
    | .ok (s1, p) =>
      match s1.unitPlacesOf g c rest with
      | .error e => .error e
      | .ok (s2, ps) => .ok (s2, p :: ps)

/-- A unit translated, its planes at one home (plane_split). -/
def State.unitPlaces (s : State) (g : Nat) (c : Cmd) (u : Nat) : Except Stop (State × List Place) :=
  match s.unitPlacesOf g c (c.unitAddrs u) with
  | .error e => .error e
  | .ok (s1, ps) =>
    match planeSplit (c.unitAddrs u) ps with
    | some a => .error ⟨kindPlane, 0, a⟩
    | none => .ok (s1, ps)

/-- The stop an uncorrectable error gives when the unit lands, by sector-plane. -/
def State.unitBad (s : State) (ps : List Place) (addrs : List Word) : Option Stop :=
  ((ps.zip addrs).find? fun e => s.placeBad e.1 64).map fun e => ⟨kindCheck, 0, e.2⟩

/-- The first unit not yet marked. -/
def Cmd.nextUnit (c : Cmd) : Option Nat := (List.range c.units).find? fun u => !c.marked u

/-- Every unit below u that has not landed translates (R250: after a fault no further unit is requested). -/
def State.requestable (s : State) (g : Nat) (c : Cmd) (u : Nat) : Bool :=
  (List.range u).all fun j => c.marked j || (match s.unitPlaces g c j with | .ok _ => true | .error _ => false)

/-- What stops the command at its first unmarked unit. -/
def State.unitStop (s : State) (g : Nat) (c : Cmd) (u : Nat) : Option Stop :=
  match s.unitPlaces g c u with
  | .error e => if e.isFault then some e else none
  | .ok (s1, ps) => s1.unitBad ps (c.unitAddrs u)

/-- A core with a thread halted by the debugger: it refuses castling offers and migrated commands (R375). -/
def Core.anyHalted (c : Core) : Bool := c.threads.toList.any fun o => (o.map Thread.halted).getD false

/-! Shape checks (R240, R427). -/

/-- A scratchpad range lies in the team's region and is aligned. -/
def inRegion (size : Nat) (a : Word) (n align : Nat) : Bool :=
  a.toNat / 2 ^ 48 == 0x43 && a.toNat % 2 ^ 48 % align == 0 && decide (a.toNat % 2 ^ 48 + n ≤ size)

/-- The same for a region offset. -/
def offInRegion (size o n align : Nat) : Bool := o % align == 0 && decide (o + n ≤ size)

def count64 (n : Nat) : Bool := decide (1 ≤ n ∧ n ≤ 64)

/-! What a command reads of the team's scratchpad (R423): of each byte any value it has had since the command was issued, chosen freely. -/

/-- Bytes of the scratchpad as a command may read them. -/
def Core.seenBytes (c : Core) (free : Nat) (e : Cmd) (off n : Nat) : List Byte :=
  let now := c.spadBytes off n
  if e.old.any fun o => decide (off ≤ o.1 ∧ o.1 < off + n) then
    (enumFrom 0 now).map fun b =>
      let had := (e.old.filter fun o => o.1 == off + b.1).map Prod.snd
      (b.2 :: had).getD ((Config.freeLane free b.1).toNat % (had.length + 1)) b.2
  else now

/-- The little-endian words, and words of 32 bits, of bytes read. -/
def wordsOf (bs : List Byte) (n : Nat) : List Word := (List.range n).map fun i => kWord ((bs.drop (8 * i)).take 8)
def wordsOf32 (bs : List Byte) (n : Nat) : List Nat := (List.range n).map fun i => extendTo.leNum ((bs.drop (4 * i)).take 4)

/-- The region offset and size of the descriptor a command names, and of the lists it names there or itself. -/
def Cmd.descRange (e : Cmd) : List (Nat × Nat) :=
  match e.op.toNat with
  | 4 => [(e.op3.toNat % 2 ^ 48, 32)]
  | 6 => [(e.op2.toNat % 2 ^ 48, 32)]
  | 11 => [(e.op2.toNat % 2 ^ 48, 16)]
  | _ => []
def Cmd.listRanges (e : Cmd) : List (Nat × Nat) :=
  let gather : List (Nat × Nat) := [(wbits (e.desc.getD 3 0) 0 32, 4 * lenA (e.desc.getD 2 0))]
  match e.op.toNat with
  | 4 => gather
  | 6 => gather
  | 9 => [(e.op2.toNat % 2 ^ 48, 8 * e.rowCount)]
  | 11 =>
    let nc := wbits (e.desc.getD 0 0) 41 7
    [(wbits (e.desc.getD 1 0) 0 32, nc), (wbits (e.desc.getD 1 0) 32 32, 4 * nc)]
  | _ => []

/-- The first of some ranges of a team's region that meets an uncorrectable error (R212), as an address. A range beyond the region is not read. -/
def State.rangeBad (s : State) (g : Nat) (tm : Team) (rs : List (Nat × Nat)) : Option Word :=
  (rs.find? fun r => decide (r.1 + r.2 ≤ tm.size) && s.badSp g (tm.base + r.1) r.2).map fun r => BitVec.ofNat 64 (0x43 * 2 ^ 48 + r.1)

/-- The correctable errors in them corrected. -/
def State.rangeFix (s : State) (g : Nat) (tm : Team) (rs : List (Nat × Nat)) : State :=
  (rs.filter fun r => decide (r.1 + r.2 ≤ tm.size)).foldl (fun s r => s.correctSp g (tm.base + r.1) r.2) s

/-- The command with the list it names, read from the team's scratchpad. -/
def Core.readList (c : Core) (free : Nat) (tm : Team) (e : Cmd) : Cmd :=
  match e.op.toNat, e.listRanges with
  | 9, r :: _ => { e with rows := (wordsOf (c.seenBytes free e (tm.base + r.1) r.2) e.rowCount).map fun w => w.toNat }
  | 11, _ => e
  | _, r :: _ => { e with rows := wordsOf32 (c.seenBytes free e (tm.base + r.1) r.2) (r.2 / 4) }
  | _, [] => e

/-- The command with the descriptor and the list it names (R423; notes/assumptions/45.md). -/
def Core.readDesc (c : Core) (free : Nat) (tm : Team) (e : Cmd) : Cmd :=
  match e.descRange with
  | r :: _ => c.readList (free + 1) tm { e with desc := wordsOf (c.seenBytes free e (tm.base + r.1) r.2) (r.2 / 8) }
  | [] => c.readList (free + 1) tm e

/-- Detail 6: a gather descriptor and its list. -/
def gatherRange (size : Nat) (a : Word) (e : Cmd) : Bool :=
  inRegion size a 32 32 && wbits (e.desc.getD 3 0) 32 32 == 0 && offInRegion size (wbits (e.desc.getD 3 0) 0 32) (4 * lenA e.rlen) 4

/-- Detail 6: the rows of a resident load or of an `acps` that name the scratchpad are aligned and lie in the region. -/
def loadRange (size : Nat) (e : Cmd) : Bool :=
  (List.range e.units).all fun u => (e.unitAddrs u).all fun a => a.toNat / 2 ^ 48 != 0x43 || inRegion size a 64 64

/-- The planes a plane-count code names (R46). -/
def planeCount (code : Nat) : Nat := 2 ^ code

/-- The checks of R427 in order, each with the detail or kind it gives; true where the check passes. `size` is the team's region,
`slot` and `tile` what the command names. Detail 2 reports the word's plane count (R240), in tr.addr (DEDUCED,
notes/assumptions/44.md). The need of R242 for a pitch and a stride holds for the rows of a resident load as for a stream's units (DESIGN
CHOICE, notes/assumptions/91.md). An entry of an `acps` list outside the scratchpad that is no multiple of 64 (R260) ends it with alignment 0
before any row is written (DESIGN CHOICE, notes/assumptions/90.md). -/
def Cmd.checks (e : Cmd) (size : Nat) (y : RSlot) (t : Tile) (src : Tile) : List (Bool × BitVec 8 × Nat × Option Word) :=
  let shape (ok : Bool) (d : Nat) : Bool × BitVec 8 × Nat × Option Word := (ok, kindEngine, d, none)
  let aligned (a : Word) (n : Nat) : Bool × BitVec 8 × Nat × Option Word := (a.toNat % n == 0, kindAlign, 0, some a)
  let planes (ok : Bool) (n : Nat) : Bool × BitVec 8 × Nat × Option Word := (ok, kindEngine, 2, some (BitVec.ofNat 64 n))
  let streams := e.op.toNat ≤ 4
  let loads := e.op.toNat = 4 ∨ e.op.toNat = 5 ∨ e.op.toNat = 6
  let rows := e.work = .rows
  let range := e.op.toNat ≤ 1 ∨ e.op.toNat = 4
  let g16 := e.ty = .g16
  let ranges : List (Bool × BitVec 8 × Nat × Option Word) :=
    match e.op.toNat with
    | 4 => [shape (gatherRange size e.op3 e && loadRange size e) 6]
    | 5 => [shape (loadRange size e) 6]
    | 6 => [shape (gatherRange size e.op2 e && loadRange size e) 6]
    | 8 => if rows then
        [shape ((List.range (max e.rowCount 1 * e.perRow)).all fun u => (e.unitAddrs u).all fun a => inRegion size a 64 64) 6] else []
    | 9 => [shape (inRegion size e.op2 (8 * e.rowCount) 8 && loadRange size e) 6]
    | 11 =>
      let nc := wbits (e.desc.getD 0 0) 41 7
      [shape (inRegion size e.op2 16 16 && offInRegion size (wbits (e.desc.getD 1 0) 0 32) nc 1
        && offInRegion size (wbits (e.desc.getD 1 0) 32 32) (4 * nc) 4) 6]
    | _ => []
  ranges
  ++ (if streams then [shape (count64 e.kc && count64 e.nc) 1] else [])
  ++ (if loads then [shape (count64 (lenA e.rlen) && count64 (lenB e.rlen)) 1] else [])
  ++ (if rows then [shape (count64 e.rowCount && decide (e.m0 + e.rowCount ≤ 64)) 1] else [])
  ++ (if e.op = 11 then [shape (count64 (wbits (e.desc.getD 0 0) 41 7)) 1] else [])
  ++ (if streams then [planes (lenPl e.slen == e.pm.toNat / 4) (planeCount (e.pm.toNat / 4))] else [])
  ++ (if loads then [planes (lenPl e.rlen == e.resPlanes - 1) e.resPlanes] else [])
  ++ (if range then [shape ((decide ((if e.ty = .cb4 then e.nc else e.kc) ≤ 1) || lenPitch e.slen != 0)
      && (e.fetched == 1 || lenStride e.slen != 0)) 5] else [])
  ++ (if loads then [shape ((decide (lenA e.rlen ≤ 1) || lenPitch e.rlen != 0) && (e.resPlanes == 1 || lenStride e.rlen != 0)) 5]
      else [])
  ++ (if rows then [shape ((e.op != 8 || decide ((if g16 then 1 else 4) ≤ lenPitch e.op3))) 5]
      else [])
  ++ (if range then [aligned e.op2 (if e.ty = .cb4 then 32 else 64)] else [])
  ++ (if loads then [aligned e.rbase 64] else [])
  ++ (if e.op = 9 then e.rows.map fun a => aligned (BitVec.ofNat 64 a) 64 else [])
  ++ (if streams then [shape (t.f32 == e.blitz) 3] else [])
  ++ (if e.op = 7 then [shape (!src.f32 && t.f32) 3] else [])
  ++ (if e.op.toNat ≤ 3 then [shape (y.fmt == e.qual && decide (e.kc ≤ y.kc)) 4] else [])
  ++ (if e.op = 4 then [shape (decide (e.kc ≤ lenB e.rlen)) 4] else [])

/-- The first check a command fails. -/
def Cmd.failed (e : Cmd) (size : Nat) (y : RSlot) (t src : Tile) : Option (BitVec 8 × Nat × Option Word) :=
  ((e.checks size y t src).find? fun k => !k.1).map fun k => k.2

/-! Counters, messages and reports (R237, R240, R267). -/

/-- The command named uid in a list, and the list without it. -/
def cmdFind (uid : Nat) (cs : List Cmd) : Option Cmd := cs.find? fun e => e.uid == uid
def cmdDrop (uid : Nat) (cs : List Cmd) : List Cmd := cs.filter fun e => e.uid != uid

/-- The core whose engine holds a command. -/
def State.findCmd (s : State) (uid : Nat) : Option Nat :=
  (s.cores.find? fun e => (cmdFind uid e.2.active).isSome || (cmdFind uid e.2.queue).isSome).map Prod.fst

/-- A command replaced in the command slots of a core. -/
def Core.putActive (c : Core) (e : Cmd) : Core := { c with active := c.active.map fun a => if a.uid = e.uid then e else a }

/-- The counter of a thread decremented (R237). -/
def Thread.uncount (t : Thread) (k : BitVec 3) : Thread :=
  { t with w := t.w.set k.toFin (t.w[k.toFin] - 1) }

/-- Whether the event NaNs of the thread named `tid` trap now (R73). -/
def State.evtOf (s : State) (tid : Nat) : Bool :=
  match s.findTid tid with
  | none => false
  | some r => ((s.thread r.g r.slot).map Thread.evt).getD false

/-- The tile or slot a command is named by, and whether it is a slot. -/
def Cmd.unit (c : Cmd) : Nat × Bool :=
  match c.op.toNat with
  | 5 => (c.slot, true)
  | 6 => (c.slot, true)
  | 8 => (c.slot, false)
  | 9 => (c.slot, false)
  | _ => (c.tile, false)

/-- A command posts a message when it ends (R267). -/
def Cmd.posts (c : Cmd) : Bool := c.op.toNat ≤ 4 || (c.op == 8 && c.vdst.isNone) || c.op == 9

/-- Word 0 of its message. -/
def Cmd.message (c : Cmd) (status : Nat) : Word :=
  BitVec.ofNat 64 (c.op.toNat + 2 ^ 8 * c.ctr.toNat + 2 ^ 11 * c.bslot.toNat + 2 ^ 15 * (c.unit.1 % 4) + 2 ^ 17 * status)

/-- The report of a command from the engine of core g. -/
def Cmd.report (c : Cmd) (g : Nat) (kind : BitVec 8) (detail : Nat) (addr : Word) : Report :=
  { engineReport (engWord 1 (dieOf g) (numOf g)) kind detail c.pc addr with
    ctr := c.ctr, unit := BitVec.ofNat 2 c.unit.1, usel := c.unit.2 }

/-- vD keeps the lanes it held at issue (R259). -/
def Thread.keepV (t : Thread) (c : Cmd) : Thread :=
  match c.vdst with
  | none => t
  | some i => { t with vowed := t.vowed.set i 0, vfull := t.vfull.set i true }

/-- A command leaves the engine of core g: its counter is decremented and its message posted with a status; `keep` restores the v
destination of a command that did not complete. -/
def State.leaveCmd (s : State) (g : Nat) (c : Cmd) (status : Option Nat) (keep : Bool) : State :=
  let cr := s.core g
  let s1 := s.setCore g { cr with active := cmdDrop c.uid cr.active, queue := cmdDrop c.uid cr.queue }
  let s2 := s1.onTid c.tid fun t => (if keep then t.keepV c else t).uncount c.ctr
  match status with
  | none => s2
  | some st => if c.posts then s2.post g (some c.team) g ⟨c.message st, c.pc, 0, c.colour⟩ else s2

/-- A command ends by a fault (R240): status 10 is posted and the issuing thread gets the report. Its lanes and events are left as those of a discarded
command (notes/assumptions/77.md and 78.md). -/
def State.endCmd (s : State) (g : Nat) (c : Cmd) (kind : BitVec 8) (detail : Nat) (addr : Word) : State :=
  (s.leaveCmd g c (some 2) true).trapEngine c.tid (dieOf g) (c.report g kind detail addr)

/-- A shape fault ends the command; the address of an engine_shape report is a free value (notes/assumptions/5.md). -/
def State.endShape (s : State) (g : Nat) (c : Cmd) (k : BitVec 8 × Nat × Option Word) : State :=
  match k.2.2 with
  | some a => s.endCmd g c k.1 k.2.1 a
  | none => s.bumpFree.endCmd g c k.1 k.2.1 (Config.freeWord s.free)

/-! Starting a command (R246, R254, R227). -/

/-- The words of columns `lo` to `hi` − 1 of a `skeep` from its descriptor, codes and scales, and the first event code among them (R254). Bits
[63:48] of word 0, for which R254 gives zero and no fate, are ignored (DESIGN CHOICE, notes/assumptions/99.md). -/
def skeepWords (origin : BitVec 16) (desc : List Word) (codes : List Byte) (scales : List Byte) (lo hi : Nat) :
    List Word × Option (Nat × Nat) :=
  let w0 := desc.getD 0 0
  let unit := w0.getLsbD 40
  let sa : Lane := if unit then 0x40000000 else BitVec.ofNat 32 (wbits w0 0 32)
  let ba : Nat := if unit then 128 else wbits w0 32 8
  let nc := wbits w0 41 7
  ((List.range (hi - lo)).map fun i => lo + i).foldl (fun acc n =>
    if nc ≤ n then (acc.1 ++ [0, 0], acc.2)
    else
      let sb : Lane := packPlanes ((scales.drop (4 * n)).take 4)
      let bb := (codes.getD n 0).toNat
      let r := wideScale sa ba sb bb origin
      let ev := !f32IsNan sa && !f32IsNan sb && ba != 0 && bb != 0 && zeroInf (f32Val sa) (f32Val sb)
      (acc.1 ++ [r.1, r.2], firstEvent acc.2 n (if ev then 2 else 0))) ([], none)

/-- The words of columns `lo` to `hi` − 1 of a `skeep` from its descriptor and from the codes and scales as it broadcasts them (R423). -/
def State.formSkeep (s : State) (g : Nat) (tm : Team) (e : Cmd) (lo hi : Nat) : List Word × Option (Nat × Nat) :=
  match e.listRanges with
  | [r1, r2] => skeepWords e.origin e.desc ((s.core g).seenBytes (s.free + 1) e (tm.base + r1.1) r1.2)
      ((s.core g).seenBytes (s.free + 2) e (tm.base + r2.1) r2.2) lo hi
  | _ => ([], none)

/-- The check that a command fails as its tiles and slots stand. -/
def Core.shapeFault (c : Core) (tm : Team) (e : Cmd) : Option (BitVec 8 × Nat × Option Word) :=
  e.failed tm.size (c.rslot (c.physical e.team e.slot)) (c.tile (c.physical e.team e.tile)) (c.tile (c.physical e.team e.slot))

/-- A command whose descriptor and lists have been read: it ends at an uncorrectable error in them, nothing written (R240 names no fate of it: DESIGN
CHOICE, notes/assumptions/45.md), or by a check that it fails; otherwise `go`. -/
def State.checkedCmd (s : State) (g : Nat) (tm : Team) (e : Cmd) (go : State → State) : State :=
  match s.rangeBad g tm e.descRange with
  | some a => s.endCmd g e kindCheck 0 a
  | none =>
    match (s.core g).shapeFault tm e with
    | some k => s.endShape g e k
    | none =>
      match s.rangeBad g tm e.listRanges with
      | some a => s.endCmd g e kindCheck 0 a
      | none => go (s.rangeFix g tm (e.descRange ++ e.listRanges))

/-- A command that is in a command slot of core g starts, or starts again after `cres`: its descriptor is read and its shape checked,
a `cldt` sends its claim, a `skeep` is accepted by the cluster. -/
def State.beginCmd (s0 : State) (g : Nat) (e0 : Cmd) : State :=
  match (s0.core g).teamOf e0.team with
  | none => s0
  | some tm =>
    let e := { (s0.core g).readDesc s0.free tm e0 with state := 1, skid := none, bm := 0 }
    State.checkedCmd { s0 with free := s0.free + 16 } g tm e fun s =>
      let c := s.core g
      match e.work with
      | .ticket =>
        if e.op2 = 0 then s.endCmd g e kindTicket 1 e.op2
        else if (s.die (wbits e.op2 16 3)).fenced then s.endCmd g e kindTicket 6 e.op2
        else
          (s.setCore g ((c.putActive e).sentTo (some (trafficVault (wbits e.op2 8 11))))).send (.claim e.op2
            ⟨e.uid, e.tid, g, 16, e.colour, e.pc, .engine e.uid e.read e.tz e.ty (if e.ty = .cb4 then (e.nc + 1) / 2 else e.kc), []⟩)
      | _ =>
        if e.op = 11 then
          let k := s.cluster (clusterOf g)
          (s.setCore g (c.putActive e)).setCluster (clusterOf g)
            { k with casts := k.casts ++ [⟨e.uid, e.team.launch, [], []⟩] }
        else s.setCore g (c.putActive e)

/-- A length word with the pitch and stride of another, which a command's next units use; its counts and planes have sized what it holds. -/
def keepCounts (w new : Word) : Word := BitVec.ofNat 64 (w.toNat % 2 ^ 16 + new.toNat / 2 ^ 16 * 2 ^ 16)

/-- A gather descriptor read again after a unit has landed (R423): what the units still to come use of it. -/
def Cmd.laterDesc (e : Cmd) (new : List Word) : List Word :=
  let w (i : Nat) : Word := e.desc.getD i 0
  let n (i : Nat) : Word := new.getD i 0
  if e.gathered then [if e.bm = 0 then n 0 else keepCounts (w 0) (n 0), w 1, w 2, w 3] else [n 0, n 1, keepCounts (w 2) (n 2), n 3]

/-- A gather whose descriptor has been read again after a unit has landed. A descriptor that fails a check now is one that the command misses
(notes/assumptions/45.md). -/
def State.rereadDesc (s : State) (g : Nat) (tm : Team) (e : Cmd) : Cmd :=
  match e.descRange with
  | r :: _ =>
    let e1 := { e with desc := e.laterDesc (wordsOf ((s.core g).seenBytes s.free e (tm.base + r.1) r.2) 4) }
    if ((s.core g).shapeFault tm e1).isNone && (s.rangeBad g tm (e1.descRange ++ e1.listRanges)).isNone then e1 else e
  | [] => e

/-- What a command at work reads again of the scratchpad before its next unit (R423): its descriptor and list while no unit has landed; later its list, and
what its next units use of a gather's descriptor; none with an uncorrectable error in it. -/
def State.rereadCmd (s : State) (g : Nat) (e : Cmd) : Cmd :=
  match (s.core g).teamOf e.team with
  | none => e
  | some tm =>
    if e.state ≠ 1 ∨ e.allMarked ∨ e.op = 5 ∨ readsScratch e.op.toNat = false then e
    else if (s.rangeBad g tm (e.descRange ++ e.listRanges)).isSome then e
    else if e.gathered then s.rereadDesc g tm e
    else if e.bm = 0 then (s.core g).readDesc s.free tm e
    else (s.core g).readList (s.free + 1) tm (s.rereadDesc g tm e)

/-- The check that a command fails with what it has read again, none where that is what it had. A list read again after a resident load's first row has no
check; its rows fault where they are fetched (notes/assumptions/45.md). -/
def State.rereadFault (s : State) (g : Nat) (e e' : Cmd) : Option (BitVec 8 × Nat × Option Word) :=
  if e = e' ∨ (e.bm ≠ 0 ∧ e.op ≠ 9) then none
  else match (s.core g).teamOf e.team with
    | none => none
    | some tm => (s.core g).shapeFault tm e'

/-- The first event of a command: the one it had, or a new one if event NaNs trap (R73, R427). -/
def State.firstOf (s : State) (tid : Nat) (old new : Option (Nat × Nat)) : Option (Nat × Nat) :=
  match old with
  | some a => some a
  | none => if s.evtOf tid then new else none

/-- The partial tile of a placeholder added lane by lane, and the event that made (R265). -/
def addPartial (origin : BitVec 16) (lanes part : List (Nat × XLane)) : Acc1 :=
  part.foldl (fun acc p =>
    let r := exactAdd origin (lanesGet acc.lanes p.1) p.2
    ⟨lanesPut acc.lanes p.1 r.1, firstEvent acc.event (4096 * 64 + p.1) (if r.2 then 1 else 0)⟩) ⟨lanes, none⟩

/-- A command discarded by `cres.d` (R251): status 01. The lanes keep their exact values, which no completion has checked against the range of R91,
and an event NaN the command made is not reported, for R427 reports at completion (DESIGN CHOICE, notes/assumptions/77.md and 78.md). -/
def State.discardCmd (s : State) (g : Nat) (e : Cmd) : State := s.leaveCmd g e (some 1) true

/-- A placeholder that has become active takes its partial (R265, R266). -/
def State.takePartial (s : State) (g : Nat) (e : Cmd) (part : List (Nat × XLane)) : State :=
  let c := s.core g
  let i := c.physical e.team e.tile
  let t := c.tile i
  if t.f32 then s.endShape g e (kindEngine, 3, none)
  else
    let r := addPartial e.origin t.lanes part
    let e' := { e with partial_ := none, event := s.firstOf e.tid e.event r.event, state := if e.state = 2 then 2 else 1 }
    let s1 := s.setCore g ((c.putActive e').setTile i { t with lanes := r.lanes })
    if e.disc then s1.discardCmd g e' else s1

/-! Parking (R244, R250, R260). -/

/-- A command parks after a fault, its report sent; a resident load leaves its slot undefined, and `acps` forgets its rows. -/
def State.parkCmd (s : State) (g : Nat) (e : Cmd) (stop : Stop) : State :=
  let c := s.core g
  let e' := { e with state := 2, kind := stop.kind, detail := BitVec.ofNat 8 stop.detail, faddr := stop.addr
                     bm := if e.work = .gather ∨ e.op = 9 then 0 else e.bm }
  let i := c.physical e.team e.slot
  let c1 := c.putActive e'
  let c2 := if e.work = .gather then c1.setRslot i { c1.rslot i with vals := [], junk := some s.free } else c1
  (s.bumpFree.setCore g c2).trapEngine e.tid (dieOf g) (e.report g stop.kind stop.detail stop.addr)

end Sys2Proof.Machine
end

