-- ==== Sys2Proof/Machine/EngineOps.lean ====
section
/-! DEFINITION. Class 0x18 at issue, and the steps of the matrix engines (spec/10_contract.md R239, R246–R266). -/
namespace Sys2Proof.Machine
open Sys2Proof

/-! Issue (R236, R239). -/

/-- The index of a tile or slot an operand names. -/
def engIndex (o : Opnd) : Option Nat :=
  match o.reg with
  | .a i => some i.val
  | .y i => some i.val
  | _ => none

/-- An operand that names a tile or slot beyond the team's (R236). -/
def beyondTiles (x : Ctx) (f : Fields) : Bool :=
  let n := ((x.s.findTeam x.t.key).map fun e => e.2.tiles.length).getD 0
  [f.dst, f.src1].any fun o => match engIndex o with
    | some i => decide (n ≤ i)
    | none => false

/-- How the operands of an op stand in the word: which of src2 and src3 are read. -/
structure EngForm where
  op   : Nat
  two  : Bool
  three : Bool
  deriving DecidableEq, Repr

def EngForm.srcs (k : EngForm) (f : Fields) : List Opnd := (if k.two then [f.src2] else []) ++ (if k.three then [f.src3] else [])

/-- The record of a command at issue (R252): dst and src1 give the tile and slot. -/
def engCmd (x : Ctx) (k : EngForm) (f : Fields) (gd : Guard) (vs : List Val) : Cmd :=
  let a := if k.two then val vs 0 else 0
  let b := if k.three then val vs (if k.two then 1 else 0) else 0
  let dst := (engIndex f.dst).getD 0
  let src := (engIndex f.src1).getD 0
  let resident := k.op = 5 ∨ k.op = 6
  { uid := x.s.uid, tid := x.t.tid, team := x.t.key, colour := x.t.colour, wid := x.t.wid
    op := BitVec.ofNat 8 k.op, mod := BitVec.ofNat 6 (16 * f.qual.toNat + engTyCode f.ty)
    ctr := BitVec.ofNat 3 (Fields.bits f 33 3), bslot := BitVec.ofNat 4 x.slot
    gidx := gd.idx, gneg := gd.neg, gres := x.t.guardRes gd, gval := gd.idx = 0 || x.t.pval[gd.idx]
    tile := if resident then 0 else dst
    slot := if resident then dst else src
    pm := BitVec.ofNat 4 (Fields.bits f 29 4), shape := BitVec.ofNat 6 (Fields.bits f 23 6)
    state := 0, pc := x.t.pc, op2 := a, op3 := b, bm := 0, kind := 0, detail := 0, faddr := 0
    vdst := match f.dst.reg with
      | .v i => some i
      | _ => none
    wide := [], event := none, partial_ := none, disc := false, gathered := false, desc := [], rows := [], skid := none
    old := [] }

/-- A v destination that still has a reply to come (R49). -/
def engDstWait (x : Ctx) (o : Opnd) : List SlotClass :=
  match o.reg with
  | .v i => if x.t.vowed[i] ≠ 0 then [.mem] else []
  | _ => []

/-- A command's turn (R239): a guard resolved false passes over it, an unresolved one is queued with it; tile check, determinism,
away from the team's core; then the operands are read, the counter incremented and the command queued. -/
def engTurn (k : EngForm) (gd : Guard) (f : Fields) (s : State) : Host.Outcome State Fault Refusal :=
  match ctxOf s with
  | none => .refused .noThread
  | some x =>
    let full : List SlotClass := if x.c.atHome x.t && decide (16 ≤ x.c.queue.length) then [.msg] else []
    if x.t.guardRes gd && !x.t.guardVal gd then .next (x.finish x.c x.t)
    else match worst (srcWaits x [] (k.srcs f) ++ engDstWait x f.dst ++ full) with
      | some w => .next (x.wait w)
      | none =>
        if beyondTiles x f then .next (x.trap kindIllegal 4 0)
        else if (k.op = 1 ∨ k.op = 3) ∧ x.s.det x.t then .next (x.trap kindDet 1 0)
        else if x.c.atHome x.t = false then .next (x.trap kindAddress 4 0)
        else
          let r := x.take (k.srcs f)
          let e := engCmd x k f gd r.1
          let t1 := { r.2.2 with w := r.2.2.w.set e.ctr.toFin (r.2.2.w[e.ctr.toFin] + 1) }
          let t2 := match e.vdst with
            | some i => t1.pendV i 1
            | none => t1
          .next ((x.on x.s.bumpUid).finish { r.2.1 with queue := r.2.1.queue ++ [e] } t2)

def execCldX (gd : Guard) (f : Fields) (s : State) := engTurn ⟨0, true, true⟩ gd f s
def execCldB (gd : Guard) (f : Fields) (s : State) := engTurn ⟨1, true, true⟩ gd f s
def execCldtX (gd : Guard) (f : Fields) (s : State) := engTurn ⟨2, true, true⟩ gd f s
def execCldtB (gd : Guard) (f : Fields) (s : State) := engTurn ⟨3, true, true⟩ gd f s
def execCldg (gd : Guard) (f : Fields) (s : State) := engTurn ⟨4, true, true⟩ gd f s
def execRld (gd : Guard) (f : Fields) (s : State) := engTurn ⟨5, true, true⟩ gd f s
def execRldg (gd : Guard) (f : Fields) (s : State) := engTurn ⟨6, true, false⟩ gd f s
def execFold (gd : Guard) (f : Fields) (s : State) := engTurn ⟨7, false, false⟩ gd f s
def execAcpV (gd : Guard) (f : Fields) (s : State) := engTurn ⟨8, false, true⟩ gd f s
def execAcpSp (gd : Guard) (f : Fields) (s : State) := engTurn ⟨8, true, true⟩ gd f s
def execAcps (gd : Guard) (f : Fields) (s : State) := engTurn ⟨9, true, true⟩ gd f s
def execAclrX (gd : Guard) (f : Fields) (s : State) := engTurn ⟨10, false, false⟩ gd f s
def execAclrF (gd : Guard) (f : Fields) (s : State) := engTurn ⟨10, false, false⟩ gd f s
def execSkeep (gd : Guard) (f : Fields) (s : State) := engTurn ⟨11, true, false⟩ gd f s

/-- A parked command of a thread on counter k. -/
def Cmd.parkedOn (tid : Nat) (k : BitVec 3) (e : Cmd) : Bool := e.tid == tid && e.ctr == k && e.state == 2

/-- One parked command resumed or discarded, in its command slot or at its place in the queue (R251, R266). -/
def State.resumeCmd (s : State) (g uid : Nat) (disc : Bool) : State :=
  let c := s.core g
  match cmdFind uid c.active with
  | some e =>
    if disc then s.discardCmd g e
    else if e.work = .gather ∨ (e.op = 9 ∧ e.skid.isNone) then s.beginCmd g e
    else s.setCore g (c.putActive { e with state := 1, skid := none })
  | none =>
    s.setCore g { c with queue := c.queue.map fun (e : Cmd) => if e.uid = uid then { e with state := 0, disc := disc } else e }

/-- The commands `cres` names, oldest first. -/
def Core.parkedCmds (c : Core) (tid : Nat) (k : BitVec 3) : List Nat :=
  let us := ((c.active ++ c.queue).filter (Cmd.parkedOn tid k)).map Cmd.uid
  sortBy (fun a b => decide (a ≤ b)) us

/-- The partial, bitmap and state of the command run on another core's engine return to its placeholder (R266). An event that the merge of two
partials makes is the command's (R73). -/
def State.returnGuest (s : State) (host : Nat) : State :=
  match (s.core host).guest with
  | none => s
  | some q =>
    let s1 := s.setCore host { s.core host with guest := none }
    let c := s1.core q.home
    let held : Bool := !q.cmd.allMarked
    let back (a : Cmd) : Cmd :=
      let r := addPartial a.origin (a.partial_.getD []) q.tile
      { a with state := if q.cmd.state = 2 then 2 else if held then 4 else 0, bm := q.cmd.bm, event := s.firstOf a.tid q.cmd.event r.event, kind := q.cmd.kind
               detail := q.cmd.detail, faddr := q.cmd.faddr, partial_ := some r.lanes }
    s1.setCore q.home { c with queue := c.queue.map fun a => if a.uid = q.cmd.uid then back a else a }

/-- The guest of a core is a command parked there that `cres` of a thread of core g names. -/
def State.guestParked (s : State) (g tid : Nat) (k : BitVec 3) (host : Nat) : Bool :=
  match (s.core host).guest with
  | some q => q.home == g && q.cmd.parkedOn tid k
  | none => false

/-- Commands parked on another engine of the cluster have returned before `cres` looks for them: their reports are out (R250, R266; DEDUCED,
notes/assumptions/81.md). -/
def State.fetchParked (s : State) (g tid : Nat) (k : BitVec 3) : State :=
  ((clusterCores (clusterOf g)).filter (s.guestParked g tid k)).foldl State.returnGuest s

/-- `cres` and `cres.d` (R251). -/
def cresTurn (disc : Bool) (gd : Guard) (f : Fields) (s : State) : Host.Outcome State Fault Refusal :=
  turn gd s (fun _ => []) fun x =>
    if x.c.atHome x.t = false then x.trap kindAddress 4 0
    else match f.src1.reg with
      | .w i =>
        let s1 := (x.finish x.c x.t).fetchParked x.g x.t.tid (BitVec.ofNat 3 i.val)
        ((s1.core x.g).parkedCmds x.t.tid (BitVec.ofNat 3 i.val)).foldl (fun s u => s.resumeCmd x.g u disc) s1
      | _ => x.finish x.c x.t

def execCres (gd : Guard) (f : Fields) (s : State) := cresTurn false gd f s
def execCresD (gd : Guard) (f : Fields) (s : State) := cresTurn true gd f s

/-- R264. -/
def execWlt (gd : Guard) (f : Fields) (s : State) : Host.Outcome State Fault Refusal :=
  turn gd s (fun _ => []) fun x =>
    if x.c.atHome x.t = false then x.trap kindAddress 4 0
    else match f.src1.reg with
      | .w i => if x.t.w[i] < Fields.bits f 0 5 then x.finish x.c x.t else x.wait .mem
      | _ => x.finish x.c x.t

/-! The queue (R262). -/

/-- The head of the queue becomes active, or is discarded when its guard resolved false. -/
def execCommandActivate (g : Nat) (s : State) : Host.Outcome State Fault Refusal :=
  orNot "COMMAND_ACTIVATE" (
    let c := s.core g
    match c.queue with
    | [] => none
    | e :: rest =>
      if c.stop ∨ e.gres = false ∨ e.state = 3 then none
      else if e.decided = false then some (s.leaveCmd g e none true)
      else if 4 ≤ c.active.length + c.guest.toList.length ∨ c.conflict e then none
      else
        let s1 := s.setCore g { c with queue := rest, active := c.active ++ [e] }
        some (match e.partial_ with
          | some p => s1.takePartial g e p
          | none => s1.beginCmd g e))

/-! Units (R246, R250). -/

/-- A unit that may land now: not marked, requested before any fault, translated, without an uncorrectable error, and its line
expanded or its write admitted. -/
def State.unitLands (s : State) (g : Nat) (e : Cmd) (u : Nat) : Option (State × List Place) :=
  if e.state ≠ 1 ∨ e.units ≤ u ∨ e.marked u ∨ e.skid = some 0 ∨ s.requestable g e u = false then none
  else match s.unitPlaces g e u with
    | .error _ => none
    | .ok (s1, ps) =>
      if (s1.unitBad ps (e.unitAddrs u)).isSome then none
      else if e.work = .rows then
        (if ps.all (s1.writeReady (dieOf g)) then some (s1, ps) else none)
      else if ps.all s1.readReady then some (s1, ps) else none

/-- The bytes of a unit's sector-planes; of the scratchpad as the command may see them (R423). -/
def State.unitData (s : State) (e : Cmd) (ps : List Place) : List (List Byte) :=
  (enumFrom 0 ps).map fun x =>
    match x.2 with
    | .spad g off => (s.core g).seenBytes (s.free + 2 + x.1) e off 64
    | p => (List.range 64).map (s.placeByte p)

/-- The requests of a unit counted on the command's own core (R345), and its correctable errors corrected (R212). -/
def State.unitSent (s : State) (g : Nat) (e : Cmd) (ps : List Place) : State :=
  ps.foldl (fun s p => (s.placeFix p 64).countUnit g e.team p) s

/-- A stream unit added to a tile's lanes; the event is kept if event NaNs trap (R427). -/
def State.addUnit (s : State) (e : Cmd) (y : RSlot) (lanes : List (Nat × XLane)) (u : Nat) (data : List (List Byte)) :
    List (Nat × XLane) × Cmd :=
  let r := e.absorb y ⟨lanes, e.event⟩ u data
  (r.1.lanes, { r.2 with event := if s.evtOf e.tid then r.1.event else e.event })

/-- A stream unit or ticket group accumulated by a command in a command slot of core g. -/
def State.accumulate (s : State) (g : Nat) (e : Cmd) (u : Nat) (data : List (List Byte)) : State :=
  let c := s.core g
  let i := c.physical e.team e.tile
  let t := c.tile i
  let r := s.addUnit e (c.rslot (c.physical e.team e.slot)) t.lanes u data
  s.setCore g ((c.putActive r.2).setTile i { t with lanes := r.1 })

/-- Row u of a resident load enters the slot, which the first one empties; the last one completes the record, and a `cldg` goes on to its stream (R244,
R249). -/
def State.loadRow (s : State) (g : Nat) (e : Cmd) (u : Nat) (data : List (List Byte)) : State :=
  let c := s.core g
  let i := c.physical e.team e.slot
  let y : RSlot := if e.bm = 0 then { c.rslot i with vals := [], junk := none } else c.rslot i
  let row := (List.range (lenB e.rlen)).map fun k => (64 * u + k, residentValue e.qual (data.map fun pl => pl.getD k 0))
  let y1 := { y with vals := row.foldl (fun m v => smapPut m v.1 v.2) y.vals }
  let e1 := e.mark [u]
  if e1.allMarked then
    let e2 := if e.op = 4 then { e1 with gathered := true, bm := 0 } else e1
    s.setCore g ((c.putActive e2).setRslot i { y1 with fmt := e.qual, mr := lenA e.rlen, kc := lenB e.rlen })
  else s.setCore g ((c.putActive e1).setRslot i y1)

/-- The watchpoint a written sector strikes (R381). -/
def State.rowStrike (s : State) (e : Cmd) (a : Word) : Option Nat :=
  ((s.struck e.colour e.wid (addrRange a.toNat 64)).head?).map Prod.fst

/-- A sector of rows written; after a watch strike at most four more follow. -/
def State.writeRow (s : State) (g : Nat) (e : Cmd) (u : Nat) (ps : List Place) : State :=
  let a := (e.unitAddrs u).headD 0
  let bs := e.rowSector ((s.core g).tile ((s.core g).physical e.team e.slot)) u
  let strike := s.rowStrike e a
  let skid := nextSkid e.skid strike.isSome
  let s1 := match ps with
    | p :: _ => s.placeWrite e.colour p bs
    | [] => s
  let s2 := s1.setCore g ((s1.core g).putActive { e.mark [u] with skid := skid })
  match strike with
  | some k => s2.unitStrike g e.bslot.toNat e.tid e.colour e.wid (e.report g kindWatch (4 + k) a)
  | none => s2

/-- The next two words of n4 taken by a `fold`. -/
def State.takeScale (s : State) (g : Nat) (e : Cmd) (u : Nat) : Option State :=
  let c := s.core g
  match c.n4 with
  | a :: b :: rest =>
    if e.op = 7 ∧ e.state = 1 ∧ 2 * u = e.wide.length ∧ u < 64 then
      some (s.setCore g ({ c with n4 := rest }.putActive { e with wide := e.wide ++ [a, b] }))
    else none
  | _ => none

/-- A unit of the command named u arrives at the engine of core g: in its own command slot, or as the guest of R265. A command reads its list again first
(R423), and ends if it then fails a check. -/
def execUnitArrival (g c u : Nat) (s : State) : Host.Outcome State Fault Refusal :=
  orNot "UNIT_ARRIVAL" (
    let cr := s.core g
    if cr.stop then none
    else match cmdFind c cr.active with
    | some e0 =>
      let e := s.rereadCmd g e0
      if e.op = 7 then s.takeScale g e u
      else match s.rereadFault g e0 e with
      | some k => some ({ s with free := s.free + 4 }.endShape g e k)
      | none =>
        (match s.unitLands g e u with
        | none => none
        | some (s1, ps) =>
          let s2 := s1.unitSent g e ps
          let s3 := { s2 with free := s2.free + 8 }
          match e.work with
          | .stream => some (s3.accumulate g e u (s1.unitData e ps))
          | .gather => some (s3.loadRow g e u (s1.unitData e ps))
          | .rows => some (s3.writeRow g e u ps)
          | _ => none)
    | none =>
      match cr.guest with
      | some q =>
        if q.cmd.uid ≠ c then none
        else (match s.unitLands q.home q.cmd u with
        | none => none
        | some (s1, ps) =>
          let s2 := s1.unitSent q.home q.cmd ps
          let r := s2.addUnit q.cmd q.slot q.tile u (s1.unitData q.cmd ps)
          some (s2.setCore g { s2.core g with guest := some { q with cmd := r.2, tile := r.1 } }))
      | none => none)

/-- A command meets a fault at its first unit that has not landed, every earlier one having landed, and parks (R250); or it has
written the sectors that may follow a watch strike (R381). A guest's partial then waits to return (R266). -/
def execEngineFaultPark (g c u : Nat) (s : State) : Host.Outcome State Fault Refusal :=
  orNot "ENGINE_FAULT_PARK" (
    let cr := s.core g
    if cr.stop then none
    else match cmdFind c cr.active with
    | some e0 =>
      let e := s.rereadCmd g e0
      if e.state ≠ 1 ∨ e.nextUnit ≠ some u ∨ (s.rereadFault g e0 e).isSome then none
      else if e.skid.isSome then some (s.setCore g (cr.putActive { e with state := 2 }))
      else (s.unitStop g e u).map fun st => s.parkCmd g e st
    | none =>
      match cr.guest with
      | some q =>
        if q.cmd.uid ≠ c ∨ q.cmd.state ≠ 1 ∨ q.cmd.nextUnit ≠ some u then none
        else (s.unitStop q.home q.cmd u).map fun st =>
          (s.setCore g { cr with guest := some { q with cmd := { q.cmd with
              state := 2, kind := st.kind, detail := BitVec.ofNat 8 st.detail, faddr := st.addr } } }).trapEngine q.cmd.tid (dieOf g)
            (q.cmd.report g st.kind st.detail st.addr)
      | none => none)

/-! Completion (R263, R94, R427). -/

/-- The range check of the lanes a contracting load added to. -/
def rangeCheck (origin : BitVec 16) (mr nc : Nat) (lanes : List (Nat × XLane)) : List (Nat × XLane) :=
  lanes.map fun p => if p.1 / 64 < mr ∧ p.1 % 64 < nc then (p.1, (laneCheck origin p.2).1) else p

/-- tr.addr of a numeric_event report (R427); a free value where no unit made the event. -/
def Cmd.eventAddr (e : Cmd) (free key : Nat) : Word :=
  match e.op.toNat with
  | 2 => e.op2
  | 3 => e.op2
  | 11 => e.op2
  | 7 => 0
  | _ =>
    if 64 ≤ key / 4096 then Config.freeWord free
    else if e.ty = .cb4 then e.blockAddr (key / 4096) else (e.unitAddrs (key / 4096)).headD 0

/-- A command completes: its counter, its message, and one numeric_event report if it made events. -/
def State.completeCmd (s : State) (g : Nat) (e : Cmd) : State :=
  let s1 := s.leaveCmd g e (some 0) false
  match e.event with
  | none => s1
  | some (key, code) => s1.bumpFree.trapEngine e.tid (dieOf g) (e.report g kindEvent code (e.eventAddr s1.free key))

/-- Half a tile row in the v register of its thread (R259). -/
def State.acpWrite (s : State) (g : Nat) (e : Cmd) (i : Fin 8) : State :=
  let t := (s.core g).tile ((s.core g).physical e.team e.slot)
  let row := 64 * wbits e.op3 0 6 + 32 * wbits e.op3 6 1
  s.onTid e.tid fun th => { th.putV i (Vector.ofFn fun k => e.convert t (row + k.val)) with vowed := th.vowed.set i 0 }

/-- A command finishes. -/
def execCommandComplete (g c : Nat) (s : State) : Host.Outcome State Fault Refusal :=
  orNot "COMMAND_COMPLETE" (
    let cr := s.core g
    match cmdFind c cr.active with
    | none => none
    | some e =>
      let dst := cr.physical e.team e.tile
      let src := cr.physical e.team e.slot
      if cr.stop ∨ e.state ≠ 1 then none
      else if e.op.toNat ≤ 4 then
        (if (e.op = 4 ∧ e.gathered = false) ∨ e.allMarked = false then none
        else if e.blitz then some (s.completeCmd g e)
        else
          let t := cr.tile dst
          let t' := { t with lanes := rangeCheck e.origin (cr.rslot src).mr e.nc t.lanes }
          some ((s.setCore g (cr.setTile dst t')).completeCmd g e))
      else match e.op.toNat with
        | 7 =>
          if e.wide.length < 128 then none
          else
            let r := foldTile (rndOf e.qual) (e.shape.getLsbD 0) e.origin (cr.tile src).lanes (cr.tile dst).lanes e.wide
            let e' := { e with event := if s.evtOf e.tid then r.event else none }
            some ((s.setCore g ((cr.setTile src ⟨false, []⟩).setTile dst ⟨true, r.lanes⟩)).completeCmd g e')
        | 8 =>
          (match e.vdst with
          | some i => some ((s.acpWrite g e i).completeCmd g e)
          | none => if e.allMarked then some (s.completeCmd g e) else none)
        | 10 => some ((s.setCore g (cr.setTile dst ⟨e.shape.getLsbD 0, []⟩)).completeCmd g e)
        | 11 =>
          if (s.cluster (clusterOf g)).casts.any fun b => b.cmd == e.uid then none else some (s.completeCmd g e)
        | _ => if e.allMarked then some (s.completeCmd g e) else none)

/-! Engine migration (R265, R266). -/

/-- Tiles of a core that no team owns. -/
def Core.spareTiles (c : Core) : List Nat :=
  (List.range 4).filter fun i => !(c.teams.any fun tm => tm.tiles.contains i) && !((c.guest.map Guest.idx) == some i)

/-- Two cores of one cluster row. -/
def sameRow (g h : Nat) : Bool := clusterOf g == clusterOf h && rowOf g == rowOf h

/-- A core is about to be switched out or exchanged. -/
def Core.leaving (c : Core) : Bool := c.stop || c.swapDue || c.offer.isSome || c.offerIn.isSome

/-- The exact `cld.x` at place i of a queue runs on an idle engine of the row, leaving a placeholder. -/
def execEngineMigration (g i host : Nat) (s : State) : Host.Outcome State Fault Refusal :=
  orNot "ENGINE_MIGRATION" (
    let c := s.core g
    let h := s.core host
    match c.queue[i]? with
    | none => none
    | some e =>
      let y := c.rslot (c.physical e.team e.slot)
      let ahead := c.active ++ c.queue.take i
      if i < 8 ∨ e.op ≠ 0 ∨ e.state ≠ 0 ∨ e.disc ∨ e.gres = false ∨ e.decided = false then none
      else if ahead.any (fun a => (c.cmdWrites a).contains (4 + c.physical e.team e.slot)) then none
      else if host = g ∨ sameRow g host = false ∨ c.leaving ∨ h.leaving ∨ h.checked ∨ h.anyHalted ∨ h.queue ≠ []
          ∨ h.active.any (fun a => a.state != 2) ∨ h.guest.isSome then none
      else if (e.failed (((c.teamOf e.team).map Team.size).getD 0) y ⟨false, []⟩ ⟨false, []⟩).isSome then none
      else match h.spareTiles.reverse with
        | [] => none
        | idx :: _ =>
          let s1 := s.setCore g { c with queue := c.queue.map fun (a : Cmd) => if a.uid = e.uid then { a with state := 3 } else a }
          some (s1.setCore host { h with guest := some ⟨g, { e with state := 1, partial_ := none }, y, idx, []⟩ }))

/-- The partial and bitmap return to the placeholder: when every unit is marked, the command has parked, or a core is pre-empted or
castles, and then the placeholder is parked or held (R266). -/
def execPartialReturn (host : Nat) (s : State) : Host.Outcome State Fault Refusal :=
  orNot "PARTIAL_RETURN" (match (s.core host).guest with
    | none => none
    | some q =>
      if q.cmd.allMarked ∨ q.cmd.state = 2 ∨ (s.core host).leaving ∨ (s.core q.home).leaving then some (s.returnGuest host) else none)

/-! Broadcasts (R255, R422). -/

/-- The words a core has taken of a broadcast. -/
def Broadcast.takenBy (b : Broadcast) (g : Nat) : Nat := smapGet 0 b.taken g

/-- A broadcast every core of the cluster has taken leaves the list. -/
def Cluster.settleCasts (k : Cluster) (cores : List Nat) : Cluster :=
  { k with casts := k.casts.filter fun b => !cores.all fun g => decide (128 ≤ b.takenBy g) }

/-- A core that must take a broadcast: it has a team of the keeper's launch. -/
def Core.takes (c : Core) (b : Broadcast) : Bool := c.teams.any fun tm => tm.key.launch == b.launch && !tm.retired

/-- The words a core has still to take of the broadcasts before another. -/
def Core.owed (c : Core) (g : Nat) (earlier : List Broadcast) : Nat :=
  ((earlier.filter c.takes).map fun b => 128 - b.takenBy g).sum

/-- The words of the broadcast at place i of a list for which every core that must take them has room: it waits while one of them has none, and the
words of an earlier broadcast come first (R255). -/
def State.castRoom (s : State) (clu : Nat) (casts : List Broadcast) (i : Nat) (b : Broadcast) : Nat :=
  ((clusterCores clu).filter fun g => (s.core g).takes b).foldl
    (fun m g => min m (b.takenBy g + (64 - (s.core g).n4.length - (s.core g).owed g (casts.take i)))) 128

/-- The core whose engine forms and sends a broadcast, if it goes on: its launch's colour is resident and no machine check or switch has stopped it (R254,
R268, R370). -/
def State.caster (s : State) (b : Broadcast) : Option Nat :=
  match s.findCmd b.cmd with
  | none => none
  | some h =>
    if (s.core h).checked || (s.core h).stop || !((s.launch? b.launch).map fun l => s.resident l.colour).getD true then none else some h

/-- The words of a broadcast up to the n-th, each formed as it first goes out, from what its command reads then (R423), its events noted with the
command (R254). A command that fails a check as the first one is formed, or meets an uncorrectable error, ends with nothing more broadcast: no broadcast is
left (notes/assumptions/45.md). -/
def State.formCast (s : State) (clu i h : Nat) (b : Broadcast) (n : Nat) : State × Option Broadcast :=
  if n ≤ b.words.length then (s, some b)
  else match cmdFind b.cmd (s.core h).active with
    | none => (s, some b)
    | some e0 =>
      match (s.core h).teamOf e0.team with
      | none => (s, some b)
      | some tm =>
        let e := if b.words.isEmpty then (s.core h).readDesc s.free tm e0 else e0
        let w := s.formSkeep h tm e (b.words.length / 2) ((n + 1) / 2)
        let b' := { b with words := b.words ++ w.1 }
        let go (s : State) : State :=
          let s2 := s.setCore h ((s.core h).putActive { e with event := s.firstOf e.tid e.event w.2 })
          s2.setCluster clu { s2.cluster clu with casts := (s2.cluster clu).casts.set i b' }
        let s0 : State := { s with free := s.free + 8 }
        let s1 := if b.words.isEmpty then s0.checkedCmd h tm e go
          else match s0.rangeBad h tm e.listRanges with
            | some a => s0.endCmd h e kindCheck 0 a
            | none => go (s0.rangeFix h tm e.listRanges)
        if (cmdFind b.cmd (s1.core h).active).isSome then (s1, some b')
        else (s1.setCluster clu { s1.cluster clu with casts := (s1.cluster clu).casts.eraseIdx i }, none)

/-- A broadcast that is before later ones: its launch's colour is resident. Another colour's, which is switched out with its command (R366), is before none. -/
def State.castsNow (s : State) (b : Broadcast) : Bool := ((s.launch? b.launch).map fun l => s.resident l.colour).getD true

/-- Core g takes words of the first broadcast it has not taken whole, as far as every core has room; a core with no team of the
launch bound discards them. A later broadcast waits for an earlier one whose keeper is stopped (R255, R422). -/
def execSkeepBroadcast (clu g : Nat) (s : State) : Host.Outcome State Fault Refusal :=
  orNot "SKEEP_BROADCAST" (
    if clusterOf g ≠ clu then none
    else match (s.cluster clu).casts.findIdx? fun b => s.castsNow b && decide (b.takenBy g < 128) with
      | none => none
      | some i =>
        match (s.cluster clu).casts[i]? with
        | none => none
        | some b0 =>
          match s.caster b0 with
          | none => none
          | some h =>
            let takes := (s.core g).takes b0
            let n := if takes then s.castRoom clu (s.cluster clu).casts i b0 else 2
            if takes && decide (n ≤ b0.takenBy g) then none
            else match s.formCast clu i h b0 n with
              | (s1, none) => some s1
              | (s1, some b) =>
                let c := s1.core g
                let put (n : Nat) : Cluster :=
                  let k := s1.cluster clu
                  { k with casts := k.casts.set i { b with taken := smapPut b.taken g n } }.settleCasts (clusterCores clu)
                if takes then
                  some ((s1.setCluster clu (put n)).setCore g
                    { c with n4 := c.n4 ++ (b.words.drop (b.takenBy g)).take (n - b.takenBy g) })
                else some (s1.setCluster clu (put 128)))

end Sys2Proof.Machine
end

