-- ==== Sys2Proof/Machine/Tickets.lean ====
section
/-! DEFINITION. Ticket loads, class 0x14, and the ticket tables of the memory slices (spec/09_tickets.md). -/
namespace Sys2Proof.Machine
open Sys2Proof

/-! The ticket value (R214–R216). -/

/-- The check code of bits [39:0] under the key of the present power-up (R215). -/
def State.checkCode (s : State) (t40 : Nat) : Nat :=
  let key := (List.range 32).map fun i => Config.ticketKey s.boots i
  extendTo.leNum (shake256 3 (key ++ (List.range 5).map fun i => BitVec.ofNat 8 (t40 / 256 ^ i)))

def tkEntry (t : Word) : Nat := wbits t 0 8
def tkSlice (t : Word) : Nat := wbits t 8 11
def tkColour (t : Word) : Nat := wbits t 19 5
def tkGen (t : Word) : Nat := wbits t 24 16

/-- The ticket of an entry of the slice of core g. -/
def State.ticketOf (s : State) (g e colour gen : Nat) : Word :=
  let t40 := e + 2 ^ 8 * g + 2 ^ 19 * colour + 2 ^ 24 * gen
  BitVec.ofNat 64 (t40 + 2 ^ 40 * s.checkCode t40)

/-! The table (R217). -/

def Core.tk (c : Core) (e : Nat) : TkEntry := smapGet TkEntry.free c.tickets e
def State.setTk (s : State) (g e : Nat) (k : TkEntry) : State :=
  s.setCore g { s.core g with tickets := smapPut (s.core g).tickets e k }

/-- Sectors of the ticket buffer in use. -/
def Core.tkUsed (c : Core) : Nat := (c.tickets.map fun e => if e.2.st = 0 then 0 else e.2.n * e.2.planes).sum

/-- An entry freed: the groups still to land are awaited, then discarded. -/
def TkEntry.freed (k : TkEntry) : TkEntry :=
  { k with st := 0, data := [], sent := [], marked := [], claim := none,
           drain := if k.st = 0 then k.drain else (List.range k.n).filter fun i => !k.landed i }

def State.freeTk (s : State) (g e : Nat) : State := s.setTk g e ((s.core g).tk e).freed

/-- The lowest free entry that waits for no read. -/
def Core.tkAlloc (c : Core) : Option Nat := (List.range 256).find? fun e => (c.tk e).st == 0 && (c.tk e).drain.isEmpty

/-! `tld` (R219, R220). -/

/-- Ascending order of addresses. -/
def sortAddrs (as : List Word) : List Word := sortBy (fun a b => decide (a.toNat ≤ b.toNat)) as

/-- Plane q of sector i at place q × n + i. -/
def tldAddrs (a stride : Word) (n p : Nat) : List Word :=
  (List.range (n * p)).map fun k => a + BitVec.ofNat 64 (64 * (k % n)) + BitVec.ofNat 64 (64 * (k / n)) * stride

/-- The first plane of a group at another slice than its group's plane 0, then the first sector of another slice. -/
def tldSplit (addrs : List Word) (ps : List Place) (n : Nat) : Option (BitVec 8 × Nat × Word) :=
  let home (k : Nat) : Nat × Nat := (ps.getD k (.mem 0)).home
  let planes := (List.range n).findSome? fun i =>
    ((List.range (addrs.length / n)).find? fun q => home (q * n + i) != home i).map fun q => (kindPlane, 0, addrs.getD (q * n + i) 0)
  match planes with
  | some k => some k
  | none => ((List.range n).find? fun i => home i != home 0).map fun i => (kindAlign, 1, addrs.getD i 0)

/-- `tld` (R220–R222). It holds one of the 64 memory-port entries until its whole fetch has ended, a kind of access that R196 does not name (DESIGN CHOICE,
notes/assumptions/96.md). -/
def execTld (gd : Guard) (f : Fields) (s : State) : Host.Outcome State Fault Refusal :=
  turn gd s (fun x => srcWaits x [] [f.src1, f.src2] ++ dstWait x [f.src1, f.src2] f.dst ++ memWait x 1) fun x =>
    let r := x.take [f.src1, f.src2]
    let a := Fields.addr f (val r.1 0)
    let n := wbits (val r.1 1) 0 7
    let stride : Word := val r.1 1 >>> 32
    let p := Fields.fetched f
    let ok := decide (1 ≤ n ∧ n ≤ 64) && a.toNat % 64 == 0 && (f.ty == .dflt || stride != 0)
    let addrs := if ok then tldAddrs a stride n p else []
    let sorted := sortAddrs addrs
    x.access .planar ⟨.read, false⟩ a ok [a] sorted fun ps =>
      let placeOf (b : Word) : Place := (((sorted.zip ps).find? fun e => e.1 == b).map Prod.snd).getD (.mem 0)
      let pls := addrs.map placeOf
      match tldSplit addrs pls n with
      | some (k, d, b) => x.trap k d b
      | none =>
        match f.dst.reg with
        | .d i =>
          let pas := pls.map Place.addr
          let home := homeOf (pas.headD 0)
          let m := Msg.tld (x.req x.s x.t []) i home f.ty (f.qual == 1) n p pas x.t.launch x.t.team (x.s.det x.t)
          let t := { r.2.2 with outst := r.2.2.outst ++ [x.s.uid], loads := r.2.2.loads ++ [x.s.uid] }
          (x.on (x.s.send m).bumpUid).finish (r.2.1.sentBy x.t (some (trafficVault home))) (t.pendD i)
        | _ => x.finish x.c x.t

/-- A ticket's fetch is over as an access of its thread. -/
def State.tldDone (s : State) (rd : Option (Nat × Nat)) : State :=
  match rd with
  | none => s
  | some (tid, id) => (s.performed tid id).onTid tid fun t => t.replied id

/-- The lease an entry takes from tk.lease (R218). -/
def leaseOf (w : Word) : Nat := 2 ^ (max 12 (min 30 (wbits w 0 5)))

/-- The ticket, or the null ticket, as the reply to a `tld` from the slice `home`; its name is of no access. -/
def State.ticketReply (s : State) (home : Nat) (r : Req) (dst : Fin 16) (t : Word) (clock : List Nat) : State :=
  (s.bumpUid).send (.reply r.tid s.uid (.d dst .z64) (wordBytes 8 t) clock (r.label home))

/-- The slice allocates an entry and replies its ticket, or replies the null ticket (R220); a held write of the same source to bytes of the
groups is performed before it (R318, R321; notes/assumptions/21.md). -/
def execTldRequest (k : Nat) (s : State) : Host.Outcome State Fault Refusal :=
  orNot "TLD_REQUEST" (match s.net[k]? with
    | some (.tld r dst home ty tz n p addrs launch team det) =>
      if s.arrived k = false ∨ s.heldBefore home r.src (addrs.map fun a => (a, 64)) then none
      else
        let s0 := s.takeMsg k
        let c := s0.core home
        let clock := (s.die (dieOf home)).k
        match c.tkAlloc with
        | some e =>
          if c.tkUsed + n * p ≤ 4096 then
            let gen := (c.tk e).gen % 65535 + 1
            let reg := (s.colour r.colour).lease
            let never := reg.getLsbD 8 || det
            let t : TkEntry :=
              { st := 1, gen := gen, colour := r.colour, lease := if never then 0 else leaseOf reg, never := never, launch := launch
                team := team, det := det, ty := ty, tz := tz, n := n, planes := p, addrs := addrs, data := [], sent := []
                marked := [], rd := some (r.tid, r.id), src := r.src, claim := none, drain := [], kv := r.kv }
            some ((s0.setTk home e t).ticketReply home r dst (s0.ticketOf home e r.colour gen) clock)
          else some ((s0.tldDone (some (r.tid, r.id))).ticketReply home r dst 0 clock)
        | none => some ((s0.tldDone (some (r.tid, r.id))).ticketReply home r dst 0 clock)
    | _ => none)

/-- An earlier `tld` of the same core or thread has still to read some bytes of group i of an entry (R311, R318). -/
def State.groupWaits (s : State) (k : TkEntry) (i : Nat) : Bool :=
  match k.rd with
  | some (tid, id) => s.tldBefore k.src tid id ((List.range k.planes).map fun q => (k.addrs.getD (q * k.n + i) 0, 64))
  | none => false

/-- Group i of entry e lands (R217, R221, R233): all its planes at once; in a freed entry it is discarded. A group with bytes of another colour is marked
as one with an error (notes/assumptions/33.md). After the last one the entry is ready. -/
def execTicketGroupLanded (g e i : Nat) (s : State) : Host.Outcome State Fault Refusal :=
  orNot "TICKET_GROUP_LANDED" (
    let k := (s.core g).tk e
    if s.groupWaits k i then none
    else if k.st = 0 then
      (if k.drain.contains i then
        let d := k.drain.filter fun j => j != i
        let s1 := s.setTk g e { k with drain := d, rd := if d.isEmpty then none else k.rd }
        some (if d.isEmpty then s1.tldDone k.rd else s1)
      else none)
    else if k.n ≤ i ∨ k.landed i then none
    else
      let idx := (List.range k.planes).map fun q => q * k.n + i
      let bad := idx.any fun j => s.bad (k.addrs.getD j 0) 64
      let k1 := if bad || s.foreignAny k.colour (idx.map fun j => k.addrs.getD j 0) then { k with marked := k.marked ++ [i] }
        else { k with data := idx.foldl (fun m j => smapPut m j (memGets s.mem (k.addrs.getD j 0) 64)) k.data }
      let all := (List.range k.n).all k1.landed
      let k2 := { k1 with st := if all && k1.st == 1 then 2 else k1.st, rd := if all then none else k1.rd }
      let fixed := s.correct (idx.map fun j => (k.addrs.getD j 0, 64))
      let s1 := (if bad then s.freezeDie (dieOf g) 4 else fixed).setTk g e k2
      some (if all then s1.tldDone k.rd else s1))

/-! Redeeming (R222–R227). -/

/-- The form of an `rdm` fits the entry (R224–R226, R248). -/
def State.fits (s : State) (k : TkEntry) : ClaimForm → Bool
  | .sp x team => decide (x + 64 * k.n * k.planes ≤ ((s.findTeam team).map fun e => e.2.size).getD 0)
  | .v _ half => if k.ty = .dflt then decide (2 * half < k.n) else decide (half < 2 * k.n)
  | .s _ => true
  | .engine _ planes tz ty units =>
    (if ty = .cb4 then k.ty == .dflt else planes == gPlanes k.ty && tz == k.tz) && decide (units ≤ k.n)
  | .drop => true

/-- The detail of R223 that details 2 to 4 give, 0 where none. -/
def State.ticketCheck (s : State) (g colour : Nat) (t : Word) : Nat :=
  let k := (s.core g).tk (tkEntry t)
  if t.toNat / 2 ^ 40 ≠ s.checkCode (t.toNat % 2 ^ 40) then 2
  else if tkColour t ≠ colour ∨ k.colour ≠ tkColour t then 3
  else if k.gen ≠ tkGen t ∨ k.st = 0 then 4
  else 0

/-- A slice is fenced off from core g: its die is fenced, or a die of the way to it (R223, R313; notes/assumptions/47.md). -/
def State.fencedOff (s : State) (g slice : Nat) : Bool := (s.die (dieOf slice)).fenced || !s.reaches g slice

/-- The detail with which a claim is denied at the slice, 0 where it is granted. -/
def State.claimCheck (s : State) (g : Nat) (t : Word) (c : Claim) : Nat :=
  let k := (s.core g).tk (tkEntry t)
  if s.fencedOff c.core g then 6
  else
    let d := s.ticketCheck g c.colour t
    if d ≠ 0 then d else if k.st = 3 then 5 else if s.fits k c.form = false then 7 else 0

/-- The d registers that are read with the synchronised read. -/
def syncRegs (os : List Opnd) : List (Fin 16) :=
  os.filterMap fun o => match o.m, o.reg with
    | .sync, .d i => some i
    | _, _ => none

/-- An `rdm` at issue: a null ticket or a fenced die is denied at the core; otherwise the claim is sent and the thread leaves the
rotation until the answer (R222, R223). -/
def Ctx.redeem (x : Ctx) (os : List Opnd) (t : Word) (form : ClaimForm) : State :=
  if t = 0 then x.trap kindTicket 1 t
  else if (x.s.die (wbits t 16 3)).fenced then x.trap kindTicket 6 t
  else
    let c : Claim := ⟨x.s.uid, x.t.tid, x.g, x.slot, x.t.colour, x.t.pc, form, syncRegs os⟩
    let s1 := (x.s.send (.claim t c)).bumpUid
    { s1.setCore x.g ((x.c.sentBy x.t (some (trafficVault (tkSlice t)))).setThread x.slot (some { x.t with waitAns := true }))
      with cls := .issued }

/-- `rdm.sp` (R224): x outside the team's region gives address_fault 3, and nothing is read there. -/
def execRdmSp (gd : Guard) (f : Fields) (s : State) : Host.Outcome State Fault Refusal :=
  turn gd s (fun x => srcWaits x [] [f.src1, f.src2]) fun x =>
    let r := x.take [f.src1, f.src2]
    let a := Fields.addr f (val r.1 0)
    let inside : Bool := match x.s.region x.g x.t.colour x.t.key a with
      | .spad _ => true
      | _ => false
    if x.c.atHome x.t = false then x.trap kindAddress 4 0
    else if inside = false then x.trap kindAddress 3 a
    else if a.toNat % 64 ≠ 0 then x.trap kindAlign 0 a
    else x.redeem [f.src1, f.src2] (val r.1 1) (.sp (a.toNat % 2 ^ 48) x.t.key)

def execRdmV (gd : Guard) (f : Fields) (s : State) : Host.Outcome State Fault Refusal :=
  turn gd s (fun x => srcWaits x [] [f.src1] ++ dstWait x [f.src1] f.dst) fun x =>
    let r := x.take [f.src1]
    match f.dst.reg with
    | .v i => x.redeem [f.src1] (val r.1 0) (.v i (Fields.bits f 0 7))
    | _ => x.finish x.c x.t

def execRdmS (gd : Guard) (f : Fields) (s : State) : Host.Outcome State Fault Refusal :=
  turn gd s (fun x => srcWaits x [] [f.src1]) fun x =>
    let r := x.take [f.src1]
    x.redeem [f.src1] (val r.1 0) (.s (Fin.ofNat 4 (Fields.bits f 0 2)))

/-- The thread of a granted `rdm` goes on: its synchronised reads are cleared, once the second of its pair has issued where there is one, a
v destination is pending, or a stream is bound. -/
def State.rdmGranted (s : State) (c : Claim) (bytes : Nat) : State :=
  match s.findTid c.tid with
  | none => s
  | some r =>
    let s1 := match c.form with
      | .s i => s.releaseStream r.g c.tid i
      | _ => s
    match s1.thread r.g r.slot with
    | none => s
    | some t =>
      let t1 := { t with
        dfull := if t.second then t.dfull else c.sync.foldl (fun (d : Vector Bool 16) (i : Fin 16) => d.set i false) t.dfull
        taken := if t.second then c.sync else t.taken
        waitAns := false }
      let t2 := match c.form with
        | .v i _ => t1.pendV i 1
        | .s i => { t1 with streams := t1.streams.set i (some ⟨true, c.id, [], bytes⟩) }
        | _ => t1
      s1.setThread r.g r.slot (some { t2 with entry := none, vector := none, retry := false, kv := [], pc := succPc t2.pc })

/-- The thread of a denied `rdm` takes the trap at its next turn (R223, R364). -/
def State.rdmDenied (s : State) (tid : Nat) (d : Nat) (t : Word) : State :=
  s.onTid tid fun th => { th with waitAns := false, second := false, taken := [], denied := some (preciseReport kindTicket d th.pc t) }

/-- The lease of an entry has run out in this cycle and it is still to be freed. -/
def State.leaseOut (s : State) (g e : Nat) : Bool :=
  let k := (s.core g).tk e
  (k.st == 1 || k.st == 2) && !k.never && k.lease == 0

/-! What happens to one entry in one cycle (R230): claims, lowest first by the redeemer's die, core and barrel slot, the engine of `cldt`
counting as slot 16; then `tdrop`, then the lease's expiry, then `tqry`. -/

/-- The place of a claim among those of a cycle. -/
def Claim.rank (c : Claim) : Nat := 32 * c.core + match c.form with
  | .engine _ _ _ _ _ => 16
  | _ => c.slot

/-- The places of a `tdrop`, an expiry and a `tqry`. -/
def dropRank : Nat := 2 ^ 20
def expiryRank : Nat := 2 ^ 20 + 1
def queryRank : Nat := 2 ^ 20 + 2

/-- The slice, entry and place of a message about a ticket. -/
def Msg.atEntry : Msg → Option (Nat × Nat × Nat)
  | .claim t c => some (tkSlice t, tkEntry t, c.rank)
  | .tdrop _ t => some (tkSlice t, tkEntry t, dropRank)
  | .tqry _ _ t => some (tkSlice t, tkEntry t, queryRank)
  | _ => none

/-- A message that has arrived for entry e of slice g, or the expiry of its lease, comes before what has this place. -/
def State.entryBefore (s : State) (g e rank : Nat) : Bool :=
  (decide (expiryRank < rank) && s.leaseOut g e) || s.net.zipIdx.any fun m => match m.1.atEntry with
    | some (g', e', r) => g' == g && e' == e && decide (r < rank) && s.arrived m.2
    | none => false

/-- What a slice sends a redeemer finds its way back open (R313, R337). -/
def State.backTo (s : State) (g : Nat) (c : Claim) (colour : Nat) : Bool := s.wayBack ⟨c.core, colour, g⟩

/-- A claim reaches the slice (R222). A grant or denial whose way back leads through a fenced die is lost; the denial of a slice that is fenced off comes
from no slice. -/
def execTicketClaim (k : Nat) (s : State) : Host.Outcome State Fault Refusal :=
  orNot "TICKET_CLAIM" (match s.net[k]? with
    | some (.claim t c) =>
      if s.arrived k = false ∨ s.entryBefore (tkSlice t) (tkEntry t) c.rank then none
      else
        let g := tkSlice t
        let s0 := s.takeMsg k
        let d := s0.claimCheck g t c
        let e := (s0.core g).tk (tkEntry t)
        let granted := s0.setTk g (tkEntry t) { e with st := 3, claim := some c }
        if d ≠ 6 ∧ s.backTo g c c.colour = false then some (if d = 0 then granted else s0)
        else match c.form with
        | .engine uid _ _ _ _ =>
          if d = 0 then some granted
          else (match s0.findCmd uid with
            | none => some s0
            | some h =>
              match cmdFind uid (s0.core h).active with
              | some a => some (s0.endCmd h a kindTicket d t)
              | none => some s0)
        | _ => if d = 0 then some (granted.rdmGranted c (64 * e.n * e.planes)) else some (s0.rdmDenied c.tid d t)
    | _ => none)

/-! Delivery (R224–R226, R233, R248). -/

/-- The vault byte offset of a group, as the reports of R233 give it. -/
def TkEntry.groupAddr (k : TkEntry) (i : Nat) : Word := BitVec.ofNat 64 (k.addrs.getD i 0 % 2 ^ 28)

/-- The report of a marked group to the redeemer. -/
def State.markReport (s : State) (g : Nat) (c : Claim) (k : TkEntry) (i : Nat) (clr : Option Reg) : State :=
  s.trapEngine c.tid (dieOf g) { engineReport (engWord 3 (dieOf g) (numOf g)) kindCheck 0 c.pc (k.groupAddr i) with clr := clr }

/-- The groups an `rdm.v` needs. -/
def TkEntry.vGroups (k : TkEntry) (half : Nat) : List Nat :=
  if k.ty = .dflt then [2 * half, 2 * half + 1].filter fun i => decide (i < k.n) else [half / 2]

/-- The 32 lanes of an `rdm.v` (R225). -/
def TkEntry.vLanes (k : TkEntry) (half : Nat) : VReg :=
  let sector (j : Nat) : List Byte := (smapFind k.data j).getD []
  if k.ty = .dflt then lanesOf ((k.vGroups half).flatMap sector)
  else planarLanes k.ty k.tz
    ((List.range k.planes).flatMap fun q => ((sector (q * k.n + half / 2)).drop (32 * (half % 2))).take 32)

/-- A stream's buffer has room for the next sector of a claim, or the binding is gone. -/
def State.tkStreamReady (s : State) (c : Claim) (i : Fin 4) (next : Bool) : Bool :=
  match s.findTid c.tid with
  | none => true
  | some r =>
    match (s.thread r.g r.slot).bind fun t => t.streams[i] with
    | some st => !(st.ticket && st.src == c.id) || (next && decide (st.buf.length + 64 ≤ 512))
    | none => true

/-- A sector enters a stream bound by a claim; a binding that has ended takes nothing. -/
def Thread.feedClaim (t : Thread) (i : Fin 4) (id : Nat) (bs : List Byte) : Thread :=
  match t.streams[i] with
  | some st => if st.ticket && st.src == id then t.feed i.val bs else t
  | none => t

/-- Group i of a ticket accumulated by a `cldt` (R248); groups beyond its units are discarded. -/
def State.ticketGroup (s : State) (h : Nat) (a : Cmd) (i : Nat) (data : List (List Byte)) : State :=
  if a.ty = .cb4 then
    let c := s.core h
    let dst := c.physical a.team a.tile
    let t := c.tile dst
    let cols := [2 * i, 2 * i + 1].filter fun n => decide (n < a.nc)
    let r := cols.foldl (fun r n =>
      a.addColumn (c.rslot (c.physical a.team a.slot)) r n (((data.getD 0 []).drop (32 * (n % 2))).take 32)) ⟨t.lanes, a.event⟩
    let a' := { a.mark cols with event := if s.evtOf a.tid then r.event else a.event }
    s.setCore h ((c.putActive a').setTile dst { t with lanes := r.lanes })
  else if i < a.kc then s.accumulate h a i data
  else s

/-- The engine takes a delivered group: none where it cannot now. A group marked by an uncorrectable error (R233) beyond those that the `cldt` uses (R248)
is discarded with no fault (DESIGN CHOICE, notes/assumptions/98.md). -/
def State.deliverEngine (s : State) (uid : Nat) (k : TkEntry) (i : Nat) (whole : Bool) : Option State :=
  match s.findCmd uid with
  | none => if (s.shadow ++ s.moved).any fun e => (cmdFind uid e.2.active).isSome then none else some s
  | some h =>
    match cmdFind uid (s.core h).active with
    | none => some s
    | some a =>
      let group := i % k.n
      if (s.core h).stop ∨ a.state ≠ 1 then none
      else if k.marked.contains group then
        (if (if a.ty = .cb4 then decide (2 * group < a.nc) else decide (group < a.kc)) then some (s.endCmd h a kindCheck 0 (k.groupAddr group))
        else some s)
      else if whole then
        some (s.ticketGroup h a group ((List.range k.planes).map fun q => (smapFind k.data (q * k.n + group)).getD []))
      else some s

/-- Sector-plane i of entry e is delivered to its redeemer, or lost on a way that is closed; after the last one the entry is freed (R217). After a
marked group of an `rdm.s` the rest is discarded and the binding stays with the bytes it lacks, so later reads of the stream wait (DESIGN CHOICE, notes/assumptions/76.md). -/
def execTicketDelivery (g e i : Nat) (s : State) : Host.Outcome State Fault Refusal :=
  orNot "TICKET_DELIVERY" (
    let k := (s.core g).tk e
    match k.claim with
    | none => none
    | some c =>
      let total := k.n * k.planes
      let group := i % k.n
      let bad := k.marked.contains group
      if k.st ≠ 3 ∨ total ≤ i ∨ k.sent.contains i ∨ !(bad || (smapFind k.data i).isSome) ∨ s.resident k.colour = false then none
      else
        let k1 := { k with sent := k.sent ++ [i] }
        let whole := (List.range k.planes).all fun q => k1.sent.contains (q * k.n + group)
        let last := k1.sent.length == total
        let data := (smapFind k.data i).getD []
        let close (s : State) (k1 : TkEntry) : State := if last then s.setTk g e k1.freed else s.setTk g e k1
        if s.backTo g c k.colour = false then some (close s k1)
        else match c.form with
        | .drop => some (close s k1)
        | .engine uid _ _ _ _ => (s.deliverEngine uid k1 i whole).map fun s1 => close s1 k1
        | .sp x team =>
          let s1 := match s.findTeam team with
            | some (h, tm) => if bad then s else s.setCore h ((s.core h).spadPut (tm.base + x + 64 * i) data)
            | none => s
          if last then
            let word := s.ticketOf g e k.colour k.gen
            let status := if k.marked.isEmpty then 0 else 2
            let s2 := if k.marked.isEmpty then s1 else s1.markReport g c k (k.marked.headD 0) none
            some ((close s2 k1).post g (some team) c.core ⟨word, BitVec.ofNat 64 (x + 2 ^ 32 * status), 2, k.colour⟩)
          else some (close s1 k1)
        | .s r =>
          if s.tkStreamReady c r (i == k.sent.length) = false ∧ bad = false then none
          else if bad then some (close (s.markReport g c k group none) { k1 with claim := some { c with form := .drop } })
          else some (close (s.onTid c.tid fun t => t.feedClaim r c.id data) k1)
        | .v r half =>
          let need := k.vGroups half
          let done := need.all fun j => (List.range k.planes).all fun q => k1.sent.contains (q * k.n + j)
          if need.contains group && done then
            let s1 := match need.find? fun j => k.marked.contains j with
              | some j => s.markReport g c k j (some (.v r))
              | none => s.onTid c.tid fun t => { t.putV r (k.vLanes half) with vowed := t.vowed.set r 0 }
            some (close s1 { k1 with claim := some { c with form := .drop } })
          else some (close s k1))

/-! `tqry` and `tdrop` (R228, R229). Each takes a memory-port entry without waiting for room in it, which R196 does not say (DESIGN CHOICE,
notes/assumptions/96.md). -/

def execTqry (gd : Guard) (f : Fields) (s : State) : Host.Outcome State Fault Refusal :=
  turn gd s (fun x => srcWaits x [] [f.src1] ++ dstWait x [f.src1] f.dst) fun x =>
    let r := x.take [f.src1]
    match f.dst.reg with
    | .d i =>
      let t := { r.2.2 with loads := r.2.2.loads ++ [x.s.uid] }
      (x.on (x.s.send (.tqry (x.req x.s x.t []) i (val r.1 0))).bumpUid).finish r.2.1 (t.pendD i)
    | _ => x.finish x.c x.t

def execTdrop (gd : Guard) (f : Fields) (s : State) : Host.Outcome State Fault Refusal :=
  turn gd s (fun x => srcWaits x [] [f.src1] ++ nonretWait x) fun x =>
    let r := x.take [f.src1]
    let t := { r.2.2 with outst := r.2.2.outst ++ [x.s.uid], nonret := r.2.2.nonret ++ [x.s.uid] }
    (x.on (x.s.send (.tdrop (x.req x.s x.t []) (val r.1 0))).bumpUid).finish r.2.1 t

/-- The reply of R228 to a query of core `src`. The sector-planes counted are those in the buffer: those delivered and those of a marked group, whose data the
slice does not hold, are not (DESIGN CHOICE, notes/assumptions/89.md). -/
def State.tqryWord (s : State) (g src colour : Nat) (t : Word) : Word :=
  let k := (s.core g).tk (tkEntry t)
  let d := if t = 0 then 1 else if s.fencedOff src g then 6 else s.ticketCheck g colour t
  if d ≠ 0 then BitVec.ofNat 64 (2 ^ 3 * d)
  else
    let held := (k.data.filter fun e => !k.sent.contains e.1).length
    let lease := if k.st = 3 then 0 else if k.never then 2 ^ 22 - 1 else k.lease / 1024
    BitVec.ofNat 64 (k.st.toNat + 2 ^ 8 * held + 2 ^ 20 * lease)

/-- TQRY_AT_SLICE: the last of what happens to an entry in a cycle (R230). A query of a slice that is fenced off is answered at its core, as a
claim is denied there (R222, R228). -/
def execTqryAtSlice (k : Nat) (s : State) : Host.Outcome State Fault Refusal :=
  orNot "TQRY_AT_SLICE" (match s.net[k]? with
    | some (.tqry r dst t) =>
      let g := tkSlice t
      if s.arrived k = false ∨ s.entryBefore g (tkEntry t) queryRank then none
      else some ((s.takeMsg k).send (.reply r.tid r.id (.d dst .z64) (wordBytes 8 (s.tqryWord g r.src r.colour t))
        (s.die (dieOf g)).k (r.label (if s.fencedOff r.src g then r.src else g))))
    | _ => none)

/-- A drop frees a live entry that is fetching or ready; it is acknowledged in every case. -/
def execTdropAtSlice (k : Nat) (s : State) : Host.Outcome State Fault Refusal :=
  orNot "TDROP_AT_SLICE" (match s.net[k]? with
    | some (.tdrop r t) =>
      if s.arrived k = false ∨ s.entryBefore (tkSlice t) (tkEntry t) dropRank then none
      else
        let g := tkSlice t
        let e := (s.core g).tk (tkEntry t)
        let s1 := if t ≠ 0 ∧ s.ticketCheck g r.colour t = 0 ∧ e.st ≠ 3 then s.freeTk g (tkEntry t) else s
        some (((s1.takeMsg k).performed r.tid r.id).send (.redAck r.tid r.id (s.die (dieOf g)).k (r.label g)))
    | _ => none)

/-- A lease reaches zero (R230): the entry is free from here on, after the claims and the `tdrop` that have arrived in this cycle, and from
the slice's next cycle at the latest. -/
def execLeaseExpiry (g e : Nat) (s : State) : Host.Outcome State Fault Refusal :=
  orNot "LEASE_EXPIRY" (if s.leaseOut g e && !s.entryBefore g e expiryRank then some (s.freeTk g e) else none)

end Sys2Proof.Machine
end

