-- ==== Sys2Proof/Machine/Control.lean ====
section
/-! DEFINITION. Branches, guards and gangs, class 0x01, and words on the n links (spec/04_control.md R110, R114–R126). -/
namespace Sys2Proof.Machine
open Sys2Proof

/-! Branches (R41, R119, R120). -/

/-- The target of a slot offset (R41). -/
def branchTarget (pc : Word) (off : BitVec 32) : Word :=
  let n : Int := 5 * (pc.toNat / 64 : Nat) + (pc.toNat % 8 : Nat)
  let t := ((n + off.toInt) % (5 * 2 ^ 58)).toNat
  BitVec.ofNat 64 (t / 5 * 64 + t % 5)

/-- A trace record of a call (0x09) or a return (0x0A) with its target (R383). -/
def Ctx.traced (x : Ctx) (ty : Nat) (target : Word) : Ctx :=
  x.on (x.s.trace x.g x.slot ty x.t.colour x.t.wid x.t.pc target)

/-- A link register written with the sequential successor (R120). -/
def linked (t : Thread) (o : Opnd) : Thread :=
  match o.reg with
  | .d i => t.putD i (succPc t.pc)
  | _ => t

def execBr (gd : Guard) (f : Fields) (s : State) : Host.Outcome State Fault Refusal :=
  turn gd s (fun _ => []) fun x => x.transfer x.c x.t (branchTarget x.t.pc (Fields.imm f))

def execBrl (gd : Guard) (f : Fields) (s : State) : Host.Outcome State Fault Refusal :=
  turn gd s (fun x => dstWait x [] f.dst) fun x =>
    let target := branchTarget x.t.pc (Fields.imm f)
    (x.traced 0x09 target).transfer x.c (linked x.t f.dst) target

def execJr (gd : Guard) (f : Fields) (s : State) : Host.Outcome State Fault Refusal :=
  turn gd s (fun x => srcWaits x [] [f.src1]) fun x =>
    let r := x.take [f.src1]
    x.transfer r.2.1 r.2.2 (val r.1 0)

def execJrLink (gd : Guard) (f : Fields) (s : State) : Host.Outcome State Fault Refusal :=
  turn gd s (fun x => srcWaits x [] [f.src1] ++ dstWait x [f.src1] f.dst) fun x =>
    let r := x.take [f.src1]
    (x.traced 0x09 (val r.1 0)).transfer r.2.1 (linked r.2.2 f.dst) (val r.1 0)

def execRet (gd : Guard) (f : Fields) (s : State) : Host.Outcome State Fault Refusal :=
  turn gd s (fun x => srcWaits x [] [f.src1]) fun x =>
    let r := x.take [f.src1]
    (x.traced 0x0A (val r.1 0)).transfer r.2.1 r.2.2 (val r.1 0)

def execNop (gd : Guard) (_ : Fields) (s : State) : Host.Outcome State Fault Refusal :=
  turn gd s (fun _ => []) fun x => x.finish x.c x.t

/-! Guards (R114, R116). -/

/-- A guard instruction: sources read, one guard written. -/
def guardTurn (gd : Guard) (f : Fields) (s : State) (srcs : List Opnd) (op : List Val → Bool) : Host.Outcome State Fault Refusal :=
  turn gd s (fun x => srcWaits x [] srcs ++ dstWait x srcs f.dst) fun x =>
    let r := x.take srcs
    match f.dst.reg with
    | .p i => x.writeP r.2.1 r.2.2 i (op r.1)
    | _ => x.finish r.2.1 r.2.2

/-- The i-th guard read, inverted if bit k of fmt is set. -/
def guardSrc (f : Fields) (vs : List Val) (i : Nat) : Bool := xor (val vs i == 1) (f.fmt.getLsbD i)

def execSetp (gd : Guard) (f : Fields) (s : State) := guardTurn gd f s [] fun _ => true
def execSetpReg (gd : Guard) (f : Fields) (s : State) := guardTurn gd f s [f.src1] fun vs => val vs 0 != 0
def execPand (gd : Guard) (f : Fields) (s : State) := guardTurn gd f s [f.src1, f.src2] fun vs => guardSrc f vs 0 && guardSrc f vs 1
def execPor (gd : Guard) (f : Fields) (s : State) := guardTurn gd f s [f.src1, f.src2] fun vs => guardSrc f vs 0 || guardSrc f vs 1
def execPnot (gd : Guard) (f : Fields) (s : State) := guardTurn gd f s [f.src1] fun vs => val vs 0 != 1

/-- R114: unresolved, its value undefined. -/
def execClrp (gd : Guard) (f : Fields) (s : State) : Host.Outcome State Fault Refusal :=
  turn gd s (fun x => dstWait x [] f.dst) fun x =>
    match f.dst.reg with
    | .p i =>
      (x.on x.s.bumpFree).finish x.c
        { x.t with pval := x.t.pval.set i (Config.freeBool x.s.free), pres := x.t.pres.set i false }
    | _ => x.finish x.c x.t

/-! Gangs (R121–R126). -/

/-- The gang state of the thread named `tid`. -/
def State.gangOf (s : State) (tid : Nat) : Gang :=
  match s.findTid tid with
  | none => .none
  | some r => ((s.thread r.g r.slot).map Thread.gang).getD .none

/-- The thread leads a gang in which `tid` is a member that has not left. -/
def State.leads (s : State) (leader tid : Nat) : Bool :=
  match s.gangOf leader with
  | .leader ms _ _ _ => ms.any fun m => m.tid == tid
  | _ => false

/-- A thread is a follower of a leader, attached or detached as asked. -/
def State.followerOf (s : State) (leader tid : Nat) (attached : Bool) : Bool :=
  match s.gangOf tid with
  | .follower l a _ _ _ _ => l == leader && a == attached
  | _ => false

/-- A detached follower of a leader waits at `rejoin` with a label (R125). -/
def State.waitsAt (s : State) (leader tid : Nat) (lab : Word) : Bool :=
  match s.gangOf tid with
  | .follower l false _ _ _ (some rj) => l == leader && rj == lab
  | _ => false

/-- Lines an attached follower holds, in flight or in its buffer (R123). -/
def State.linesHeld (s : State) (tid : Nat) : Nat :=
  (s.net.filter fun m => match m with
    | .fwdLine _ f _ _ => f == tid
    | _ => false).length
  + (match s.gangOf tid with
    | .follower _ _ _ ls _ _ => ls.length
    | _ => 0)

/-- The last of a list changed by a function. -/
def mapLast {α : Type} (f : α → α) : List α → List α
  | [] => []
  | [a] => [f a]
  | a :: b :: rest => a :: mapLast f (b :: rest)

/-- The last line forwarded to a follower, on its way or in its buffer, is marked with the pc at which the leader left it. -/
def State.markExit (s : State) (tid : Nat) (e : Option Word) : State :=
  let isLine (m : Msg) : Bool := match m with
    | .fwdLine _ f _ _ => f == tid
    | _ => false
  let mark (l : FwdLine) : FwdLine := if l.exit.isNone then { l with exit := some e } else l
  match (s.net.zipIdx.filter fun m => isLine m.1).getLast? with
  | some (.fwdLine a b l own, i) => { s with net := s.net.set i (.fwdLine a b (mark l) own) }
  | _ => s.onTid tid fun t => match t.gang with
    | .follower l at_ inl ls last rj => { t with gang := .follower l at_ inl (mapLast mark ls) last rj }
    | _ => t

/-- The leader leaves the line it forwarded, having last issued from it at `e`. -/
def State.leaveLine (s : State) (leader : Nat) (ms : List GangMember) (e : Option Word) : State :=
  ms.foldl (fun s m => if s.followerOf leader m.tid true then s.markExit m.tid e else s) s

/-- A thread has issued: breakpoints match again, and a step is counted (R378). -/
def Thread.stepped (t : Thread) : Thread :=
  match t.steps with
  | none => { t with pass := false }
  | some n => if n ≤ 1 then { t with pass := false, steps := none, halted := true } else { t with pass := false, steps := some (n - 1) }

/-- A thread waiting at `gang` or `rejoin` continues at a pc, which completes the instruction it waits at. -/
def Thread.resumed (t : Thread) (gang : Gang) (entry : Option Word) (pc : Word) : Thread :=
  ({ t with gang := gang, pc := pc, entry := entry, vector := none, retry := false, kv := [] } : Thread).stepped

/-- A waiting follower continues at its label, by a checked transfer, still detached. -/
def Thread.released (t : Thread) : Thread :=
  match t.gang with
  | .follower l _ _ _ _ (some lab) => t.resumed (.follower l false false [] none none) (some t.pc) lab
  | _ => t

/-- A detached follower leaves the gang for good; one that waits continues alone at its label (R126). -/
def Thread.dismissed (t : Thread) : Thread := { t.released with gang := .none }

/-- A thread leaves its gang as by `ungang` (R126): a leader's detached followers are alone, those that wait at their labels, and its
attached followers have seen the last line. -/
def State.leaveGang (s : State) (t : Thread) : State :=
  match t.gang with
  | .leader ms _ _ _ =>
    ((s.leaveLine t.tid ms (some t.pc)).onTid t.tid fun u => { u with gang := .none }) |> fun s1 =>
      ms.foldl (fun s m => if s.followerOf t.tid m.tid false then s.onTid m.tid Thread.dismissed else s) s1
  | .none => s
  | _ => s.onTid t.tid fun u => { u with gang := .none }

/-- The thread waits at an instruction that has changed its gang state. -/
def Ctx.gangWait (x : Ctx) (s : State) (gang : Gang) : State :=
  { (s.onTid x.t.tid fun t => { t with gang := gang }) with cls := .msg }

/-- `gang k` (R121): `gang 1` has no effect; otherwise the thread waits for its gang to form. In a gang it first leaves it. -/
def execGang (gd : Guard) (f : Fields) (s : State) : Host.Outcome State Fault Refusal :=
  turn gd s (fun _ => []) fun x =>
    let k := (Fields.imm f).toNat
    if k = 1 then x.finish x.c x.t
    else if x.t.gang = .forming k then x.wait .msg
    else x.gangWait (x.s.leaveGang x.t) (.forming k)

def execUngang (gd : Guard) (_ : Fields) (s : State) : Host.Outcome State Fault Refusal :=
  turn gd s (fun _ => []) fun x =>
    let s1 := x.s.leaveGang x.t
    (x.on s1).finish (s1.core x.g) { x.t with gang := .none }

/-- A follower attached again at a label: its next line comes from the leader. -/
def State.reattach (s : State) (leader tid : Nat) (lab : Word) : State :=
  let s1 := { s with net := s.net.filter fun m => match m with
    | .fwdLine _ f _ _ => f != tid
    | _ => true }
  s1.onTid tid fun t => t.resumed (.follower leader true false [] none none) none lab

/-- The forwarded lines of an attached follower that it has not left: those in its buffer, then those on their way. -/
def State.linesOf (s : State) (tid : Nat) (held : List FwdLine) : List FwdLine :=
  held ++ s.net.filterMap fun m => match m with
    | .fwdLine _ f l _ => if f = tid then some l else none
    | _ => none

/-- The leader's next pc, once it has left the last line it forwarded and while it runs no handler. -/
def State.leaderNext (s : State) (leader : Nat) : Option Word :=
  match s.findTid leader with
  | none => none
  | some r => match s.thread r.g r.slot with
    | none => none
    | some t => match t.gang with
      | .leader _ _ (some _) none => if t.inh then none else some t.pc
      | _ => none

/-- A follower whose next pc is `pc`, its lines so far left, goes where the leader did not: the next line is entered elsewhere. -/
def divergesAt (lines : List FwdLine) (next : Option Word) (pc : Word) : Bool :=
  match lines with
  | l :: _ => l.entry != pc
  | [] => (next.map fun q => q != pc).getD false

/-- An attached follower's next pc differs from its leader's in the forwarded stream, as far as the leader has gone (R124): one of them left a line where
the other went on in it, or they left it at one instruction for different pcs. -/
def State.strayed (s : State) (tid : Nat) : Bool :=
  match (s.findTid tid).bind fun r => s.thread r.g r.slot with
  | none => false
  | some t =>
    match t.gang with
    | .follower ld true inl held last _ =>
      let next := s.leaderNext ld
      match inl, s.linesOf tid held with
      | true, l :: rest =>
        match last, l.exit, s.gangOf ld with
        | some (p, true), none, .leader _ _ (some q) nxt =>
          decide (p.toNat % 8 < q.toNat % 8) || (q == p && nxt.isSome)
            || (nxt.isNone && (decide (q.toNat % 8 < p.toNat % 8) || divergesAt rest next t.pc))
        | some (p, false), none, .leader _ _ (some q) none => decide (q.toNat % 8 ≤ p.toNat % 8)
        | some (p, true), some (some e), _ => e != p || divergesAt rest next t.pc
        | some (p, false), some (some e), _ => decide (e.toNat % 8 ≤ p.toNat % 8)
        | some _, some none, _ => true
        | none, some none, _ => divergesAt rest next t.pc
        | _, _, _ => false
      | _, lines => divergesAt lines next t.pc
    | _ => false

/-- A follower to which the leader still forwards: attached, and not gone another way (R123, R124). -/
def State.follows (s : State) (leader tid : Nat) : Bool := s.followerOf leader tid true && !s.strayed tid

/-- The leader at `rejoin` (R125): arrivals with another target are answered; it waits while a detached follower has not arrived. An
arrival whose follower waits no more, a trap having broken its wait (notes/assumptions/23.md), is none. -/
def Ctx.leaderRejoin (x : Ctx) (ms : List GangMember) (last next : Option Word) (lab : Word) : State :=
  let away (m : GangMember) : Bool := x.s.followerOf x.t.tid m.tid false || (x.s.followerOf x.t.tid m.tid true && x.s.strayed m.tid)
  let here (m : GangMember) : Bool := (m.arrived.map fun l => x.s.waitsAt x.t.tid m.tid l).getD false
  if ms.any fun m => away m && !(here m && m.arrived == some lab) then
    let wrong := ms.filter fun m => here m && m.arrived != some lab
    let s1 := wrong.foldl (fun s m => s.onTid m.tid Thread.released) x.s
    x.gangWait s1 (.leader (ms.map fun m => if wrong.contains m then { m with arrived := none } else m) (some lab) last next)
  else
    let s1 := (ms.filter away).foldl (fun s m => s.reattach x.t.tid m.tid lab) x.s
    (x.on s1).transfer (s1.core x.g) { x.t with gang := .leader (ms.map fun m => { m with arrived := none }) none last next } lab

def execRejoin (gd : Guard) (f : Fields) (s : State) : Host.Outcome State Fault Refusal :=
  turn gd s (fun _ => []) fun x =>
    let lab := branchTarget x.t.pc (Fields.imm f)
    match x.t.gang with
    | .leader ms _ last next => x.leaderRejoin ms last next lab
    | .follower l attached inLine ls last rj =>
      if x.s.leads l x.t.tid = false then x.transfer x.c { x.t with gang := .none } lab
      else if attached then x.transfer x.c x.t lab
      else if rj.isSome then x.wait .msg
      else x.gangWait (x.s.send (.rejoin l x.t.tid lab ⟨x.g, x.t.colour, x.g⟩)) (.follower l attached inLine ls last (some lab))
    | _ => x.transfer x.c x.t lab

/-- An arrival reaches the leader, which answers at once one with another target than its own (R125). One whose follower waits no more
is discarded. -/
def execRejoinArrival (k : Nat) (s : State) : Host.Outcome State Fault Refusal :=
  orNot "REJOIN_ARRIVAL" (match s.net[k]? with
    | some (.rejoin leader follower lab _) =>
      let s1 := s.takeMsg k
      if s.waitsAt leader follower lab = false then some s1
      else match s.gangOf leader with
      | .leader ms rj last next =>
        if (match rj with | some l => l != lab | none => false) then some (s1.onTid follower Thread.released)
        else some (s1.onTid leader fun t =>
          { t with gang := .leader (ms.map fun m => if m.tid = follower then { m with arrived := some lab } else m) rj last next })
      | _ => some (s1.onTid follower Thread.dismissed)
    | _ => none)

/-- How a follower column's slot answers (R122). -/
inductive GangAnswer where
  | joined (tid : Nat) | absent | refused (tid : Nat) | notYet
  deriving DecidableEq, Repr

/-- The answer of logical column c of a row to the leader of `gang k` at column lead. A thread in the slot of the column's physical
core that executes at another logical core of it is of another column. -/
def State.gangAnswer (s : State) (l : Launch) (launch slot row lead k c : Nat) : GangAnswer :=
  let core := row * 2 ^ l.lc + c
  if 2 ^ l.lc ≤ c then .absent
  else match s.thread (l.phys core) slot with
    | none => .absent
    | some t =>
      if t.launch ≠ launch ∨ l.logicalOn (l.phys core) t.team ≠ some core then .absent
      else match t.gang with
        | .forming j => if j = k then .joined t.tid else if c / j * j = lead then .refused t.tid else .notYet
        | _ => .notYet

/-- A member of a formed gang continues at its successor. -/
def Thread.formed (t : Thread) (g : Gang) : Thread := t.resumed g none (succPc t.pc)

/-- The gang of a leader forms once every follower column has answered (R122). A refused thread continues in this step, when the others do: R122 does
not say when (DESIGN CHOICE, notes/assumptions/84.md). Row and columns are those of the core it executes on;
a thread of no logical core leads itself alone (notes/assumptions/24.md). -/
def execGangForm (g slot : Nat) (s : State) : Host.Outcome State Fault Refusal :=
  orNot "GANG_FORM" (match s.thread g slot with
    | none => none
    | some t =>
      match t.gang, s.launch? t.launch with
      | .forming k, some l =>
        let core := l.logicalOn g t.team
        let row := core.getD 0 / 2 ^ l.lc
        let lead := core.getD 0 % 2 ^ l.lc
        let cols := if core.isSome then k - 1 else 0
        let answers := (List.range cols).map fun i => s.gangAnswer l t.launch slot row lead k (lead + 1 + i)
        if lead % k ≠ 0 ∨ answers.any (fun a => a == .notYet) then none
        else
          let joined := answers.filterMap fun a => match a with
            | .joined tid => some tid
            | _ => none
          let s1 := joined.foldl (fun s m => s.onTid m fun u => u.formed (.follower t.tid true false [] none none)) s
          let s2 := answers.foldl (fun s a => match a with
            | .refused m => s.onTid m fun u => u.formed .none
            | _ => s) s1
          some (s2.onTid t.tid fun u => u.formed (if joined.isEmpty then .none else
            .leader (joined.map fun m => ⟨m, none⟩) none none none))
      | _, _ => none)

/-- A forwarded line enters the buffer of a follower that is attached to its sender; another discards it (R123, R124). -/
def execForwardedLineArrival (k : Nat) (s : State) : Host.Outcome State Fault Refusal :=
  orNot "FORWARDED_LINE_ARRIVAL" (match s.net[k]? with
    | some (.fwdLine leader follower l _) =>
      let earlier := (s.net.take k).any fun m => match m with
        | .fwdLine _ f _ _ => f == follower
        | _ => false
      if earlier then none
      else some ((s.takeMsg k).onTid follower fun t => match t.gang with
        | .follower ld true inl ls last rj =>
          if ld = leader then { t with gang := .follower ld true inl (ls ++ [l]) last rj } else t
        | _ => t)
    | _ => none)

/-! n links (R110). -/

/-- The core from whose neighbour a word for logical core `lc`, received in direction `dir`, comes (R110). -/
def Launch.linkSource (l : Launch) (lc core dir : Nat) : Nat := if l.unplaced then core else l.phys (l.neighbour lc dir)

/-- A word arrives at the neighbour's register of the opposite direction, in the order of its link. -/
def execNWordArrival (k : Nat) (s : State) : Host.Outcome State Fault Refusal :=
  orNot "N_WORD_ARRIVAL" (match s.net[k]? with
    | some (.nword launch lcore core dir w clock) =>
      let earlier := (s.net.take k).any fun m => match m with
        | .nword a b c d _ _ => a == launch && b == lcore && c == core && d == dir
        | _ => false
      let from_ := ((s.launch? launch).map fun l => l.linkSource lcore core dir.val).getD core
      if earlier ∨ s.reaches from_ core = false then none
      else
        let s1 := (s.takeMsg k).hearClock (dieOf core) clock
        let c := s1.core core
        some (s1.setCore core { c with nin := c.nin.set dir (c.nin[dir] ++ [(launch, lcore, w)]) })
    | _ => none)

end Sys2Proof.Machine
end

