-- ==== Sys2Proof/Machine/Move.lean ====
section
/-! DEFINITION. `migr` and `home`: the checks, the departing context and its arrival (spec/08_memory.md R202, R203). -/
namespace Sys2Proof.Machine
open Sys2Proof

/-- The core a vault byte belongs to, as a move sees it. -/
def Place.moveCore : Place → Nat
  | .mem pa => homeCore pa
  | .spad g _ => g
  | .peer _ _ => 0

/-- Why a moving thread waits (R203): a d register with a reply pending, or a write, reduction or KV operation not yet performed. -/
def moveWait (x : Ctx) : Bool :=
  x.t.dpend.toList.any id || x.t.outst.any (fun i => !x.t.loads.contains i) || !x.t.nonret.isEmpty || x.t.kvOut != 0

/-- A copy or transform request of a thread is not complete (R203). -/
def State.copyOpen (s : State) (tid : Nat) : Bool :=
  s.cores.any (fun e => e.2.copies.any fun c => c.tid == tid)
  || s.clusters.any (fun e => e.2.cops.toList.any fun p =>
      (p.active.map fun a => a.2.tid == tid).getD false || (p.waiting.map fun a => a.2.tid == tid).getD false)
  || s.net.any (fun m => match m with
      | .xreq r _ _ _ _ _ _ => r.tid == tid
      | _ => false)

/-- What keeps a thread on its core (R203): a counter, a copy or transform, an answer. -/
def moveBlocked (x : Ctx) : Bool := x.t.w.toList.any (fun n => n != 0) || x.s.copyOpen x.t.tid || x.t.pans.toList.any id

/-- Every stream binding of a thread released. -/
def State.releaseStreams (s : State) (g tid : Nat) : State :=
  (List.range 4).foldl (fun s i => s.releaseStream g tid (Fin.ofNat 4 i)) s

/-- Replies and deliveries for the v registers of a thread that leaves are discarded where they arrive (R49, R232). -/
def State.forgetV (s : State) (tid : Nat) : State :=
  let dst (t : Nat) (d : Dest) : Dest := if t = tid then (match d with
    | .vsec _ _ => Dest.none
    | .vplanes _ _ _ => Dest.none
    | d => d) else d
  let tk (k : TkEntry) : TkEntry := match k.claim with
    | some c => (match c.form with
      | .v _ _ => if c.tid = tid then { k with claim := some { c with form := .drop } } else k
      | _ => k)
    | none => k
  { s with
    net := s.net.map fun m => match m with
      | .read r segs d va => .read r segs (dst r.tid d) va
      | .reply t id d data clock own => .reply t id (dst t d) data clock own
      | m => m
    cores := s.cores.map fun e => (e.1, { e.2 with tickets := e.2.tickets.map fun k => (k.1, tk k.2) }) }

/-- The destination of a context in the traffic table: the logical core its target now is (R345). -/
def State.moveDest (s : State) (t : Thread) (target : Nat) : Option Nat :=
  (s.launch? t.launch).bind fun l =>
    (if l.unplaced then some 0 else l.map.findIdx? fun g => g == target).map fun lc => s.coreDest t.launch lc target

/-- A packet counted for the occupant a team is of, wherever its core is (R345). -/
def State.countFor (s : State) (key : TeamKey) (dest : Option Nat) : State :=
  match s.findTeam key with
  | some (h, tm) => if tm.retired then s else s.setCore h ((s.core h).sentTo dest)
  | none => s

/-- The packets that threads away from their teams' cores have sent from a core in this turn counted at those cores (R345). -/
def State.settleAway (s : State) (g : Nat) : State :=
  (s.core g).away.foldl (fun s e => s.countFor e.1 e.2) (if (s.core g).away.isEmpty then s else s.setCore g { s.core g with away := [] })

/-- A context leaving a core: a `home` context always leaves from another core than its team's (R345; notes/assumptions/57.md). -/
def State.countContext (s : State) (t : Thread) (dest : Option Nat) : State := s.countFor t.key dest

/-- A thread leaves its slot: gang and streams are left, the context is sent (R202) with the clock of its die; what an `inbx` of the core has put before its
later accesses stays before them (R317, R319). -/
def Ctx.depart (x : Ctx) (c : Core) (t : Thread) (target : Nat) : State :=
  let s0 := x.s.setCore x.g (c.setThread x.slot (some t))
  let s1 := ((s0.leaveGang t).releaseStreams x.g t.tid).forgetV t.tid
  let u0 := (s1.thread x.g x.slot).getD t
  let u := { u0 with
    pc := succPc t.pc, entry := none, vector := none, retry := false, kv := [], gang := .none, release := max u0.release x.c.ibRel }
  let s2 := s1.trace x.g x.slot 0x04 t.colour t.wid t.pc (BitVec.ofNat 64 (dieOf target + 8 * numOf target))
  let d := s2.die (dieOf x.g)
  let s3 := (s2.setCore x.g ((s2.core x.g).setThread x.slot none)).countContext t (s2.moveDest t target)
  { s3.send (.context u x.g target d.cyc (d.k.set (dieOf x.g) (max (d.k.getD (dieOf x.g) 0) x.c.ibRel))) with cls := .issued }

/-- The common course of a move to a target core. -/
def Ctx.moveTo (x : Ctx) (c : Core) (t : Thread) (target : Nat) : State :=
  if target = x.g then x.finish c t
  else if moveWait x then x.wait .mem
  else if moveBlocked x then x.trap kindAddress 5 0
  else x.depart c t target

/-- A move from within a handler hands the thread to the arbiter (R362). A target whose die is fenced is taken for one outside the partition, address_fault
6, though it stands in the cluster list (DESIGN CHOICE, notes/assumptions/88.md). The rule gives no order among address_fault 6, the waits of R203 and
address_fault 5: the fault 6 comes before the waits, and 5 after them (DESIGN CHOICE, notes/assumptions/95.md). -/
def execMigr (gd : Guard) (f : Fields) (s : State) : Host.Outcome State Fault Refusal :=
  turn gd s (fun x => srcWaits x [] [f.src1]) fun x =>
    if x.t.inh then x.trap kindAddress 5 0
    else
      let r := x.take [f.src1]
      let a := val r.1 0
      x.access .planar Use.locate a true [a] [a] fun ps =>
        let target := (ps.map Place.moveCore).headD 0
        if x.s.clusterOk x.t.colour (clusterOf target) = false then x.trap kindAddress 6 a
        else x.moveTo r.2.1 r.2.2 target

def execHome (gd : Guard) (_ : Fields) (s : State) : Host.Outcome State Fault Refusal :=
  turn gd s (fun _ => []) fun x =>
    if x.t.inh then x.trap kindAddress 5 0
    else x.moveTo x.c x.t (((x.s.findTeam x.t.key).map Prod.fst).getD x.g)

/-- A thread as it arrives (R25, R49, R114, R202, R359): v registers undefined with their full bits set, guards false and resolved,
the registers that stay behind 0. -/
def Thread.arriveAs (t : Thread) (free : Nat) (otherDie : Bool) : Thread :=
  { t with
    v := Vector.ofFn fun i => freeVReg (free + i.val)
    vfull := Vector.replicate 8 true
    vowed := Vector.replicate 8 0
    halves := []
    pval := Vector.replicate 8 false
    pres := Vector.replicate 8 true
    pans := Vector.replicate 8 false
    cp := CopyRegs.zero
    ibWord := 0
    ibSrc := 0
    tr := ⟨0, 0, 0, 0, 0, 0⟩
    streams := Vector.replicate 4 none
    gang := .none
    release := if otherDie then 0 else t.release }

/-- The lowest-numbered vacant slot. -/
def Core.vacant (c : Core) : Option Nat := c.threads.toList.findIdx? fun o => o.isNone

/-- Waiting contexts enter vacant slots in order of arrival; `n` bounds how many. -/
def Core.seat : Nat → Core → Core
  | 0, c => c
  | n + 1, c =>
    match c.arrivals, c.vacant with
    | t :: rest, some i => Core.seat n ({ c with arrivals := rest }.setThread i (some t))
    | _, _ => c

/-- The slot a thread has entered, 0 while it waits for one: a field of a record that does not apply is zero (R382). -/
def Core.slotOf (c : Core) (tid : Nat) : Nat :=
  (c.threads.toList.findIdx? fun o => (o.map fun t => t.tid == tid).getD false).getD 0

/-- A context arrives: it takes one of the 16 places, and enters a slot if one is vacant; it waits in the network while no place is
free, and contexts of one core arrive in the order sent (R313) and take places in that order. -/
def execMigrArrival (k : Nat) (s : State) : Host.Outcome State Fault Refusal :=
  orNot "MIGR_ARRIVAL" (match s.net[k]? with
    | some (.context t source target cyc clock) =>
      let c := s.core target
      let earlier := (s.net.take k).any fun m => match m with
        | .context _ source' target' _ _ => source' == source && target' == target
        | _ => false
      if 16 ≤ c.arrivals.length ∨ s.reaches source target = false ∨ earlier then none
      else
        let u := t.arriveAs s.free (dieOf source != dieOf target)
        let s1 := { (s.takeMsg k).hearClock (dieOf target) clock with free := s.free + 8 }
        let c1 := { c with arrivals := c.arrivals ++ [u] }
        let c2 := if c.stop then c1 else c1.seat 16
        some ((s1.setCore target c2).trace target (c2.slotOf u.tid) 0x05 u.colour u.wid u.pc
          (BitVec.ofNat 64 (dieOf source + 8 * (cyc % 2 ^ 40))))
    | _ => none)

end Sys2Proof.Machine
end

