-- ==== Sys2Proof/Machine/Arbiter.lean ====
section
/-! DEFINITION. What the arbiters do for every chapter: messages to the host (spec/17_host_package.md R392–R394), messages in flight
by core and colour (spec/15_traps_preemption.md R366), discarding a job (R372) and the states of a trusted device interface
(R399). -/
namespace Sys2Proof.Machine
open Sys2Proof

/-! Transactions in flight (R366). -/

/-- The transactions a message is of (R366): the core whose router injected each and the colour it bears (R26). A merged contribution is of
every core it came from (R304), an answer of the core it answers. -/
def State.parties (s : State) : Msg → List (Nat × Nat)
  | .read r _ _ _ => [(r.src, r.colour)]
  | .write r _ _ => [(r.src, r.colour)]
  | .atomic a => a.issuers.map fun r => (r.src, r.colour)
  | .planar p => [(p.req.src, p.req.colour)]
  | .kv r _ _ _ _ => [(r.src, r.colour)]
  | .kvBlocks r _ _ _ _ _ => [(r.src, r.colour)]
  | .xreq r _ _ _ _ _ _ => [(r.src, r.colour)]
  | .tld r _ _ _ _ _ _ _ _ _ _ => [(r.src, r.colour)]
  | .tdrop r _ => [(r.src, r.colour)]
  | .tqry r _ _ => [(r.src, r.colour)]
  | .launchReq r _ _ _ => [(r.src, r.colour)]
  | .claim _ c => [(c.core, c.colour)]
  | .reply _ _ _ _ _ own => [(own.core, own.colour)]
  | .amoReply _ _ _ _ _ own => [(own.core, own.colour)]
  | .redAck _ _ _ own => [(own.core, own.colour)]
  | .rejoin _ _ _ own => [(own.core, own.colour)]
  | .fwdLine _ _ _ own => [(own.core, own.colour)]
  | .context t source _ _ _ => [(source, t.colour)]
  | .inbox _ _ e src _ => [(src, e.colour)]
  | .nword l lc core dir _ _ =>
    ((s.launch? l).map fun x => (x.linkSource lc core dir.val, x.colour)).toList
  | .stealReply _ _ victim colour => [(coreAt victim 0, colour)]

/-- Every message not yet delivered or performed: on the fabric, held at a home, or held at a gateway. -/
def State.transactions (s : State) : List Msg :=
  s.net ++ s.cores.flatMap (fun e => e.2.held) ++ s.dies.flatMap fun e => e.2.gate.map fun x => Msg.atomic x.2

/-- A core's line fetches and table walks for a colour that have not been answered. -/
def Core.fetching (c : Core) (colour : Nat) : Nat :=
  (c.fetches.filter fun e => e.1 == colour).length + (c.walks.filter fun w => w.colour == colour && w.res.isNone).length

/-- Sectors the copies of a colour have read on a core and not yet written. -/
def Core.carrying (c : Core) (colour : Nat) : Nat := ((c.copies.filter fun d => d.colour == colour).map fun d => d.got.length).sum

/-- Commands of a colour that another engine runs, whose partials have still to return (R265). -/
def Core.lent (c : Core) (colour : Nat) : Nat := (c.queue.filter fun (e : Cmd) => e.state == 3 && e.colour == colour).length

/-- Transforms of a colour that the coprocessors of a core's cluster have accepted from the core (R292). -/
def State.transforming (s : State) (g colour : Nat) : Nat :=
  ((s.cluster (clusterOf g)).cops.toList.map fun p =>
    ((p.active.toList ++ p.waiting.toList).filter fun a => a.1 == g && a.2.colour == colour).length).sum

/-- The in-flight count of a core's router for a colour: its transactions on the fabric, line fetches and table walks, copy sectors, lent
commands and transforms (R366). -/
def State.inFlight (s : State) (g colour : Nat) : Nat :=
  (s.transactions.map fun m => (s.parties m).count (g, colour)).sum
    + ((s.core g).fetching colour + (s.core g).carrying colour + (s.core g).lent colour + s.transforming g colour)

/-- The partition a core's cluster belongs to (R26). -/
def State.partOfCore (s : State) (g : Nat) : Option (Nat × Partition) :=
  s.parts.find? fun p => p.2.clusters.contains (clusterOf g)

/-! Jobs. -/

/-- The launches of a colour. -/
def State.launchesOf (s : State) (colour : Nat) : List (Nat × Launch) := s.launches.filter fun e => e.2.colour == colour

/-- The partition of a launch lies on a die. -/
def State.onDie (s : State) (l : Launch) (die : Nat) : Bool :=
  ((smapFind s.parts l.part).map fun p => p.clusters.any fun c => c / 16 == die).getD false

/-- The launch of a die's launch table entry (R331). -/
def State.launchAt (s : State) (die lent : Nat) : Option (Nat × Launch) :=
  s.launches.find? fun e => e.2.lent == lent && s.onDie e.2 die

/-- A message that is the work of a colour of this package; a request of another package is not (R395). -/
def ofColour (colour : Nat → Bool) : Msg → Bool
  | .read r _ _ _ => colour r.colour && !r.fromPeer
  | .write r _ _ => colour r.colour && !r.fromPeer
  | .atomic a => colour a.req.colour && !a.req.fromPeer
  | .planar p => colour p.req.colour && !p.req.fromPeer
  | .kv r _ _ _ _ => colour r.colour
  | .kvBlocks r _ _ _ _ _ => colour r.colour
  | .xreq r _ _ _ _ _ _ => colour r.colour
  | .tld r _ _ _ _ _ _ _ _ _ _ => colour r.colour
  | .tdrop r _ => colour r.colour
  | .tqry r _ _ => colour r.colour
  | .launchReq r _ _ _ => colour r.colour
  | .claim _ c => colour c.colour
  | .reply _ _ _ _ _ own => colour own.colour
  | .amoReply _ _ _ _ _ own => colour own.colour
  | .redAck _ _ _ own => colour own.colour
  | .rejoin _ _ _ own => colour own.colour
  | .fwdLine _ _ _ own => colour own.colour
  | .context t _ _ _ _ => colour t.colour
  | .inbox _ _ e _ _ => colour e.colour
  | .nword _ _ _ _ _ _ => false
  | .stealReply _ _ _ _ => false

/-- A core without the threads, commands, copies, teams and inbox messages that a test names (R372); parked threads are released
when the thread whose trap they wait for goes. -/
def Core.without (c : Core) (t : Thread → Bool) (team : TeamKey → Bool) (colour : Nat → Bool) : Core :=
  let gone : Bool := c.threads.toList.any fun o => match o with
    | some u => t u && (u.fromWin || u.winning)
    | none => false
  let c1 := { c with
    threads := c.threads.map fun o => o.filter fun u => !t u
    arrivals := c.arrivals.filter fun u => !t u
    queue := c.queue.filter fun (e : Cmd) => !team e.team
    active := c.active.filter fun (e : Cmd) => !team e.team
    guest := c.guest.filter fun q => !team q.cmd.team
    copies := c.copies.filter fun d => !team d.team
    teams := c.teams.filter fun tm => !team tm.key
    inbox := c.inbox.filter fun e => !colour e.colour
    fetches := c.fetches.filter fun e => !colour e.1
    walks := c.walks.filter fun w => !colour w.colour
    held := c.held.filter fun m => !ofColour colour m
    tickets := c.tickets.map fun (e : Nat × TkEntry) => if colour e.2.colour && e.2.st != 0 then (e.1, e.2.freed) else e }
  if gone then c1.release else c1

/-- Messages that go with the threads a test names: their contexts. -/
def Msg.contextOf (t : Thread → Bool) : Msg → Bool
  | .context u _ _ _ _ => t u
  | _ => false

/-- Messages that go with a discarded job (R372): all that its colour has under way, requests, answers and words, so that nothing of it is
served once its key and frames are gone (R7, R400). -/
def discards (ls : List Nat) (colour : Nat → Bool) (m : Msg) : Bool :=
  ofColour colour m || match m with
    | .nword l _ _ _ _ _ => ls.contains l
    | _ => false

/-- The threads and accesses of a request (R204): more than one where contributions have merged. -/
def Msg.accesses : Msg → List (Nat × Nat)
  | .read r _ _ _ => [(r.tid, r.id)]
  | .write r _ _ => [(r.tid, r.id)]
  | .atomic a => a.issuers.map fun r => (r.tid, r.id)
  | .planar p => [(p.req.tid, p.req.id)]
  | .kvBlocks r _ _ _ _ _ => [(r.tid, r.id)]
  | .xreq r _ _ _ _ _ _ => [(r.tid, r.id)]
  | .tld r _ _ _ _ _ _ _ _ _ _ => [(r.tid, r.id)]
  | .tdrop r _ => [(r.tid, r.id)]
  | .tqry r _ _ => [(r.tid, r.id)]
  | .launchReq r _ _ _ => [(r.tid, r.id)]
  | .kv r _ _ _ _ => [(r.tid, r.id)]
  | _ => []

/-- The task blocks of a steal reply that belong to other launches. -/
def keepBlocks (ls : List Nat) : Msg → Msg
  | .stealReply thief blocks v k => .stealReply thief (blocks.filter fun b => !ls.contains b.2) v k
  | m => m

/-- The reports of a colour's threads that were handed to the arbiter, to be sent to the host (R362). -/
def State.handedReports (s : State) (colour : Nat) : List DevMsg :=
  (s.cores ++ s.shadow ++ s.moved).flatMap fun e => e.2.threads.toList.filterMap fun o => match o with
    | some t => if t.colour = colour then t.handed.map fun h => DevMsg.faultReport colour t.wid h else none
    | none => none

/-- In-flight work of a colour discarded on every die (R372): its tasks, tickets, inbox messages, slot-table records and everything it has under way
go, its DRAM key is destroyed (R400; notes/assumptions/41.md), its digest and output regions end (R401), and the host gets the reports of
handed-over threads and the launch sequence numbers. -/
def State.discardJob (s : State) (colour : Nat) : State :=
  let ls := (s.launchesOf colour).map Prod.fst
  let mine (l : Nat) : Bool := ls.contains l
  let other (die : Nat) (r : BindRec) : Bool := match s.launchAt die r.lent with
    | some l => !mine l.1
    | none => true
  let t (u : Thread) : Bool := u.colour == colour
  let col (k : Nat) : Bool := k == colour
  let strip (c : Core) : Core :=
    let c1 := c.without t (fun k => mine k.launch) col
    { c1 with nin := c1.nin.map fun xs => xs.filter fun e => !mine e.1 }
  let hostMsgs := s.handedReports colour ++ [DevMsg.jobEnd colour ((s.launchesOf colour).map fun e => e.2.seq)]
  let port := s.hostPort
  let lost := (s.transactions.filter (discards ls col)).flatMap Msg.accesses
  let s1 := { s with
    cores := s.cores.map fun (e : Nat × Core) => (e.1, strip e.2)
    shadow := s.shadow.filter fun e => e.1 / 2048 != colour
    moved := s.moved.filter fun e => e.1 / 2048 != colour
    saved := s.saved.filter fun e => !mine (e.1 / 1024)
    clusters := s.clusters.map fun (e : Nat × Cluster) => (e.1, { e.2 with
      cops := e.2.cops.map fun (p : Coproc) => ⟨p.active.filter fun a => !mine a.2.team.launch, p.waiting.filter fun a => !mine a.2.team.launch⟩
      casts := e.2.casts.filter fun b => !mine b.launch
      group := e.2.group.filter fun x => !mine x.1 })
    dies := s.dies.map fun (e : Nat × Die) => (e.1, { e.2 with
      gate := e.2.gate.filter fun x => !ofColour col (.atomic x.2)
      table := e.2.table.filter fun r => other e.1 r.2
      backlog := e.2.backlog.filter (other e.1) })
    launches := s.launches.filter fun e => e.2.colour != colour
    net := (s.net.filter fun m => !discards ls col m).map (keepBlocks ls) }
  let s2 := lost.foldl (fun s a => s.performed a.1 a.2) s1
  let s3 := (s2.portUsed port colour).setColour colour { (s2.colour colour).newJob with key := false, regions := [] }
  hostMsgs.foldl (fun s m => s.toHost port m) s3

/-- A job's in-flight work discarded by the arbiters' firmware: after a core machine check, for a thread handed over, or at the end
of a job (R362, R372). -/
def execJobDiscard (colour : Nat) (s : State) : Host.Outcome State Fault Refusal :=
  orNot "JOB_DISCARD" (if colour < 32 then some (s.discardJob colour) else none)

/-- A TDI leaves CONFIG_LOCKED or RUN: its colour's work is discarded (R399), its DRAM key destroyed, its output regions end, and its
vault frames go back to the arbiters, colour 0, for no other colour to use before they are given and zeroed (R400, R401). No port
carries its traffic any longer (R398). -/
def State.tdiLeave (s : State) (colour : Nat) (to_ : TdiState) : State :=
  (({ s.setColour colour { s.colour colour with tdi := to_ } with
      owners := s.owners.map fun (e : Nat × Nat) => (e.1, if e.2 = colour then 0 else e.2) }).discardJob colour).leavePorts colour

/-- An event that sends a locked or running TDI to ERROR. -/
def State.tdiError (s : State) (colour : Nat) : State :=
  match (s.colour colour).tdi with
  | .locked => s.tdiLeave colour .error
  | .run => s.tdiLeave colour .error
  | _ => s

end Sys2Proof.Machine
end

