-- ==== Sys2Proof/Machine/System.lean ====
section
/-! DEFINITION. System registers and the instructions of class 0x24: `trap`, `rti`, `gets`, `sets`, and writes over the service
network (spec/15_traps_preemption.md R352–R361, R369, R373; spec/16_debug.md R379, R384–R388). -/
namespace Sys2Proof.Machine
open Sys2Proof

/-! Numbers (R355). -/

/-- The copy register of a number 0x100 to 0x108. -/
def CopyRegs.get (r : CopyRegs) (n : Nat) : Word :=
  match n with
  | 0x100 => r.src
  | 0x101 => r.dst
  | 0x102 => r.shape
  | 0x103 => r.sstr
  | 0x104 => r.dstr
  | 0x105 => r.mode
  | 0x106 => r.aux
  | 0x107 => r.bar
  | _ => r.pat

/-- A copy register written, its reserved bits ignored (R271, R272, R278). -/
def CopyRegs.put (r : CopyRegs) (n : Nat) (v : Word) : CopyRegs :=
  match n with
  | 0x100 => { r with src := v }
  | 0x101 => { r with dst := v }
  | 0x102 => { r with shape := v }
  | 0x103 => { r with sstr := v &&& 0x7FFFFFFFFFFFFFFF }
  | 0x104 => { r with dstr := v &&& 0x7FFFFFFFFFFFFFFF }
  | 0x105 => { r with mode := v &&& 0xFFFFFFFF0000003F }
  | 0x106 => { r with aux := v }
  | 0x107 => { r with bar := v &&& 0x7FFF3 }
  | _ => { r with pat := v &&& 0x3FFFFFFFFFFFFFF }

/-- Registers of a thread, which only a thread in the slot has. -/
def sysOfThread (n : Nat) : Bool := decide (n < 0x200) || (decide (0x300 ≤ n) && decide (n ≤ 0x307))

/-- The watch set of a task (R379). -/
def State.watchOf (s : State) (colour : Nat) (wid : Word) : Option WatchSet :=
  s.watches.find? fun w => w.colour == colour && w.wid == wid

/-- Watchpoint k of a task: base and control, zero without a set. -/
def State.watchGet (s : State) (colour : Nat) (wid : Word) (k : Nat) : Word × Word :=
  ((s.watchOf colour wid).map fun w => w.wps.toList.getD k (0, 0)).getD (0, 0)

/-- A watchpoint written; the first write of a task takes a set, if one of the 64 is left. -/
def State.watchPut (s : State) (colour : Nat) (wid : Word) (k : Nat) (f : Word × Word → Word × Word) : State :=
  match s.watchOf colour wid with
  | some _ =>
    { s with watches := s.watches.map fun w =>
        if w.colour = colour ∧ w.wid = wid then { w with wps := w.wps.setIfInBounds k (f (w.wps.toList.getD k (0, 0))) } else w }
  | none =>
    if s.watches.length < 64 then
      { s with watches := s.watches ++ [⟨colour, wid, (Vector.replicate 4 (0, 0)).setIfInBounds k (f (0, 0))⟩] }
    else s

/-- Base and control as written, without their reserved bits. -/
def watchBase (v : Word) (w : Word × Word) : Word × Word := (v &&& 0xFFFFFFFFFFFFFFF0, w.2)
def watchCtl (v : Word) (w : Word × Word) : Word × Word := (w.1, v &&& 0x3FFFF)

/-- pe.ctl, pe.stat and mc.stat (R369, R373). -/
def Core.peCtl (c : Core) : Word := BitVec.ofNat 64 ((if c.stop then 1 else 0) + 2 * c.peCol.toNat)
def State.peStat (s : State) (g : Nat) : Word :=
  let p := s.partOfCore g
  let colour := (p.map fun e => e.2.resident).getD (s.core g).peCol.toNat
  let n := s.inFlight g colour
  let xchg : Nat := match p.map fun (e : Nat × Partition) => e.2.switch with
    | some (.exchanging _) => 1
    | _ => 0
  BitVec.ofNat 64 ((if n = 0 then 1 else 0) + 2 * xchg + 4 * min n 65535)
def Core.mcStat (c : Core) : Word := BitVec.ofNat 64 (c.mcCause.toNat + 16 * c.mcSlot.toNat)

/-- tc.stat of a cluster (R384). -/
def Cluster.tcStat (k : Cluster) : Word :=
  BitVec.ofNat 64 (k.recs.length + (if k.frz then 2 ^ 12 else 0) + 2 ^ 21 * k.wofs.toNat)

/-- The value of a system register for the thread of slot `slot` of core g (R355). -/
def State.sysRead (s : State) (g slot : Nat) (t : Thread) (n : Nat) : Word :=
  let c := s.core g
  let k := s.cluster (clusterOf g)
  let d := s.die (dieOf g)
  let col := s.colour t.colour
  let key := 8 * t.colour + dieOf g
  match n with
  | 0x000 => t.flags &&& 1
  | 0x001 => t.flags
  | 0x010 => t.vec
  | 0x011 => t.tr.epc
  | 0x012 => t.tr.cause
  | 0x013 => t.tr.addr
  | 0x014 => t.tr.eng
  | 0x015 => t.tr.info
  | 0x016 => t.tr.save
  | 0x120 => t.ibWord
  | 0x121 => t.ibSrc.setWidth 64
  | 0x200 => smapGet 0 s.wpBase key
  | 0x202 => smapGet 0 s.vlBase key
  | 0x203 => smapGet 0 s.vlLimit key
  | 0x204 => col.kvMap
  | 0x205 => col.kvGeom
  | 0x206 => col.kvPool
  | 0x207 => col.kvFree
  | 0x208 => BitVec.ofNat 64 (k.free % 65536)
  | 0x209 => col.lease
  | 0x20A => col.cwBase
  | 0x20B => col.cwLimit
  | 0x20C => d.csCtl
  | 0x220 => c.peCtl
  | 0x221 => s.peStat g
  | 0x222 => c.mcStat
  | 0x310 => k.tcCtl
  | 0x311 => k.tcSink
  | 0x312 => k.tcStat
  | 0x313 => d.tcFrz
  | 0x318 => BitVec.ofNat 64 d.cyc
  | _ =>
    if 0x100 ≤ n ∧ n ≤ 0x108 then t.cp.get n
    else if 0x300 ≤ n ∧ n ≤ 0x303 then (s.watchGet t.colour t.wid (n - 0x300)).1
    else if 0x304 ≤ n ∧ n ≤ 0x307 then (s.watchGet t.colour t.wid (n - 0x304)).2
    else if 0x320 ≤ n ∧ n ≤ 0x323 then BitVec.ofNat 64 (smapGet 0 c.counts (4 * slot + (n - 0x320)))
    else if 0x330 ≤ n ∧ n ≤ 0x340 then BitVec.ofNat 64 (smapGet 0 c.hist (n - 0x330))
    else 0

/-- tb.inval (R193): every cached translation of the page in the package is discarded, and every walk that ended in a fault where the page lies: the
next access walks the tables again. -/
def State.tbInval (s : State) (colour : Nat) (va : Nat) : State :=
  { s with cores := s.cores.map fun (e : Nat × Core) => (e.1, { e.2 with
      tlb := e.2.tlb.filter fun x => !(x.colour == colour && x.page == (if x.big then va / 2 ^ 29 else va / 2 ^ 16))
      walks := e.2.walks.filter fun w => !(w.colour == colour && w.res.isSome && w.page / 2 ^ 13 == va / 2 ^ 29) }) }

/-- pe.ctl written (R369): it stops or releases issue and records a colour; a core that had a machine check stays stopped until
mc.stat is cleared. -/
def Core.peWrite (c : Core) (v : Word) : Core :=
  { c with stop := v.getLsbD 0 || c.checked, peCol := (v >>> 1).setWidth 5 }

/-- mc.stat written (R373): its cause bits are cleared by ones; the core counts as repaired when none is left. -/
def Core.mcWrite (c : Core) (v : Word) : Core :=
  let cause := c.mcCause &&& ~~~ (v.setWidth 4)
  { c with mcCause := cause, checked := c.checked && cause != 0 }

/-- tc.stat written (R385): a one in frz unfreezes the recorder. -/
def Cluster.tcWrite (k : Cluster) (v : Word) : Cluster := if v.getLsbD 12 then { k with frz := false } else k

/-- tk.lease as it is stored (R218). -/
def leaseWord (v : Word) : Word := BitVec.ofNat 64 (max 12 (min 30 (v.toNat % 32)) + (if v.getLsbD 8 then 256 else 0))

/-- A register fixed while its TDI is locked (R399). -/
def sysLocked (n : Nat) : Bool :=
  n == 0x200 || n == 0x202 || (decide (0x204 ≤ n) && decide (n ≤ 0x207)) || (decide (0x209 ≤ n) && decide (n ≤ 0x20B))

/-- A register of a colour, a die, a cluster or a core written at supervisor level: reserved bits are ignored, RO registers keep
their value (R6, R9). -/
def State.sysPut (s : State) (g slot colour n : Nat) (v : Word) : State :=
  let c := s.core g
  let k := s.cluster (clusterOf g)
  let d := s.die (dieOf g)
  let col := s.colour colour
  let key := 8 * colour + dieOf g
  match n with
  | 0x200 => { s with wpBase := smapPut s.wpBase key (v &&& 0x0000FFFFFF070001) }
  | 0x201 => s.tbInval colour v.toNat
  | 0x202 => { s with vlBase := smapPut s.vlBase key (v &&& 0xFFF) }
  | 0x203 => { s with vlLimit := smapPut s.vlLimit key (v &&& 0x1FFF) }
  | 0x204 => s.setColour colour { col with kvMap := v &&& 0x7FFFFFFFFFFFFF }
  | 0x205 => s.setColour colour { col with kvGeom := v &&& 0x3FF }
  | 0x206 => s.setColour colour { col with kvPool := v &&& 0x7FFFFFFFFFFFFF }
  | 0x207 => s.setColour colour { col with kvFree := v &&& 0x7FFFFFFFFFFFFF }
  | 0x209 => s.setColour colour { col with lease := leaseWord v }
  | 0x20A => s.setColour colour { col with cwBase := v &&& 0x7FFFFFFFFF0000 }
  | 0x20B => s.setColour colour { col with cwLimit := v &&& 0xFFFF }
  | 0x20C => s.setDie (dieOf g) { d with csCtl := v &&& 0x1FFFFFFFF }
  | 0x220 => s.setCore g (c.peWrite v)
  | 0x222 => s.setCore g (c.mcWrite v)
  | 0x310 => s.setCluster (clusterOf g) { k with tcCtl := v &&& 0x1F007F }
  | 0x311 => s.setCluster (clusterOf g) { k with tcSink := v &&& 0x7FFFFFFFFFF00F }
  | 0x312 => s.setCluster (clusterOf g) (k.tcWrite v)
  | 0x313 => s.setDie (dieOf g) { d with tcFrz := v &&& 0xF }
  | _ =>
    if 0x320 ≤ n ∧ n ≤ 0x323 then
      s.setCore g { c with counts := smapPut c.counts (4 * slot + (n - 0x320)) (v.toNat % 2 ^ 48) }
    else if 0x330 ≤ n ∧ n ≤ 0x340 then s.setCore g { c with hist := smapPut c.hist (n - 0x330) (v.toNat % 2 ^ 48) }
    else s

/-- A register of the thread of a slot written: flags in place (R354, R407), report registers (R359), copy registers, cp.res,
watchpoints. -/
def State.sysPutThread (s : State) (g slot : Nat) (t : Thread) (n : Nat) (v : Word) : State :=
  let put (u : Thread) : State := s.setThread g slot (some u)
  match n with
  | 0x000 => put { t with flags := (t.flags &&& 0xFFFFFFFFFFFFFFFE) ||| (v &&& 1) }
  | 0x010 => put { t with flags := (t.flags &&& 0x3F) ||| (v &&& 0xFFFFFFFFFFFFFFC0) }
  | 0x011 => put { t with tr := { t.tr with epc := v } }
  | 0x016 => put { t with tr := { t.tr with save := v } }
  | 0x10A => s.cpRes t.tid (v.toNat % 2 ^ 32) (v.getLsbD 32)
  | _ =>
    if 0x100 ≤ n ∧ n ≤ 0x108 then put { t with cp := t.cp.put n v }
    else if 0x300 ≤ n ∧ n ≤ 0x303 then s.watchPut t.colour t.wid (n - 0x300) (watchBase v)
    else if 0x304 ≤ n ∧ n ≤ 0x307 then s.watchPut t.colour t.wid (n - 0x304) (watchCtl v)
    else s

/-- A system register written at supervisor level; a locked register rewritten sends its TDI to ERROR (R399). -/
def State.sysWrite (s : State) (g slot colour n : Nat) (v : Word) : State :=
  if sysOfThread n then
    match s.thread g slot with
    | some t => s.sysPutThread g slot t n v
    | none => s
  else if sysLocked n then (s.sysPut g slot colour n v).tdiError colour
  else s.sysPut g slot colour n v

/-! The instructions (R356). -/

/-- A trap whose tr.epc is the successor (R360). -/
def Ctx.trapNext (x : Ctx) (kind : BitVec 8) (code : Nat) : State :=
  x.s.raise x.g x.slot x.t (preciseReport kind code (succPc x.t.pc) 0)

def execTrap (gd : Guard) (f : Fields) (s : State) : Host.Outcome State Fault Refusal :=
  turn gd s (fun _ => []) fun x => x.trapNext kindSoft ((Fields.imm f).toNat % 256)

/-- The pc that `rti` may not return to (R361). -/
def epcBad (pc : Word) : Bool := pc.toNat / 8 % 8 != 0 || decide (5 ≤ pc.toNat % 8)

/-- `rti` (R361): an unchecked transfer to tr.epc; the winner of a collection window releases the threads parked for it (R364). -/
def execRti (gd : Guard) (_ : Fields) (s : State) : Host.Outcome State Fault Refusal :=
  turn gd s (fun _ => []) fun x =>
    if x.t.inh = false then x.trap kindIllegal 3 0
    else if epcBad x.t.tr.epc then x.s.raise x.g x.slot x.t (preciseReport kindTarget 0 x.t.tr.epc x.t.pc)
    else
      let t : Thread := { x.t.setInh false with pc := x.t.tr.epc, entry := none, vector := none, retry := false, kv := [], fromWin := false }
      let c := x.c.setThread x.slot (some t.sentBack)
      { x.s.setCore x.g (if x.t.fromWin then c.release else c) with cls := .issued }

/-- The register number of `gets` and `sets`. -/
def sysNum (f : Fields) : Nat := Fields.bits f 0 16

def execGets (gd : Guard) (f : Fields) (s : State) : Host.Outcome State Fault Refusal :=
  turn gd s (fun x => dstWait x [] f.dst) fun x =>
    let n := sysNum f
    if sysNumber n = false then x.trap kindIllegal 3 0
    else if x.t.sup = false ∧ sysTaskNone n then x.trap kindIllegal 6 0
    else x.writeW x.c x.t f.dst (x.s.sysRead x.g x.slot x.t n)

def execSets (gd : Guard) (f : Fields) (s : State) : Host.Outcome State Fault Refusal :=
  turn gd s (fun x => srcWaits x [] [f.src1]) fun x =>
    let n := sysNum f
    if sysNumber n = false then x.trap kindIllegal 3 0
    else if x.t.sup = false ∧ (sysTaskNone n ∨ sysTaskRo n) then x.trap kindIllegal 6 0
    else
      let r := x.take [f.src1]
      (x.finish r.2.1 r.2.2).sysWrite x.g x.slot x.t.colour n (val r.1 0)

/-! Writes over the service network (R352). -/

/-- lk.stat written, or the status of a peer port, which has its layout (R394, R396): ones clear bits of tagf. -/
def Port.statWrite (p : Port) (v : Word) : Port :=
  { p with tagf := (BitVec.ofNat 8 p.tagf &&& ~~~ ((v >>> 2).setWidth 8)).toNat }

/-- The registers of a host port's management space (R394, R396): lk.seq, lk.status of the port and of the peer ports, lk.boot. Those that are read
only are none of a port's. -/
def mgmtRegister (host off : Nat) : Option (Option Nat) :=
  if 2 ≤ host then none
  else if off = 0x00 ∨ off = 0x18 then some none
  else if off = 0x10 then some (some host)
  else if 0x100 ≤ off ∧ off < 0x200 ∧ off % 16 = 0 then some (some ((off - 0x100) / 16 + 2))
  else none

/-- A register of the management space written: a read-only one ignores it (R9). -/
def State.mgmtWrite (s : State) (p : Option Nat) (v : Word) : State :=
  match p with
  | some p => s.setPort p ((s.port p).statWrite v)
  | none => s

/-- A write of any system register of a core, its cluster, die or a colour, or of the thread in a slot; a number 0x10000 + offset is the
register at that offset of the management space of host port g. -/
def execServiceRegisterWrite (g slot colour num : Nat) (v : Word) (s : State) : Host.Outcome State Fault Refusal :=
  orNot "SERVICE_REGISTER_WRITE" (
    if 0x10000 ≤ num then (mgmtRegister g (num - 0x10000)).map fun p => s.mgmtWrite p v
    else if sysNumber num = false ∨ 2048 ≤ g ∨ 32 ≤ colour then none
    else if sysOfThread num && (s.thread g slot).isNone then none
    else some (s.sysWrite g slot colour num v))

def execPeCtlWrite (g : Nat) (v : Word) (s : State) : Host.Outcome State Fault Refusal :=
  orNot "PE_CTL_WRITE" (if g < 2048 then some (s.setCore g ((s.core g).peWrite v)) else none)

def execTbInval (colour : Nat) (va : Word) (s : State) : Host.Outcome State Fault Refusal :=
  orNot "TB_INVAL" (if colour < 32 then some (s.tbInval colour va.toNat) else none)

end Sys2Proof.Machine
end

