-- ==== Sys2Proof/Machine/Tasks.lean ====
section
/-! DEFINITION. Launch headers and work identifiers, and the instructions of class 0x20: `launch`, `texit`, `phase`, `cpin`,
`cunpin` (spec/14_tasks_scheduling.md R326–R329, R334, R336, R343, R344, R350). -/
namespace Sys2Proof.Machine
open Sys2Proof

/-! The header (R326) and its teams (R327). -/

def Launch.base (l : Launch) : Nat := l.word 1
def Launch.limit (l : Launch) : Nat := l.word 2
def Launch.tb (l : Launch) : Nat := l.word 3 / 2 ^ 42 % 128
def Launch.cbd (l : Launch) : Nat := l.word 3 / 2 ^ 49 % 128
def Launch.thm1 (l : Launch) : Nat := l.word 3 / 2 ^ 56 % 16
def Launch.hprio (l : Launch) : Nat := l.word 3 / 2 ^ 60 % 4
def Launch.spad (l : Launch) : Nat := l.word 4 % 2 ^ 13
def Launch.tiles (l : Launch) : Nat := l.word 4 / 2 ^ 13 % 8
def Launch.hcolour (l : Launch) : Nat := l.word 4 / 2 ^ 16 % 32
def Launch.kexp (l : Launch) : Bool := (l.word 4).testBit 25
def Launch.keeper (l : Launch) : Nat := l.word 4 / 2 ^ 26 % 16
def Launch.notify (l : Launch) : Nat := l.word 7 % 2 ^ 55

/-- A launch as its header gives it, before it is accepted. -/
def Launch.ofHeader (hdr : List Word) : Launch :=
  ⟨0, 0, 0, hdr, 0, false, 0, 0, [], 0, 0, 0, [], false, none⟩

/-- up(w, b) of R327. -/
def up (w b : Nat) : Nat := if b < 64 then w / 2 ^ b else 0

/-- The number of teams. -/
def Launch.teams (l : Launch) : Nat := up (l.limit - 1) l.tb - up l.base l.tb + 1

/-- The work identifiers of a span of `b` bits numbered i from the base's: its first and one past its last. -/
def Launch.span (l : Launch) (b i : Nat) : Nat × Nat :=
  (max l.base ((up l.base b + i) * 2 ^ b), min l.limit ((up l.base b + i + 1) * 2 ^ b))

/-- The work identifiers of team T. -/
def Launch.wids (l : Launch) (T : Nat) : List Nat :=
  (List.range ((l.span l.tb T).2 - (l.span l.tb T).1)).map fun i => (l.span l.tb T).1 + i

/-- The size of the largest of n spans of `b` bits. -/
def Launch.largest (l : Launch) (b n : Nat) : Nat :=
  if 3 ≤ n then 2 ^ b
  else max ((l.span b 0).2 - (l.span b 0).1) ((l.span b (n - 1)).2 - (l.span b (n - 1)).1)

/-- The cluster group of team T, and the number of groups. -/
def Launch.group (l : Launch) (T : Nat) : Nat := up (l.span l.tb T).1 l.cbd - up l.base l.cbd
def Launch.groups (l : Launch) : Nat := up (l.limit - 1) l.cbd - up l.base l.cbd + 1

/-- First team of group G and one past its last. -/
def Launch.groupSpan (l : Launch) (G : Nat) : Nat × Nat :=
  (up (l.span l.cbd G).1 l.tb - up l.base l.tb, up ((l.span l.cbd G).2 - 1) l.tb - up l.base l.tb + 1)

/-- Teams bound together with team T: its cluster group, or in a deterministic launch its logical cluster (R327, R339). -/
def Launch.together (l : Launch) (T : Nat) : List Nat :=
  if l.det then (List.range l.teams).filter fun U => logicalCluster (l.lcore U) == logicalCluster (l.lcore T)
  else (List.range ((l.groupSpan (l.group T)).2 - (l.groupSpan (l.group T)).1)).map fun i => (l.groupSpan (l.group T)).1 + i

/-! Threads and teams of a launch. -/

/-- The threads of a launch, wherever they are: in slots, arriving, on their way, or saved with their round. -/
def State.launchThreads (s : State) (lk : Nat) : List Thread :=
  let ofCore (c : Core) : List Thread := c.threads.toList.filterMap id ++ c.arrivals
  (s.cores.flatMap (fun e => ofCore e.2) ++ s.saved.flatMap (fun e => ofCore e.2) ++ s.net.filterMap (fun m => match m with
    | .context t _ _ _ _ => some t
    | _ => none)).filter fun t => t.launch == lk

/-- The teams of a launch that are bound and not retired. -/
def State.boundTeams (s : State) (lk : Nat) : List Team :=
  (s.cores ++ s.saved).flatMap fun e => e.2.teams.filter fun tm => tm.key.launch == lk && !tm.retired

/-- Every thread of every team has arrived at the present phase or exited (R344): no team is unbound. -/
def State.allArrived (s : State) (lk : Nat) (l : Launch) : Bool :=
  decide (l.retired + (s.boundTeams lk).length = l.teams) && (s.launchThreads lk).all fun t => t.arrived == some l.phase

/-- The phase state leaves open when every thread has arrived or exited. -/
def State.settlePhase (s : State) (lk : Nat) : State :=
  match s.launch? lk with
  | some l => if l.pst = 0 ∧ s.allArrived lk l then s.setLaunch lk { l with pst := 1 } else s
  | none => s

/-! The instructions. -/

/-- `launch` (R330): a release point; the header's address goes to the arbiter. -/
def execLaunch (gd : Guard) (f : Fields) (s : State) : Host.Outcome State Fault Refusal :=
  turn gd s (fun x => srcWaits x [] [f.src1] ++ dstWait x [f.src1] f.dst ++ relWait x true) fun x =>
    let r := x.take [f.src1]
    match f.dst.reg with
    | .d i =>
      let o := x.s.releasePoint (dieOf x.g) r.2.2.outst
      let t := { r.2.2 with release := o.2 }
      let prio := ((x.s.launch? t.launch).map Launch.prio).getD 0
      let m := Msg.launchReq (x.req o.1 t (o.1.writeClock x.g t)) i (val r.1 0) prio
      (x.on (o.1.send m).bumpUid).finish r.2.1 (t.pendD i)
    | _ => x.finish r.2.1 r.2.2

/-- What `texit` and `phase` wait for (R336): counters, replies, non-returning operations, copies and transforms. -/
def drainWait (x : Ctx) : List SlotClass :=
  if x.t.w.toList.any (fun n => n != 0) || x.t.dpend.toList.any id || x.t.vowed.toList.any (fun n => n != 0)
    || x.t.pans.toList.any id || x.t.waitAns || !x.t.nonret.isEmpty || x.s.copyOpen x.t.tid then [.mem] else []

/-- TEAM_RETIRE (R334): a team none of whose threads is left gives up its slots and tiles; its region stays until its copies have
drained (R285). -/
def State.retireTeam (s : State) (key : TeamKey) : State :=
  if (s.launchThreads key.launch).any fun t => t.team == key.team then s
  else
    let s1 := match s.findTeam key with
      | none => s
      | some (g, tm) =>
        let c := s.core g
        s.setCore g ({ c with teams := c.teams.map fun (u : Team) => if u.key = tm.key then { u with retired := true, tiles := [] } else u }.dropDrained)
    match s1.launch? key.launch with
    | some l => s1.setLaunch key.launch { l with retired := l.retired + 1 }
    | none => s1

/-- A thread retires where it stands (R336). -/
def Ctx.retire (x : Ctx) : State :=
  let s1 := (x.s.leaveGang x.t).releaseStreams x.g x.t.tid
  let c := (s1.core x.g).setThread x.slot none
  let s2 := s1.setCore x.g (if x.t.fromWin then c.release else c)
  { (s2.retireTeam x.t.key).settlePhase x.t.launch with cls := .issued }

def execTexit (gd : Guard) (_ : Fields) (s : State) : Host.Outcome State Fault Refusal :=
  turn gd s drainWait Ctx.retire

/-- `phase` (R343): the thread arrives, and continues once the phase has advanced, writing its number. -/
def execPhase (gd : Guard) (f : Fields) (s : State) : Host.Outcome State Fault Refusal :=
  let writes := f.fmt.getLsbD 0
  turn gd s (fun x => (if writes then dstWait x [] f.dst else []) ++ if x.t.arrived.isSome then [] else drainWait x) fun x =>
    match x.s.launch? x.t.launch, x.t.arrived with
    | some l, some p =>
      if l.phase = p then x.wait .msg
      else
        let t := { x.t with arrived := none }
        (match f.dst.reg with
        | .d i => x.finish x.c (if writes then t.putD i (l.phase.setWidth 64) else t)
        | _ => x.finish x.c t)
    | some l, none =>
      { (x.s.setThread x.g x.slot (some { x.t with arrived := some l.phase })).settlePhase x.t.launch with cls := .msg }
    | none, _ => x.wait .msg

/-- The pin bit of the thread's team set or cleared; away from the team's core, or without castl, no effect (R350). -/
def pinTurn (b : Bool) (gd : Guard) (s : State) : Host.Outcome State Fault Refusal :=
  turn gd s (fun _ => []) fun x =>
    let castl := ((x.s.launch? x.t.launch).map Launch.castl).getD false
    let c := if castl then
        { x.c with teams := x.c.teams.map fun tm => if tm.key = x.t.key then { tm with pin := b } else tm }
      else x.c
    x.finish c x.t

def execCpin (gd : Guard) (_ : Fields) (s : State) : Host.Outcome State Fault Refusal := pinTurn true gd s
def execCunpin (gd : Guard) (_ : Fields) (s : State) : Host.Outcome State Fault Refusal := pinTurn false gd s

end Sys2Proof.Machine
end

