-- ==== Sys2Proof/Machine/Launch.lean ====
section
/-! DEFINITION. The arbiters' and dispatchers' part of a launch: acceptance, bind records, binding, work donation, phase commit,
rounds and completion (spec/14_tasks_scheduling.md R330–R335, R339–R341, R344; spec/17_host_package.md R401). -/
namespace Sys2Proof.Machine
open Sys2Proof

/-! Accepting (R330). -/

/-- The clusters of a partition in order of die and cluster, and its dies. -/
def Partition.dies (p : Partition) : List Nat := (List.range 8).filter fun d => p.clusters.any fun c => c / 16 == d

/-- Field widths and the field boundaries they make (R327). -/
def Launch.widths (l : Launch) : List Nat := (List.range 6).map l.width
def Launch.boundaries (l : Launch) : List Nat := (List.range 7).map fun i => (l.widths.take i).sum

/-- Cause 2: a reserved bit, or a field out of its range. -/
def Launch.outOfRange (l : Launch) : Bool :=
  let e := l.word 0
  e / 8 % 8 != 0 || decide (5 ≤ e % 8) || decide (2 ^ 55 ≤ e)
    || l.widths.any (fun w => decide (64 < w)) || decide (64 < l.tb) || decide (64 < l.cbd) || decide (2 ^ 62 ≤ l.word 3)
    || decide (3968 < l.spad) || decide (4 < l.tiles) || decide (2 ^ 30 ≤ l.word 4)
    || decide (11 < l.lr + l.lc) || decide (4096 < l.vbank) || decide (2 ^ 21 ≤ l.word 6)
    || l.notify % 64 != 0 || decide (2 ^ 55 ≤ l.word 7)

/-- Cause 3: widths and boundaries. -/
def Launch.badBounds (l : Launch) : Bool :=
  l.widths.sum != 64 || !l.boundaries.contains l.tb || !l.boundaries.contains l.cbd || decide (l.cbd < l.tb)
    || decide (l.limit ≤ l.base)

/-- Teams whose regions and tiles one core has room for. -/
def Launch.perCore (l : Launch) : Nat :=
  min 16 (min (if l.spad = 0 then 16 else 507904 / (128 * l.spad)) (if l.tiles = 0 then 16 else 4 / l.tiles))

/-- What the teams of a group ask of each place they must be bound at together, as teams and threads: each team alone if the launch is
unplaced, the teams of one logical core otherwise. -/
def Launch.loads (l : Launch) (a n : Nat) : List (Nat × Nat) :=
  let places := if l.unplaced then n else min n (2 ^ (l.lr + l.lc))
  (List.range places).map fun i =>
    let ts := (List.range ((n - i + places - 1) / places)).map fun j => (l.span l.tb (a + i + places * j))
    (ts.length, (ts.map fun t => t.2 - t.1).sum)

/-- Cores with the room listed, counted in whole teams, hold `bigs` loads of q + 1 teams and `smalls` of q: `best` gives for each number
of big loads placed so far the most small ones that fit beside them. -/
def packs (q bigs smalls : Nat) : List Nat → List (Option Nat) → Bool
  | [], best => match best.getD bigs none with
    | some z => decide (smalls ≤ z)
    | none => false
  | room :: rest, best =>
    packs q bigs smalls rest ((List.range (bigs + 1)).map fun j =>
      ((List.range (j + 1)).filterMap fun x =>
        if room < x * (q + 1) then none
        else (best.getD (j - x) none).map fun z => z + (if q = 0 then 0 else (room - x * (q + 1)) / q)).max?)

/-- The n teams of a group from team a on fit one cluster's 16 cores (R327): each load fits a core, and all of them fit together. All
teams but the launch's first and last have `full` threads; the loads with those two are put on one core or on two. -/
def Launch.groupFits (l : Launch) (a n : Nat) : Bool :=
  let full := l.largest l.tb l.teams
  let loads := l.loads a n
  let q := n / loads.length
  let odd := loads.filter fun e => e.2 != e.1 * full
  let even := loads.filter fun e => e.2 == e.1 * full
  let bigs := (even.filter fun e => e.1 != q).length
  let room (e : Nat × Nat) : Option Nat :=
    if l.perCore < e.1 ∨ 16 < e.2 then none else some (min (l.perCore - e.1) ((16 - e.2) / full))
  let tries : List (List (Nat × Nat)) := match odd with
    | [x, y] => [[x, y], [(x.1 + y.1, x.2 + y.2)]]
    | xs => [xs]
  decide (n ≤ 256) && (even.all fun e => (room e).isSome) && tries.any fun t =>
    t.all (fun e => (room e).isSome) &&
      packs q bigs (even.length - bigs) (t.filterMap room ++ List.replicate (16 - t.length) (min l.perCore (16 / full))) [some 0]

/-- Cause 4: a team, the number of teams, or a cluster group too large: the first, the last and one of those between them. -/
def Launch.tooLarge (l : Launch) : Bool :=
  decide (l.thm1 + 1 < l.largest l.tb l.teams) || decide (2 ^ 30 < l.teams)
    || (!l.det && [0, 1, l.groups - 1].any fun G => decide (G < l.groups) &&
      !l.groupFits (l.groupSpan G).1 ((l.groupSpan G).2 - (l.groupSpan G).1))

/-- Cause 5: what a deterministic launch needs (R339, R340), `frame` being the largest vl.base frame of the partition's dies and
`rounds` the most rounds of a cluster. -/
def Launch.badDet (l : Launch) (rounds frame : Nat) : Bool :=
  l.det && (l.lr != 5 || l.lc != 5 || l.vbank == 0 || decide (4096 < rounds * l.vbank + frame))

/-- The most rounds that a cluster of the partition runs in a deterministic launch (R340). -/
def State.mostRounds (s : State) (p : Partition) : Nat := (p.clusters.map fun c => (s.roundsOf p c).length).foldl max 0

/-- The largest vl.base frame of a colour on the dies of a partition. -/
def State.partFrame (s : State) (colour : Nat) (p : Partition) : Nat := (p.dies.map (s.vlFrame colour)).foldl max 0

/-- A launch table entry free on every die of a partition. -/
def State.freeEntry (s : State) (p : Partition) : Option Nat :=
  (List.range 64).find? fun e => p.dies.all fun d => (s.launchAt d e).isNone

/-- The refusal cause of a header that has been read, the lowest that holds; `limit` is the priority a device launch may not pass. -/
def State.launchCause (s : State) (l : Launch) (p : Partition) (colour : Nat) (host : Bool) (limit : Nat) : Nat :=
  if l.outOfRange || (host && l.hcolour != colour) then 2
  else if l.badBounds then 3
  else if l.tooLarge then 4
  else if l.badDet (s.mostRounds p) (s.partFrame colour p) then 5
  else if (s.freeEntry p).isNone then 6
  else if l.steal && (!l.unplaced || l.cbd != l.tb || l.det) then 7
  else if !host && decide (limit < l.hprio) then 8
  else 0

/-- Slot-table entries that may be written: invalid or exhausted (R332). -/
def Die.freeRec (d : Die) : Option Nat :=
  (List.range 512).find? fun e => match smapFind d.table e with
    | none => true
    | some r => r.st == 2

/-- Order keys renumbered from 0 in their order. -/
def Die.renumber (d : Die) : Die :=
  let live := d.table.filter fun (e : Nat × BindRec) => e.2.st != 2
  { d with table := d.table.map fun (e : Nat × BindRec) => (e.1, { e.2 with
      age := (live.filter fun (x : Nat × BindRec) => decide (x.2.age < e.2.age) || (x.2.age == e.2.age && decide (x.1 < e.1))).length }) }

/-- A record put in a free entry with the last order key, or into the backlog. -/
def Die.addRec (d : Die) (r : BindRec) : Die :=
  match d.freeRec with
  | some e => { d with table := smapPut d.table e { r with age := (d.table.filter fun (x : Nat × BindRec) => x.2.st != 2).length } }
  | none => { d with backlog := d.backlog ++ [r] }

/-- The backlog written as far as entries are free. -/
def Die.fill (d : Die) : Die := d.backlog.foldl Die.addRec { d.renumber with backlog := [] }

/-- Records of colours that are switched out are held, the others ready again (R332). -/
def State.syncHeld (s : State) : State :=
  { s with dies := s.dies.map fun (e : Nat × Die) => (e.1, { e.2 with
      table := e.2.table.map fun (x : Nat × BindRec) =>
        let out := match s.launchAt e.1 x.2.lent with
          | some l => match s.partOf l.2.colour with
            | some p => p.2.resident != l.2.colour
            | none => true
          | none => false
        (x.1, if x.2.st = 2 then x.2 else { x.2 with
          st := if out then 3 else if x.2.st = 3 then (if x.2.next = 0 then 0 else 1) else x.2.st }) }) }

/-- A bind record of a launch for a core, or for any core of a cluster. -/
def Launch.recFor (l : Launch) (any : Bool) (clu core first count : Nat) : BindRec :=
  ⟨0, l.prio, l.steal, any, clu % 16, core % 256, l.lent, 0, first, count, 0⟩

/-- The records of a launch by die (R332): one per team of a placed launch, for its logical core, of those logical cores that `want` names; for an
unplaced one, one per cluster listed, each with as even a share of the groups as can be, for any core of the cluster: that the arbiter names no core
there is the model's choice (DESIGN CHOICE, notes/assumptions/103.md). -/
def Launch.records (l : Launch) (clusters : List Nat) (want : Nat → Bool) : List (Nat × BindRec) :=
  if l.unplaced then
    let n := clusters.length
    (enumFrom 0 clusters).filterMap fun e =>
      let G := e.1 * l.groups / n
      let H := (e.1 + 1) * l.groups / n
      if G = H then none else
        let a := (l.groupSpan G).1
        some (e.2 / 16, l.recFor true e.2 0 a ((l.groupSpan (H - 1)).2 - a))
  else
    (List.range l.teams).filterMap fun T =>
      let L := l.lcore T
      let g := l.phys L
      if want L = false then none
      else some (dieOf g, l.recFor false (clusterOf g) g T 1)

/-- Records added to their dies. -/
def State.addRecords (s : State) (rs : List (Nat × BindRec)) : State :=
  (rs.foldl (fun s r => s.setDie r.1 ((s.die r.1).renumber.addRec r.2)) s).syncHeld

/-- Live cores of a cluster (R371), lowest number first. -/
def State.liveCores (s : State) (clu : Nat) : List Nat := (clusterCores clu).filter fun g => !(s.core g).checked

/-- A core to which a logical core of core g is mapped (R371): g itself if it is live, else the next live core of its cluster
(notes/assumptions/25.md). -/
def State.liveFor (s : State) (g : Nat) : Nat :=
  if (s.core g).checked then
    let live := s.liveCores (clusterOf g)
    ((live.filter fun h => decide (g < h)) ++ live).headD g
  else g

/-- Whether the arbiter's placement is one for the launch: for a placed launch a live core of the partition for each logical core, for
an unplaced one clusters of it; a deterministic launch leaves no choice. -/
def State.placeOk (s : State) (l : Launch) (p : Partition) (place : List Nat) : Bool :=
  if l.det then true
  else if l.unplaced then place.all fun c => p.clusters.contains c
  else place.length == 2 ^ (l.lr + l.lc) && place.all fun g =>
    p.clusters.contains (clusterOf g) && !(s.core g).checked && !(s.die (dieOf g)).fenced

/-- Every line that the cores hold for a colour is fetched again by its next launch (R36). -/
def State.dropLines (s : State) (colour : Nat) : State :=
  { s with cores := s.cores.map fun (e : Nat × Core) =>
      (e.1, { e.2 with lines := e.2.lines.filter fun (x : Nat × Nat × BitVec 512) => x.1 != colour }) }

/-- Deterministic numbering puts a logical core on a cluster of a fenced die (R337, R340). -/
def State.takenOn (s : State) (p : Partition) (L : Nat) : Bool := (s.die (detCluster p.clusters L / 16)).fenced

/-- An accepted launch entered in the tables (R331), its map fixed and its records written. -/
def State.enterLaunch (s : State) (l : Launch) (pk : Nat) (p : Partition) (colour prio : Nat) (port : Option Nat) (place : List Nat) :
    State × Launch :=
  let live := p.dies.filter fun d => !(s.die d).fenced
  let seq := if (s.colour colour).seq = 2 ^ 48 - 1 then 1 else (s.colour colour).seq + 1
  let l1 := { l with
    lent := (s.freeEntry p).getD 0, colour := colour, seq := seq, prio := prio, part := pk, coord := live.headD 0, port := port
    map := if l.det then (List.range 1024).map fun L => s.liveFor (s.detPlace p L).1 else if l.unplaced then [] else place }
  let targets := if l.unplaced && !place.isEmpty then place else p.clusters
  let s1 := (((s.dropLines colour).setColour colour { s.colour colour with seq := seq }).setLaunch s.uid l1).bumpUid
  (s1.addRecords (l1.records targets fun L => !l1.det || (s.detPlace p L).2 == 0 || s.takenOn p L), l1)

/-- The reply word (R330). -/
def acceptWord (l : Launch) : Word := BitVec.ofNat 64 (1 + 2 ^ 8 * l.lent + 2 ^ 16 * l.seq)
def refuseWord (cause : Nat) : Word := BitVec.ofNat 64 (2 * cause)

/-- The header a device launch names, read by the arbiter (R330, R351): `some none` where it cannot be read; none while every walk of the die is in
use, for which the read waits (R193). -/
def State.readHeader (s : State) (r : Req) (va : Word) : Option (Option (List Word)) :=
  let key : TeamKey := match s.findTid r.tid with
    | some x => ((s.thread x.g x.slot).map Thread.key).getD ⟨0, 0⟩
    | none => ⟨0, 0⟩
  let ok := match s.region r.src r.colour key va with
    | .translated => true
    | .vaultLocal _ => true
    | _ => false
  if ok = false ∨ va.toNat % 64 ≠ 0 then some none
  else match s.enginePlace r.src r.colour key .read false false va with
    | .error e => if e.isFault then some none else none
    | .ok (s1, p) =>
      if s1.placeBad p 64 then some none
      else some <| some ((List.range 8).map fun i => kWord ((List.range 8).map fun j => s1.placeByte p (8 * i + j)))

/-- The number of a die's arbiter as a sender of answers. -/
def arbiterPlace (die : Nat) : Nat := 8192 + die

/-- The header of message k, which a task's `launch` sent, is read and checked, and answered. It waits until the release points of
its clock are complete, as every die of the partition knows: every event of the launch's tasks follows them (R316, R319). -/
def State.acceptTask (s : State) (k : Nat) (place : List Nat) : Option State :=
  match s.net[k]? with
  | some (.launchReq r dst va prio) =>
      let s0 := s.takeMsg k
      let answer (s : State) (w : Word) : State :=
        s.send (.reply r.tid r.id (.d dst .s64) (wordBytes 8 w) (s.die (dieOf r.src)).k (r.label (arbiterPlace (dieOf r.src))))
      match s.readHeader r va, s.partOf r.colour with
      | none, some _ => none
      | some (some hdr), some (pk, p) =>
        let l := Launch.ofHeader hdr
        let cause := s.launchCause l p r.colour false prio
        if p.dies.all (fun d => s.covers d r.clock) = false then none
        else if cause ≠ 0 then some (answer s0 (refuseWord cause))
        else if s.placeOk l p place = false then none
        else
          let s1 := p.dies.foldl (fun s d => s.hearClock d r.clock) s0
          let y := s1.enterLaunch l pk p r.colour l.hprio none place
          some (answer y.1 (acceptWord y.2))
      | _, _ => some (answer s0 (refuseWord 1))
  | _ => none

/-- A launch of the arbiters' own firmware: its threads run at supervisor level (R352; notes/assumptions/14.md). Its colour's launches are enabled (R399). -/
def State.acceptFirmware (s : State) (colour prio : Nat) (hdr : List Word) (place : List Nat) : Option State :=
  match s.partOf colour with
  | some (pk, p) =>
    let l := { Launch.ofHeader hdr with sup := true }
    if hdr.length ≠ 8 ∨ (s.colour colour).tdi ≠ .run ∨ s.launchCause l p colour true 0 ≠ 0 ∨ s.placeOk l p place = false then none
    else some (s.enterLaunch l pk p colour (prio % 4) none place).1
  | none => none

/-- LAUNCH_ACCEPT: the arbiter accepts or refuses the launch of a task, or enters one of its own. -/
def execLaunchAccept (src : LaunchSource) (place : List Nat) (s : State) : Host.Outcome State Fault Refusal :=
  orNot "LAUNCH_ACCEPT" (match src with
    | .task k => s.acceptTask k place
    | .firmware colour prio hdr => s.acceptFirmware colour prio hdr place)

/-! Binding (R329, R333). -/

/-- The lowest free 128-byte-aligned offset of a core's region space that takes `size` bytes (R329): the spill area of R308 lies
above it. -/
def Core.regionFor (c : Core) (size : Nat) : Option Nat :=
  let starts := 0 :: (c.teams.map fun tm => tm.base + tm.size)
  let fits (b : Nat) : Bool := decide (b + size ≤ 507904) &&
    c.teams.all fun tm => decide (b + size ≤ tm.base) || decide (tm.base + tm.size ≤ b)
  (starts.filter fits).foldl (fun m b => match m with
    | none => some b
    | some a => some (min a b)) none

/-- A thread as it starts (R329, R39). -/
def Thread.start (tid colour : Nat) (wid : Word) (launch team : Nat) (entry arg : Word) (sup : Bool) (free : Nat) : Thread where
  tid := tid
  colour := colour
  wid := wid
  launch := launch
  team := team
  pc := entry
  d := (Vector.replicate 16 0).set 0 arg
  dfull := Vector.replicate 16 true
  dpend := Vector.replicate 16 false
  v := Vector.ofFn fun i => freeVReg (free + i.val)
  vfull := Vector.replicate 8 true
  vowed := Vector.replicate 8 0
  halves := []
  pval := (Vector.replicate 8 false).set 0 true
  pres := Vector.replicate 8 true
  pans := Vector.replicate 8 false
  w := Vector.replicate 8 0
  flags := if sup then 4 else 0
  cp := CopyRegs.zero
  ibWord := 0
  ibSrc := 0
  tr := ⟨0, 0, 0, 0, 0, 0⟩
  streams := Vector.replicate 4 none
  outst := []
  loads := []
  hold := []
  nonret := []
  waitAns := false
  denied := none
  trapped := none
  kvOut := 0
  kv := []
  release := 0
  entry := some 0
  vector := none
  reports := []
  ovf := false
  park := .none
  fromWin := false
  handed := none
  halted := false
  haltReq := false
  steps := none
  pass := false
  gang := .none
  arrived := none
  retry := false
  second := false
  taken := []

/-- The barrel slots of a core that hold no thread. -/
def Core.vacants (c : Core) : List Nat := (List.range 16).filter fun i => (c.thread i).isNone

/-- The threads of a team put into slots, in order of their work identifiers. -/
def State.startThreads (s : State) (g lk : Nat) (l : Launch) (T : Nat) : List (Nat × Nat) → State
  | [] => s
  | (slot, w) :: rest =>
    let t := Thread.start s.uid l.colour (BitVec.ofNat 64 w) lk T (l.hdr.getD 0 0) (l.hdr.getD 5 0) l.sup s.free
    ({ s.setThread g slot (some t) with uid := s.uid + 1, free := s.free + 8 }).startThreads g lk l T rest

/-- Team T of launch lk bound on core g, if it fits (R236, R329, R333): its slots, region and tiles; the q registers of a core that
held no team are emptied (R109), a retired team whose copies still drain being none, and its castling counts start (R345, R349). A part of the region
that no team of the colour has had reads as zeros (R400), the rest as undefined bytes. -/
def State.bindTeam (s : State) (lk : Nat) (l : Launch) (T g : Nat) : Option State :=
  let c := s.core g
  let ws := l.wids T
  if c.checked ∨ c.vacants.length < ws.length ∨ c.spareTiles.length < l.tiles then none
  else match c.regionFor (128 * l.spad) with
    | none => none
    | some base =>
      let size := 128 * l.spad
      let tiles := c.spareTiles.take l.tiles
      let bank := match smapFind s.parts l.part with
        | some p => if l.det then (s.detPlace p (l.lcore T)).1 else g
        | none => g
      let c0 := if c.teams.all Team.retired then
          { c with q := Vector.replicate 4 [], traffic := [], sent := 0, records := [0, 0, 0], bar := none, swapDue := false } else c
      let c1 := tiles.foldl (fun c i => (c.setTile i ⟨false, []⟩).setRslot i ⟨0, 0, 0, [], none⟩) c0
      let c2 := { c1 with
        teams := c1.teams ++ [⟨⟨lk, T⟩, l.colour, base, size, s.uid, max base c1.fresh, tiles, bank, false, false⟩]
        fresh := max c1.fresh (base + size)
        spad := c1.spad.filter fun e => !decide (base ≤ e.1 ∧ e.1 < base + size) }
      some ((s.setCore g c2).bumpUid.startThreads g lk l T
        ((c.vacants.zip ws)))

/-- The cores a team may be bound on: the record's core, or any; the first team of a group on the lowest live core or the keeper
(R329). -/
def State.bindCores (s : State) (clu : Nat) (l : Launch) (r : BindRec) (first : Bool) : List Nat :=
  let live := s.liveCores clu
  if r.any = false then [256 * (clu / 16) + r.core]
  else if first then
    let k := coreAt clu l.keeper
    if l.kexp && live.contains k then [k] else live.take 1
  else live

def State.bindOn (s : State) (lk : Nat) (l : Launch) (T : Nat) : List Nat → Option State
  | [] => none
  | g :: rest =>
    match s.bindTeam lk l T g with
    | some s' => some s'
    | none => s.bindOn lk l T rest

/-- Teams with their records bound one after another; none unless all fit. -/
def State.bindAll (s : State) (clu lk : Nat) (l : Launch) (first : Bool) : List (Nat × BindRec) → Option State
  | [] => some s
  | (T, r) :: rest =>
    match s.bindOn lk l T (s.bindCores clu l r first) with
    | none => none
    | some s' => s'.bindAll clu lk l false rest

/-- Whether a record targets a cluster. -/
def BindRec.targets (r : BindRec) (clu : Nat) : Bool :=
  if r.any then r.clu == clu % 16 else clusterOf (256 * (clu / 16) + r.core) == clu

/-- The round of a record's next team has come (R341): those a cluster takes from a fenced die have records before it (notes/assumptions/104.md). -/
def State.inRound (s : State) (p : Partition) (l : Launch) (clu : Nat) (r : BindRec) : Bool :=
  !l.det || decide ((s.detPlace p (l.lcore (r.first + r.next))).2 ≤ smapGet 0 l.rounds clu)

/-- A record that the dispatcher of a cluster may bind from, with its launch. -/
def State.bindable (s : State) (clu : Nat) (e : Nat × BindRec) : Option (Nat × Launch) :=
  if (e.2.st = 0 ∨ e.2.st = 1) ∧ e.2.next < e.2.count ∧ e.2.targets clu ∧ (s.die (clu / 16)).fenced = false then
    match s.launchAt (clu / 16) e.2.lent with
    | some (lk, l) => match s.partOf l.colour with
      | some (_, p) => if p.clusters.contains clu ∧ p.resident = l.colour ∧ p.switch = .none ∧ s.inRound p l clu e.2 then some (lk, l) else none
      | none => none
    | none => none
  else none

/-- Earlier in the dispatcher's order: higher priority, lower age, lower index. -/
def bindBefore (a b : Nat × BindRec) : Bool :=
  decide (b.2.prio < a.2.prio) || (a.2.prio == b.2.prio && (decide (a.2.age < b.2.age) || (a.2.age == b.2.age && decide (a.1 ≤ b.1))))

/-- The next team of a record. -/
def BindRec.team (r : BindRec) : Nat := r.first + r.next

/-- The teams to be bound together with a record's next, that team first, each with the ready record that holds it; none where one of
them stands in no ready record of the cluster. -/
def State.groupRecs (s : State) (clu : Nat) (l : Launch) (e : Nat × BindRec) : Option (List (Nat × BindRec)) :=
  let d := s.die (clu / 16)
  let pend (T : Nat) : Option BindRec := ((d.table.map Prod.snd ++ d.backlog).find? fun (r : BindRec) =>
    r.st != 2 && r.lent == l.lent && decide (r.team ≤ T ∧ T < r.first + r.count))
  let others := ((l.together e.2.team).filter fun T => T != e.2.team).filterMap fun T => (pend T).map fun r => (T, r)
  if others.all fun x => x.2.targets clu then some ((e.2.team, e.2) :: others) else none

/-- The record after one more team: exhausted at its end, else last in its order (the default firmware's rotation, R333). -/
def Die.advance (d : Die) (i : Nat) (r : BindRec) : Die :=
  let r' := { r with next := r.next + 1, st := if r.next + 1 = r.count then 2 else 1, age := 65535 }
  ({ d with table := smapPut d.table i r' }.renumber).fill

/-- A team of a record bound, and the record advanced. -/
def State.bindFrom (s : State) (clu lk : Nat) (l : Launch) (e : Nat × BindRec) (first : Bool) (left : Nat) : Option State :=
  (s.bindOn lk l e.2.team (s.bindCores clu l e.2 first)).map fun s1 =>
    let s2 := s1.setDie (clu / 16) ((s1.die (clu / 16)).advance e.1 e.2)
    let grp := if left = 0 then none else some (lk, l.group e.2.team, left)
    (s2.setCluster clu { s2.cluster clu with group := grp }).syncHeld

/-- The first record that a function accepts. -/
def firstSome {α β : Type} (f : α → Option β) : List α → Option β
  | [] => none
  | a :: rest => match f a with
    | some b => some b
    | none => firstSome f rest

/-- TEAM_BIND: one team of a cluster's chosen record. A group in progress goes on before any other record; a new one starts only
when all of it fits. -/
def execTeamBind (clu : Nat) (s : State) : Host.Outcome State Fault Refusal :=
  orNot "TEAM_BIND" (
    let recs := sortBy bindBefore (s.die (clu / 16)).table
    match (s.cluster clu).group with
    | some (lk, G, left) =>
      firstSome (fun e => match s.bindable clu e with
        | some (k, l) =>
          if k = lk ∧ (l.det ∨ l.group e.2.team = G) then s.bindFrom clu lk l e false (left - 1) else none
        | none => none) recs
    | none =>
      firstSome (fun e => match s.bindable clu e with
        | some (lk, l) =>
          match s.groupRecs clu l e with
          | some ts => if (s.bindAll clu lk l true ts).isSome then s.bindFrom clu lk l e true (ts.length - 1) else none
          | none => none
        | none => none) recs)

/-- BIND_RECORD_AGING (R333): the default firmware raises a waiting record's priority by one, up to 3, also of a record of
which teams have been bound. -/
def execBindRecordAging (die e : Nat) (s : State) : Host.Outcome State Fault Refusal :=
  orNot "BIND_RECORD_AGING" (match smapFind (s.die die).table e with
    | some r =>
      if (r.st = 0 ∨ r.st = 1) ∧ r.prio < 3 then
        some (s.setDie die { s.die die with table := smapPut (s.die die).table e { r with prio := r.prio + 1 } })
      else none
    | none => none)

/-! Work donation (R335). -/

/-- The partition whose colour a cluster runs. -/
def State.partOfCluster (s : State) (clu : Nat) : Option (Nat × Partition) := s.parts.find? fun p => p.2.clusters.contains clu

/-- Unstarted teams of a record. -/
def BindRec.unstarted (r : BindRec) : Nat := r.count - r.next

/-- The stealable records of a cluster, highest priority first. -/
def State.stealable (s : State) (clu : Nat) : List (Nat × BindRec) :=
  sortBy bindBefore ((s.die (clu / 16)).table.filter fun (e : Nat × BindRec) =>
    e.2.steal && (s.bindable clu e).isSome)

/-- Up to n teams taken from the ends of records: the die with the records reduced, and the teams with their record. -/
def takeTeams (d : Die) : List (Nat × BindRec) → Nat → Die × List (Nat × BindRec)
  | [], _ => (d, [])
  | (i, r) :: rest, n =>
    let k := min n r.unstarted
    let r' := { r with count := r.count - k, st := if r.unstarted = k then 2 else r.st }
    let d1 := if k = 0 then d else { d with table := smapPut d.table i r' }
    let y := takeTeams d1 rest (n - k)
    (y.1, ((List.range k).map fun j => (r.first + r.count - k + j, r)) ++ y.2)

/-- A task control block (R335). -/
def taskBlock (T lent prio : Nat) : Word := BitVec.ofNat 64 (T + 2 ^ 30 * lent + 2 ^ 36 * prio)

/-- The cluster the thief asks next, and that it may ask: nothing bound, nothing to bind, not waiting. -/
def State.thiefReady (s : State) (thief victim : Nat) : Bool :=
  let k := s.cluster thief
  !k.backoff && decide (victim = 16 * (thief / 16) + (thief + 1 + k.steal) % 16) && decide (k.steal < 15)
    && (clusterCores thief).all (fun g => (s.core g).teams.isEmpty)
    && !((s.die (thief / 16)).table.any fun e => (s.bindable thief e).isSome)
    && !(s.net.any fun m => match m with
      | .stealReply t _ _ _ => t == thief
      | _ => false)

/-- STEAL_REQUEST: the victim ships half its unstarted stealable teams, at most 16. A cluster of another partition gives nothing. -/
def execStealRequest (thief victim : Nat) (s : State) : Host.Outcome State Fault Refusal :=
  orNot "STEAL_REQUEST" (
    if s.thiefReady thief victim = false then none
    else
      let same : Bool := match s.partOfCluster thief, s.partOfCluster victim with
        | some a, some b => a.1 == b.1 && a.2.switch == .none
        | _, _ => false
      let recs := if same then s.stealable victim else []
      let n := min 16 ((recs.map fun e => e.2.unstarted).sum / 2)
      let y := takeTeams (s.die (victim / 16)) recs n
      let blocks := y.2.map fun e => (taskBlock e.1 e.2.lent e.2.prio, ((s.launchAt (victim / 16) e.2.lent).map Prod.fst).getD 0)
      let colour := ((s.partOfCluster thief).map fun p => p.2.resident).getD 0
      some ((s.setDie (victim / 16) y.1.fill).send (.stealReply thief blocks victim colour)))

/-- STEAL_REPLY: the blocks become one-team records of the thief; an empty reply moves it on, a round of them makes it wait. -/
def execStealReply (k : Nat) (s : State) : Host.Outcome State Fault Refusal :=
  orNot "STEAL_REPLY" (match s.net[k]? with
    | some (.stealReply thief blocks _ _) =>
      let s0 := s.takeMsg k
      let kl := s0.cluster thief
      if blocks.isEmpty then
        let n := kl.steal + 1
        some (s0.setCluster thief (if n = 15 then { kl with steal := 0, backoff := true } else { kl with steal := n }))
      else
        let rs := blocks.filterMap fun b => (s.launch? b.2).map fun l =>
          (thief / 16, { l.recFor true thief 0 (b.1.toNat % 2 ^ 30) 1 with prio := b.1.toNat / 2 ^ 36 % 4 })
        some ((s0.setCluster thief { kl with steal := 0 }).addRecords rs)
    | _ => none)

def execStealBackoffExpiry (clu : Nat) (s : State) : Host.Outcome State Fault Refusal :=
  orNot "STEAL_BACKOFF_EXPIRY" (
    if (s.cluster clu).backoff then some (s.setCluster clu { s.cluster clu with backoff := false }) else none)

/-! Commits (R344, R401). -/

/-- The 64 bytes of a block of an output region: zeros where it does not translate or may not be read. -/
def State.digestBlock (s : State) (die colour va : Nat) : List Byte × Bool :=
  if 2 ^ 54 ≤ va then (List.replicate 64 0, true)
  else match s.walkAccess die colour Use.read va with
    | .ok p => ((List.range 64).map (s.placeByte p), false)
    | _ => (List.replicate 64 0, true)

/-- DIGEST_UPDATE (R401). -/
def State.digestUpdate (s : State) (l : Launch) : State :=
  let c := s.colour l.colour
  let blocks := c.regions.flatMap fun r => (List.range (r.2 / 64)).map fun i =>
    s.digestBlock l.coord l.colour ((r.1.toNat + 64 * i) % 2 ^ 64)
  let m := c.digest ++ wordBytes 8 (BitVec.ofNat 64 l.seq) ++ wordBytes 8 (l.phase.setWidth 64) ++ blocks.flatMap Prod.fst
  s.setColour l.colour { c with digest := shake256 64 m, gap := c.gap || blocks.any Prod.snd }

/-- The launch a claim's redeemer is of. -/
def State.claimLaunch (s : State) (c : Claim) : Option Nat :=
  match c.form with
  | .sp _ team => some team.launch
  | _ => ((s.findTid c.tid).bind fun r => s.thread r.g r.slot).map Thread.launch

/-- A ticket entry still to be read for a launch's tasks, or delivered to them (R311, R316, R322). -/
def State.ticketOpen (s : State) (lk : Nat) (k : TkEntry) : Bool :=
  (k.launch == lk && k.rd.isSome) || (k.st == 3 && (k.launch == lk || (k.claim.bind s.claimLaunch) == some lk))

/-- A write of the launch's tasks is not yet performed, or a group of their tickets not yet read or delivered, those of exited threads included. -/
def State.writesOpen (s : State) (lk : Nat) (l : Launch) : Bool :=
  let mine (r : Req) : Bool := r.colour == l.colour && decide (l.base ≤ r.wid.toNat ∧ r.wid.toNat < l.limit)
  s.transactions.any (fun m => match m with
    | .write r _ _ => mine r
    | .atomic a => a.issuers.any mine
    | .planar p => mine p.req
    | .kvBlocks r _ _ _ _ _ => mine r
    | _ => false)
  || s.cores.any (fun e => e.2.copies.any (fun d => d.team.launch == lk) || e.2.tickets.any fun k => s.ticketOpen lk k.2)
  || s.clusters.any (fun e => e.2.cops.toList.any fun p =>
      (p.active.toList ++ p.waiting.toList).any fun a => a.2.team.launch == lk)

/-- A commit of a launch: tickets of its tasks still fetching or ready are freed (R231, R344), the digest is extended, the event is
recorded at the coordinating die, and every die of the partition hears of the others (R316, R323). -/
def State.commit (s : State) (lk : Nat) (l : Launch) : State :=
  let s1 := { s with cores := s.cores.map fun (e : Nat × Core) => (e.1, { e.2 with
      tickets := e.2.tickets.map fun (x : Nat × TkEntry) =>
        if x.2.launch = lk ∧ (x.2.st = 1 ∨ x.2.st = 2) then (x.1, x.2.freed) else x }) }
  let s2 := (s1.digestUpdate l).trace (256 * l.coord) 0 0x0B l.colour 0 0 (l.phase.setWidth 64)
  match smapFind s2.parts l.part with
  | none => s2
  | some p =>
    let v := p.dies.foldl (fun v d => clockMax v (s2.die d).k) []
    p.dies.foldl (fun s d => s.hearClock d v) s2

/-! Rounds (R341). -/

/-- The parts of a core that belong to its occupant, as castling, pre-emption and rounds move them (R348, R367). -/
def Core.takeOccupant (pos occ : Core) : Core :=
  { pos with
    threads := occ.threads, arrivals := occ.arrivals, q := occ.q, n4 := occ.n4, inbox := occ.inbox, spad := occ.spad, fresh := occ.fresh
    teams := occ.teams, tiles := occ.tiles, slots := occ.slots, queue := occ.queue, active := occ.active, copies := occ.copies
    window := occ.window, winner := occ.winner, traffic := occ.traffic, sent := occ.sent, records := occ.records, bar := occ.bar
    swapDue := occ.swapDue }

/-- The logical cores of logical cluster g (R339). -/
def clusterLcores (g : Nat) : List Nat :=
  (List.range 16).map fun i => 32 * (4 * (g / 8) + i / 4) + 4 * (g % 8) + i % 4

/-- The key of a logical core's saved state. -/
def savedKey (lk L : Nat) : Nat := lk * 1024 + L

/-- The logical cluster that a physical cluster runs in round r, 64 or more where it has no such round (R340, R341). -/
def State.roundCluster (s : State) (p : Partition) (clu r : Nat) : Nat := (s.roundsOf p clu).getD r 64

/-- A core whose occupant a round puts in its place: the scratchpad of the colour stays used as far as it was (R400). -/
def Core.takeRound (pos occ : Core) : Core := { pos.takeOccupant occ with fresh := max pos.fresh occ.fresh }

/-- One logical cluster's state saved. -/
def State.saveRound (s : State) (lk : Nat) (l : Launch) (g : Nat) : State :=
  (clusterLcores g).foldl (fun s L =>
    { s.setCore (l.phys L) ((s.core (l.phys L)).takeRound Core.reset) with
      saved := smapPut s.saved (savedKey lk L) (s.core (l.phys L)) }) s

/-- One logical cluster's state restored, or empty before it starts. -/
def State.loadRound (s : State) (lk : Nat) (l : Launch) (g : Nat) : State :=
  (clusterLcores g).foldl (fun s L =>
    { s.setCore (l.phys L) ((s.core (l.phys L)).takeRound (smapGet Core.reset s.saved (savedKey lk L))) with
      saved := smapDel s.saved (savedKey lk L) }) s

/-- Only the launch's teams are on the cluster's cores: a round switch waits while another launch's are, of which the spec does not say what becomes
(DESIGN CHOICE, notes/assumptions/106.md). -/
def State.onlyLaunch (s : State) (lk clu : Nat) : Bool :=
  (clusterCores clu).all fun g => (s.core g).teams.all fun tm => tm.key.launch == lk

/-- ROUND_SWITCH: when every thread of the round's logical cluster has arrived or exited, it is saved, and the next round's restored
or started. -/
def execRoundSwitch (lk clu : Nat) (s : State) : Host.Outcome State Fault Refusal :=
  orNot "ROUND_SWITCH" (match s.launch? lk with
    | none => none
    | some l => match smapFind s.parts l.part with
      | none => none
      | some p =>
        let r := smapGet 0 l.rounds clu
        let g := s.roundCluster p clu r
        let g' := s.roundCluster p clu (r + 1)
        let d := s.die (clu / 16)
        let unbound := (d.table.map Prod.snd ++ d.backlog).any fun (x : BindRec) =>
          x.st != 2 && x.lent == l.lent && x.targets clu && s.inRound p l clu x
        let waits := (s.launchThreads lk).any fun t => logicalCluster (l.lcore t.team) == g && t.arrived != some l.phase
        if l.det = false ∨ 63 < g' ∨ p.resident ≠ l.colour ∨ p.switch ≠ .none ∨ unbound ∨ waits
            ∨ s.onlyLaunch lk clu = false then none
        else
          let fresh := l.phase = 0 ∧ l.committed = false
          let l1 := { l with rounds := smapPut l.rounds clu (r + 1) }
          let s1 := ((s.saveRound lk l g).loadRound lk l g').setLaunch lk l1
          some (if fresh then s1.addRecords (l1.records p.clusters fun L => logicalCluster L == g' && !s.takenOn p L) else s1))

/-- After a commit every physical cluster starts again at round 0. -/
def State.firstRounds (s : State) (lk : Nat) (l : Launch) (p : Partition) : State :=
  p.clusters.foldl (fun s clu =>
    let r := smapGet 0 l.rounds clu
    if r = 0 then s
    else (s.saveRound lk l (s.roundCluster p clu r)).loadRound lk l (s.roundCluster p clu 0)) s

/-- The threads of a launch after a phase commit: a release point of each die (R323). -/
def State.phaseRelease (s : State) (lk : Nat) (l : Launch) (p : Partition) : State :=
  p.dies.foldl (fun s d =>
    let y := s.releasePoint d []
    let rel (c : Core) : Core := { c with threads := c.threads.map fun o => o.map fun (t : Thread) =>
      if t.launch = lk then { t with release := y.2 } else t }
    { y.1 with
      cores := y.1.cores.map fun (e : Nat × Core) => (e.1, if dieOf e.1 = d then rel e.2 else e.2)
      saved := y.1.saved.map fun (e : Nat × Core) =>
        (e.1, if e.1 / 1024 = lk ∧ dieOf (l.phys (e.1 % 1024)) = d then rel e.2 else e.2) }) s

/-- PHASE_COMMIT (R344): in closing, once every write is performed, the phase commits and advances. -/
def execPhaseCommit (lk : Nat) (s : State) : Host.Outcome State Fault Refusal :=
  orNot "PHASE_COMMIT" (match s.launch? lk with
    | none => none
    | some l => match smapFind s.parts l.part with
      | none => none
      | some p =>
        if l.pst ≠ 1 ∨ (s.launchThreads lk).isEmpty ∨ s.writesOpen lk l ∨ p.resident ≠ l.colour ∨ p.switch ≠ .none
            ∨ p.dies.any (fun d => !s.relRoom d) then none
        else
          let l1 := { l with phase := l.phase + 1, pst := 0, committed := true, rounds := [] }
          some (((((s.commit lk l).phaseRelease lk l p).firstRounds lk l p).setLaunch lk l1).settlePhase lk))

/-- The notify contribution of a completed launch (R331): an add of 1, counted, if the cell translates with `wr`. -/
def State.notifyCell (s : State) (l : Launch) : Option State :=
  if 2 ^ 54 ≤ l.notify then none
  else match s.walkAccess l.coord l.colour Use.write l.notify with
    | .ok (.mem pa) =>
      some ((s.memStore l.colour (enumFrom pa (wordBytes 8 (BitVec.ofNat 64 (s.memNum pa 8 + 1))))).countCell l.colour pa 1)
    | _ => none

/-- LAUNCH_COMPLETE (R331): every team has retired and every write is performed; the last commit, the notice, the words left in
buffers discarded (R328), and the completion message; the digest of a colour that is left without a launch is signed (R401). -/
def execLaunchComplete (lk : Nat) (s : State) : Host.Outcome State Fault Refusal :=
  orNot "LAUNCH_COMPLETE" (match s.launch? lk with
    | none => none
    | some l =>
      if l.retired ≠ l.teams ∨ l.pst ≠ 1 ∨ !(s.launchThreads lk).isEmpty ∨ s.writesOpen lk l then none
      else
        let s1 := s.commit lk l
        let y : State × Bool := if l.notify = 0 then (s1, false) else match s1.notifyCell l with
          | some s2 => (s2, false)
          | none => (s1, true)
        let c := y.1.colour l.colour
        let final := (y.1.launchesOf l.colour).length ≤ 1
        let port := l.port.getD y.1.hostPort
        let s3 := (y.1.portUsed port l.colour).toHost port
          (.completion l.colour l.seq y.2 c.gap c.digest (if final then Config.signature c.digest else []))
        some { s3 with
          launches := smapDel s3.launches lk
          dies := s3.dies.map fun (e : Nat × Die) => (e.1, { e.2 with
            table := e.2.table.filter fun x => ((s.launchAt e.1 x.2.lent).map Prod.fst) != some lk })
          cores := s3.cores.map fun (e : Nat × Core) => (e.1, { e.2 with nin := e.2.nin.map fun xs => xs.filter fun w => w.1 != lk })
          saved := s3.saved.filter fun e => e.1 / 1024 != lk
          net := s3.net.filter fun m => match m with
            | .nword l _ _ _ _ _ => l != lk
            | _ => true })

end Sys2Proof.Machine
end

