-- ==== Sys2Proof/Machine/Castle.lean ====
section
/-! DEFINITION. Castling: swap instants, offers and the exchange of two cores' occupants (spec/14_tasks_scheduling.md R345–R349). -/
namespace Sys2Proof.Machine
open Sys2Proof

/-! Distances (R346, R313). -/

/-- From core x to core g, or to the router at which a message for core g leaves x's die. -/
def distTo (x g : Nat) : Nat :=
  (diePath x (match diesPassed (dieOf x) (dieOf g) with
    | [] => g
    | d :: _ => exitRouter x d)).length

/-! Conditions (R347, R349). -/

/-- The threefold rule bars the occupant: fewer than 2^24 messages have been sent since it began to. -/
def Core.barred (c : Core) : Bool :=
  match c.bar with
  | some b => decide ((c.sent + 2 ^ 40 - b) % 2 ^ 40 < 2 ^ 24)
  | none => false

/-- A core whose swap has been accepted and not yet made. -/
def State.swapping (s : State) (g : Nat) : Bool :=
  (s.core g).offerIn.isSome || match (s.core g).offer with
    | some q => (s.core q).offerIn == some g
    | none => false

/-- The core issues (R338, R348, R369): it is not stopped, its die not fenced, and no swap of it is under way. -/
def State.issues (s : State) (g : Nat) : Bool := !(s.core g).stop && !(s.die (dieOf g)).fenced && !s.swapping g

/-- A core not in a swap, a pre-emption or an engine migration, its issue not stopped and no thread of it halted by a debugger. -/
def State.unengaged (s : State) (g : Nat) : Bool :=
  let c := s.core g
  !s.swapping g && !c.stop && !c.checked && !c.anyHalted && c.guest.isNone && !(c.queue.any fun (e : Cmd) => e.state == 3)
    && ((s.partOfCore g).map fun p => p.2.switch == .none).getD true

/-- A team that castling may move. -/
def State.castlable (s : State) (tm : Team) : Bool := !tm.pin && ((s.launch? tm.key.launch).map Launch.castl).getD false

/-- The conditions of R347 for one core. -/
def State.maySwap (s : State) (g : Nat) : Bool :=
  let c := s.core g
  s.unengaged g && !c.barred && c.teams.all s.castlable
    && c.threads.toList.all fun o => match o with
      | some t => t.handed.isNone && t.park == .none
      | none => true

/-! The swap instant (R346). -/

/-- The position of a destination of a traffic table (R345): a vault's core, or a logical core's; in an unplaced launch each core is
its own logical core. -/
def State.posOf (s : State) (j : Nat) : Option Nat :=
  if j % 2 = 1 then some (j / 2)
  else (s.launch? (j / 2 / 2048)).map fun l => if l.unplaced then j / 2 % 2048 else l.phys (j / 2 % 2048)

/-- A destination is the occupant of core h. -/
def State.occupies (s : State) (h j : Nat) : Bool :=
  j % 2 == 0 && (s.core h).teams.any fun tm => tm.key.launch == j / 2 / 2048
    && ((s.launch? tm.key.launch).map fun l => (if l.unplaced then h else l.lcore tm.key.team) == j / 2 % 2048).getD false

/-- The change in distance of core p's traffic when its occupant moves to core q, entries for q's occupant left out (R346). -/
def State.trafficDelta (s : State) (p q : Nat) : Int :=
  ((s.core p).traffic.map fun e =>
    if s.occupies q e.1 then (0 : Int)
    else match s.posOf e.1 with
      | some g => (e.2 : Int) * ((distTo q g : Int) - (distTo p g : Int))
      | none => 0).sum

def State.swapDelta (s : State) (p q : Nat) : Int := s.trafficDelta p q + s.trafficDelta q p

/-- The neighbours of a core in its cluster, north, east, south, west. -/
def clusterNeighbours (g : Nat) : List Nat :=
  ([(15, 0), (0, 1), (1, 0), (0, 15)].map fun (d : Nat × Nat) =>
    256 * dieOf g + 16 * ((rowOf g + d.1) % 16) + (colOf g + d.2) % 16).filter fun q => clusterOf q == clusterOf g

/-- thr of cs.ctl. -/
def Die.thr (d : Die) : Int := intVal 32 true (d.csCtl.toNat % 2 ^ 32)

/-- The neighbour of least delta, the earlier direction on a tie. -/
def State.bestSwap (s : State) (p : Nat) : Option (Nat × Int) :=
  (clusterNeighbours p).foldl (fun m q => match m with
    | none => some (q, s.swapDelta p q)
    | some b => if s.swapDelta p q < b.2 then some (q, s.swapDelta p q) else m) none

/-- SWAP_INSTANT: the core may offer a swap, and halves the counts of its table. A bar that has run out is forgotten. -/
def execSwapInstant (g : Nat) (s : State) : Host.Outcome State Fault Refusal :=
  orNot "SWAP_INSTANT" (
    let c := s.core g
    if c.swapDue = false then none
    else
      let d := s.die (dieOf g)
      let offer : Option Nat := if d.csCtl.getLsbD 32 && c.offer.isNone && s.maySwap g then
          (match s.bestSwap g with
          | some b => if b.2 < d.thr then some b.1 else none
          | none => none)
        else none
      some (s.setCore g { c with
        swapDue := false
        bar := if c.barred then c.bar else none
        traffic := c.traffic.map fun e => (e.1, e.2 / 2)
        offer := if offer.isSome then offer else c.offer }))

/-- CASTLING_OFFER (R347): q answers p's offer. -/
def execCastlingOffer (p q : Nat) (s : State) : Host.Outcome State Fault Refusal :=
  orNot "CASTLING_OFFER" (
    let a := s.core p
    let b := s.core q
    if a.offer ≠ some q ∨ b.offerIn = some p ∨ p = q then none
    else
      let free := b.offer.isNone || b.offer == some p
      let ok := free && s.maySwap p && (if b.teams.isEmpty then s.unengaged q else s.maySwap q)
      some (if ok then s.setCore q { b with offerIn := some p, offer := none } else s.setCore p { a with offer := none }))

/-! The exchange (R348). -/

/-- One core name for the other. -/
def swapNames (p q g : Nat) : Nat := if g = p then q else if g = q then p else g

/-- A message addressed to a core, or an answer to one, forwarded to where its occupant has gone. -/
def forwardMsg (p q : Nat) : Msg → Msg
  | .reply tid id dst data k own => .reply tid id dst data k { own with core := swapNames p q own.core }
  | .amoReply tid id dst v k own => .amoReply tid id dst v k { own with core := swapNames p q own.core }
  | .redAck tid id k own => .redAck tid id k { own with core := swapNames p q own.core }
  | .nword l lc core dir w k => .nword l lc (swapNames p q core) dir w k
  | .context t src target cyc k => .context t src (swapNames p q target) cyc k
  | m => m

/-- The occupant with its castling recorded; the threefold rule bars it from now on if its third castling back lies within its last
2^24 messages (R349). -/
def Core.castled (c : Core) : Core :=
  if c.teams.isEmpty then c else
    let third := (c.sent :: c.records).getD 2 0
    { c with
      records := (c.sent :: c.records).take 3
      bar := if third ≠ 0 ∧ (c.sent + 2 ^ 40 - third) % 2 ^ 40 < 2 ^ 24 then some c.sent else c.bar }

/-- The n words of a core that belong to launches of a colour, or those that do not (R328, R348). -/
def State.ninOf (s : State) (colour : Nat) (mine : Bool) (c : Core) : Vector (List (Nat × Nat × Word)) 4 :=
  c.nin.map fun xs => xs.filter fun w => (((s.launch? w.1).map fun l => l.colour == colour).getD false) == mine

/-- The core of an unbound record of a placed launch of a colour follows its logical core (R328, R332). -/
def State.swapRec (s : State) (colour p q die : Nat) (r : BindRec) : BindRec :=
  if r.any = false ∧ dieOf p = die ∧ ((s.launchAt die r.lent).map fun l => l.2.colour) = some colour then
    { r with core := numOf (swapNames p q (256 * die + r.core)) }
  else r

/-- No line fetch or table walk of a core is unanswered, and no sector its copies have read is still to be written. -/
def Core.quiet (c : Core) : Bool :=
  c.fetches.isEmpty && c.walks.all (fun w => w.res.isSome) && c.copies.all fun x => x.got.isEmpty

/-- A `tld` of core p or q has still to read some of its groups. -/
def State.tldOpen (s : State) (p q : Nat) : Bool :=
  s.cores.any fun e => e.2.tickets.any fun k => k.2.rd.isSome && (k.2.src == p || k.2.src == q)

/-- Every request sent from the two cores has been performed, and every read a `tld` asked for is made: bp holds over the exchange. Answers are forwarded
(R324). -/
def State.quiet2 (s : State) (p q : Nat) : Bool :=
  (s.core p).quiet && (s.core q).quiet && !s.tldOpen p q
    && s.transactions.all fun m => m.answer?.isSome || (s.parties m).all fun x => x.1 != p && x.1 != q

/-- CASTLING_SWAP: the complete states are exchanged, the map is changed, and both cores resume. -/
def execCastlingSwap (p q : Nat) (s : State) : Host.Outcome State Fault Refusal :=
  orNot "CASTLING_SWAP" (
    let a := s.core p
    let b := s.core q
    let away (c : Core) : Bool := c.guest.isSome || c.queue.any fun (e : Cmd) => e.state == 3
    if a.offer ≠ some q ∨ b.offerIn ≠ some p ∨ p = q ∨ s.quiet2 p q = false ∨ away a ∨ away b then none
    else
      let colour := ((s.partOfCore p).map fun e => e.2.resident).getD 0
      let nin (old new : Core) : Vector (List (Nat × Nat × Word)) 4 :=
        Vector.zipWith (fun xs ys => xs ++ ys) (s.ninOf colour false old) (s.ninOf colour true new)
      let a' := { (a.takeOccupant b).castled with nin := nin a b, offer := none }
      let b' := { (b.takeOccupant a).castled with nin := nin b a, offerIn := none }
      let s1 := (s.setCore p a').setCore q b'
      let s2 := { s1 with
        launches := s1.launches.map fun (e : Nat × Launch) =>
          (e.1, if e.2.colour = colour then { e.2 with map := e.2.map.map (swapNames p q) } else e.2)
        net := s1.net.map (forwardMsg p q)
        dies := s1.dies.map fun (e : Nat × Die) => (e.1, { e.2 with
          table := e.2.table.map fun (x : Nat × BindRec) => (x.1, s.swapRec colour p q e.1 x.2)
          backlog := e.2.backlog.map (s.swapRec colour p q e.1) })
        clusters := s1.clusters.map fun (e : Nat × Cluster) => if e.1 ≠ clusterOf p then e else (e.1, { e.2 with
          casts := e.2.casts.map fun (x : Broadcast) => { x with
            taken := x.taken.foldl (fun m (y : Nat × Nat) => smapPut m (swapNames p q y.1) y.2) [] }
          cops := e.2.cops.map fun (x : Coproc) => ⟨x.active.map fun (y : Nat × Copy) => (swapNames p q y.1, y.2),
            x.waiting.map fun (y : Nat × Copy) => (swapNames p q y.1, y.2)⟩ }) }
      some ((s2.trace p 0 0x06 colour 0 0 (BitVec.ofNat 64 (numOf q))).trace q 0 0x06 colour 0 0 (BitVec.ofNat 64 (numOf p))))

end Sys2Proof.Machine
end

