-- ==== Sys2Proof/Machine/Preempt.lean ====
section
/-! DEFINITION. Pre-emption, threads resumed by the arbiter, core machine checks and lost dies (spec/15_traps_preemption.md
R362–R371; spec/14_tasks_scheduling.md R337, R338). -/
namespace Sys2Proof.Machine
open Sys2Proof

/-! Pre-emption (R366). -/

/-- The cores of a partition. -/
def Partition.cores (p : Partition) : List Nat := p.clusters.flatMap clusterCores

/-- A record of type 0x07 for each core of a partition (R383). -/
def State.tracePreempt (s : State) (p : Partition) (resume leaving entering : Nat) : State :=
  p.cores.foldl (fun s g => s.trace g 0 0x07 0 0 0 (BitVec.ofNat 64 (resume + 2 * leaving + 64 * entering))) s

/-- Active commands held, and held ones active again (R253). -/
def Core.holdCmds (c : Core) : Core :=
  { c with active := c.active.map fun (e : Cmd) => if e.state = 1 then { e with state := 4 } else e }
def Core.unholdCmds (c : Core) : Core :=
  { c with active := c.active.map fun (e : Cmd) => if e.state = 4 then { e with state := 1 } else e }

/-- Step 1: issue stops on every core of the partition. It waits while two of its cores swap (R347, R368). -/
def execPreemptStop (part colour : Nat) (s : State) : Host.Outcome State Fault Refusal :=
  orNot "PREEMPT_STOP" (match smapFind s.parts part with
    | none => none
    | some p =>
      if p.switch ≠ .none ∨ p.resident = colour ∨ p.colours.contains colour = false ∨ p.cores.any s.swapping then none
      else
        let s1 := { s with parts := smapPut s.parts part { p with switch := .stopping colour } }
        let s2 := p.cores.foldl (fun s g => s.setCore g { (s.core g).holdCmds with stop := true }) s1
        let s3 := p.clusters.foldl (fun s c => s.setCluster c { s.cluster c with group := none }) s2
        some (s3.tracePreempt p 0 p.resident colour))

/-- The in-flight counts of the partition's cores for its resident colour are zero, and none runs another core's command (R366). A core with a
machine check is not waited for (R368). -/
def State.drained (s : State) (p : Partition) : Bool :=
  p.cores.all fun g => (s.core g).checked || ((s.core g).guest.isNone && s.inFlight g p.resident == 0)

/-- Step 2 ends: the counts are zero, and the exchange starts. -/
def execPreemptDrainDone (part : Nat) (s : State) : Host.Outcome State Fault Refusal :=
  orNot "PREEMPT_DRAIN_DONE" (match smapFind s.parts part with
    | none => none
    | some p => match p.switch with
      | .stopping colour =>
        if s.drained p then some { s with parts := smapPut s.parts part { p with switch := .exchanging colour } } else none
      | _ => none)

/-- The key of a switched-out image. -/
def shadowKey (colour g : Nat) : Nat := colour * 2048 + g

/-- The image of colour b brought to the shadow storage of core g, which holds one for each core: another colour's there has been moved to vault
memory by the firmware, and b's has been moved back (R365; notes/assumptions/39.md). -/
def State.stage (s : State) (b g : Nat) : State :=
  let k := shadowKey b g
  let here (e : Nat × Core) : Bool := e.1 % 2048 == g
  let out := s.shadow.filter fun e => here e && e.1 != k
  { s with
    shadow := smapPut (s.shadow.filter fun e => !here e) k (smapGet (smapGet Core.reset s.moved k) s.shadow k)
    moved := out.foldl (fun m e => smapPut m e.1 e.2) (smapDel s.moved k) }

/-- One core's image and control state exchanged with those of another colour in the shadow storage (R365, R367). -/
def State.exchange (s : State) (a b g : Nat) : State :=
  let c := s.core g
  let s1 := s.stage b g
  let y := (c.takeOccupant (smapGet Core.reset s1.shadow (shadowKey b g))).unholdCmds
  { s1.setCore g { y with stop := c.checked, peCol := BitVec.ofNat 5 b } with
    shadow := smapPut (smapDel s1.shadow (shadowKey b g)) (shadowKey a g) (Core.reset.takeOccupant c) }

/-- The logical cores of a colour's launches mapped away from a core whose machine check stands when the colour comes in, with the records for them
(R371). A launch with a team in the core's image keeps its map: its job is to be discarded (R372; notes/assumptions/25.md). -/
def State.mapAway (s : State) (colour g : Nat) : State :=
  let h := s.liveFor g
  let held (lk : Nat) : Bool := (s.core g).teams.any fun tm => tm.key.launch == lk && !tm.retired
  let mine (e : Nat × Launch) : Bool := e.2.colour == colour && !held e.1
  let moved (die : Nat) (r : BindRec) : BindRec :=
    if r.any = false ∧ 256 * die + r.core = g ∧ ((s.launchAt die r.lent).map mine) = some true then { r with core := numOf h } else r
  if (s.core g).checked = false ∨ h = g then s
  else { s with
    launches := s.launches.map fun (e : Nat × Launch) =>
      (e.1, if mine e then { e.2 with map := e.2.map.map fun x => if x = g then h else x } else e.2)
    dies := s.dies.map fun (e : Nat × Die) => (e.1, { e.2 with
      table := e.2.table.map fun (x : Nat × BindRec) => (x.1, moved e.1 x.2)
      backlog := e.2.backlog.map (moved e.1) }) }

/-- Steps 3 and 4: the images have been exchanged and the new colour resumes; a core with a machine check stays stopped. -/
def execPreemptExchangeDone (part : Nat) (s : State) : Host.Outcome State Fault Refusal :=
  orNot "PREEMPT_EXCHANGE_DONE" (match smapFind s.parts part with
    | none => none
    | some p => match p.switch with
      | .exchanging colour =>
        let s1 := p.cores.foldl (fun s g => s.exchange p.resident colour g) s
        let s2 := p.cores.foldl (State.mapAway · colour) { s1 with parts := smapPut s1.parts part { p with switch := .none, resident := colour } }
        some (s2.syncHeld.tracePreempt p 1 p.resident colour)
      | _ => none)

/-! The arbiter's part in traps (R362, R364). -/

/-- A thread that was handed over resumes at a pc; the winner of a collection window then releases the parked threads (R364). The resume is no checked
transfer, as R39 lists none (DESIGN CHOICE, notes/assumptions/83.md). -/
def execArbiterResumeThread (g slot : Nat) (pc : Word) (inh : Bool) (s : State) : Host.Outcome State Fault Refusal :=
  orNot "ARBITER_RESUME_THREAD" (match s.thread g slot with
    | none => none
    | some t =>
      if t.handed.isNone then none
      else
        let u : Thread := { t.setInh inh with handed := none, pc := pc, entry := none, vector := none, retry := false, kv := [], fromWin := false }
        let c := (s.core g).setThread slot (some (if inh then u else u.sentBack))
        some (s.setCore g (if t.fromWin then c.release else c)))

/-! Core machine checks (R370, R371). -/

/-- A report of a core machine check for the black box (R389). -/
def checkCause (cause : Nat) : Word := causeWord (preciseReport kindCheck cause 0 0) false 0

/-- An uncorrectable error in an array of the core: issue and engines stop, mc.stat records the cause and the slot offered, the
die's recorders freeze (R374), and the arbiter is notified. A swap or drain under way goes on without the core (R368). -/
def State.machineCheck (s : State) (g cause : Nat) : State :=
  let c := s.core g
  let s1 := s.trace g (c.cyc % 16) 0x01 0 0 0 (checkCause cause)
  let s2 := s1.setCore g { c with
    stop := true, checked := true, mcCause := BitVec.ofNat 4 cause, mcSlot := BitVec.ofNat 4 (c.cyc % 16), swapDue := false }
  s2.freezeDie (dieOf g) 4

def execCoreMachineCheck (g cause : Nat) (s : State) : Host.Outcome State Fault Refusal :=
  orNot "CORE_MACHINE_CHECK" (if 2048 ≤ g ∨ cause = 0 ∨ 5 < cause then none else some (s.machineCheck g cause))

/-! Lost dies (R337, R338). -/

/-- The live dies. -/
def State.liveDies (s : State) : List Nat := (List.range 8).filter fun d => !(s.die d).fenced

/-- An arbiter's heartbeat (R337): each other die counts it as missed in a row, or not. -/
def execHeartbeat (die : Nat) (missed : List Nat) (s : State) : Host.Outcome State Fault Refusal :=
  orNot "HEARTBEAT" (
    if 8 ≤ die ∨ (s.die die).fenced then none
    else some ((s.liveDies.filter fun d => d != die).foldl (fun s d =>
      let x := s.die d
      let n := if missed.contains d then smapGet 0 x.misses die + 1 else 0
      s.setDie d { x with misses := smapPut x.misses die n }) s))

/-- The teams of a launch with tasks on a die: bound there, switched out or saved with a round there, or with a thread there or whose
way leads through it: R338 names the teams bound there, and one bound elsewhere that loses a thread is re-cut whole too (DESIGN CHOICE,
notes/assumptions/105.md). -/
def State.teamsOnDie (s : State) (lk die : Nat) (l : Launch) : List Nat :=
  let cs := (s.cores.filter fun e => dieOf e.1 == die) ++ ((s.shadow ++ s.moved).filter fun e => dieOf (e.1 % 2048) == die)
    ++ s.saved.filter fun e => e.1 / 1024 == lk && dieOf (l.phys (e.1 % 1024)) == die
  let moving := s.net.filterMap fun m => match m with
    | .context t source target _ _ => if t.launch = lk ∧ (pathDies (dieOf source) (dieOf target)).contains die then some t.team else none
    | _ => none
  ((cs.flatMap fun e => (e.2.teams.filterMap fun tm => if tm.key.launch = lk ∧ tm.retired = false then some tm.key.team else none)
    ++ (e.2.threads.toList.filterMap id ++ e.2.arrivals).filterMap fun t => if t.launch = lk then some t.team else none) ++ moving).dedup

/-- The unbound teams of a launch in the records of a die, or in a steal reply to or from it, and those of a deterministic launch whose round there is still
to come. -/
def State.recordsOnDie (s : State) (lk : Nat) (l : Launch) (p : Partition) (die : Nat) : List Nat :=
  let d := s.die die
  let later : List Nat := if l.det && !l.committed then (List.range l.teams).filter fun T =>
      let y := s.detPlace p (l.lcore T)
      dieOf y.1 == die && decide (smapGet 0 l.rounds (clusterOf y.1) < y.2)
    else []
  ((d.table.map Prod.snd ++ d.backlog).filter fun (r : BindRec) => r.st != 2 && r.lent == l.lent && s.onDie l die).flatMap
    (fun r => (List.range r.unstarted).map fun i => r.team + i)
  ++ later ++ s.net.flatMap fun m => match m with
    | .stealReply thief blocks victim _ =>
      if thief / 16 = die ∨ victim / 16 = die then
        blocks.filterMap fun b => if b.2 = lk then some (b.1.toNat % 2 ^ 30) else none
      else []
    | _ => []

/-- Where the master puts a core of a fenced die: the like core of the cluster that stands in for its own, if it is live. The rule leaves the core to the
master (DESIGN CHOICE, notes/assumptions/104.md). -/
def State.moveCore (s : State) (p : Partition) (g : Nat) : Nat :=
  if (s.die (dieOf g)).fenced then s.liveFor (coreAt (s.standIn p (clusterOf g)) (indexOf g)) else g

/-- A cluster without the transforms, broadcasts and group in progress that tests name. -/
def Cluster.without (k : Cluster) (team : TeamKey → Bool) (launch : Nat → Bool) : Cluster :=
  let keep (o : Option (Nat × Copy)) : Option (Nat × Copy) := o.filter fun a => !team a.2.team
  { k with
    cops := k.cops.map fun (x : Coproc) => match keep x.active with
      | some a => ⟨some a, keep x.waiting⟩
      | none => ⟨keep x.waiting, none⟩
    casts := k.casts.filter fun b => !launch b.launch
    group := k.group.filter fun x => !launch x.1 }

/-- Teams of a reissuable launch cut into new records on live dies (R338), those of one cluster group for one cluster (R327); their threads elsewhere and
their copies and transforms go with them, and what was saved with a round on the fenced die is lost. The phase is open again until the re-cut teams have
arrived (R344). An unplaced group goes to the live cluster of its number modulo their count (DESIGN CHOICE, notes/assumptions/104.md). -/
def State.reissue (s : State) (lk : Nat) (l : Launch) (p : Partition) (bound unbound : List Nat) : State :=
  let l1 := { l with map := l.map.map (s.moveCore p), pst := 0 }
  let live := p.clusters.filter fun c => !(s.die (c / 16)).fenced
  let t (u : Thread) : Bool := u.launch == lk && bound.contains u.team
  let k (x : TeamKey) : Bool := x.launch == lk && bound.contains x.team
  let strip (e : Nat × Core) : Nat × Core := (e.1, e.2.without t k fun _ => false)
  let s1 := { s.setLaunch lk l1 with
    cores := s.cores.map strip
    shadow := s.shadow.map strip
    moved := s.moved.map strip
    saved := (s.saved.filter fun (e : Nat × Core) => !(e.1 / 1024 == lk && (s.die (dieOf (l.phys (e.1 % 1024)))).fenced)).map strip
    clusters := s.clusters.map fun (e : Nat × Cluster) => (e.1, e.2.without k fun _ => false)
    net := s.net.filter fun m => !m.contextOf t }
  s1.addRecords ((bound ++ unbound).map fun T =>
    if l.unplaced then
      let c := live.getD (l.group T % max 1 live.length) 0
      (c / 16, l1.recFor true c 0 T 1)
    else
      let g := l1.phys (l1.lcore T)
      (dieOf g, l1.recFor false (clusterOf g) g T 1))

/-- A launch is re-cut rather than discarded (R338): reiss is set, no phase has committed, and the banks of a deterministic one's rounds still fit their
vaults (R340; notes/assumptions/104.md). -/
def State.mayRecut (s : State) (l : Launch) (p : Partition) : Bool :=
  l.reiss && !l.committed && !(l.det && decide (4096 < s.mostRounds p * l.vbank + s.partFrame l.colour p))

/-- A message from a fenced die, or for a place on one or behind one on its path. A claim or query of a live core is not lost: it is denied. Nor is a
notice that names a core where the colour is not, or no longer: it is dropped and counted (R305). -/
def State.onFenced (s : State) (m : Msg) : Bool :=
  let lost (g : Nat) : Bool := (s.die (dieOf g)).fenced
  match m with
  | .inbox none core e src _ => s.clusterOk e.colour (clusterOf core) && (lost src || !s.reaches src core)
  | .inbox _ core _ src _ => lost src || !s.reaches src core
  | .context _ source target _ _ => lost source || !s.reaches source target
  | .nword _ _ core _ _ _ => match (s.parties m).head? with
    | some (g, _) => lost g || !s.reaches g core
    | none => lost core
  | .stealReply thief _ victim _ => lost (coreAt thief 0) || lost (coreAt victim 0)
  | .fwdLine _ _ _ own => lost own.core
  | .rejoin _ _ _ own => lost own.core
  | m => match m.answer?, s.routeOf m with
    | some l, _ => lost l.core || !s.wayBack l
    | none, some (src, home, _) => lost src || (!m.alwaysAnswered && !s.reaches src home)
    | none, none => match (s.parties m).head? with
      | some (g, _) => lost g
      | none => false

/-- The die fenced: its gateways pass nothing, what was on it or on its way to it or through it is lost, its cores are empty and stopped,
and no live die waits for its release points. -/
def State.cutOff (s : State) (die : Nat) : State :=
  let d := s.die die
  let s1 := s.setDie die { d with fenced := true, table := [], backlog := [], gate := [] }
  let lost := s1.net.filter s1.onFenced ++ d.gate.map (fun x => Msg.atomic x.2)
    ++ (s1.dies.flatMap fun e => (e.2.gate.filter fun x => x.1 == die).map fun x => Msg.atomic x.2)
    ++ s1.cores.flatMap fun e => if dieOf e.1 = die then e.2.held else []
  let s2 := { s1 with
    net := s1.net.filter fun m => !s1.onFenced m
    cores := s1.cores.map fun (e : Nat × Core) => (e.1, if dieOf e.1 = die then Core.reset else e.2)
    clusters := s1.clusters.map fun (e : Nat × Cluster) => (e.1, if e.1 / 16 = die then e.2.without (fun _ => true) (fun _ => true) else e.2)
    dies := s1.dies.map fun (e : Nat × Die) => (e.1, { e.2 with gate := e.2.gate.filter fun x => x.1 != die })
    shadow := s1.shadow.filter fun e => dieOf (e.1 % 2048) != die
    moved := s1.moved.filter fun e => dieOf (e.1 % 2048) != die }
  let s3 := (lost.flatMap Msg.accesses).foldl (fun s a => s.performed a.1 a.2) s2
  s3.liveDies.foldl (fun s d =>
    let top := (s.liveDies.map fun x => (s.die x).k.getD die 0).foldl max 0
    s.setDie d { s.die d with front := (s.die d).front.set die top }) s3

/-- DIE_FENCE: after four heartbeats missed in a row, or a die-wide machine check reported by its arbiter. Launches are taken over,
re-cut or discarded (R338), TDIs of its partitions enter ERROR (R399), and the black boxes that are not frozen keep the event (R389). A launch of a
locked or running TDI is re-cut and then discarded with it: which of R338 and R399 comes first is not said (DESIGN CHOICE, notes/assumptions/79.md). -/
def execDieFence (die : Nat) (dieCheck : Bool) (s : State) : Host.Outcome State Fault Refusal :=
  orNot "DIE_FENCE" (
    let late := s.liveDies.any fun d => d != die && decide (4 ≤ smapGet 0 (s.die d).misses die)
    if 8 ≤ die ∨ (s.die die).fenced ∨ (late = false ∧ dieCheck = false) then none
    else
      let work := s.launches.filterMap fun e =>
        match smapFind s.parts e.2.part with
        | some p =>
          let bound := s.teamsOnDie e.1 die e.2
          let unbound := (s.recordsOnDie e.1 e.2 p die).filter fun T => !bound.contains T
          if bound.isEmpty && unbound.isEmpty then none else some (e.1, p, bound, unbound)
        | none => none
      let s1 := s.cutOff die
      let master := s1.liveDies.headD 0
      let s2 := { s1 with launches := s1.launches.map fun (e : Nat × Launch) =>
        (e.1, if e.2.coord = die then { e.2 with coord := master } else e.2) }
      let s3 := work.foldl (fun s (w : Nat × Partition × List Nat × List Nat) => match s.launch? w.1 with
        | some l =>
          if s.mayRecut l w.2.1 then s.reissue w.1 l w.2.1 w.2.2.1 w.2.2.2 else s.discardJob l.colour
        | none => s) s2
      let hit := ((s3.parts.filter fun p => p.2.clusters.any fun c => c / 16 == die).flatMap fun p => p.2.colours).dedup
      let s4 := hit.foldl State.tdiError s3
      some ((s4.liveDies.filter fun d => !s4.blackFrozen d).foldl (fun s d =>
        s.setDie d ((s.die d).putBlack (mkRec (s.die d).cyc 0x10 0 0 0 0 0 5))) s4))

end Sys2Proof.Machine
end

