-- ==== Sys2Proof/Machine/Debug.lean ====
section
/-! DEFINITION. Breakpoints, the debug table, event recorders and the instructions of class 0x26 (spec/16_debug.md R376–R391). -/
namespace Sys2Proof.Machine
open Sys2Proof

/-! Class 0x26 (R391). -/

def execBrk (gd : Guard) (f : Fields) (s : State) : Host.Outcome State Fault Refusal :=
  turn gd s (fun _ => []) fun x => x.trapNext kindBreak ((Fields.imm f).toNat % 256)

/-- `trc`: a record of type 0x80 + tag, if the recorder is on with class bit 0. -/
def execTrc (gd : Guard) (f : Fields) (s : State) : Host.Outcome State Fault Refusal :=
  turn gd s (fun x => srcWaits x [] [f.src1]) fun x =>
    let r := x.take [f.src1]
    let s1 := x.s.trace x.g x.slot (0x80 + Fields.bits f 0 7) x.t.colour x.t.wid x.t.pc (val r.1 0)
    (x.on s1).finish r.2.1 r.2.2

/-! Breakpoints (R376–R378). -/

/-- An entry names a thread, wherever its pc is. -/
def Breakpoint.names (b : Breakpoint) (t : Thread) : Bool :=
  b.v && t.colour == b.colour && ((t.wid ^^^ b.wval) &&& b.wmask) == 0

/-- The lowest entry that matches a thread about to issue at one of these pcs. -/
def State.breakFor (s : State) (t : Thread) (pcs : List Word) : Option Nat :=
  (s.breaks.find? fun e => e.2.names t && pcs.contains e.2.pc).map Prod.fst

/-- A function on every thread of the package. -/
def State.mapThreads (s : State) (f : Thread → Thread) : State :=
  let ofCore (c : Core) : Core := { c with threads := c.threads.map (Option.map f), arrivals := c.arrivals.map f }
  { s with
    cores := s.cores.map fun (e : Nat × Core) => (e.1, ofCore e.2)
    shadow := s.shadow.map fun (e : Nat × Core) => (e.1, ofCore e.2)
    moved := s.moved.map fun (e : Nat × Core) => (e.1, ofCore e.2)
    saved := s.saved.map fun (e : Nat × Core) => (e.1, ofCore e.2)
    net := s.net.map fun m => match m with
      | .context t a b c k => .context (f t) a b c k
      | m => m }

/-- The threads that a halt asks to halt at their next turn: the thread's team, or every thread of its colour. -/
def Breakpoint.asks (b : Breakpoint) (t u : Thread) : Bool :=
  u.tid != t.tid && ((b.scope == 1 && u.key == t.key) || (b.scope == 2 && u.colour == t.colour))

/-- BREAKPOINT_HALT: the thread of a slot halts at its turn, before decoding; nothing of its instruction or pair takes effect (R377). The
first issue after a resume matches no entry (R378), and a thread that its core, an answer or a report keeps from issuing matches none. Whether
what is at its pc is ready, alone or as a pair, is the core's to see, which places this step before the instruction; as a move of its own it is that
cycle of the core (`haltMove`). -/
def execBreakpointHalt (g slot entry : Nat) (s : State) : Host.Outcome State Fault Refusal :=
  orNot "BREAKPOINT_HALT" (match s.thread g slot, smapFind s.breaks entry with
    | some t, some b =>
      let c := s.core g
      if s.issues g = false ∨ c.cyc % 16 ≠ slot ∨ t.halted ∨ t.handed.isSome ∨ t.waitAns ∨ t.denied.isSome ∨ t.park ≠ .none ∨ (t.reports ≠ [] ∧ t.inh = false)
          ∨ t.pass ∨ t.second ∨ b.names t = false ∨ (b.pc ≠ t.pc ∧ b.pc ≠ succPc t.pc) then none
      else
        let s1 := s.mapThreads fun u => if b.asks t u then { u with haltReq := true } else u
        let s2 := s1.onTid t.tid fun u => { u with halted := true, steps := none, retry := false }
        some { s2.trace g slot 0x02 t.colour t.wid t.pc (BitVec.ofNat 64 entry) with cls := .vacant }
    | _, _ => none)

/-- DEBUG_RESUME (R378): a count of 0 runs on; the first issue matches no entry. -/
def execDebugResume (g slot count : Nat) (s : State) : Host.Outcome State Fault Refusal :=
  orNot "DEBUG_RESUME" (match s.thread g slot with
    | some t =>
      if t.halted then
        some (s.setThread g slot (some { t with
          halted := false, haltReq := false, pass := true, steps := if count = 0 then none else some count }))
      else none
    | none => none)

/-- DEBUG_TABLE_WRITE: an entry or a watchpoint, the same on every die (R376, R379). -/
def execDebugTableWrite (w : DebugWrite) (s : State) : Host.Outcome State Fault Refusal :=
  orNot "DEBUG_TABLE_WRITE" (match w with
    | .breakpoint i w0 wval wmask pc =>
      if 64 ≤ i then none
      else some { s with breaks := smapPut s.breaks i (⟨w0.getLsbD 0, wbits w0 1 5,
          BitVec.ofNat 2 (wbits w0 6 2), wval, wmask, pc &&& 0xFFFFFFFFFFFFFFC7⟩ : Breakpoint) }
    | .watch colour wid k base ctl =>
      some (s.watchPut colour wid k.val fun x => watchCtl ctl (watchBase base x)))

/-! Recorders (R384–R387). -/

/-- The sample period of a cluster. -/
def Cluster.period (k : Cluster) : Nat := 2 ^ (12 + wbits k.tcCtl 18 3)

/-- The code of a slot class in R102's order. -/
def SlotClass.code : SlotClass → Nat
  | .issued => 0
  | .mem => 1
  | .msg => 2
  | .vacant => 3

/-- TRACE_SAMPLE: a record for the thread in the slot that this core has just offered, once a period. -/
def execTraceSample (g : Nat) (s : State) : Host.Outcome State Fault Refusal :=
  orNot "TRACE_SAMPLE" (
    let c := s.core g
    if s.cur.g ≠ g ∨ c.cyc = c.sampled ∨ c.cyc % (s.cluster (clusterOf g)).period ≠ 0 then none
    else
      let s1 := s.setCore g { c with sampled := c.cyc }
      let p := BitVec.ofNat 64 s.cls.code
      some (match s.thread g s.cur.slot with
        | some t => s1.trace g s.cur.slot 0x08 t.colour t.wid t.pc p
        | none => s1.trace g s.cur.slot 0x08 0 0 0 p))

def execTcUnfreeze (clu : Nat) (s : State) : Host.Outcome State Fault Refusal :=
  orNot "TC_UNFREEZE" (if clu < 128 then some (s.setCluster clu { s.cluster clu with frz := false }) else none)

/-- Where the next record goes in the sink, under the arbiter's colour 0; none where there is no sink or it does not translate. -/
def State.sinkAddr (s : State) (clu : Nat) : Option Place :=
  let k := s.cluster clu
  if k.tcCtl.getLsbD 17 then none
  else match s.walkAccess (clu / 16) 0 Use.write (wbits k.tcSink 12 43 * 4096 + 32 * k.wofs.toNat) with
    | .ok p => some p
    | _ => none

/-- The 32 bytes of a record. -/
def TraceRec.bytes (r : TraceRec) : List Byte := [r.w0, r.w1, r.w2, r.w3].flatMap (wordBytes 8)

/-- The oldest record written to the sink, a ring of 2^(16+lsz) bytes. -/
def State.sinkWrite (s : State) (clu : Nat) : Option State :=
  let k := s.cluster clu
  match k.recs, s.sinkAddr clu with
  | r :: rest, some p =>
    some ((s.placeWrite 0 p r.bytes).setCluster clu { k with
      recs := rest, wofs := BitVec.ofNat 32 ((k.wofs.toNat + 1) % 2 ^ (11 + wbits k.tcSink 0 4)) })
  | _, _ => none

def execTraceSinkWrite (clu : Nat) (s : State) : Host.Outcome State Fault Refusal :=
  orNot "TRACE_SINK_WRITE" (s.sinkWrite clu)

/-- At most n records written, while the sink accepts them. -/
def State.sinkAll (s : State) (clu : Nat) : Nat → State
  | 0 => s
  | n + 1 => match s.sinkWrite clu with
    | some s' => s'.sinkAll clu n
    | none => s

/-- RECORDER_DRAIN: the records held go to the sink. -/
def execRecorderDrain (clu : Nat) (s : State) : Host.Outcome State Fault Refusal :=
  orNot "RECORDER_DRAIN" (if (s.sinkWrite clu).isSome then some (s.sinkAll clu (s.cluster clu).recs.length) else none)

/-- SINK_TIMEOUT: a sink that accepts nothing; the remaining records are dropped and counted for the loss record. -/
def execSinkTimeout (clu : Nat) (s : State) : Host.Outcome State Fault Refusal :=
  orNot "SINK_TIMEOUT" (
    let k := s.cluster clu
    if k.recs.isEmpty ∨ (s.sinkWrite clu).isSome then none
    else some (s.setCluster clu { k with recs := [], dropped := k.dropped + k.recs.length }))

/-- ARBITER_WATCHDOG_EXPIRY: the die freezes if tc.frz has wdog set. -/
def execArbiterWatchdogExpiry (die : Nat) (s : State) : Host.Outcome State Fault Refusal :=
  orNot "ARBITER_WATCHDOG_EXPIRY" (if die < 8 then some (s.trigger die 2) else none)

/-- CLOCK_FREEZE (R390). -/
def execClockFreeze (s : State) : Host.Outcome State Fault Refusal := .next { s with frozen := true }

end Sys2Proof.Machine
end

