-- ==== Sys2Proof/Machine/Package.lean ====
section
/-! DEFINITION. The host link, peer ports, trusted device interfaces, power-up and reset (spec/17_host_package.md R392–R404;
spec/16_debug.md R385, R389, R390). -/
namespace Sys2Proof.Machine
open Sys2Proof

/-! Links (R393–R396). -/

/-- The die of a host or peer port (R398). -/
def portDie (p : Nat) : Nat := if p = 0 then 0 else if p = 1 then 7 else (p - 2) / 2

/-- The 96-bit nonce of a message (R398): its number, its direction, a port number. On a host port direction 0 is from the host and the port
is the device's; on a peer link direction 0 is from the SPDM requester, whose port it is. -/
def nonce (seq dir port : Nat) : Nat := seq % 2 ^ 32 + 2 ^ 32 * (dir % 2) + 2 ^ 33 * (port % 32)

/-- A message of the host that needs a session: a launch, a descriptor or a job's output regions (R396, R398). -/
def LinkMsg.inSession : LinkMsg → Bool
  | .launch _ _ _ => true
  | .dmaWrite _ _ _ => true
  | .dmaRead _ _ _ => true
  | .regions _ _ => true
  | _ => false

/-- SESSION_END (R398): the session of a port ends, and every TDI whose traffic uses the port enters ERROR: the colours whose launches, descriptors,
regions or peer accesses have gone by it, and those locked by it. What the host has sent in the session and no one has taken yet goes with it. -/
def State.endSession (s : State) (port : Nat) : State :=
  let p := s.port port
  let uses (c : Nat) : Bool := p.users.contains c || (decide (port < 2) && (s.colour c).port == port)
  let s1 := s.setPort port { p with sess := false, tagRun := 0, spdm := 0, users := [], rxq := p.rxq.filter fun m => !LinkMsg.inSession m }
  ((List.range 32).filter uses).foldl State.tdiError s1

/-- A session begins under fresh keys. -/
def Port.open_ (p : Port) : Port := { p with sess := true, tagRun := 0, sent := 0, got := 0 }.flush

/-- The bytes of payload of a message (R392): a launch has its colour and priority in 8 bytes before its header, a descriptor its colour,
address and length in 24, a region its address and length in 16 (the layout is the model's, notes/assumptions/26.md). -/
def LinkMsg.payload : LinkMsg → Nat
  | .launch _ _ header => 8 + 8 * header.length
  | .dmaWrite _ _ bytes => 24 + bytes.length
  | .dmaRead _ _ _ => 24
  | .spdm _ => 4
  | .tdisp _ _ => 16
  | .regions _ rs => 8 + 16 * rs.length
  | .peerRead _ _ segs => 8 + 16 * segs.length
  | .peerWrite _ _ bytes => 16 + bytes.length
  | .peerAtomic _ _ _ _ _ _ _ _ => 48

/-- A message is one of its class: a header of 8 words, a payload and an answer of at most 4,096 bytes, regions of whole 64-byte blocks, at
most 16 (R326, R392, R401). -/
def LinkMsg.fits (m : LinkMsg) : Bool :=
  decide (LinkMsg.payload m ≤ 4096) && match m with
    | .launch colour _ header => header.length == 8 && decide (colour < 32)
    | .dmaWrite colour _ _ => decide (colour < 32)
    | .dmaRead colour _ len => decide (len ≤ 4096 - 16) && decide (colour < 32)
    | .regions colour rs => decide (rs.length ≤ 16) && decide (colour < 32)
        && rs.all fun r => r.1.toNat % 64 == 0 && r.2 % 64 == 0
    | .peerRead _ colour _ => decide (colour < 32)
    | .peerWrite _ colour _ => decide (colour < 32)
    | .peerAtomic _ colour _ _ _ _ _ _ => decide (colour < 32)
    | _ => true

/-- The atomic of an op field of class 0x1C (R298, R300, R303) as another package asks for it: whether it returns, and the operation. -/
def peerOp (op : Nat) : Option (Bool × AtomOp) :=
  match op with
  | 0x00 => some (true, .add)
  | 0x01 => some (true, .min)
  | 0x02 => some (true, .max)
  | 0x03 => some (true, .and)
  | 0x04 => some (true, .or)
  | 0x05 => some (true, .xor)
  | 0x06 => some (true, .swap)
  | 0x07 => some (true, .cas)
  | 0x10 => some (false, .add)
  | 0x11 => some (false, .min)
  | 0x12 => some (false, .max)
  | 0x13 => some (false, .and)
  | 0x14 => some (false, .or)
  | 0x15 => some (false, .xor)
  | 0x18 => some (false, .x)
  | _ => none

/-- A range of bytes lies in one vault of the package. -/
def inVault (a n : Nat) : Bool := decide (0 < n ∧ a + n ≤ 2 ^ 39 ∧ homeCore a = homeCore (a + n - 1))

/-- A request of another package as a message of the fabric (R395): the source is the peer port, the name its tag, the colour the one it bears (R26);
it has no thread of this package and no clock. None where it names no bytes of one vault. -/
def peerRequest (port : Nat) (msg : LinkMsg) : Option Msg :=
  let req (tag colour : Nat) (wid : Word) : Req := ⟨tag, 2 ^ 64 + port, 2048 + port, 0, colour, wid, 0, false, [], []⟩
  match msg with
  | .peerRead tag colour segs =>
    if !segs.isEmpty && segs.all (fun e => inVault e.1 e.2 && homeCore e.1 == homeCore (segs.headD (0, 0)).1) then
      some (.read (req tag colour 0) segs .none 0)
    else none
  | .peerWrite tag colour bytes =>
    if !bytes.isEmpty && bytes.all (fun b => inVault b.1 1 && homeCore b.1 == homeCore (bytes.headD (0, 0)).1) then
      some (.write (req tag colour 0) bytes 0)
    else none
  | .peerAtomic tag colour op ty addr v c wid =>
    (peerOp op).bind fun o =>
      let n := atomBytes o.2 ty
      if inVault addr n && addr % n == 0 then
        some (.atomic ⟨req tag colour wid, o.2, ty, addr, 0, v, c, if o.1 then some 0 else none, none, [], true, false, false, []⟩)
      else none
  | _ => none

/-- Numbers from the next one expected to a message's, on the ring of 2^32 − 1 numbers (R393): less than half of it is later. -/
def seqAhead (next seq : Nat) : Nat := (seq + (2 ^ 32 - 1) - next) % (2 ^ 32 - 1)

/-- A message accepted: numbered, acknowledged and counted under the port's keys (R393, R398). -/
def Port.accept (p : Port) (seq : Nat) : Port :=
  { p with rxl := seq, tagRun := 0, got := p.got + 1, ctl := p.ctl ++ [.ack seq] }

/-- Another package's request is traffic of its colour on the port (R398). -/
def State.peerUsed (s : State) (port : Nat) (m : Msg) : State :=
  match m.access? with
  | some r => s.portUsed port r.colour
  | none => s

/-- LINK_MESSAGE_RECEIVE: a message whose tag fails is dropped and counted and asked for again, 16 in a row end the session; a message with
the next number is accepted; an earlier one is acknowledged as a duplicate, and a later one has the missing one asked for. A peer port
takes requests of its package in a session only, a host port launches and descriptors. -/
def execLinkMessageReceive (port seq : Nat) (tagOk : Bool) (msg : LinkMsg) (s : State) : Host.Outcome State Fault Refusal :=
  orNot "LINK_MESSAGE_RECEIVE" (
    let p := s.port port
    let next := nextSeq p.rxl
    if 18 ≤ port ∨ p.up = false ∨ seq = 0 ∨ 2 ^ 32 ≤ seq ∨ LinkMsg.fits msg = false ∨ keyLife ≤ p.got ∨ ((2 ≤ port ∨ LinkMsg.inSession msg) ∧ p.sess = false) then none
    else if tagOk = false then
      let s1 := s.setPort port { p with tagf := min 255 (p.tagf + 1), tagRun := p.tagRun + 1, ctl := p.ctl ++ [.resend next] }
      some (if 16 ≤ p.tagRun + 1 then s1.endSession port else s1)
    else if seq = next then
      if port < 2 then some (s.setPort port { p.accept seq with rxq := p.rxq ++ [msg] })
      else (peerRequest port msg).map fun m => ((s.setPort port (p.accept seq)).send m).peerUsed port m
    else
      some (s.setPort port { p with
        tagRun := 0, ctl := p.ctl ++ [if seqAhead next seq < 2 ^ 31 then .resend next else .ack seq] }))

/-- The status of a port in the layout of lk.stat (R394, R396). -/
def Port.stat (p : Port) : Word :=
  BitVec.ofNat 64 ((if p.up then 1 else 0) + (if p.sess then 2 else 0) + 4 * p.tagf + (if 4096 ≤ p.store.length then 2 ^ 10 else 0))

/-- lk.boot of a host port (R403): 0xFF for a die that has not reported. -/
def State.lkBootWord (s : State) (host : Nat) : Word :=
  BitVec.ofNat 64 (((List.range 8).map fun d => smapGet 0xFF s.lkBoot (8 * host + d) * 2 ^ (8 * d)).sum)

/-- The register at an offset of a host port's management space as the host reads it: lk.seq, lk.ack, lk.stat, lk.boot, and the status of
each peer port (R394, R396, R403). -/
def State.portSpace (s : State) (host off : Nat) : Option Word :=
  let p := s.port host
  if off = 0x00 then some (BitVec.ofNat 64 (p.txl + 2 ^ 32 * p.rxl))
  else if off = 0x08 then some (BitVec.ofNat 64 p.ack)
  else if off = 0x18 then some (s.lkBootWord host)
  else ((mgmtRegister host off).bind id).map fun q => (s.port q).stat

/-- LK_ACK_WRITE: a value not below the present one is kept, and entries it covers leave the replay store (R394). A peer acknowledges what
its port has been sent in the same way. -/
def execLkAckWrite (port ack : Nat) (s : State) : Host.Outcome State Fault Refusal :=
  orNot "LK_ACK_WRITE" (
    let p := s.port port
    if 18 ≤ port ∨ 2 ^ 32 ≤ ack then none
    else if ack < p.ack then some s
    else some (s.setPort port { p with ack := ack, store := p.store.filter fun e => decide (ack < e.1) }.flush))

/-- A message may go out on a port now: it needs no session, or there is one (R396, R398). -/
def Port.carries (p : Port) (m : DevMsg) : Bool := m.plain || p.sess

/-- LK_ACK_REPLAY: every retained message numbered above ack is sent again, in order, those that need a session where there is one. -/
def execLkAckReplay (port : Nat) (s : State) : Host.Outcome State Fault Refusal :=
  orNot "LK_ACK_REPLAY" (
    let p := s.port port
    if 18 ≤ port ∨ p.up = false then none
    else some (s.setPort port { p with wire := p.wire ++ p.store.filter fun e => decide (p.ack < e.1) && p.carries e.2 }))

/-- LINK_TRAIN: a host link, or a peer link whose peer's digest has been written, of a die that takes part. -/
def execLinkTrain (port : Nat) (s : State) : Host.Outcome State Fault Refusal :=
  orNot "LINK_TRAIN" (
    let p := s.port port
    if 18 ≤ port ∨ p.up ∨ s.powered = false ∨ (s.die (portDie port)).boot ≠ 0 ∨ (2 ≤ port ∧ p.digest.isNone) then none
    else some (s.setPort port { p with up := true }.flush))

/-- LINK_LOSS: the link must retrain; its numbering stays (R393). A peer port then needs a new session (R396). -/
def execLinkLoss (port : Nat) (s : State) : Host.Outcome State Fault Refusal :=
  orNot "LINK_LOSS" (
    let p := s.port port
    if 18 ≤ port ∨ p.up = false then none
    else some (s.setPort port { p with up := false, sess := p.sess && decide (port < 2) }))

/-- A management message to the host. -/
def State.manage (s : State) (code : Nat) : State := s.toHost s.hostPort (.management code)

/-- PEER_HANDSHAKE: a session if the peer's chain has the digest written for the port and its signatures verify, the end of the lower
digest being the requester; otherwise none and a report to the host. -/
def execPeerHandshake (port : Nat) (chain : Option Nat) (s : State) : Host.Outcome State Fault Refusal :=
  orNot "PEER_HANDSHAKE" (
    let p := s.port port
    if port < 2 ∨ 18 ≤ port ∨ p.up = false ∨ p.sess then none
    else match chain with
    | some d =>
      some (if p.digest = some d then s.setPort port { p with lead := decide (Config.chainDigest < d) }.open_
        else s.manage (0x1000 + port))
    | none => some (s.manage (0x1000 + port)))

/-- No TDI is in CONFIG_LOCKED or RUN. -/
def State.allUnlocked (s : State) : Bool :=
  (List.range 32).all fun c => (s.colour c).tdi != .locked && (s.colour c).tdi != .run

/-- PEER_CONFIG_WRITE (R396): a route names one of its die's two peer ports, or none (R192). -/
def execPeerConfigWrite (cfg : PeerConfig) (s : State) : Host.Outcome State Fault Refusal :=
  orNot "PEER_CONFIG_WRITE" (
    if s.allUnlocked = false then none
    else match cfg with
    | .own pkg =>
      if 256 ≤ pkg then none else some ((List.range 8).foldl (fun s d => s.setDie d { s.die d with pkg := pkg }) s)
    | .route die pkg port =>
      if 8 ≤ die ∨ 256 ≤ pkg ∨ (port.any fun p => p / 2 != die + 1) then none
      else
        let d := s.die die
        some (s.setDie die { d with routes := match port with
          | some p => smapPut d.routes pkg p
          | none => smapDel d.routes pkg })
    | .peer port pkg digest =>
      if port < 2 ∨ 18 ≤ port then none
      else some (s.setPort port { s.port port with digest := some digest, peer := pkg }))

/-- LINK_FLIT_RETRY: counted; more than 64 within 2^16 cycles at one link is a trigger of tc.frz (R385). -/
def execLinkFlitRetry (die link : Nat) (s : State) : Host.Outcome State Fault Refusal :=
  orNot "LINK_FLIT_RETRY" (
    if 8 ≤ die then none
    else
      let d := s.die die
      let rs := (d.retries.filter fun e => decide (d.cyc < e.2 + 2 ^ 16)) ++ [(link, d.cyc)]
      let s1 := s.setDie die { d with retries := rs }
      some (if 64 < (rs.filter fun e => e.1 == link).length then s1.trigger die 3 else s1))

/-! Sessions (R397, R398). -/

/-- A message of the host that cannot be taken now: a launch whose colour's interface does not run, or one that needs a session where there is none. It holds
back none that comes after it. -/
def State.hostBlocked (s : State) (port : Nat) (m : LinkMsg) : Bool :=
  (LinkMsg.inSession m && !(s.port port).sess) || match m with
    | .launch c _ _ => (s.colour c).tdi != .run
    | _ => false

/-- The first message of a host port's queue that can be taken, and the state without it. -/
def State.takeHost (s : State) (port : Nat) : Option (LinkMsg × State) :=
  let q := (s.port port).rxq
  let pre := q.takeWhile (s.hostBlocked port)
  match q.drop pre.length with
  | m :: rest => if port < 2 then some (m, s.setPort port { s.port port with rxq := pre ++ rest }) else none
  | [] => none

/-- The 64 bytes of the digest of the certificate chain. -/
def chainBytes : List Byte := (List.range 64).map fun i => BitVec.ofNat 8 (Config.chainDigest / 256 ^ i)

/-- The three measurement blocks while the n-th replacement of the firmware runs: image digest and security version are the image's, the fuse
configuration is the package's (R397). -/
def measurements (n : Nat) : List Byte := Config.measurement n 1 ++ Config.measurement 0 2 ++ Config.measurement n 3

/-- The stage of the SPDM exchange at which a request is answered and the stage after it, and the bytes of its response (R397): versions
1.2 and 1.3; Ed448, SHA3-512, secp384r1 and AES-256-GCM; the certificate chain and its digest; the proof of the responder's identity; the
measurement blocks; a key update in a session. A request out of its order has none (the codes are those of the protocol's specification,
notes/assumptions/15.md). -/
def spdmAnswer (firmware stage code : Nat) : Option (Nat × List Byte) :=
  match code with
  | 0x84 => some (1, [0x12, 0x13])
  | 0xE1 => if stage = 1 then some (2, []) else none
  | 0xE3 => if stage = 2 then
      some (3, wordBytes 4 0x800 ++ wordBytes 4 0x20 ++ wordBytes 2 0x10 ++ wordBytes 2 2) else none
  | 0x81 => if 3 ≤ stage then some (stage, chainBytes) else none
  | 0x82 => if 3 ≤ stage then some (stage, Config.certChain) else none
  | 0x83 => if 3 ≤ stage then
      some (stage, chainBytes ++ measurements firmware ++ Config.signature (chainBytes ++ measurements firmware)) else none
  | 0xE0 => if 3 ≤ stage then some (stage, measurements firmware) else none
  | 0xE4 => if stage = 3 then some (4, []) else none
  | 0xE5 => if stage = 4 then some (5, []) else none
  | 0xE9 => if stage = 5 then some (5, []) else none
  | 0xEC => if stage = 5 then some (0, []) else none
  | _ => none

/-- The session's keys are replaced: numbers may be used again under them (R398). -/
def Port.newKeys (p : Port) : Port := { p with keyGen := p.keyGen + 1, sent := 0, got := 0 }.flush

/-- SPDM_REQUEST: answered with the response of its code (the code with bit 7 clear), or with an error (0x7F) where it has no answer; the
end of the handshake opens the session, a key update replaces its keys, and an end of session closes it. -/
def execSpdmRequest (port : Nat) (s : State) : Host.Outcome State Fault Refusal :=
  orNot "SPDM_REQUEST" (match s.takeHost port with
    | some (.spdm code, s1) =>
      some (match spdmAnswer s.firmware (s.port port).spdm code with
        | none => s1.toHost port (.spdmResponse 0x7F [])
        | some (stage, body) =>
          let s2 := (s1.toHost port (.spdmResponse (code % 128) body))
          let s3 := s2.setPort port { s2.port port with spdm := stage }
          if code = 0xE5 then s3.setPort port (s3.port port).open_
          else if code = 0xE9 then s3.setPort port (s3.port port).newKeys
          else if code = 0xEC then s3.endSession port
          else s3)
    | _ => none)

/-- KEY_UPDATE: the session's keys are replaced, and numbers may be used again under them (R398). -/
def execKeyUpdate (port : Nat) (s : State) : Host.Outcome State Fault Refusal :=
  orNot "KEY_UPDATE" (
    let p := s.port port
    if 18 ≤ port ∨ p.sess = false then none
    else some (s.setPort port p.newKeys))

/-! Trusted device interfaces (R399). -/

/-- The host port whose next message is a TDISP request of a colour. -/
def State.tdispPort (s : State) (colour request : Nat) : Option (Nat × State) :=
  [0, 1].findSome? fun p => match s.takeHost p with
    | some (.tdisp c r, s1) => if c = colour ∧ r = request then some (p, s1) else none
    | _ => none

/-- The response to a TDISP request. -/
def tdispCode (colour request : Nat) (ok : Bool) : Nat := 0x2000 + 256 * request + 2 * colour + (if ok then 1 else 0)

/-- A TDISP request of a colour: `next` gives the state it leads to, none where it is refused. -/
def State.tdisp (s : State) (colour request : Nat) (next : Nat → State → Option State) : Option State :=
  if 32 ≤ colour then none
  else match s.tdispPort colour request with
    | none => none
    | some (p, s1) => match next p s1 with
      | some s2 => some (s2.toHost p (.management (tdispCode colour request true)))
      | none => some (s1.toHost p (.management (tdispCode colour request false)))

/-- Vault frames of 64 KiB given to a colour, written with zeros (R400), which an unlisted byte reads as. -/
def State.giveFrames (s : State) (colour : Nat) (frames : List Nat) : State :=
  { s with
    mem := s.mem.filter fun c => !frames.contains (c.1 / 65536)
    owners := frames.foldl (fun m f => smapPut m f colour) s.owners }

/-- A colour's cluster memory in a cluster made new to it: zeros, and no slots (R210, R400). -/
def State.clearCluster (s : State) (colour clu : Nat) : State :=
  let k := s.cluster clu
  let a := clusterAddr colour clu 0
  { s.setCluster clu { k with
      slots := k.slots.filter fun e => e.1 / 2 ^ 15 != colour
      expander := k.expander.filter fun e => e / 2 ^ 15 != colour } with
    mem := s.mem.filter fun c => !decide (a ≤ c.1 ∧ c.1 < a + 2 ^ 26) }

/-- The scratchpad of cores given to a colour new to it: written with zeros (R400). -/
def State.freshSpad (s : State) (cores : List Nat) : State :=
  cores.foldl (fun s g => if (s.core g).teams.isEmpty then s.setCore g { s.core g with spad := [], fresh := 0 } else s) s

/-- The cores that hold the scratchpad of a colour: those of its partition while it is resident. -/
def State.spadCores (s : State) (colour : Nat) : List Nat :=
  match s.partOf colour with
  | some (_, p) => if p.resident = colour then p.clusters.flatMap clusterCores else []
  | none => []

/-- LOCK_INTERFACE_REQUEST: the configuration is fixed, a DRAM key drawn, the digest of the job begun and its launches numbered from 1, and the frames
the arbiter gives the colour, which no other has, its cluster memory and its scratchpads are its own, written with zeros (R399–R401). -/
def execLockInterfaceRequest (lock : InterfaceLock) (s : State) : Host.Outcome State Fault Refusal :=
  let colour := lock.colour
  let frames := lock.frames
  orNot "LOCK_INTERFACE_REQUEST" (s.tdisp colour 0 fun p s =>
    let c := s.colour colour
    let free := frames.all fun f => decide (f < 2 ^ 23) && ((smapFind s.owners f).all fun k => k == colour || k == 0)
    match s.partOf colour with
    | some (_, part) =>
      if c.tdi = .unlocked ∧ free then
        let s1 := (s.leavePorts colour).setColour colour { c.newJob with tdi := .locked, key := true, port := p }
        let s2 := part.clusters.foldl (fun s k => s.clearCluster colour k) (s1.giveFrames colour frames)
        some ((s2.freshSpad (s2.spadCores colour)).portUsed p colour)
      else none
    | none => none)

/-- START_INTERFACE_REQUEST: the colour's launches are enabled. -/
def execStartInterfaceRequest (colour : Nat) (s : State) : Host.Outcome State Fault Refusal :=
  orNot "START_INTERFACE_REQUEST" (s.tdisp colour 1 fun _ s =>
    let c := s.colour colour
    if c.tdi = .locked then some (s.setColour colour { c with tdi := .run }) else none)

/-- STOP_INTERFACE_REQUEST: back to CONFIG_UNLOCKED, the colour's work and key discarded. -/
def execStopInterfaceRequest (colour : Nat) (s : State) : Host.Outcome State Fault Refusal :=
  orNot "STOP_INTERFACE_REQUEST" (s.tdisp colour 2 fun _ s =>
    if (s.colour colour).tdi = .unlocked then some s else some (s.tdiLeave colour .unlocked))

/-- Ascending order without repeats. -/
def sortNats (xs : List Nat) : List Nat := (sortBy (fun a b => decide (a ≤ b)) xs).dedup

/-- PARTITION_RESIZE: the arbiter sets a partition's clusters (R26, R399). A partition of a new number, from 1 on since colour 0 is no
job's (R365), runs the colour of that number, in clusters of its own or shared with a partition of the same clusters. -/
def execPartitionResize (part : Nat) (clusters : List Nat) (s : State) : Host.Outcome State Fault Refusal :=
  orNot "PARTITION_RESIZE" (
    let cs := sortNats clusters
    let start (s : State) : State := cs.foldl (fun s c => ((clusterCores c).foldl (fun s g =>
      s.setCore g { s.core g with stop := (s.core g).checked, peCol := BitVec.ofNat 5 part }) s).freshSpad (clusterCores c)) s
    let free := (s.parts.filter fun p => p.1 != part).all fun p => cs.all fun c => !p.2.clusters.contains c
    if cs.isEmpty ∨ part = 0 ∨ 32 ≤ part ∨ cs.any (fun c => decide (128 ≤ c) || (s.die (c / 16)).fenced) then none
    else match smapFind s.parts part with
    | some p =>
      if free = false ∨ p.switch ≠ .none then none
      else
        let gone := p.clusters.filter fun c => !cs.contains c
        let s1 := p.colours.foldl State.tdiError s
        let s2 := gone.foldl (fun s c => (clusterCores c).foldl (fun s g => s.setCore g { s.core g with stop := true }) s) s1
        let added := cs.filter fun c => !p.clusters.contains c
        let s3 := added.foldl (fun s c => ((clusterCores c).foldl (fun s g =>
          s.setCore g { s.core g with stop := (s.core g).checked, peCol := BitVec.ofNat 5 p.resident }) s).freshSpad (clusterCores c)) s2
        let s4 := p.colours.foldl (fun s k => added.foldl (fun s c => s.clearCluster k c) s) s3
        some { s4 with parts := smapPut s4.parts part { p with clusters := cs } }
    | none =>
      match s.parts.find? fun p => p.2.clusters == cs with
      | some (k, p) =>
        if (s.partOf part).isSome then none else some { s with parts := smapPut s.parts k { p with colours := p.colours ++ [part] } }
      | none =>
        if free = false ∨ (s.partOf part).isSome then none
        else some (start { s with parts := smapPut s.parts part ⟨cs, [part], part, .none⟩ }))

/-- ARBITER_FIRMWARE_REPLACE: every locked or running TDI enters ERROR; the measurements are the new image's (R397, R399). -/
def execArbiterFirmwareReplace (s : State) : Host.Outcome State Fault Refusal :=
  .next { (List.range 32).foldl State.tdiError s with firmware := s.firmware + 1 }

/-! Launches and data (R330, R392). -/

/-- HOST_LAUNCH: the next message of a port is a launch; its colour's interface runs. -/
def execHostLaunch (port : Nat) (place : List Nat) (s : State) : Host.Outcome State Fault Refusal :=
  orNot "HOST_LAUNCH" (match s.takeHost port with
    | some (.launch colour prio hdr, s1) =>
      (match s1.partOf colour with
      | some (pk, p) =>
        let l := Launch.ofHeader hdr
        let cause := s1.launchCause l p colour true 0
        if (s.port port).sess = false ∨ (s.colour colour).tdi ≠ .run then none
        else if cause ≠ 0 then some ((s1.portUsed port colour).toHost port (.launchReply (refuseWord cause)))
        else if s1.placeOk l p place = false then none
        else
          let y := (s1.portUsed port colour).enterLaunch l pk p colour (prio % 4) (some port) place
          some (y.1.toHost port (.launchReply (acceptWord y.2)))
      | none => none)
    | _ => none)

/-- The places of n bytes in translated space for a colour; none where one does not translate. -/
def State.dmaPlaces (s : State) (die colour va : Nat) (u : Use) : Nat → Option (List Place)
  | 0 => some []
  | n + 1 =>
    if 2 ^ 54 ≤ va then none
    else match s.walkAccess die colour u va with
      | .ok p => (s.dmaPlaces die colour (va + 1) u n).map fun ps => p :: ps
      | _ => none

/-- DMA_DESCRIPTOR: the transfer of the next message of a port is made, or fails where a byte does not translate. A job descriptor begins a job:
its digest starts again (R401; notes/assumptions/41.md). -/
def execDmaDescriptor (port : Nat) (s : State) : Host.Outcome State Fault Refusal :=
  orNot "DMA_DESCRIPTOR" (
    let queue (s : State) (m : DevMsg) : State := s.setPort port { s.port port with dma := (s.port port).dma ++ [m] }
    if (s.port port).sess = false then none
    else match s.takeHost port with
    | some (.dmaWrite colour va bytes, s1) =>
      let s2 := s1.portUsed port colour
      (match s2.dmaPlaces (portDie port) colour va.toNat Use.write bytes.length with
      | some ps => some (queue ((ps.zip bytes).foldl (fun s e => s.placeWrite colour e.1 [e.2]) s2) (.dmaDone colour true []))
      | none => some (queue s2 (.dmaDone colour false [])))
    | some (.dmaRead colour va n, s1) =>
      let s2 := s1.portUsed port colour
      (match s2.dmaPlaces (portDie port) colour va.toNat Use.read n with
      | some ps => some (queue s2 (.dmaDone colour true (ps.map fun p => s2.placeByte p 0)))
      | none => some (queue s2 (.dmaDone colour false [])))
    | some (.regions colour rs, s1) =>
      let c := s1.colour colour
      let c1 := if (s1.launchesOf colour).isEmpty then c.newJob else { c.newJob with seq := c.seq }
      some ((s1.setColour colour { c1 with regions := rs }).portUsed port colour)
    | _ => none)

/-- DMA_COMPLETE: the completion is sent. -/
def execDmaComplete (port : Nat) (s : State) : Host.Outcome State Fault Refusal :=
  orNot "DMA_COMPLETE" (match (s.port port).dma with
    | m :: rest => some ((s.setPort port { s.port port with dma := rest }).toHost port m)
    | [] => none)

/-! Power and reset (R402–R404, R390). -/

/-- POWER_UP: each arbiter checks its image and reports status 0 to 5 (R403); a die whose check fails stays fenced. A passing die has its
cores stopped and its black box cleared, unless power was kept; the ticket key is drawn at a power-up only (R215); the host links of passing
dies train. The outcome of a check, made on an image, a fused key and a version that nothing in the package can read, is the event's. -/
def execPowerUp (status : List Nat) (s : State) : Host.Outcome State Fault Refusal :=
  orNot "POWER_UP" (
    if s.powered ∨ 8 < status.length ∨ status.any (fun x => decide (5 < x)) then none
    else
      let ok (d : Nat) : Bool := status.getD d 0 == 0
      let s1 := (List.range 8).foldl (fun s d =>
        let x := s.die d
        s.setDie d { x with
          boot := BitVec.ofNat 8 (status.getD d 0), fenced := !ok d, black := if ok d && !s.warm then [] else x.black }) s
      let s2 := [0, 1].foldl (fun s p => s.setPort p { s.port p with up := ok (portDie p) }.flush) s1
      some { s2 with
        powered := true
        boots := if s.warm then s2.boots else s2.boots + 1
        cores := s2.cores.map fun (e : Nat × Core) => (e.1, { e.2 with stop := true }) })

/-- BOOT_STATUS_QUERY: the die's status is reported in lk.boot of the host ports whose dies take part; where neither does it can be read by
scan only. -/
def execBootStatusQuery (die : Nat) (s : State) : Host.Outcome State Fault Refusal :=
  orNot "BOOT_STATUS_QUERY" (
    let hosts := [0, 1].filter fun p => (s.die (portDie p)).boot == 0
    if 8 ≤ die ∨ (s.die die).boot = 0xFF ∨ hosts.isEmpty then none
    else some { s with lkBoot := hosts.foldl (fun m p => smapPut m (8 * p + die) (s.die die).boot.toNat) s.lkBoot })

/-- A port across a reset that keeps power: its numbering and replay store stay (R393). -/
def Port.kept (p : Port) : Port := { Port.reset with txl := p.txl, rxl := p.rxl, ack := p.ack, store := p.store }

/-- RESET (R390): the way out of a clock freeze. Black boxes are kept if power is (R389). -/
def execReset (keepsPower : Bool) (s : State) : Host.Outcome State Fault Refusal :=
  .next { State.reset with
    warm := keepsPower
    boots := s.boots
    firmware := s.firmware
    dies := if keepsPower then s.dies.map fun (e : Nat × Die) => (e.1, { Die.reset with black := e.2.black }) else []
    ports := if keepsPower then s.ports.map fun (e : Nat × Port) => (e.1, e.2.kept) else []
    agenda := s.agenda
    free := s.free
    uid := s.uid
    focus := s.focus }

/-- THERMAL_THROTTLE (R404): the die's arithmetic clock one step of 100 MHz lower. -/
def execThermalThrottle (die : Nat) (s : State) : Host.Outcome State Fault Refusal :=
  orNot "THERMAL_THROTTLE" (if die < 8 then some (s.setDie die { s.die die with throttle := (s.die die).throttle + 1 }) else none)

end Sys2Proof.Machine
end

