-- ==== Sys2Proof/Machine/Cycle.lean ====
section
/-! DEFINITION. A cycle of a core: the barrel, fetching, the checks of an entry, pairs, gang lines, and the collection window
(spec/02_encoding.md R33–R43, R53; spec/04_control.md R99–R103, R123, R124; spec/15_traps_preemption.md R360–R364;
spec/16_debug.md R377, R378, R386, R388). -/
namespace Sys2Proof.Machine
open Sys2Proof

/-! The end of a turn (R99, R386, R388). -/

/-- A profiling counter counted up (R388): 48 bits, saturating. -/
def satBump (m : List (Nat × Nat)) (k : Nat) : List (Nat × Nat) := smapPut m k (min (smapGet 0 m k + 1) (2 ^ 48 - 1))

/-- A colour is resident where a slice's leases run (R218): in the slice's partition if the colour has part in it, else in any. -/
def State.leaseRuns (s : State) (g colour : Nat) : Bool :=
  let anywhere := s.parts.any fun p => p.2.colours.contains colour && p.2.resident == colour
  match s.partOfCore g with
  | some p => if p.2.colours.contains colour then p.2.resident == colour else anywhere
  | none => anywhere

/-- A slice cycle of an entry's lease ends (R218, R230): an entry whose lease had run out is freed in that cycle at the latest. -/
def State.leaseTick (s : State) (g : Nat) (e : TkEntry) : TkEntry :=
  if (e.st = 1 ∨ e.st = 2) ∧ e.never = false ∧ s.leaseRuns g e.colour then
    if e.lease = 0 then e.freed else { e with lease := e.lease - 1 }
  else e

/-- The core's counters after a turn of class `cls`; `ready` tells whether its thread was ready. -/
def Core.counted (c : Core) (cls : SlotClass) (ready : Bool) : Core :=
  let r := c.ready + (if ready then 1 else 0)
  let c1 := { c with counts := satBump c.counts (4 * (c.cyc % 16) + cls.code), cyc := c.cyc + 1 }
  if c.cyc % 16 = 15 then { c1 with hist := satBump c.hist r, ready := 0 } else { c1 with ready := r }

/-- The cycle count of a die follows its cores; a freeze due takes place as its cycle ends (R385), and a wrap of its low 40 bits leaves each
cluster an epoch record due (R386). -/
def State.clockDie (s : State) (die cyc : Nat) : State :=
  let d := s.die die
  let s0 := if d.cyc < cyc then s.settleFreeze die else s
  let s1 := s0.setDie die { s0.die die with cyc := max d.cyc cyc }
  if d.cyc / 2 ^ 40 < cyc / 2 ^ 40 then
    (List.range 16).foldl (fun s i => s.setCluster (16 * die + i) { s.cluster (16 * die + i) with epochDue := true }) s1
  else s1

/-- A sample falls due in the cycle that has just ended (R383). -/
def State.sampleDue (s : State) (g : Nat) : Bool :=
  let k := s.cluster (clusterOf g)
  let c := s.core g
  k.tcCtl.getLsbD 16 && k.tcCtl.getLsbD 6 && !k.frz && decide (c.cyc ≠ c.sampled) && c.cyc % k.period == 0

/-- The turn of the current slot ends: packets sent from away, counters, leases, the cycle, and a sample if one is due. -/
def State.endTurn (s0 : State) (ready : Bool) : State :=
  let g := s0.cur.g
  let s := s0.settleAway g
  let c := (s.core g).counted s.cls ready
  let s1 := s.setCore g { c with tickets := c.tickets.map fun (e : Nat × TkEntry) => (e.1, s.leaseTick g e.2) }
  let s2 := s1.clockDie (dieOf g) c.cyc
  if s2.sampleDue g then { s2 with agenda := .traceSample g :: s2.agenda } else s2

/-! The collection window (R364). -/

/-- The slots of the threads that a window has parked. -/
def Core.parked (c : Core) : List Nat :=
  (List.range 16).filter fun i => match (c.thread i).map Thread.park with
    | some (.precise _) => true
    | some .imprecise => true
    | _ => false

/-- The window closes: the parked thread of the lowest slot receives its trap at its next turn. -/
def Core.closeWindow (c : Core) : Core :=
  let c1 := { c with window := none }
  match c.parked with
  | [] => c1
  | i :: rest =>
    match c.thread i with
    | none => c1
    | some t => { c1 with winner := true }.setThread i (some { t with park := match t.park with
        | .precise r => .winner r rest.length
        | .imprecise => .winnerImp rest.length
        | p => p })

/-- The window has run over its 16 cycles. -/
def Core.windowDue (c : Core) : Bool := match c.window with
  | some w => decide (w + 16 ≤ c.cyc)
  | none => false

def execCollectionWindowClose (g : Nat) (s : State) : Host.Outcome State Fault Refusal :=
  orNot "COLLECTION_WINDOW_CLOSE" (if (s.core g).windowDue then some (s.setCore g (s.core g).closeWindow) else none)

/-- The turn of a window's winner, or of a thread with a queued report: a delivery, or a place in a window (R360, R363, R364); none
where the thread has no such turn. -/
def State.reportTurn (s : State) (g slot : Nat) (t : Thread) : Option State :=
  let vacant (x : State) : State := { x with cls := .vacant }
  match t.park with
  | .winner r n => some (vacant (s.deliver g slot { t with fromWin := true } r n))
  | .winnerImp n =>
    some (vacant (match t.reports with
      | r :: rest => s.deliver g slot { t with fromWin := true, reports := rest } { r with pc := t.pc } n
      | [] => s.setCore g ((s.core g).setThread slot (some { t with park := .none })).release))
  | .none => if t.reports.isEmpty ∨ t.inh then none else some (vacant (s.park g slot t .imprecise))
  | _ => none

/-- The thread of a slot has its turn: it is not stopped, waits for no answer of an atomic or a redeem and has none that denies it (R222, R223, R299). -/
def Thread.hasTurn (t : Thread) : Bool := !t.halted && t.handed.isNone && !t.haltReq && !t.waitAns && t.denied.isNone

/-- REPORT_DELIVERY: the turn of a thread that receives a queued report. -/
def execReportDelivery (g slot : Nat) (s : State) : Host.Outcome State Fault Refusal :=
  orNot "REPORT_DELIVERY" (match s.thread g slot with
    | none => none
    | some t =>
      let c := s.core g
      if c.stop ∨ c.cyc % 16 ≠ slot ∨ t.hasTurn = false ∨ t.reports.isEmpty then none
      else (State.reportTurn { s with cur := ⟨g, slot⟩ } g slot t).map fun x => x.endTurn false)

/-! Pairs (R42, R43). -/

/-- The register of a used operand position, as file and index. -/
def usedReg (ks : List FileK) (x : Nat) : List (Nat × Nat) :=
  if ks.isEmpty || ks == [.absent] then [] else [(opFile x, opIdx x)]

/-- Registers a word reads: its guard, its sources, and a destination of which it writes a part. -/
def RawWord.reads (w : RawWord) (f : Form) : List (Nat × Nat) :=
  (if w.gd.idx = 0 then [] else [(6, w.gd.idx.val)]) ++ usedReg f.src1 w.src1 ++ usedReg f.src2 w.src2 ++ usedReg f.src3 w.src3
    ++ (if f.name = .vmovInsert ∨ f.name = .qcb ∨ f.name = .pspl ∨ f.name = .pjn then usedReg f.dst w.dst else [])

/-- Registers a word writes. Only words of class 0x18 name a counter, of which a pair holds one at most. -/
def RawWord.writes (w : RawWord) (f : Form) : List (Nat × Nat) :=
  usedReg f.dst w.dst ++ (if f.name = .rdmS then [(2, w.fmt % 4)] else []) ++ (if f.name = .sbind then usedReg f.src1 w.src1 else [])

/-- The q and n registers a word names. -/
def RawWord.queues (w : RawWord) (f : Form) : List (Nat × Nat) :=
  (usedReg f.dst w.dst ++ usedReg f.src1 w.src1 ++ usedReg f.src2 w.src2 ++ usedReg f.src3 w.src3).filter fun r => r.1 == 3 || r.1 == 4

/-- Two lists of registers have a common member. -/
def shares (a b : List (Nat × Nat)) : Bool := a.any b.contains

/-- A pair of decoded words is well formed (R43). -/
def pairOk (w1 w2 : RawWord) : Bool :=
  match pick w1, pick w2 with
  | some f1, some f2 =>
    let alone (c : Nat) : Bool := c == 0x20 || c == 0x24 || c == 0x26
    let port (c : Nat) : Bool := decide (0x0D ≤ c) && decide (c ≤ 0x1C)
    let unit (c : Nat) : Bool := decide (0x08 ≤ c) && decide (c ≤ 0x0C)
    let jump := f2.name == .br || f2.name == .brl || f2.name == .jr || f2.name == .jrLink || f2.name == .ret
    !alone w1.cls && w1.cls != 0x01 && !alone w2.cls && (w2.cls != 0x01 || jump)
      && !(port w1.cls && port w2.cls) && !(unit w1.cls && unit w2.cls)
      && !shares (w1.writes f1) (w2.reads f2) && !shares (w1.writes f1) (w2.writes f2)
      && !shares (w1.queues f1) (w2.queues f2)
  | _, _ => false

/-! Fetching (R36, R40, R187, R193). -/

/-- What fetching gives: a line, a wait, or a fault of the fetch. -/
inductive Fetched where
  | line (bits : BitVec 512)
  | wait (s : State)
  | trap (kind : BitVec 8) (detail : Nat)
  deriving DecidableEq, Repr

/-- A line the core holds for a colour. -/
def Core.lineHeld (c : Core) (colour line : Nat) : Option (BitVec 512) :=
  (c.lines.find? fun (e : Nat × Nat × BitVec 512) => e.1 == colour && e.2.1 == line).map fun e => e.2.2

/-- The line of a thread's pc: translated for each issue attempt, and read from memory unless the core holds it. -/
def State.fetchLine (s : State) (g : Nat) (t : Thread) : Fetched :=
  let a := lineAddr t.pc
  match s.region g t.colour t.key a with
  | .high => .trap kindAddress 1
  | .none => .trap kindAddress 2
  | .translated =>
    match s.coreTranslate g t.colour Use.fetch a.toNat with
    | .wait s1 => .wait s1
    | .trap k d _ => .trap k d
    | .ok p =>
      let c := s.core g
      match c.lineHeld t.colour a.toNat with
      | some l => .line l
      | none =>
        if s.bad p.addr 64 then .trap kindCheck 0
        else if c.fetches.contains (t.colour, a.toNat) then .wait s
        else .wait (s.setCore g { c with fetches := c.fetches ++ [(t.colour, a.toNat)] })
  | _ => .trap kindAddress 3

/-- LINE_FETCH_REPLY: the whole line as memory holds it, its parity checked (R35, R36). A line with an uncorrectable error, or whose
translation has been discarded meanwhile, is not taken. -/
def execLineFetchReply (g colour : Nat) (line : Word) (s : State) : Host.Outcome State Fault Refusal :=
  orNot "LINE_FETCH_REPLY" (
    let c := s.core g
    if c.fetches.contains (colour, line.toNat) = false then none
    else
      let s1 := s.setCore g { c with fetches := c.fetches.filter fun (e : Nat × Nat) => e != (colour, line.toNat) }
      match (s.core g).tlbFind colour line.toNat with
      | none => some s1
      | some e =>
        match s.leafAccess (dieOf g) colour Use.fetch e.big e.leaf.toNat line.toNat with
        | .ok (.mem pa) =>
          if s.twoWay (dieOf g) pa = false then none
          else if s.bad pa 64 then some s1
          else
            let bits := BitVec.ofNat 512 (leBytes (memGets s.mem pa 64))
            let s2 := s1.correct [(pa, 64)]
            if parityOk bits then
              let c1 := s2.core g
              some (s2.setCore g { c1 with lines := c1.lines ++ [(colour, line.toNat, bits)] })
            else some (s2.machineCheck g 1)
        | _ => some s1)

/-! Lines of a gang (R123, R124). -/

/-- What an attached follower finds among its forwarded lines. -/
inductive GangFetch where
  | line (t : Thread) (bits : BitVec 512)
  | wait (t : Thread)
  | detach (t : Thread)
  deriving DecidableEq, Repr

/-- A follower that has left its line, or has none, enters the next one if it is entered at the follower's pc. -/
def Thread.enterLine (t : Thread) (leader : Nat) (ls : List FwdLine) (rj : Option Word) : GangFetch :=
  match ls with
  | [] => .wait { t with gang := .follower leader true false [] none rj }
  | l :: _ =>
    if l.entry = t.pc then .line { t with gang := .follower leader true true ls none rj, entry := none } l.bits
    else .detach { t with gang := .follower leader false false [] none rj }

/-- An attached follower at its turn: it stays with the leader while both leave a line at one pc for one pc. One that has gone another way,
`strayed`, detaches (R124). -/
def Thread.gangFetch (t : Thread) (strayed : Bool) : GangFetch :=
  match t.gang with
  | .follower ld true inl ls last rj =>
    if strayed then .detach { t with gang := .follower ld false false [] none rj } else
    match inl, ls with
    | true, l :: rest =>
      match last, l.exit with
      | some (_, true), none => .wait t
      | some (_, true), some _ => t.enterLine ld rest rj
      | none, some none => t.enterLine ld rest rj
      | _, _ => .line t l.bits
    | _, _ => t.enterLine ld ls rj
  | _ => .detach t

/-- The leader enters a line it has not forwarded, unless a handler runs: the line it leaves is marked for the attached followers, and
the new one is sent to them. -/
def State.forward (s : State) (g slot : Nat) (t : Thread) (bits : BitVec 512) : State :=
  match t.gang with
  | .leader ms rj last next =>
    if t.inh ∨ next = some t.pc then s
    else
      let s1 := s.leaveLine t.tid ms last
      let s2 := ms.foldl (fun s m =>
        if s.follows t.tid m.tid then s.send (.fwdLine t.tid m.tid ⟨lineAddr t.pc, bits, t.pc, none⟩ ⟨g, t.colour, g⟩) else s) s1
      s2.setThread g slot (some { t with gang := .leader ms rj none (some t.pc) })
  | _ => s

/-- An attached follower holds eight lines of the leader (R123). -/
def State.gangFull (s : State) (t : Thread) : Bool :=
  match t.gang with
  | .leader ms _ _ _ => !t.inh && ms.any fun m => s.follows t.tid m.tid && decide (8 ≤ s.linesHeld m.tid)
  | _ => false

/-! One issue attempt (R53). -/

/-- A trap before the instruction at the pc issues. A vector that fails its checks is not entered: the report goes to the arbiter
with inh as it was (R40, R360). -/
def State.entryTrap (s : State) (g slot : Nat) (t : Thread) (r : Report) : State :=
  match t.vector with
  | some r0 => { (s.alarm (dieOf g) r.kind).handOver g slot (t.setInh false) r0 with cls := .vacant }
  | none => s.raise g slot t r

/-- The breakpoint entry that a thread about to issue at these pcs matches: none for the first issue after a resume, nor for the second
instruction of a pair (R377, R378). -/
def State.stopsAt (s : State) (t : Thread) (pcs : List Word) : Option Nat := if t.pass || t.second then none else s.breakFor t pcs

/-- The instructions that the turn is to issue, after a breakpoint entry that matches it (R377). -/
def State.toIssue (s : State) (g slot : Nat) (entry : Option Nat) (is : List Instr) : State :=
  { s with issue := (match entry with | some e => [.breakpointHalt g slot e] | none => []) ++ is }

/-- A trap of an issue attempt, unless a breakpoint halts the thread before it (R53, R377). -/
def State.trapOrHalt (s : State) (g slot : Nat) (t : Thread) (pcs : List Word) (r : Report) : State :=
  match s.stopsAt t pcs with
  | some e => s.toIssue g slot (some e) []
  | none => s.entryTrap g slot t r

/-- The order of R53 from the line on: a breakpoint, the tgt bit of a checked entry, the reserved bits, the words, the pair. -/
def State.decodeTurn (s : State) (g slot : Nat) (t : Thread) (bits : BitVec 512) : State :=
  let i := t.pc.toNat % 8
  let w1 := lineSlot bits i
  let w2 := lineSlot bits (i + 1)
  let second := if linePair bits i && !t.second then (decodeWord t.sup w2).toOption else none
  let pcs := t.pc :: (if second.isSome then [succPc t.pc] else [])
  let entry := s.stopsAt t pcs
  let orTrap (kind : BitVec 8) (detail : Nat) (a : Word) : State := s.trapOrHalt g slot t pcs (preciseReport kind detail t.pc a)
  if t.entry.isSome && !lineTgt bits i then orTrap kindTarget 0 (t.entry.getD 0)
  else if lineReserved bits ≠ 0 then orTrap kindLine 0 0
  else match decodeWord t.sup w1 with
    | .error d => orTrap kindIllegal d 0
    | .ok i1 =>
      match second with
      | none => (s.forward g slot t bits).toIssue g slot entry [i1]
      | some i2 =>
        if pairOk (rawOfWord w1) (rawOfWord w2) then (s.forward g slot t bits).toIssue g slot entry [i1, i2]
        else orTrap kindLine 1 0

/-- The checks of R40 on the pc, then the line. -/
def State.fetchTurn (s : State) (g slot : Nat) (t : Thread) : State :=
  let trap (r : Report) : State := (s.setThread g slot (some t)).trapOrHalt g slot t [t.pc] r
  if t.entry.isSome ∧ 2 ^ 55 ≤ t.pc.toNat then trap (preciseReport kindAddress 1 t.pc (t.entry.getD 0))
  else if t.pc.toNat / 8 % 8 ≠ 0 ∨ 5 ≤ t.pc.toNat % 8 then trap (preciseReport kindTarget 0 t.pc (t.entry.getD 0))
  else match (s.setThread g slot (some t)).fetchLine g t with
    | .wait s1 => { s1 with cls := .mem }
    | .trap kind d =>
      let a := if kind = kindCheck then lineAddr t.pc else t.entry.getD (lineAddr t.pc)
      let s1 := (s.setThread g slot (some t)).dropWalk g t.colour (lineAddr t.pc).toNat
      s1.trapOrHalt g slot t [t.pc] { preciseReport kind d t.pc a with fetch := true }
    | .line bits => (s.setThread g slot (some t)).decodeTurn g slot t bits

/-- The turn of the thread of a slot, up to the instructions it is to issue (R100, R102). An attached follower whose leader has dissolved the
gang and whose last line it has left goes on alone (R126). -/
def State.turnOf (s : State) (g slot : Nat) (t : Thread) : State :=
  let kept (k : SlotClass) : State := { s with cls := k }
  if t.halted || t.handed.isSome then kept .vacant
  else if t.waitAns then kept .mem
  else if t.haltReq then
    (match t.park with
    | .precise _ => kept .vacant
    | .imprecise => kept .vacant
    | _ => { s.setThread g slot (some { t with halted := true, haltReq := false, steps := none, retry := false }) with cls := .vacant })
  else match t.denied, s.reportTurn g slot t with
    | some r, _ => s.raise g slot { t with denied := none } r
    | none, some x => x
    | none, none =>
      if t.park ≠ .none then kept .vacant
      else if s.gangFull t then kept .msg
      else match t.gang with
        | .follower _ true _ _ _ _ =>
          (match t.gangFetch (s.strayed t.tid) with
          | .wait u =>
            (match u.gang with
            | .follower ld _ _ [] _ _ =>
              if s.leads ld t.tid || s.linesHeld t.tid != 0 then { s.setThread g slot (some u) with cls := .msg }
              else s.fetchTurn g slot { u with gang := .none }
            | _ => { s.setThread g slot (some u) with cls := .msg })
          | .detach u => s.fetchTurn g slot u
          | .line u bits => (s.setThread g slot (some u)).decodeTurn g slot u bits)
        | _ => s.fetchTurn g slot t

/-- The core at the start of a cycle: waiting arrivals take free slots (R202), and a window that has run out closes (R364). -/
def State.startCycle (s : State) (g : Nat) : State :=
  let c := s.core g
  let c1 := if s.issues g then c.seat 16 else c
  s.setCore g (if c1.windowDue then c1.closeWindow else c1)

/-- CORE_CYCLE: the offered slot's thread fetches and decodes; a turn that issues nothing ends here. The instructions of one that is
to issue are left in `issue`, and the step that runs this cycle executes them and ends the turn (`runIssue`). The event's flag, whether
the thread loses a scratchpad bank (R103), is used there. -/
def execCoreCycle (g : Nat) (_lostBank : Bool) (s : State) : Host.Outcome State Fault Refusal :=
  orNot "CORE_CYCLE" (
    if 2048 ≤ g ∨ s.powered = false then none
    else
      let s0 := s.startCycle g
      let slot := (s0.core g).cyc % 16
      let s1 := { s0 with cur := ⟨g, slot⟩, issue := [], cls := .vacant }
      let s2 := if s1.issues g then (match s1.thread g slot with
        | some t => s1.turnOf g slot t
        | none => s1) else s1
      some (if s2.issue.isEmpty then s2.endTurn false else s2))

/-! After an issue (R378). -/

/-- A thread that has issued: a breakpoint is matched again, a step counted, the gang told where it goes. `second` is left set, and the step
not yet counted, after the first of a pair whose second is still to issue. -/
def Thread.afterIssue (t : Thread) (inh rejoins second : Bool) (p : Word) : Thread :=
  let t1 := { t with second := second, gang := t.gang.issued inh rejoins p t.pc }
  if second then t1 else t1.stepped

/-- An instruction accesses a scratchpad bank when it takes effect (R201, R288, R296). -/
def needsBank (i : Instr) (x : Ctx) : Bool :=
  let spad (f : Fields) : Bool :=
    (match f.src1.reg with
    | .d k => (match x.s.region x.g x.t.colour x.t.key (Fields.addr f x.t.d[k]) with
      | .spad _ => true
      | _ => false)
    | _ => false)
  match i with
  | .lds gd f => x.t.guardVal gd && spad f
  | .sts gd f => x.t.guardVal gd && spad f
  | .binit gd f => x.t.guardVal gd && spad f
  | .barv gd f => x.t.guardVal gd && spad f
  | .bwait gd f => x.t.guardVal gd && spad f
  | .amoAdd gd f => x.t.guardVal gd && spad f
  | .amoMin gd f => x.t.guardVal gd && spad f
  | .amoMax gd f => x.t.guardVal gd && spad f
  | .amoAnd gd f => x.t.guardVal gd && spad f
  | .amoOr gd f => x.t.guardVal gd && spad f
  | .amoXor gd f => x.t.guardVal gd && spad f
  | .amoSwap gd f => x.t.guardVal gd && spad f
  | .amoCas gd f => x.t.guardVal gd && spad f
  | .redAdd gd f => x.t.guardVal gd && spad f
  | .redMin gd f => x.t.guardVal gd && spad f
  | .redMax gd f => x.t.guardVal gd && spad f
  | .redAnd gd f => x.t.guardVal gd && spad f
  | .redOr gd f => x.t.guardVal gd && spad f
  | .redXor gd f => x.t.guardVal gd && spad f
  | _ => false

end Sys2Proof.Machine
end

