-- ==== Sys2Proof/Machine/Dispatch.lean ====
section
/-! DEFINITION. The one dispatch of every row of the opcode table to its meaning (rules of spec/02 R60 and
spec/95_what_each_step_holds.md). -/
namespace Sys2Proof.Machine
open Sys2Proof

def exec (i : Instr) (s : State) : Host.Outcome State Fault Refusal :=
  match i with
  | .br gd f => Sys2Proof.Machine.execBr gd f s
  | .brl gd f => Sys2Proof.Machine.execBrl gd f s
  | .jr gd f => Sys2Proof.Machine.execJr gd f s
  | .jrLink gd f => Sys2Proof.Machine.execJrLink gd f s
  | .ret gd f => Sys2Proof.Machine.execRet gd f s
  | .setp gd f => Sys2Proof.Machine.execSetp gd f s
  | .setpReg gd f => Sys2Proof.Machine.execSetpReg gd f s
  | .clrp gd f => Sys2Proof.Machine.execClrp gd f s
  | .pand gd f => Sys2Proof.Machine.execPand gd f s
  | .por gd f => Sys2Proof.Machine.execPor gd f s
  | .pnot gd f => Sys2Proof.Machine.execPnot gd f s
  | .gang gd f => Sys2Proof.Machine.execGang gd f s
  | .rejoin gd f => Sys2Proof.Machine.execRejoin gd f s
  | .ungang gd f => Sys2Proof.Machine.execUngang gd f s
  | .nop gd f => Sys2Proof.Machine.execNop gd f s
  | .cmpEq gd f => Sys2Proof.Machine.execCmpEq gd f s
  | .cmpNe gd f => Sys2Proof.Machine.execCmpNe gd f s
  | .cmpLt gd f => Sys2Proof.Machine.execCmpLt gd f s
  | .cmpLe gd f => Sys2Proof.Machine.execCmpLe gd f s
  | .cmpGt gd f => Sys2Proof.Machine.execCmpGt gd f s
  | .cmpGe gd f => Sys2Proof.Machine.execCmpGe gd f s
  | .cmpUn gd f => Sys2Proof.Machine.execCmpUn gd f s
  | .cmpTst gd f => Sys2Proof.Machine.execCmpTst gd f s
  | .cmpNtst gd f => Sys2Proof.Machine.execCmpNtst gd f s
  | .cmpEqImm gd f => Sys2Proof.Machine.execCmpEqImm gd f s
  | .cmpNeImm gd f => Sys2Proof.Machine.execCmpNeImm gd f s
  | .cmpLtImm gd f => Sys2Proof.Machine.execCmpLtImm gd f s
  | .cmpLeImm gd f => Sys2Proof.Machine.execCmpLeImm gd f s
  | .cmpGtImm gd f => Sys2Proof.Machine.execCmpGtImm gd f s
  | .cmpGeImm gd f => Sys2Proof.Machine.execCmpGeImm gd f s
  | .cmpUnImm gd f => Sys2Proof.Machine.execCmpUnImm gd f s
  | .cmpTstImm gd f => Sys2Proof.Machine.execCmpTstImm gd f s
  | .cmpNtstImm gd f => Sys2Proof.Machine.execCmpNtstImm gd f s
  | .add gd f => Sys2Proof.Machine.execAdd gd f s
  | .sub gd f => Sys2Proof.Machine.execSub gd f s
  | .mul gd f => Sys2Proof.Machine.execMul gd f s
  | .mulh gd f => Sys2Proof.Machine.execMulh gd f s
  | .div gd f => Sys2Proof.Machine.execDiv gd f s
  | .rem gd f => Sys2Proof.Machine.execRem gd f s
  | .and gd f => Sys2Proof.Machine.execAnd gd f s
  | .or gd f => Sys2Proof.Machine.execOr gd f s
  | .xor gd f => Sys2Proof.Machine.execXor gd f s
  | .andn gd f => Sys2Proof.Machine.execAndn gd f s
  | .shl gd f => Sys2Proof.Machine.execShl gd f s
  | .shr gd f => Sys2Proof.Machine.execShr gd f s
  | .sar gd f => Sys2Proof.Machine.execSar gd f s
  | .rot gd f => Sys2Proof.Machine.execRot gd f s
  | .clz gd f => Sys2Proof.Machine.execClz gd f s
  | .ctz gd f => Sys2Proof.Machine.execCtz gd f s
  | .popc gd f => Sys2Proof.Machine.execPopc gd f s
  | .min gd f => Sys2Proof.Machine.execMin gd f s
  | .max gd f => Sys2Proof.Machine.execMax gd f s
  | .sel gd f => Sys2Proof.Machine.execSel gd f s
  | .bext gd f => Sys2Proof.Machine.execBext gd f s
  | .bins gd f => Sys2Proof.Machine.execBins gd f s
  | .addImm gd f => Sys2Proof.Machine.execAddImm gd f s
  | .mulImm gd f => Sys2Proof.Machine.execMulImm gd f s
  | .andImm gd f => Sys2Proof.Machine.execAndImm gd f s
  | .orImm gd f => Sys2Proof.Machine.execOrImm gd f s
  | .xorImm gd f => Sys2Proof.Machine.execXorImm gd f s
  | .shlImm gd f => Sys2Proof.Machine.execShlImm gd f s
  | .shrImm gd f => Sys2Proof.Machine.execShrImm gd f s
  | .sarImm gd f => Sys2Proof.Machine.execSarImm gd f s
  | .rotImm gd f => Sys2Proof.Machine.execRotImm gd f s
  | .minImm gd f => Sys2Proof.Machine.execMinImm gd f s
  | .maxImm gd f => Sys2Proof.Machine.execMaxImm gd f s
  | .bextImm gd f => Sys2Proof.Machine.execBextImm gd f s
  | .binsImm gd f => Sys2Proof.Machine.execBinsImm gd f s
  | .leaPc gd f => Sys2Proof.Machine.execLeaPc gd f s
  | .leaBase gd f => Sys2Proof.Machine.execLeaBase gd f s
  | .leaIndex gd f => Sys2Proof.Machine.execLeaIndex gd f s
  | .li gd f => Sys2Proof.Machine.execLi gd f s
  | .lui gd f => Sys2Proof.Machine.execLui gd f s
  | .wid gd f => Sys2Proof.Machine.execWid gd f s
  | .fadd gd f => Sys2Proof.Machine.execFadd gd f s
  | .fsub gd f => Sys2Proof.Machine.execFsub gd f s
  | .fmul gd f => Sys2Proof.Machine.execFmul gd f s
  | .ffma gd f => Sys2Proof.Machine.execFfma gd f s
  | .fmin gd f => Sys2Proof.Machine.execFmin gd f s
  | .fmax gd f => Sys2Proof.Machine.execFmax gd f s
  | .fneg gd f => Sys2Proof.Machine.execFneg gd f s
  | .fabs gd f => Sys2Proof.Machine.execFabs gd f s
  | .fcls gd f => Sys2Proof.Machine.execFcls gd f s
  | .frnd gd f => Sys2Proof.Machine.execFrnd gd f s
  | .fexf gd f => Sys2Proof.Machine.execFexf gd f s
  | .fins gd f => Sys2Proof.Machine.execFins gd f s
  | .fdiv gd f => Sys2Proof.Machine.execFdiv gd f s
  | .fsqrt gd f => Sys2Proof.Machine.execFsqrt gd f s
  | .frsq gd f => Sys2Proof.Machine.execFrsq gd f s
  | .iadd gd f => Sys2Proof.Machine.execIadd gd f s
  | .isub gd f => Sys2Proof.Machine.execIsub gd f s
  | .imul gd f => Sys2Proof.Machine.execImul gd f s
  | .idot4 gd f => Sys2Proof.Machine.execIdot4 gd f s
  | .iabs gd f => Sys2Proof.Machine.execIabs gd f s
  | .imin gd f => Sys2Proof.Machine.execImin gd f s
  | .imax gd f => Sys2Proof.Machine.execImax gd f s
  | .vsel gd f => Sys2Proof.Machine.execVsel gd f s
  | .vshf gd f => Sys2Proof.Machine.execVshf gd f s
  | .vshfRot gd f => Sys2Proof.Machine.execVshfRot gd f s
  | .vshfXor gd f => Sys2Proof.Machine.execVshfXor gd f s
  | .vredAdd gd f => Sys2Proof.Machine.execVredAdd gd f s
  | .vredMin gd f => Sys2Proof.Machine.execVredMin gd f s
  | .vredMax gd f => Sys2Proof.Machine.execVredMax gd f s
  | .vbc gd f => Sys2Proof.Machine.execVbc gd f s
  | .vbcLane gd f => Sys2Proof.Machine.execVbcLane gd f s
  | .vmov gd f => Sys2Proof.Machine.execVmov gd f s
  | .vmovExtract gd f => Sys2Proof.Machine.execVmovExtract gd f s
  | .vmovInsert gd f => Sys2Proof.Machine.execVmovInsert gd f s
  | .cvt gd f => Sys2Proof.Machine.execCvt gd f s
  | .cvtVector gd f => Sys2Proof.Machine.execCvtVector gd f s
  | .qsc gd f => Sys2Proof.Machine.execQsc gd f s
  | .qcb gd f => Sys2Proof.Machine.execQcb gd f s
  | .dqcb gd f => Sys2Proof.Machine.execDqcb gd f s
  | .nanm gd f => Sys2Proof.Machine.execNanm gd f s
  | .nanx gd f => Sys2Proof.Machine.execNanx gd f s
  | .pspl gd f => Sys2Proof.Machine.execPspl gd f s
  | .pjn gd f => Sys2Proof.Machine.execPjn gd f s
  | .pupd gd f => Sys2Proof.Machine.execPupd gd f s
  | .pdec gd f => Sys2Proof.Machine.execPdec gd f s
  | .ld gd f => Sys2Proof.Machine.execLd gd f s
  | .st gd f => Sys2Proof.Machine.execSt gd f s
  | .migr gd f => Sys2Proof.Machine.execMigr gd f s
  | .home gd f => Sys2Proof.Machine.execHome gd f s
  | .fence gd f => Sys2Proof.Machine.execFence gd f s
  | .vld gd f => Sys2Proof.Machine.execVld gd f s
  | .vst gd f => Sys2Proof.Machine.execVst gd f s
  | .vldp gd f => Sys2Proof.Machine.execVldp gd f s
  | .vstp gd f => Sys2Proof.Machine.execVstp gd f s
  | .lds gd f => Sys2Proof.Machine.execLds gd f s
  | .sts gd f => Sys2Proof.Machine.execSts gd f s
  | .tprb gd f => Sys2Proof.Machine.execTprb gd f s
  | .kvfork gd f => Sys2Proof.Machine.execKvfork gd f s
  | .kvfree gd f => Sys2Proof.Machine.execKvfree gd f s
  | .tld gd f => Sys2Proof.Machine.execTld gd f s
  | .rdmSp gd f => Sys2Proof.Machine.execRdmSp gd f s
  | .rdmV gd f => Sys2Proof.Machine.execRdmV gd f s
  | .rdmS gd f => Sys2Proof.Machine.execRdmS gd f s
  | .tqry gd f => Sys2Proof.Machine.execTqry gd f s
  | .tdrop gd f => Sys2Proof.Machine.execTdrop gd f s
  | .cldX gd f => Sys2Proof.Machine.execCldX gd f s
  | .cldB gd f => Sys2Proof.Machine.execCldB gd f s
  | .cldtX gd f => Sys2Proof.Machine.execCldtX gd f s
  | .cldtB gd f => Sys2Proof.Machine.execCldtB gd f s
  | .cldg gd f => Sys2Proof.Machine.execCldg gd f s
  | .rld gd f => Sys2Proof.Machine.execRld gd f s
  | .rldg gd f => Sys2Proof.Machine.execRldg gd f s
  | .fold gd f => Sys2Proof.Machine.execFold gd f s
  | .acpV gd f => Sys2Proof.Machine.execAcpV gd f s
  | .acpSp gd f => Sys2Proof.Machine.execAcpSp gd f s
  | .acps gd f => Sys2Proof.Machine.execAcps gd f s
  | .aclrX gd f => Sys2Proof.Machine.execAclrX gd f s
  | .aclrF gd f => Sys2Proof.Machine.execAclrF gd f s
  | .skeep gd f => Sys2Proof.Machine.execSkeep gd f s
  | .cres gd f => Sys2Proof.Machine.execCres gd f s
  | .cresD gd f => Sys2Proof.Machine.execCresD gd f s
  | .wlt gd f => Sys2Proof.Machine.execWlt gd f s
  | .cgo gd f => Sys2Proof.Machine.execCgo gd f s
  | .binit gd f => Sys2Proof.Machine.execBinit gd f s
  | .barv gd f => Sys2Proof.Machine.execBarv gd f s
  | .bwait gd f => Sys2Proof.Machine.execBwait gd f s
  | .sbind gd f => Sys2Proof.Machine.execSbind gd f s
  | .xreq gd f => Sys2Proof.Machine.execXreq gd f s
  | .amoAdd gd f => Sys2Proof.Machine.execAmoAdd gd f s
  | .amoMin gd f => Sys2Proof.Machine.execAmoMin gd f s
  | .amoMax gd f => Sys2Proof.Machine.execAmoMax gd f s
  | .amoAnd gd f => Sys2Proof.Machine.execAmoAnd gd f s
  | .amoOr gd f => Sys2Proof.Machine.execAmoOr gd f s
  | .amoXor gd f => Sys2Proof.Machine.execAmoXor gd f s
  | .amoSwap gd f => Sys2Proof.Machine.execAmoSwap gd f s
  | .amoCas gd f => Sys2Proof.Machine.execAmoCas gd f s
  | .redAdd gd f => Sys2Proof.Machine.execRedAdd gd f s
  | .redMin gd f => Sys2Proof.Machine.execRedMin gd f s
  | .redMax gd f => Sys2Proof.Machine.execRedMax gd f s
  | .redAnd gd f => Sys2Proof.Machine.execRedAnd gd f s
  | .redOr gd f => Sys2Proof.Machine.execRedOr gd f s
  | .redXor gd f => Sys2Proof.Machine.execRedXor gd f s
  | .redX gd f => Sys2Proof.Machine.execRedX gd f s
  | .inbx gd f => Sys2Proof.Machine.execInbx gd f s
  | .launch gd f => Sys2Proof.Machine.execLaunch gd f s
  | .texit gd f => Sys2Proof.Machine.execTexit gd f s
  | .phase gd f => Sys2Proof.Machine.execPhase gd f s
  | .cpin gd f => Sys2Proof.Machine.execCpin gd f s
  | .cunpin gd f => Sys2Proof.Machine.execCunpin gd f s
  | .trap gd f => Sys2Proof.Machine.execTrap gd f s
  | .rti gd f => Sys2Proof.Machine.execRti gd f s
  | .gets gd f => Sys2Proof.Machine.execGets gd f s
  | .sets gd f => Sys2Proof.Machine.execSets gd f s
  | .brk gd f => Sys2Proof.Machine.execBrk gd f s
  | .trc gd f => Sys2Proof.Machine.execTrc gd f s
  | .getsCpGo gd f => Sys2Proof.Machine.execGetsCpGo gd f s
  | .lineFetchReply g colour line => Sys2Proof.Machine.execLineFetchReply g colour line s
  | .tableWalkComplete g colour vpage => Sys2Proof.Machine.execTableWalkComplete g colour vpage s
  | .loadReply k => Sys2Proof.Machine.execLoadReply k s
  | .readPerform k => Sys2Proof.Machine.execReadPerform k s
  | .writePerform k => Sys2Proof.Machine.execWritePerform k s
  | .heldWriteRelease g k => Sys2Proof.Machine.execHeldWriteRelease g k s
  | .frontierUpdate die => Sys2Proof.Machine.execFrontierUpdate die s
  | .pupdPerform k => Sys2Proof.Machine.execPupdPerform k s
  | .kvStep k => Sys2Proof.Machine.execKvStep k s
  | .kvBlockStep k => Sys2Proof.Machine.execKvBlockStep k s
  | .clusterBlockExpand clu colour blk => Sys2Proof.Machine.execClusterBlockExpand clu colour blk s
  | .atomicPerform k => Sys2Proof.Machine.execAtomicPerform k s
  | .amoReply k => Sys2Proof.Machine.execAmoReply k s
  | .redAck k => Sys2Proof.Machine.execRedAck k s
  | .gatewayMerge k die => Sys2Proof.Machine.execGatewayMerge k die s
  | .mergeHoldExpiry die entry => Sys2Proof.Machine.execMergeHoldExpiry die entry s
  | .nWordArrival k => Sys2Proof.Machine.execNWordArrival k s
  | .migrArrival k => Sys2Proof.Machine.execMigrArrival k s
  | .gangForm g slot => Sys2Proof.Machine.execGangForm g slot s
  | .rejoinArrival k => Sys2Proof.Machine.execRejoinArrival k s
  | .xreqAnswer k => Sys2Proof.Machine.execXreqAnswer k s
  | .reportDelivery g slot => Sys2Proof.Machine.execReportDelivery g slot s
  | .collectionWindowClose g => Sys2Proof.Machine.execCollectionWindowClose g s
  | .coreMachineCheck g cause => Sys2Proof.Machine.execCoreMachineCheck g cause s
  | .commandActivate g => Sys2Proof.Machine.execCommandActivate g s
  | .unitArrival g c u => Sys2Proof.Machine.execUnitArrival g c u s
  | .commandComplete g c => Sys2Proof.Machine.execCommandComplete g c s
  | .engineFaultPark g c u => Sys2Proof.Machine.execEngineFaultPark g c u s
  | .engineMigration g idx host => Sys2Proof.Machine.execEngineMigration g idx host s
  | .partialReturn host => Sys2Proof.Machine.execPartialReturn host s
  | .skeepBroadcast clu g => Sys2Proof.Machine.execSkeepBroadcast clu g s
  | .inboxMessageArrival k => Sys2Proof.Machine.execInboxMessageArrival k s
  | .copyStart g => Sys2Proof.Machine.execCopyStart g s
  | .copySectorLand g id sec => Sys2Proof.Machine.execCopySectorLand g id sec s
  | .copyPark g id sec => Sys2Proof.Machine.execCopyPark g id sec s
  | .copyComplete g id => Sys2Proof.Machine.execCopyComplete g id s
  | .cpResResume tid id => Sys2Proof.Machine.execCpResResume tid id s
  | .cpResDiscard tid id => Sys2Proof.Machine.execCpResDiscard tid id s
  | .transformComplete clu cop => Sys2Proof.Machine.execTransformComplete clu cop s
  | .tldRequest k => Sys2Proof.Machine.execTldRequest k s
  | .ticketGroupLanded g e idx => Sys2Proof.Machine.execTicketGroupLanded g e idx s
  | .ticketClaim k => Sys2Proof.Machine.execTicketClaim k s
  | .ticketDelivery g e idx => Sys2Proof.Machine.execTicketDelivery g e idx s
  | .tdropAtSlice k => Sys2Proof.Machine.execTdropAtSlice k s
  | .tqryAtSlice k => Sys2Proof.Machine.execTqryAtSlice k s
  | .leaseExpiry g e => Sys2Proof.Machine.execLeaseExpiry g e s
  | .launchAccept src place => Sys2Proof.Machine.execLaunchAccept src place s
  | .teamBind clu => Sys2Proof.Machine.execTeamBind clu s
  | .stealRequest thief victim => Sys2Proof.Machine.execStealRequest thief victim s
  | .stealReply k => Sys2Proof.Machine.execStealReply k s
  | .stealBackoffExpiry clu => Sys2Proof.Machine.execStealBackoffExpiry clu s
  | .launchComplete l => Sys2Proof.Machine.execLaunchComplete l s
  | .phaseCommit l => Sys2Proof.Machine.execPhaseCommit l s
  | .roundSwitch l clu => Sys2Proof.Machine.execRoundSwitch l clu s
  | .heartbeat die missed => Sys2Proof.Machine.execHeartbeat die missed s
  | .dieFence die dieCheck => Sys2Proof.Machine.execDieFence die dieCheck s
  | .swapInstant g => Sys2Proof.Machine.execSwapInstant g s
  | .castlingOffer p q => Sys2Proof.Machine.execCastlingOffer p q s
  | .castlingSwap p q => Sys2Proof.Machine.execCastlingSwap p q s
  | .preemptStop part colour => Sys2Proof.Machine.execPreemptStop part colour s
  | .preemptDrainDone part => Sys2Proof.Machine.execPreemptDrainDone part s
  | .preemptExchangeDone part => Sys2Proof.Machine.execPreemptExchangeDone part s
  | .peCtlWrite g val => Sys2Proof.Machine.execPeCtlWrite g val s
  | .tbInval colour va => Sys2Proof.Machine.execTbInval colour va s
  | .serviceRegisterWrite g slot colour num val => Sys2Proof.Machine.execServiceRegisterWrite g slot colour num val s
  | .jobDiscard colour => Sys2Proof.Machine.execJobDiscard colour s
  | .arbiterResumeThread g slot pc inh => Sys2Proof.Machine.execArbiterResumeThread g slot pc inh s
  | .breakpointHalt g slot entry => Sys2Proof.Machine.execBreakpointHalt g slot entry s
  | .debugResume g slot count => Sys2Proof.Machine.execDebugResume g slot count s
  | .debugTableWrite w => Sys2Proof.Machine.execDebugTableWrite w s
  | .traceSample g => Sys2Proof.Machine.execTraceSample g s
  | .tcUnfreeze clu => Sys2Proof.Machine.execTcUnfreeze clu s
  | .recorderDrain clu => Sys2Proof.Machine.execRecorderDrain clu s
  | .sinkTimeout clu => Sys2Proof.Machine.execSinkTimeout clu s
  | .clockFreeze => Sys2Proof.Machine.execClockFreeze s
  | .thermalThrottle die => Sys2Proof.Machine.execThermalThrottle die s
  | .linkMessageReceive port seq tagOk msg => Sys2Proof.Machine.execLinkMessageReceive port seq tagOk msg s
  | .lkAckWrite port ack => Sys2Proof.Machine.execLkAckWrite port ack s
  | .lkAckReplay port => Sys2Proof.Machine.execLkAckReplay port s
  | .linkTrain port => Sys2Proof.Machine.execLinkTrain port s
  | .peerHandshake port chain => Sys2Proof.Machine.execPeerHandshake port chain s
  | .peerConfigWrite cfg => Sys2Proof.Machine.execPeerConfigWrite cfg s
  | .spdmRequest port => Sys2Proof.Machine.execSpdmRequest port s
  | .keyUpdate port => Sys2Proof.Machine.execKeyUpdate port s
  | .lockInterfaceRequest lock => Sys2Proof.Machine.execLockInterfaceRequest lock s
  | .startInterfaceRequest colour => Sys2Proof.Machine.execStartInterfaceRequest colour s
  | .stopInterfaceRequest colour => Sys2Proof.Machine.execStopInterfaceRequest colour s
  | .hostLaunch port place => Sys2Proof.Machine.execHostLaunch port place s
  | .dmaDescriptor port => Sys2Proof.Machine.execDmaDescriptor port s
  | .dmaComplete port => Sys2Proof.Machine.execDmaComplete port s
  | .powerUp status => Sys2Proof.Machine.execPowerUp status s
  | .bootStatusQuery die => Sys2Proof.Machine.execBootStatusQuery die s
  | .reset keepsPower => Sys2Proof.Machine.execReset keepsPower s
  | .coreCycle g lostBank => Sys2Proof.Machine.execCoreCycle g lostBank s
  | .bindRecordAging die e => Sys2Proof.Machine.execBindRecordAging die e s
  | .forwardedLineArrival k => Sys2Proof.Machine.execForwardedLineArrival k s
  | .linkFlitRetry die link => Sys2Proof.Machine.execLinkFlitRetry die link s
  | .linkLoss port => Sys2Proof.Machine.execLinkLoss port s
  | .partitionResize part clusters => Sys2Proof.Machine.execPartitionResize part clusters s
  | .arbiterFirmwareReplace => Sys2Proof.Machine.execArbiterFirmwareReplace s
  | .arbiterWatchdogExpiry die => Sys2Proof.Machine.execArbiterWatchdogExpiry die s
  | .traceSinkWrite clu => Sys2Proof.Machine.execTraceSinkWrite clu s

end Sys2Proof.Machine
end

