-- ==== Sys2Proof/Machine/Schedule.lean ====
section
/-! DEFINITION. How moves follow one another: the instructions of a turn (spec/02_encoding.md R42, R43, R51; spec/04_control.md R103;
spec/16_debug.md R377, R378), and the move that comes next where the agenda names none (notes/assumptions/1.md). -/
namespace Sys2Proof.Machine
open Sys2Proof

/-! The instructions of a turn. -/

/-- The turn has left its thread not ready. -/
def State.waits (s : State) : Bool := s.cls == .mem || s.cls == .msg

/-- A jump to a gang's common label. -/
def isRejoin (i : Instr) : Bool := match i with
  | .rejoin _ _ => true
  | _ => false

/-- The thread named `tid` has issued its instruction at p and waits there for the answer of a redeem. -/
def State.redeems (s : State) (r : SlotRef) (p : Word) : Bool :=
  match s.thread r.g r.slot with
  | some t => t.waitAns && t.pc == p
  | none => false

/-- The thread has issued: what R378 and R124 count from it. -/
def State.settle (s : State) (t : Thread) (i : Instr) (second : Bool) (p : Word) : State :=
  s.onTid t.tid fun u =>
    let stays := u.waitAns && u.pc == p
    let u1 := (if stays then { u with pc := succPc p } else u).afterIssue t.inh (isRejoin i) second p
    if stays then { u1 with pc := p } else u1

/-- The d registers an instruction writes as it issues. -/
def writtenD (i : Instr) (t : Thread) : List (Fin 16) :=
  match rawOf i with
  | none => []
  | some w => match pick w with
    | none => []
    | some f => if t.guardVal w.gd then (w.writes f).filterMap fun r => if r.1 = 0 then some (Fin.ofNat 16 r.2) else none else []

/-- What the first of a pair has taken with a synchronised read is still full for the second: both have been ready at the turn (R42, R49, R51). -/
def Thread.restore (before u : Thread) : Thread :=
  let lost := (List.finRange 16).filter fun i => before.dfull[i] && !u.dfull[i] && !u.dpend[i]
  { u with taken := lost, dfull := lost.foldl (fun (d : Vector Bool 16) (i : Fin 16) => d.set i true) u.dfull }

/-- The pair is over: what the first has taken is empty, but for what the second has written. -/
def Thread.dropTaken (u : Thread) (written : List (Fin 16)) : Thread :=
  { u with
    taken := []
    dfull := (u.taken.filter fun i => !written.contains i).foldl (fun (d : Vector Bool 16) (i : Fin 16) => d.set i false) u.dfull }

/-- The second of a pair has issued or trapped, leaving state a: no answer for a KV window outlasts the pair (R207). -/
def State.endPair (a : State) (t : Thread) (i : Instr) : State :=
  a.onTid t.tid fun u => { u.dropTaken (if a.cls = .issued then writtenD i t else []) with second := false, kv := [] }

/-- One instruction issued alone, at pc p: the second of a pair whose first is a redeem or a move, or one that is in no pair. -/
def issueOne (i : Instr) (t : Thread) (p : Word) (s : State) : Host.Outcome State Fault Refusal :=
  match exec i s with
  | .next a =>
    let a1 := if a.cls == .issued then a.settle t i false p else a
    .next (if t.second && !a.waits then a1.endPair t i else a1)
  | o => o

/-- The thread named `tid` is no longer in the slot. -/
def State.gone (s : State) (r : SlotRef) (tid : Nat) : Bool := (s.thread r.g r.slot).map Thread.tid != some tid

/-- The answers that a thread has had for its KV windows are there for the second instruction of its pair too. -/
def State.keepKv (s : State) (t : Thread) : State := if t.kv.isEmpty then s else s.onTid t.tid fun u => { u with kv := t.kv }

/-- A pair issues as a whole: both are ready, or neither takes effect; the second does not execute when the first traps, and waits for
the answer of a first that is a redeem. When only the second traps, the first completes. A thread that moves with the first issues the
second where it arrives (R202). The second finds full what the first has taken with a synchronised read. What else the first takes is gone for
the second: one that reads n5 beside an `inbx` needs a second message (DESIGN CHOICE, notes/assumptions/38.md). -/
def issuePair (i1 i2 : Instr) (t : Thread) (s : State) : Host.Outcome State Fault Refusal :=
  let r := s.cur
  let p := t.pc
  let q := succPc p
  match exec i1 s, exec i2 (s.setThread r.g r.slot (some { t with pc := q })) with
  | .next a, .next b =>
    if a.waits ∨ b.waits then
      let k : SlotClass := if a.cls = .mem ∨ b.cls = .mem then .mem else .msg
      let back := if a.waits then a else match b.thread r.g r.slot with
        | some u => b.setThread r.g r.slot (some { u with pc := p })
        | none => b
      .next { back with cls := k }
    else if a.cls ≠ .issued then .next a
    else
      let a1 := a.onTid t.tid (Thread.restore t)
      if a.redeems r p || a.gone r t.tid then .next (a1.settle t i1 true p)
      else match exec i2 (a1.keepKv t) with
        | .next c => if c.waits then .next { s with cls := c.cls }
          else .next { (c.endPair t i2).settle t i2 false (if c.cls = .issued then q else p) with cls := .issued }
        | o => o
  | .next _, o => o
  | o, _ => o

/-- The instructions of a turn, in the current slot. -/
def issueAll (is : List Instr) (s : State) : Host.Outcome State Fault Refusal :=
  match s.thread s.cur.g s.cur.slot, is with
  | some t, [i] => issueOne i t t.pc s
  | some t, i1 :: i2 :: _ => issuePair i1 i2 t s
  | _, _ => .next s

/-- The turn's thread loses a bank that an instruction of the turn needs, unless it lost one at its last turn (R103). -/
def State.losesBank (s : State) (is : List Instr) : Bool :=
  match ctxOf s with
  | some x => !x.t.retry && is.any fun i => needsBank i x
  | none => false

/-- The thread retries at its next turn. -/
def State.lostTurn (s : State) : State :=
  match s.thread s.cur.g s.cur.slot with
  | some t => { s.setThread s.cur.g s.cur.slot (some { t with retry := true }) with cls := .mem }
  | none => s

/-- The attempt has made its thread wait for others, as `gang`, `rejoin` and `phase` do: the instruction has taken effect. -/
def State.begun (s a : State) : Bool :=
  match s.thread s.cur.g s.cur.slot, a.thread s.cur.g s.cur.slot with
  | some t, some u => t.gang != u.gang || t.arrived != u.arrived
  | _, _ => false

/-- The turn of `issue` is carried out and ends. A breakpoint takes it unless an instruction is not ready (R377). -/
def runIssue (lost : Bool) (s : State) : Host.Outcome State Fault Refusal :=
  let s0 := { s with issue := [] }
  match s.issue with
  | [] => .next s
  | .breakpointHalt g slot e :: is =>
    (match issueAll is s0 with
    | .next a => if a.waits && !s0.begun a then .next (a.endTurn false) else
        match exec (.breakpointHalt g slot e) s0 with
        | .next b => .next (b.endTurn false)
        | o => o
    | o => o)
  | is =>
    match issueAll is s0 with
    | .next a =>
      if lost ∧ a.cls = .issued ∧ s0.losesBank is then .next (s0.lostTurn.endTurn true) else .next (a.endTurn (a.cls == .issued))
    | o => o

/-- A breakpoint's halt as a move of its own: the core's cycle at whose turn it happens, if the core finds the entry to match there and what is at
its pc ready (R377). -/
def haltMove (g slot entry : Nat) (s : State) : Host.Outcome State Fault Refusal :=
  orNot "BREAKPOINT_HALT" (match exec (.coreCycle g false) s with
    | .next a =>
      if a.cur ≠ ⟨g, slot⟩ ∨ a.issue.head? ≠ some (.breakpointHalt g slot entry) then none
      else match runIssue false a with
        | .next b => if (b.thread g slot).any Thread.halted then some b else none
        | _ => none
    | _ => none)

/-- A move carried out. An instruction is no move of its own: it issues within a cycle of its core. -/
def runMove (m : Instr) (s : State) : Host.Outcome State Fault Refusal :=
  match m with
  | .breakpointHalt g slot entry => haltMove g slot entry s
  | .coreCycle g lost =>
    match exec (.coreCycle g lost) s with
    | .next a => runIssue lost a
    | o => o
  | m => if (rawOf m).isSome then .refused (.notEnabled "instruction") else exec m s

/-- The one move that a frozen package makes (R390). -/
def isReset (m : Instr) : Bool := match m with
  | .reset _ => true
  | _ => false

/-! The move that comes next (notes/assumptions/1.md). -/

/-- The moves by which message k is received. -/
def Msg.moves (k : Nat) : Msg → List Instr
  | .read _ segs _ _ =>
    ((segs.filter fun e => isCluster e.1).map fun e => .clusterBlockExpand (clusterOfAddr e.1) (blockKey e.1 / 2 ^ 15) (blockKey e.1 % 2 ^ 15))
      ++ [.readPerform k]
  | .write _ _ _ => [.writePerform k]
  | .atomic _ => [.atomicPerform k]
  | .planar _ => [.pupdPerform k]
  | .reply _ _ _ _ _ _ => [.loadReply k]
  | .amoReply _ _ _ _ _ _ => [.amoReply k]
  | .redAck _ _ _ _ => [.redAck k]
  | .kv _ _ _ _ _ => [.kvStep k]
  | .kvBlocks _ _ _ _ _ _ => [.kvBlockStep k]
  | .nword _ _ _ _ _ _ => [.nWordArrival k]
  | .context _ _ _ _ _ => [.migrArrival k]
  | .rejoin _ _ _ _ => [.rejoinArrival k]
  | .fwdLine _ _ _ _ => [.forwardedLineArrival k]
  | .xreq _ _ _ _ _ _ _ => [.xreqAnswer k]
  | .inbox _ _ _ _ _ => [.inboxMessageArrival k]
  | .tld _ _ _ _ _ _ _ _ _ _ _ => [.tldRequest k]
  | .claim _ _ => [.ticketClaim k]
  | .tdrop _ _ => [.tdropAtSlice k]
  | .tqry _ _ _ => [.tqryAtSlice k]
  | .launchReq _ _ _ _ => [.launchAccept (.task k) []]
  | .stealReply _ _ _ _ => [.stealReply k]

/-- The first sector of a copy that has not landed; one more run than sectors landed is always enough to look at. -/
def Copy.nextSector (c : Copy) : Option Nat :=
  let n := c.landed.length + 1
  let alone := c.flat || c.plan.m == .deal
  let runs := if c.flat then (c.plan.total + 63) / 64 else c.plan.runs
  (List.range (min runs n)).findSome? fun r =>
    (List.range (if alone then 1 else min (((c.plan.runDst r).toNat % 64 + c.plan.len + 63) / 64) n)).findSome? fun j =>
      if c.landed.contains (r * 2 ^ 14 + j) then none else some (r * 2 ^ 14 + j)

/-- The moves of a core's own parts. -/
def Core.moves (g : Nat) (c : Core) : List Instr :=
  (c.walks.map fun w => .tableWalkComplete g w.colour w.page)
    ++ (c.fetches.map fun f => .lineFetchReply g f.1 (BitVec.ofNat 64 f.2))
    ++ ((List.range c.held.length).map fun k => .heldWriteRelease g k)
    ++ [.collectionWindowClose g, .commandActivate g, .copyStart g, .swapInstant g]
    ++ ((List.range 16).map fun i => .gangForm g i)
    ++ (c.active.flatMap fun (e : Cmd) =>
        (((List.range 256).filter fun u => !e.bm.getLsbD u).map fun u => .unitArrival g e.uid u) ++ [.commandComplete g e.uid])
    ++ (match c.guest with
      | some q => (((List.range 256).filter fun u => !q.cmd.bm.getLsbD u).map fun u => .unitArrival g q.cmd.uid u) ++ [.partialReturn g]
      | none => [])
    ++ (c.copies.flatMap fun (x : Copy) =>
        (x.nextSector.toList.map fun i => .copySectorLand g x.id.toNat i) ++ [.copyComplete g x.id.toNat])
    ++ (c.tickets.flatMap fun (e : Nat × TkEntry) =>
        (((List.range e.2.n).map fun i => .ticketGroupLanded g e.1 i) ++ ((List.range (e.2.n * e.2.planes)).map fun i => .ticketDelivery g e.1 i))
          ++ [.leaseExpiry g e.1])
    ++ (match c.offer with
      | some q => [.castlingOffer g q, .castlingSwap g q]
      | none => [])

/-- The moves of a cluster. -/
def Cluster.moves (k : Nat) (c : Cluster) : List Instr :=
  (if c.casts.isEmpty then [] else (clusterCores k).map fun g => .skeepBroadcast k g)
    ++ ((List.range 2).flatMap fun j => match (c.cop j).active with
      | some (g, x) =>
        (x.nextSector.toList.map fun i => .copySectorLand g x.id.toNat i) ++ [.transformComplete k j]
      | none => [])
    ++ (if c.recs.isEmpty then [] else [.traceSinkWrite k])

/-- The moves of the arbiters: binding, phases, completion, the steps of a switch. -/
def State.arbiterMoves (s : State) : List Instr :=
  ((List.range 8).map fun d => .frontierUpdate d)
    ++ (s.parts.flatMap fun (p : Nat × Partition) =>
        (p.2.clusters.map fun k => .teamBind k)
          ++ (s.launches.flatMap fun (l : Nat × Launch) => p.2.clusters.map fun k => .roundSwitch l.1 k)
          ++ [.preemptDrainDone p.1, .preemptExchangeDone p.1])
    ++ (s.launches.flatMap fun (l : Nat × Launch) => [.phaseCommit l.1, .launchComplete l.1])

/-- Every move of the package but a core's cycle. -/
def State.moves (s : State) : List Instr :=
  (s.net.zipIdx.flatMap fun m => m.1.moves m.2)
    ++ (s.cores.flatMap fun e => e.2.moves e.1)
    ++ (s.clusters.flatMap fun e => e.2.moves e.1)
    ++ s.arbiterMoves

/-- The first of a list of moves that the state lets happen. -/
def firstEnabled (s : State) : List Instr → Option State
  | [] => none
  | m :: rest => match exec m s with
    | .next a => some a
    | _ => firstEnabled s rest

/-- What stops a command, a guest or a copy that can go no further (R250, R283, R381). -/
def State.parks (s : State) : List (Host.Outcome State Fault Refusal) :=
  (s.cores.flatMap fun e =>
    (e.2.active.filterMap fun (c : Cmd) => c.nextUnit.map fun u => execEngineFaultPark e.1 c.uid u s)
      ++ (match e.2.guest with
        | some q => (q.cmd.nextUnit.map fun u => execEngineFaultPark e.1 q.cmd.uid u s).toList
        | none => [])
      ++ (e.2.copies.filterMap fun (x : Copy) => x.nextSector.map fun i => execCopyPark e.1 x.id.toNat i s))
    ++ (s.clusters.flatMap fun e => (List.range 2).filterMap fun j => match (e.2.cop j).active with
      | some (g, x) => x.nextSector.map fun i => execCopyPark g x.id.toNat i s
      | none => none)

/-- The first next state of a list of outcomes. -/
def firstNext : List (Host.Outcome State Fault Refusal) → Option State
  | [] => none
  | .next a :: _ => some a
  | _ :: rest => firstNext rest

/-- The core with a thread whose cycle count is least; the core `focus` where none has one. -/
def State.nextCore (s : State) : Nat :=
  let busy := s.cores.filter fun e => e.2.threads.toList.any Option.isSome || !e.2.arrivals.isEmpty
  match busy with
  | [] => s.focus
  | e :: rest => (rest.foldl (fun (b : Nat × Core) (x : Nat × Core) => if x.2.cyc < b.2.cyc then x else b) e).1

/-- Where the agenda is empty, the first move that can happen, then what parks, and otherwise a cycle of a core that has threads. -/
def defaultMove (s : State) : Host.Outcome State Fault Refusal :=
  match firstEnabled s s.moves with
  | some a => .next a
  | none => match firstNext s.parks with
    | some a => .next a
    | none => runMove (.coreCycle s.nextCore false) s

end Sys2Proof.Machine
end

