-- ==== Sys2Proof/Machine/Place.lean ====
section
/-! DEFINITION. An instruction placed where the next step fetches it: in a line held by a core, under the pc of the thread whose
slot the core offers next (notes/assumptions/2.md). -/
namespace Sys2Proof.Machine
open Sys2Proof

/-- The thread of the offered slot as it takes the placed instruction; a slot without one gets a supervisor thread as a launch starts it,
at address 0x10000. -/
def State.placedThread (s : State) (g slot : Nat) : Thread :=
  let t := (s.thread g slot).getD (Thread.start s.uid 0 0 0 0 0x10000 0 true s.free)
  let fits : Bool := decide (t.pc.toNat < 2 ^ 54) && t.pc.toNat / 8 % 8 == 0 && decide (t.pc.toNat % 8 < 5)
  { t with
    pc := if fits then t.pc else 0x10000
    waitAns := false, entry := none, vector := none, reports := [], park := .none, handed := none
    halted := false, haltReq := false, pass := true, gang := .none, second := false, taken := [] }

/-- The leaf that maps the page of the placed line: valid, readable, writable, fetchable, placed in vault 0 (R190). -/
def placedLeaf : Word := 0x1F

/-- A base of page tables that stands (R189), where the fetch does not yet find one. -/
def State.placedBase (s : State) (colour die : Nat) : List (Nat × Word) :=
  if (s.wpFault colour die).isNone then s.wpBase else smapPut s.wpBase (8 * colour + die) 1

/-- The state whose next step fetches and issues the instruction of a table word. -/
def State.placeWord (s : State) (nbits w : Nat) : State :=
  let g := s.focus % 2048
  let c := s.core g
  let slot := c.cyc % 16
  let t := s.placedThread g slot
  let bits := makeLine ((List.replicate (t.pc.toNat % 8) 0) ++ [w % 2 ^ (min nbits 96)]) 0 0
  let c1 := { c.setThread slot (some t) with
    stop := false, window := none, offer := none, offerIn := none, arrivals := []
    lines := (t.colour, (lineAddr t.pc).toNat, bits) :: c.lines
    tlb := ⟨t.colour, false, t.pc.toNat / 2 ^ 16, placedLeaf⟩ :: c.tlb }
  { (s.setCore g c1).setDie (dieOf g) { s.die (dieOf g) with fenced := false } with
    powered := true, frozen := false, agenda := [.coreCycle g false], focus := g, wpBase := s.placedBase t.colour (dieOf g) }

end Sys2Proof.Machine
end

