-- ==== Sys2Proof/Machine/Step.lean ====
section
/-! DEFINITION. One step of the package: the next move of the agenda, or of the default schedule. -/
namespace Sys2Proof.Machine
open Sys2Proof

/-- One step. While the clocks are frozen only a reset happens (R390). -/
def step (s : State) : Host.Outcome State Fault Refusal :=
  match s.agenda with
  | [] => if s.frozen then .fault .clockFrozen else defaultMove s
  | m :: rest =>
    if s.frozen && !isReset m then .fault .clockFrozen else runMove m { s with agenda := rest }

/-- The state with one instruction placed where the next step fetches it (notes/assumptions/2.md). -/
def State.withFetchWord (s : State) (nbits w : Nat) : State := s.placeWord nbits w

end Sys2Proof.Machine
end

