-- ==== Sys2Proof/Safety.lean ====
section
/-! DEFINITION. What claims are stated in: that an instruction executes at its turn, what a family of instructions may change, and
what a safe run is. -/
namespace Sys2Proof.Machine
open Sys2Proof

/-- A run of n steps that meets no fault and no refusal. -/
def SafeRun (n : Nat) (s : State) : Prop := ∃ t, Host.Core.run core n s = .next t

/-- Every byte of memory reads in t as it reads in s. -/
def SameMemory (s t : State) : Prop := ∀ a, memGet t.mem a = memGet s.mem a

/-- Every byte of memory but those of the list reads in t as it reads in s. -/
def SameMemoryBut (as : List Nat) (s t : State) : Prop := ∀ a, a ∉ as → memGet t.mem a = memGet s.mem a

/-- The offered slot holds the thread of x, whose guard lets the instruction execute (R44). -/
def Executes (gd : Guard) (s : State) (x : Ctx) : Prop :=
  ctxOf s = some x ∧ x.t.guardRes gd = true ∧ x.t.guardVal gd = true

/-- The offered slot's thread after it has issued: as given, at the sequential successor of its pc (R38). -/
def issuedAs (t : Thread) : Thread :=
  { t with entry := none, vector := none, retry := false, kv := [], pc := succPc t.pc }

/-- The thread of the offered slot after a checked transfer to a pc (R39). -/
def transferredTo (t : Thread) (pc : Word) : Thread :=
  { t with entry := some t.pc, vector := none, retry := false, kv := [], pc := pc }

/-- No operand position of an instruction names the register. -/
def Fields.avoids (f : Fields) (r : Reg) : Prop := f.dst.reg ≠ r ∧ f.src1.reg ≠ r ∧ f.src2.reg ≠ r ∧ f.src3.reg ≠ r

/-- No source reads the register under the synchronised modifier (R106). -/
def Fields.noSync (f : Fields) (i : Fin 16) : Prop :=
  f.src1 ≠ ⟨.d i, .sync⟩ ∧ f.src2 ≠ ⟨.d i, .sync⟩ ∧ f.src3 ≠ ⟨.d i, .sync⟩

/-- What a register instruction leaves as it was, apart from its own destination and the entries its sources take: every other
register, every other thread and core, every other part of the package. -/
structure RegisterFrame (f : Fields) (x : Ctx) (s t : State) : Prop where
  memory : SameMemory s t
  rest   : t = { s with cores := t.cores, net := t.net, cls := t.cls, free := t.free }
  cores  : ∀ h, h ≠ x.g → t.core h = s.core h
  slots  : ∀ k, k ≠ x.slot → t.thread x.g k = s.thread x.g k
  core   : ∃ q nin n4 traffic sent away due, t.core x.g =
    { x.c with threads := (t.core x.g).threads, q := q, nin := nin, n4 := n4, queue := (t.core x.g).queue, traffic := traffic,
               sent := sent, away := away, swapDue := due }
  cmds   : (∀ i : Fin 8, f.dst.reg ≠ .p i) → (t.core x.g).queue = x.c.queue
  guarded : ∀ (i : Fin 8) (u : Thread), f.dst.reg = .p i → i ≠ 0 → t.thread x.g x.slot = some u →
    (t.core x.g).queue = if u.pres[i] then (x.c.resolved u).queue else x.c.queue
  keep   : Fields.avoids f (.n 4) → (t.core x.g).n4 = x.c.n4
  packets : (∀ i : Fin 6, f.dst.reg ≠ .n i) →
    t.net = s.net ∧ (t.core x.g).traffic = x.c.traffic ∧ (t.core x.g).sent = x.c.sent ∧ (t.core x.g).away = x.c.away ∧
      (t.core x.g).swapDue = x.c.swapDue
  word   : ∀ i : Fin 6, f.dst.reg = .n i → ∃ w, t.net = s.net ++ [.nword x.t.launch
    (s.linkDest x.g x.t i.val).1 (s.linkDest x.g x.t i.val).2 (Fin.ofNat 4 ((i.val + 2) % 4)) w (s.die (dieOf x.g)).k]
  queues : ∀ i : Fin 4, Fields.avoids f (.q i) → (t.core x.g).q[i] = x.c.q[i]
  links  : ∀ i : Fin 6, Fields.avoids f (.n i) → i.val < 4 → (t.core x.g).nin.toList.getD i.val [] = x.c.nin.toList.getD i.val []
  thread : ∃ d df v vf pv pr ss, t.thread x.g x.slot = some { issuedAs x.t with
    d := d, dfull := df, v := v, vfull := vf, pval := pv, pres := pr, streams := ss }
  words  : ∀ u, t.thread x.g x.slot = some u →
    (∀ i : Fin 16, f.dst.reg ≠ .d i → u.d[i] = x.t.d[i]) ∧ (∀ i : Fin 16, f.dst.reg ≠ .d i → Fields.noSync f i → u.dfull[i] = x.t.dfull[i])
  lanes  : ∀ u, t.thread x.g x.slot = some u → ∀ i : Fin 8, f.dst.reg ≠ .v i → u.v[i] = x.t.v[i] ∧ u.vfull[i] = x.t.vfull[i]
  guards : ∀ u, t.thread x.g x.slot = some u → ∀ i : Fin 8, f.dst.reg ≠ .p i → u.pval[i] = x.t.pval[i] ∧ u.pres[i] = x.t.pres[i]
  stream : ∀ u, t.thread x.g x.slot = some u → ∀ i : Fin 4, Fields.avoids f (.s i) → u.streams[i] = x.t.streams[i]

/-- A scalar instruction as R132 describes it: guard, destination, sources in order, and the word it writes. -/
structure ScalarForm where
  gd   : Guard
  dst  : Opnd
  srcs : List Opnd
  op   : Ctx → List Val → Word

/-- A guard instruction or compare: guard, destination, sources in order, and the guard it writes (R116–R118). -/
structure GuardForm where
  gd   : Guard
  dst  : Opnd
  srcs : List Opnd
  op   : List Val → Bool

/-- A vector instruction: guard, destination, sources in order, further reads, result with its events, and the address of an event
trap (R146–R149). -/
structure VectorForm where
  gd    : Guard
  dst   : Opnd
  srcs  : List Opnd
  reads : List Opnd
  op    : Ctx → List Val → VResult
  addr  : List (Nat × Nat) → Word

/-- The scalar instructions (R130–R143, R170–R172 for `cvt`). -/
def scalarForm : Instr → Option ScalarForm
  | .add gd f => some ⟨gd, f.dst, [f.src1, f.src2], fun _ vs => Fields.reduce f ((Fields.src f f.src1 (val vs 0)) + (Fields.src f f.src2 (val vs 1)))⟩
  | .sub gd f => some ⟨gd, f.dst, [f.src1, f.src2], fun _ vs => Fields.reduce f ((Fields.src f f.src1 (val vs 0)) - (Fields.src f f.src2 (val vs 1)))⟩
  | .mul gd f => some ⟨gd, f.dst, [f.src1, f.src2], fun _ vs => Fields.reduce f ((Fields.src f f.src1 (val vs 0)) * (Fields.src f f.src2 (val vs 1)))⟩
  | .mulh gd f => some ⟨gd, f.dst, [f.src1, f.src2], fun _ vs => Fields.reduce f ((Fields.src f f.src1 (val vs 0)) * (Fields.src f f.src2 (val vs 1)) / 2 ^ (Fields.width f))⟩
  | .div gd f => some ⟨gd, f.dst, [f.src1, f.src2], fun _ vs => Fields.reduce f (opDiv (Fields.isSigned f) (Fields.width f) (Fields.src f f.src1 (val vs 0)) (Fields.src f f.src2 (val vs 1)))⟩
  | .rem gd f => some ⟨gd, f.dst, [f.src1, f.src2], fun _ vs => Fields.reduce f (opRem (Fields.src f f.src1 (val vs 0)) (Fields.src f f.src2 (val vs 1)))⟩
  | .and gd f => some ⟨gd, f.dst, [f.src1, f.src2], fun _ vs => Fields.reduce f (opAnd (Fields.width f) (Fields.src f f.src1 (val vs 0)) (Fields.src f f.src2 (val vs 1)))⟩
  | .or gd f => some ⟨gd, f.dst, [f.src1, f.src2], fun _ vs => Fields.reduce f (opOr (Fields.width f) (Fields.src f f.src1 (val vs 0)) (Fields.src f f.src2 (val vs 1)))⟩
  | .xor gd f => some ⟨gd, f.dst, [f.src1, f.src2], fun _ vs => Fields.reduce f (opXor (Fields.width f) (Fields.src f f.src1 (val vs 0)) (Fields.src f f.src2 (val vs 1)))⟩
  | .andn gd f => some ⟨gd, f.dst, [f.src1, f.src2], fun _ vs => Fields.reduce f (opAndn (Fields.width f) (Fields.src f f.src1 (val vs 0)) (Fields.src f f.src2 (val vs 1)))⟩
  | .shl gd f => some ⟨gd, f.dst, [f.src1, f.src2], fun _ vs => Fields.reduce f (opShl (Fields.width f) (Fields.src f f.src1 (val vs 0)) ((srcWord f.src2 (val vs 1)).toNat % 64))⟩
  | .shr gd f => some ⟨gd, f.dst, [f.src1, f.src2], fun _ vs => Fields.reduce f (opShr (Fields.width f) (Fields.src f f.src1 (val vs 0)) ((srcWord f.src2 (val vs 1)).toNat % 64))⟩
  | .sar gd f => some ⟨gd, f.dst, [f.src1, f.src2], fun _ vs => Fields.reduce f (opSar (Fields.width f) (Fields.src f f.src1 (val vs 0)) ((srcWord f.src2 (val vs 1)).toNat % 64))⟩
  | .rot gd f => some ⟨gd, f.dst, [f.src1, f.src2], fun _ vs => Fields.reduce f (opRot (Fields.width f) (Fields.src f f.src1 (val vs 0)) ((srcWord f.src2 (val vs 1)).toNat % 64))⟩
  | .min gd f => some ⟨gd, f.dst, [f.src1, f.src2], fun _ vs => Fields.reduce f (min (Fields.src f f.src1 (val vs 0)) (Fields.src f f.src2 (val vs 1)))⟩
  | .max gd f => some ⟨gd, f.dst, [f.src1, f.src2], fun _ vs => Fields.reduce f (max (Fields.src f f.src1 (val vs 0)) (Fields.src f f.src2 (val vs 1)))⟩
  | .clz gd f => some ⟨gd, f.dst, [f.src1], fun _ vs => Fields.reduce f (opClz (Fields.width f) (Fields.src f f.src1 (val vs 0)))⟩
  | .ctz gd f => some ⟨gd, f.dst, [f.src1], fun _ vs => Fields.reduce f (opCtz (Fields.width f) (Fields.src f f.src1 (val vs 0)))⟩
  | .popc gd f => some ⟨gd, f.dst, [f.src1], fun _ vs => Fields.reduce f (opPopc (Fields.width f) (Fields.src f f.src1 (val vs 0)))⟩
  | .sel gd f => some ⟨gd, f.dst, [f.src1, f.src2, f.src3], fun _ vs => Fields.reduce f (if val vs 2 = 1 then Fields.src f f.src1 (val vs 0) else Fields.src f f.src2 (val vs 1))⟩
  | .bext gd f => some ⟨gd, f.dst, [f.src1, f.src2], fun _ vs => bextOf f (srcWord f.src1 (val vs 0)) (srcWord f.src2 (val vs 1)).toNat⟩
  | .bins gd f => some ⟨gd, f.dst, [f.src1, f.src2, f.src3], fun _ vs => binsOf (srcWord f.src1 (val vs 0)) (srcWord f.src2 (val vs 1)) (srcWord f.src3 (val vs 2)).toNat⟩
  | .addImm gd f => some ⟨gd, f.dst, [f.src1], fun _ vs => Fields.reduce f ((Fields.src f f.src1 (val vs 0)) + (intVal (Fields.width f) (Fields.isSigned f) (Fields.simm f).toNat))⟩
  | .mulImm gd f => some ⟨gd, f.dst, [f.src1], fun _ vs => Fields.reduce f ((Fields.src f f.src1 (val vs 0)) * (intVal (Fields.width f) (Fields.isSigned f) (Fields.simm f).toNat))⟩
  | .minImm gd f => some ⟨gd, f.dst, [f.src1], fun _ vs => Fields.reduce f (min (Fields.src f f.src1 (val vs 0)) (intVal (Fields.width f) (Fields.isSigned f) (Fields.simm f).toNat))⟩
  | .maxImm gd f => some ⟨gd, f.dst, [f.src1], fun _ vs => Fields.reduce f (max (Fields.src f f.src1 (val vs 0)) (intVal (Fields.width f) (Fields.isSigned f) (Fields.simm f).toNat))⟩
  | .andImm gd f => some ⟨gd, f.dst, [f.src1], fun _ vs => Fields.reduce f (opAnd (Fields.width f) (Fields.src f f.src1 (val vs 0)) (intVal (Fields.width f) (Fields.isSigned f) (Fields.zimm f).toNat))⟩
  | .orImm gd f => some ⟨gd, f.dst, [f.src1], fun _ vs => Fields.reduce f (opOr (Fields.width f) (Fields.src f f.src1 (val vs 0)) (intVal (Fields.width f) (Fields.isSigned f) (Fields.zimm f).toNat))⟩
  | .xorImm gd f => some ⟨gd, f.dst, [f.src1], fun _ vs => Fields.reduce f (opXor (Fields.width f) (Fields.src f f.src1 (val vs 0)) (intVal (Fields.width f) (Fields.isSigned f) (Fields.zimm f).toNat))⟩
  | .shlImm gd f => some ⟨gd, f.dst, [f.src1], fun _ vs => Fields.reduce f (opShl (Fields.width f) (Fields.src f f.src1 (val vs 0)) ((Fields.imm f).toNat % 64))⟩
  | .shrImm gd f => some ⟨gd, f.dst, [f.src1], fun _ vs => Fields.reduce f (opShr (Fields.width f) (Fields.src f f.src1 (val vs 0)) ((Fields.imm f).toNat % 64))⟩
  | .sarImm gd f => some ⟨gd, f.dst, [f.src1], fun _ vs => Fields.reduce f (opSar (Fields.width f) (Fields.src f f.src1 (val vs 0)) ((Fields.imm f).toNat % 64))⟩
  | .rotImm gd f => some ⟨gd, f.dst, [f.src1], fun _ vs => Fields.reduce f (opRot (Fields.width f) (Fields.src f f.src1 (val vs 0)) ((Fields.imm f).toNat % 64))⟩
  | .bextImm gd f => some ⟨gd, f.dst, [f.src1], fun _ vs => bextOf f (srcWord f.src1 (val vs 0)) (Fields.imm f).toNat⟩
  | .binsImm gd f => some ⟨gd, f.dst, [f.src1, f.src2], fun _ vs => binsOf (srcWord f.src1 (val vs 0)) (srcWord f.src2 (val vs 1)) (Fields.imm f).toNat⟩
  | .leaPc gd f => some ⟨gd, f.dst, [], fun x _ => (x.t.pc &&& 0xFFFFFFFFFFFFFFC0) + Fields.simm f⟩
  | .leaBase gd f => some ⟨gd, f.dst, [f.src1], fun _ vs => srcWord f.src1 (val vs 0) + Fields.simm f⟩
  | .leaIndex gd f => some ⟨gd, f.dst, [f.src1, f.src2], fun _ vs => srcWord f.src1 (val vs 0) + (srcWord f.src2 (val vs 1) <<< Fields.bits f 34 2) + Fields.simm f⟩
  | .li gd f => some ⟨gd, f.dst, [], fun _ _ => Fields.simm f⟩
  | .lui gd f => some ⟨gd, f.dst, [], fun _ _ => Fields.zimm f <<< 32⟩
  | .wid gd f => some ⟨gd, f.dst, [], fun x _ => if (Fields.imm f).toNat = 6 then x.t.wid else if (Fields.imm f).toNat = 7 then BitVec.ofNat 64 x.t.colour
      else widField (x.s.launch? x.t.launch) x.t.wid (Fields.imm f).toNat⟩
  | .cvt gd f => some ⟨gd, f.dst, [f.src1], fun _ vs => cvtOf f (val vs 0)⟩
  | _ => none

/-- The compares and guard instructions (R114–R118). -/
def guardForm : Instr → Option GuardForm
  | .cmpEq gd f => some ⟨gd, f.dst, [f.src1, f.src2], fun vs => condResult .eq f.ty (val vs 0) (val vs 1)⟩
  | .cmpEqImm gd f => some ⟨gd, f.dst, [f.src1], fun vs => condResult .eq f.ty (val vs 0) (Fields.simm f)⟩
  | .cmpNe gd f => some ⟨gd, f.dst, [f.src1, f.src2], fun vs => condResult .ne f.ty (val vs 0) (val vs 1)⟩
  | .cmpNeImm gd f => some ⟨gd, f.dst, [f.src1], fun vs => condResult .ne f.ty (val vs 0) (Fields.simm f)⟩
  | .cmpLt gd f => some ⟨gd, f.dst, [f.src1, f.src2], fun vs => condResult .lt f.ty (val vs 0) (val vs 1)⟩
  | .cmpLtImm gd f => some ⟨gd, f.dst, [f.src1], fun vs => condResult .lt f.ty (val vs 0) (Fields.simm f)⟩
  | .cmpLe gd f => some ⟨gd, f.dst, [f.src1, f.src2], fun vs => condResult .le f.ty (val vs 0) (val vs 1)⟩
  | .cmpLeImm gd f => some ⟨gd, f.dst, [f.src1], fun vs => condResult .le f.ty (val vs 0) (Fields.simm f)⟩
  | .cmpGt gd f => some ⟨gd, f.dst, [f.src1, f.src2], fun vs => condResult .gt f.ty (val vs 0) (val vs 1)⟩
  | .cmpGtImm gd f => some ⟨gd, f.dst, [f.src1], fun vs => condResult .gt f.ty (val vs 0) (Fields.simm f)⟩
  | .cmpGe gd f => some ⟨gd, f.dst, [f.src1, f.src2], fun vs => condResult .ge f.ty (val vs 0) (val vs 1)⟩
  | .cmpGeImm gd f => some ⟨gd, f.dst, [f.src1], fun vs => condResult .ge f.ty (val vs 0) (Fields.simm f)⟩
  | .cmpUn gd f => some ⟨gd, f.dst, [f.src1, f.src2], fun vs => condResult .un f.ty (val vs 0) (val vs 1)⟩
  | .cmpUnImm gd f => some ⟨gd, f.dst, [f.src1], fun vs => condResult .un f.ty (val vs 0) (Fields.simm f)⟩
  | .cmpTst gd f => some ⟨gd, f.dst, [f.src1, f.src2], fun vs => condResult .tst f.ty (val vs 0) (val vs 1)⟩
  | .cmpTstImm gd f => some ⟨gd, f.dst, [f.src1], fun vs => condResult .tst f.ty (val vs 0) (Fields.simm f)⟩
  | .cmpNtst gd f => some ⟨gd, f.dst, [f.src1, f.src2], fun vs => condResult .ntst f.ty (val vs 0) (val vs 1)⟩
  | .cmpNtstImm gd f => some ⟨gd, f.dst, [f.src1], fun vs => condResult .ntst f.ty (val vs 0) (Fields.simm f)⟩
  | .setp gd f => some ⟨gd, f.dst, [], fun _ => true⟩
  | .setpReg gd f => some ⟨gd, f.dst, [f.src1], fun vs => val vs 0 != 0⟩
  | .pand gd f => some ⟨gd, f.dst, [f.src1, f.src2], fun vs => xor (val vs 0 == 1) (f.fmt.getLsbD 0) && xor (val vs 1 == 1) (f.fmt.getLsbD 1)⟩
  | .por gd f => some ⟨gd, f.dst, [f.src1, f.src2], fun vs => xor (val vs 0 == 1) (f.fmt.getLsbD 0) || xor (val vs 1 == 1) (f.fmt.getLsbD 1)⟩
  | .pnot gd f => some ⟨gd, f.dst, [f.src1], fun vs => val vs 0 != 1⟩
  | _ => none

/-- The vector instructions (R150–R167, R170–R180). -/
def vectorForm : Instr → Option VectorForm
  | .fadd gd f => some ⟨gd, f.dst, [f.src1, f.src2], [], fun x vs => lanesResult (Vector.zipWith (laneAdd (Fields.rnd f) (Fields.sat32 f) x.t.origin) (f32Src f.src1 (valAt vs 0)) (f32Src f.src2 (valAt vs 1))), eventMask⟩
  | .fsub gd f => some ⟨gd, f.dst, [f.src1, f.src2], [], fun x vs => lanesResult (Vector.zipWith (laneSub (Fields.rnd f) (Fields.sat32 f) x.t.origin) (f32Src f.src1 (valAt vs 0)) (f32Src f.src2 (valAt vs 1))), eventMask⟩
  | .fmul gd f => some ⟨gd, f.dst, [f.src1, f.src2], [], fun x vs => lanesResult (Vector.zipWith (laneMul (Fields.rnd f) (Fields.sat32 f) x.t.origin) (f32Src f.src1 (valAt vs 0)) (f32Src f.src2 (valAt vs 1))), eventMask⟩
  | .fdiv gd f => some ⟨gd, f.dst, [f.src1, f.src2], [], fun x vs => lanesResult (Vector.zipWith (laneDiv (Fields.rnd f) (Fields.sat32 f) x.t.origin) (f32Src f.src1 (valAt vs 0)) (f32Src f.src2 (valAt vs 1))), eventMask⟩
  | .fins gd f => some ⟨gd, f.dst, [f.src1, f.src2], [], fun x vs => lanesResult (Vector.zipWith (laneIns (Fields.rnd f) (Fields.sat32 f) x.t.origin) (f32Src f.src1 (valAt vs 0)) (f32Src f.src2 (valAt vs 1))), eventMask⟩
  | .fmin gd f => some ⟨gd, f.dst, [f.src1, f.src2], [], fun _ vs => lanesResult (Vector.zipWith laneMin (f32Src f.src1 (valAt vs 0)) (f32Src f.src2 (valAt vs 1))), eventMask⟩
  | .fmax gd f => some ⟨gd, f.dst, [f.src1, f.src2], [], fun _ vs => lanesResult (Vector.zipWith laneMax (f32Src f.src1 (valAt vs 0)) (f32Src f.src2 (valAt vs 1))), eventMask⟩
  | .ffma gd f => some ⟨gd, f.dst, [f.src1, f.src2, f.src3], [], fun x vs => lanesResult (Vector.zipWith (fun ab c => laneFma (Fields.rnd f) (Fields.sat32 f) x.t.origin ab.1 ab.2 c)
      (Vector.zipWith Prod.mk (f32Src f.src1 (valAt vs 0)) (f32Src f.src2 (valAt vs 1))) (f32Src f.src3 (valAt vs 2))), eventMask⟩
  | .fsqrt gd f => some ⟨gd, f.dst, [f.src1], [], fun x vs => lanesResult ((f32Src f.src1 (valAt vs 0)).map (laneSqrt (Fields.rnd f) x.t.origin)), eventMask⟩
  | .frsq gd f => some ⟨gd, f.dst, [f.src1], [], fun x vs => lanesResult ((f32Src f.src1 (valAt vs 0)).map (laneRsq (Fields.rnd f) x.t.origin)), eventMask⟩
  | .fexf gd f => some ⟨gd, f.dst, [f.src1], [], fun x vs => lanesResult ((f32Src f.src1 (valAt vs 0)).map (laneExf (Fields.rnd f) x.t.origin)), eventMask⟩
  | .fneg gd f => some ⟨gd, f.dst, [f.src1], [], fun _ vs => lanesResult ((f32Src f.src1 (valAt vs 0)).map fun a => (a ^^^ 0x80000000, 0)), eventMask⟩
  | .fabs gd f => some ⟨gd, f.dst, [f.src1], [], fun _ vs => lanesResult ((f32Src f.src1 (valAt vs 0)).map fun a => (a &&& 0x7FFFFFFF, 0)), eventMask⟩
  | .frnd gd f => some ⟨gd, f.dst, [f.src1], [], fun _ vs => lanesResult ((f32Src f.src1 (valAt vs 0)).map (laneRnd (Fields.rnd f))), eventMask⟩
  | .fcls gd f => some ⟨gd, f.dst, [f.src1], [], fun _ vs => ⟨.w (maskWord ((f32Src f.src1 (valAt vs 0)).toList.map fun a => f.fmt.getLsbD (laneClass a))), []⟩, eventMask⟩
  | .iadd gd f => some ⟨gd, f.dst, [f.src1, f.src2], [], fun _ vs => ⟨.v (Vector.zipWith (elementwise (f.qual = 1) (Fields.elem f).1 (Fields.elem f).2 fun a b => a + b)
      (intSrc (Fields.elem f).1 f.src1 (valAt vs 0)) (intSrc (Fields.elem f).1 f.src2 (valAt vs 1))), []⟩, eventMask⟩
  | .isub gd f => some ⟨gd, f.dst, [f.src1, f.src2], [], fun _ vs => ⟨.v (Vector.zipWith (elementwise (f.qual = 1) (Fields.elem f).1 (Fields.elem f).2 fun a b => a - b)
      (intSrc (Fields.elem f).1 f.src1 (valAt vs 0)) (intSrc (Fields.elem f).1 f.src2 (valAt vs 1))), []⟩, eventMask⟩
  | .imul gd f => some ⟨gd, f.dst, [f.src1, f.src2], [], fun _ vs => ⟨.v (Vector.zipWith (elementwise (f.qual = 1) (Fields.elem f).1 (Fields.elem f).2 fun a b => a * b)
      (intSrc (Fields.elem f).1 f.src1 (valAt vs 0)) (intSrc (Fields.elem f).1 f.src2 (valAt vs 1))), []⟩, eventMask⟩
  | .imin gd f => some ⟨gd, f.dst, [f.src1, f.src2], [], fun _ vs => ⟨.v (Vector.zipWith (elementwise (f.qual = 1) (Fields.elem f).1 (Fields.elem f).2 fun a b => min a b)
      (intSrc (Fields.elem f).1 f.src1 (valAt vs 0)) (intSrc (Fields.elem f).1 f.src2 (valAt vs 1))), []⟩, eventMask⟩
  | .imax gd f => some ⟨gd, f.dst, [f.src1, f.src2], [], fun _ vs => ⟨.v (Vector.zipWith (elementwise (f.qual = 1) (Fields.elem f).1 (Fields.elem f).2 fun a b => max a b)
      (intSrc (Fields.elem f).1 f.src1 (valAt vs 0)) (intSrc (Fields.elem f).1 f.src2 (valAt vs 1))), []⟩, eventMask⟩
  | .iabs gd f => some ⟨gd, f.dst, [f.src1], [], fun _ vs => ⟨.v ((intSrc (Fields.elem f).1 f.src1 (valAt vs 0)).map fun a =>
      elementwise (f.qual = 1) (Fields.elem f).1 (Fields.elem f).2 (fun e _ => (e.natAbs : Int)) a 0), []⟩, eventMask⟩
  | .idot4 gd f => some ⟨gd, f.dst, [f.src1, f.src2, f.src3], [], fun _ vs => ⟨.v (Vector.zipWith (fun ab c => laneDot (f.qual = 1) (f.ty != .z8) (f.fmt.getLsbD 0) ab.1 ab.2 c)
      (Vector.zipWith Prod.mk (intSrc 8 f.src1 (valAt vs 0)) (intSrc 8 f.src2 (valAt vs 1))) (intSrc 32 f.src3 (valAt vs 2))), []⟩, eventMask⟩
  | .vsel gd f => some ⟨gd, f.dst, [f.src1, f.src2, f.src3], [], fun _ vs => ⟨.v (Vector.ofFn fun i => if (valAt vs 2).word.getLsbD i.val then (valAt vs 0).lanes[i] else (valAt vs 1).lanes[i]), []⟩, eventMask⟩
  | .vshf gd f => some ⟨gd, f.dst, [f.src1, f.src2], [], fun _ vs => ⟨.v ((valAt vs 1).lanes.map fun i => if i.getLsbD 31 then 0 else laneAt (valAt vs 0).lanes (i.toNat % 32)), []⟩, eventMask⟩
  | .vshfRot gd f => some ⟨gd, f.dst, [f.src1], [], fun _ vs => ⟨.v (Vector.ofFn fun i => laneAt (valAt vs 0).lanes (i.val + Fields.bits f 4 5)), []⟩, eventMask⟩
  | .vshfXor gd f => some ⟨gd, f.dst, [f.src1], [], fun _ vs => ⟨.v (Vector.ofFn fun i => laneAt (valAt vs 0).lanes (i.val ^^^ Fields.bits f 4 5)), []⟩, eventMask⟩
  | .vredAdd gd f => some ⟨gd, f.dst, [f.src1], [], fun x vs => if f.ty = .f32 then
        redResult f (reduceTree (laneAdd (rndOf (BitVec.ofNat 2 (Fields.bits f 2 2))) (f.fmt.getLsbD 4) x.t.origin) 5 (numbered (valAt vs 0).lanes)).1
          (reduceTree (laneAdd (rndOf (BitVec.ofNat 2 (Fields.bits f 2 2))) (f.fmt.getLsbD 4) x.t.origin) 5 (numbered (valAt vs 0).lanes)).2
      else redResult f (BitVec.ofInt 32 ((if f.fmt.getLsbD 4 then satTo else wrapTo) 32 (f.ty = .s32)
        ((valAt vs 0).lanes.toList.map fun l => elemVal 32 (f.ty = .s32) l 0).sum)) [], eventMask⟩
  | .vredMin gd f => some ⟨gd, f.dst, [f.src1], [], fun _ vs => if f.ty = .f32 then redResult f (reduceTree laneMin 5 (numbered (valAt vs 0).lanes)).1 []
      else redResult f (reduceTree (fun a b => (if (decide (elemVal 32 (f.ty = .s32) a 0 ≤ elemVal 32 (f.ty = .s32) b 0)) == true then a else b, 0))
        5 (numbered (valAt vs 0).lanes)).1 [], eventMask⟩
  | .vredMax gd f => some ⟨gd, f.dst, [f.src1], [], fun _ vs => if f.ty = .f32 then redResult f (reduceTree laneMax 5 (numbered (valAt vs 0).lanes)).1 []
      else redResult f (reduceTree (fun a b => (if (decide (elemVal 32 (f.ty = .s32) a 0 ≤ elemVal 32 (f.ty = .s32) b 0)) == false then a else b, 0))
        5 (numbered (valAt vs 0).lanes)).1 [], eventMask⟩
  | .vbc gd f => some ⟨gd, f.dst, [f.src1], [], fun _ vs => ⟨.v (valAt vs 0).lanes, []⟩, eventMask⟩
  | .vbcLane gd f => some ⟨gd, f.dst, [f.src1], [], fun _ vs => ⟨.v (Vector.replicate 32 (laneAt (valAt vs 0).lanes (Fields.bits f 0 5))), []⟩, eventMask⟩
  | .vmov gd f => some ⟨gd, f.dst, [f.src1], [], fun _ vs => ⟨.v (valAt vs 0).lanes, []⟩, eventMask⟩
  | .vmovExtract gd f => some ⟨gd, f.dst, [f.src1], [], fun _ vs => ⟨.w ((laneAt (valAt vs 0).lanes (Fields.bits f 0 5)).setWidth 64), []⟩, eventMask⟩
  | .vmovInsert gd f => some ⟨gd, f.dst, [f.src1], [f.dst], fun x vs => ⟨.v ((oldV x f.dst).setIfInBounds (Fields.bits f 0 5) ((valAt vs 0).word.setWidth 32)), []⟩, eventMask⟩
  | .cvtVector gd f => some ⟨gd, f.dst, [f.src1], [], fun _ vs => ⟨.v ((valAt vs 0).lanes.map fun l => (cvtOf f (l.setWidth 64)).setWidth 32), []⟩, fun _ => 0⟩
  | .qsc gd f => some ⟨gd, f.dst, [f.src1, f.src2, f.src3], [], fun x vs => qscOf x.t.origin ((valAt vs 0).lanes.toList ++ (valAt vs 1).lanes.toList) ((valAt vs 2).word.setWidth 32), fun _ => 0⟩
  | .qcb gd f => some ⟨gd, f.dst, [f.src1, f.src2, f.src3], [f.dst], fun x vs => ⟨.v (putQuarter (oldV x f.dst) (Fields.bits f 0 2)
        (qcbOf x.t.origin ((valAt vs 0).lanes.toList ++ (valAt vs 1).lanes.toList) (valAt vs 2).word).1),
      (qcbOf x.t.origin ((valAt vs 0).lanes.toList ++ (valAt vs 1).lanes.toList) (valAt vs 2).word).2⟩, fun _ => 0⟩
  | .dqcb gd f => some ⟨gd, f.dst, [f.src1, f.src2], [], fun x vs => lanesResult (Vector.ofFn fun i => dqcbLane (Fields.rnd f) x.t.origin (valAt vs 1).word
      (cbIndex (fun k => (bytesOfV (valAt vs 0).lanes).getD (32 * Fields.bits f 0 2 + k) 0) (32 * Fields.bits f 2 1 + i.val))), fun _ => 0⟩
  | .nanm gd f => some ⟨gd, f.dst, [f.src1, f.src2], [], fun x vs => ⟨.v (Vector.ofFn fun i => if (valAt vs 1).word.getLsbD i.val then nanmLane f.ty (Fields.bits f 0 6) x.t.origin
      else nanmKeep f.ty (valAt vs 0).lanes[i]), []⟩, fun _ => 0⟩
  | .nanx gd f => some ⟨gd, f.dst, [f.src1], [], fun _ vs => ⟨.w (match ((numbered (valAt vs 0).lanes).drop (Fields.bits f 0 5)).filterMap
        (fun p => (nanxLane f.ty p.2).map fun e => (p.1, e)) with
      | [] => 32
      | e :: rest => BitVec.ofNat 64 (e.1 + 2 ^ 8 * e.2.1 + 2 ^ 16 * e.2.2 + 2 ^ 32 * (rest.length + 1))), []⟩, fun _ => 0⟩
  | .pspl gd f => some ⟨gd, f.dst, [f.src1], [f.dst], fun x vs => ⟨.v (putQuarter (oldV x f.dst) (Fields.bits f 0 2) (lanes8 ((valAt vs 0).lanes.toList.map (plane (Fields.bits f 2 2))))), []⟩, fun _ => 0⟩
  | .pjn gd f => some ⟨gd, f.dst, [f.src1], [f.dst], fun x vs => ⟨.v ((oldV x f.dst).mapFinIdx fun i l _ =>
      packPlanes ((planes 4 l).set (Fields.bits f 2 2) ((bytesOfV (valAt vs 0).lanes).getD (32 * Fields.bits f 0 2 + i) 0))), []⟩, fun _ => 0⟩
  | _ => none

/-- The register instructions: those above, and `clrp`. -/
def registerForm : Instr → Option (Guard × Fields)
  | .add gd f => some (gd, f)
  | .sub gd f => some (gd, f)
  | .mul gd f => some (gd, f)
  | .mulh gd f => some (gd, f)
  | .div gd f => some (gd, f)
  | .rem gd f => some (gd, f)
  | .and gd f => some (gd, f)
  | .or gd f => some (gd, f)
  | .xor gd f => some (gd, f)
  | .andn gd f => some (gd, f)
  | .shl gd f => some (gd, f)
  | .shr gd f => some (gd, f)
  | .sar gd f => some (gd, f)
  | .rot gd f => some (gd, f)
  | .min gd f => some (gd, f)
  | .max gd f => some (gd, f)
  | .clz gd f => some (gd, f)
  | .ctz gd f => some (gd, f)
  | .popc gd f => some (gd, f)
  | .sel gd f => some (gd, f)
  | .bext gd f => some (gd, f)
  | .bins gd f => some (gd, f)
  | .addImm gd f => some (gd, f)
  | .mulImm gd f => some (gd, f)
  | .minImm gd f => some (gd, f)
  | .maxImm gd f => some (gd, f)
  | .andImm gd f => some (gd, f)
  | .orImm gd f => some (gd, f)
  | .xorImm gd f => some (gd, f)
  | .shlImm gd f => some (gd, f)
  | .shrImm gd f => some (gd, f)
  | .sarImm gd f => some (gd, f)
  | .rotImm gd f => some (gd, f)
  | .bextImm gd f => some (gd, f)
  | .binsImm gd f => some (gd, f)
  | .leaPc gd f => some (gd, f)
  | .leaBase gd f => some (gd, f)
  | .leaIndex gd f => some (gd, f)
  | .li gd f => some (gd, f)
  | .lui gd f => some (gd, f)
  | .wid gd f => some (gd, f)
  | .cvt gd f => some (gd, f)
  | .cmpEq gd f => some (gd, f)
  | .cmpEqImm gd f => some (gd, f)
  | .cmpNe gd f => some (gd, f)
  | .cmpNeImm gd f => some (gd, f)
  | .cmpLt gd f => some (gd, f)
  | .cmpLtImm gd f => some (gd, f)
  | .cmpLe gd f => some (gd, f)
  | .cmpLeImm gd f => some (gd, f)
  | .cmpGt gd f => some (gd, f)
  | .cmpGtImm gd f => some (gd, f)
  | .cmpGe gd f => some (gd, f)
  | .cmpGeImm gd f => some (gd, f)
  | .cmpUn gd f => some (gd, f)
  | .cmpUnImm gd f => some (gd, f)
  | .cmpTst gd f => some (gd, f)
  | .cmpTstImm gd f => some (gd, f)
  | .cmpNtst gd f => some (gd, f)
  | .cmpNtstImm gd f => some (gd, f)
  | .setp gd f => some (gd, f)
  | .setpReg gd f => some (gd, f)
  | .pand gd f => some (gd, f)
  | .por gd f => some (gd, f)
  | .pnot gd f => some (gd, f)
  | .clrp gd f => some (gd, f)
  | .fadd gd f => some (gd, f)
  | .fsub gd f => some (gd, f)
  | .fmul gd f => some (gd, f)
  | .fdiv gd f => some (gd, f)
  | .fins gd f => some (gd, f)
  | .fmin gd f => some (gd, f)
  | .fmax gd f => some (gd, f)
  | .ffma gd f => some (gd, f)
  | .fsqrt gd f => some (gd, f)
  | .frsq gd f => some (gd, f)
  | .fexf gd f => some (gd, f)
  | .fneg gd f => some (gd, f)
  | .fabs gd f => some (gd, f)
  | .frnd gd f => some (gd, f)
  | .fcls gd f => some (gd, f)
  | .iadd gd f => some (gd, f)
  | .isub gd f => some (gd, f)
  | .imul gd f => some (gd, f)
  | .imin gd f => some (gd, f)
  | .imax gd f => some (gd, f)
  | .iabs gd f => some (gd, f)
  | .idot4 gd f => some (gd, f)
  | .vsel gd f => some (gd, f)
  | .vshf gd f => some (gd, f)
  | .vshfRot gd f => some (gd, f)
  | .vshfXor gd f => some (gd, f)
  | .vredAdd gd f => some (gd, f)
  | .vredMin gd f => some (gd, f)
  | .vredMax gd f => some (gd, f)
  | .vbc gd f => some (gd, f)
  | .vbcLane gd f => some (gd, f)
  | .vmov gd f => some (gd, f)
  | .vmovExtract gd f => some (gd, f)
  | .vmovInsert gd f => some (gd, f)
  | .cvtVector gd f => some (gd, f)
  | .qsc gd f => some (gd, f)
  | .qcb gd f => some (gd, f)
  | .dqcb gd f => some (gd, f)
  | .nanm gd f => some (gd, f)
  | .nanx gd f => some (gd, f)
  | .pspl gd f => some (gd, f)
  | .pjn gd f => some (gd, f)
  | _ => none

/-! What an instruction asks for at its issue. -/

/-- The instruction executes at this turn: its guard lets it, its sources and its destination are ready, and the memory port takes n
requests with no acquire holding them back (R53, R49, R196, R204). -/
def Ready (gd : Guard) (s : State) (x : Ctx) (srcs : List Opnd) (dst : List Opnd) (n : Nat) : Prop :=
  Executes gd s x ∧ srcWaits x [] srcs = [] ∧ (∀ o ∈ dst, dstWait x srcs o = []) ∧ memWait x n = []

/-- An access passes the checks of R196 but alignment, and its addresses are at these places (R193). -/
def Reaches (x : Ctx) (k : Accepts) (u : Use) (a : Word) (addrs : List Word) (ps : List Place) : Prop :=
  (∀ b ∈ a :: addrs, b.toNat < 2 ^ 55) ∧ regionDetail k (x.s.region x.g x.t.colour x.t.key a) = 0 ∧ x.placesIn k u addrs = .ok ps

/-- The bytes at the offsets `os` (rising, at least one) from a scratchpad address are in the region of the thread's team, on the core
the thread is on (R201), the byte at offset o being byte off + o of the core's scratchpad, and none of them meets an error (R212). -/
def InScratchpad (x : Ctx) (a : Word) (os : List Nat) (off : Nat) : Prop :=
  let h := os.headD 0 / 64
  let b := a + BitVec.ofNat 64 (64 * h)
  os ≠ [] ∧ x.c.atHome x.t = true ∧ Reaches x .spad .read b [b] [.spad x.g (off + 64 * h)] ∧
  (∀ k, k < 2 → beyondRegion x a (os.filter fun o => o / 64 == k) = false) ∧
  ∀ o ∈ os, ∀ e ∈ x.s.badSpad, x.g * 2 ^ 19 + off + o < e.1 * 8 ∨ e.1 * 8 + 8 ≤ x.g * 2 ^ 19 + off + o

/-- The 16 bytes at an offset of a team's region meet no uncorrectable error (R212), wherever the team is. -/
def BarSound (s : State) (key : TeamKey) (off : Nat) : Prop :=
  ∀ h tm, s.findTeam key = some (h, tm) → s.badSp h (tm.base + off) 16 = false

/-- What a request carries of its issuer: its name, the thread, core, slot, colour, work identifier and pc (R312, R323). -/
def requestOf (x : Ctx) (clock : List Nat) : Req :=
  ⟨x.s.uid, x.t.tid, x.g, x.slot, x.t.colour, x.t.wid, x.t.pc, x.t.evt, clock, x.t.kvBlocks⟩

/-- The instruction of x has issued in t: the slot's thread is u at its successor, the core is c with that thread in its slot and its
packets counted (R345), these messages were sent, the dies and watch sets are as given, and nothing else is changed. -/
structure IssuesAs (x : Ctx) (t : State) (c : Core) (u : Thread) (msgs : List Msg) (dies : List (Nat × Die)) (watches : List WatchSet) :
    Prop where
  cls   : t.cls = .issued
  core  : ∃ traffic sent away due, t.core x.g =
    { c.setThread x.slot (some (issuedAs u)) with traffic := traffic, sent := sent, away := away, swapDue := due }
  cores : ∀ h, h ≠ x.g → t.core h = x.s.core h
  net   : t.net = x.s.net ++ msgs
  rest  : t = { x.s with
    cores := t.cores, net := t.net, cls := t.cls, uid := t.uid, free := t.free, dies := dies, watches := watches }

/-- The scalar loads, stores and counts of a thread after n requests under the name of the next access (R196, R204). -/
def sentOut (u : Thread) (n uid : Nat) : Thread := { u with outst := u.outst ++ List.replicate n uid }

/-- A load of n requests under one name: outstanding, unanswered, and held for if it is an acquire (R204). -/
def loadOut (u : Thread) (n uid : Nat) (acq : Bool) : Thread :=
  { u with outst := u.outst ++ List.replicate n uid, loads := u.loads ++ List.replicate n uid,
           hold := if acq then u.hold ++ [uid] else u.hold }

/-- The engine commands: how their operands stand, guard and fields (R239). -/
def engineForm : Instr → Option (EngForm × Guard × Fields)
  | .cldX gd f => some (⟨0, true, true⟩, gd, f)
  | .cldB gd f => some (⟨1, true, true⟩, gd, f)
  | .cldtX gd f => some (⟨2, true, true⟩, gd, f)
  | .cldtB gd f => some (⟨3, true, true⟩, gd, f)
  | .cldg gd f => some (⟨4, true, true⟩, gd, f)
  | .rld gd f => some (⟨5, true, true⟩, gd, f)
  | .rldg gd f => some (⟨6, true, false⟩, gd, f)
  | .fold gd f => some (⟨7, false, false⟩, gd, f)
  | .acpV gd f => some (⟨8, false, true⟩, gd, f)
  | .acpSp gd f => some (⟨8, true, true⟩, gd, f)
  | .acps gd f => some (⟨9, true, true⟩, gd, f)
  | .aclrX gd f => some (⟨10, false, false⟩, gd, f)
  | .aclrF gd f => some (⟨10, false, false⟩, gd, f)
  | .skeep gd f => some (⟨11, true, false⟩, gd, f)
  | _ => none

/-- The atomics and reductions: operation, whether the old value is returned, guard and fields (R297, R298). -/
def atomForm : Instr → Option (AtomOp × Bool × Guard × Fields)
  | .amoAdd gd f => some (.add, true, gd, f)
  | .amoMin gd f => some (.min, true, gd, f)
  | .amoMax gd f => some (.max, true, gd, f)
  | .amoAnd gd f => some (.and, true, gd, f)
  | .amoOr gd f => some (.or, true, gd, f)
  | .amoXor gd f => some (.xor, true, gd, f)
  | .amoSwap gd f => some (.swap, true, gd, f)
  | .amoCas gd f => some (.cas, true, gd, f)
  | .redAdd gd f => some (.add, false, gd, f)
  | .redMin gd f => some (.min, false, gd, f)
  | .redMax gd f => some (.max, false, gd, f)
  | .redAnd gd f => some (.and, false, gd, f)
  | .redOr gd f => some (.or, false, gd, f)
  | .redXor gd f => some (.xor, false, gd, f)
  | .redX gd f => some (.x, false, gd, f)
  | _ => none

/-- The sources of an atomic: `cas` has a third (R298). -/
def atomSrcs (op : AtomOp) (f : Fields) : List Opnd := if op = .cas then [f.src1, f.src2, f.src3] else [f.src1, f.src2]

/-- The thread named in the state is the one of this slot, and of no other place (notes/assumptions/11.md). -/
def Named (s : State) (r : SlotRef) (t : Thread) : Prop := s.thread r.g r.slot = some t ∧ s.findTid t.tid = some r

/-- The thread of a slot would issue these instructions at its turn (R42, R53): the one that the line's bits at its pc decode to, or a
well-formed pair. The line is the fetched one, or for an attached follower the forwarded one it is in. -/
def State.AboutToIssue (s : State) (r : SlotRef) (th : Thread) (is : List Instr) : Prop :=
  ∃ bits i, lineReserved bits = 0 ∧ (th.entry = none ∨ lineTgt bits (th.pc.toNat % 8) = true) ∧
    (s.fetchLine r.g th = .line bits ∨ ∃ u, th.gangFetch (s.strayed th.tid) = .line u bits) ∧
    decodeWord th.sup (lineSlot bits (th.pc.toNat % 8)) = .ok i ∧
    ((is = [i] ∧ linePair bits (th.pc.toNat % 8) = false) ∨
     ∃ j, is = [i, j] ∧ linePair bits (th.pc.toNat % 8) = true ∧ decodeWord th.sup (lineSlot bits (th.pc.toNat % 8 + 1)) = .ok j ∧
       pairOk (rawOfWord (lineSlot bits (th.pc.toNat % 8))) (rawOfWord (lineSlot bits (th.pc.toNat % 8 + 1))) = true)

/-- The byte a list of writes leaves at an address: its last write there, else what was there. -/
def byteAfter (m : List (Nat × Byte)) (bytes : List (Nat × Byte)) (a : Nat) : Byte :=
  ((bytes.reverse.find? fun e => e.1 == a).map Prod.snd).getD (memGet m a)

end Sys2Proof.Machine
end

