-- ==== Sys2Proof/Certificates/Slice0/Obligations.lean ====
section
/-! DEFINITION. What is claimed of the model, one proposition each: encodings, memory, the issue of every instruction, traps, and
the steps of the package's other agents. Register numbers, addresses and fields are those of spec/; a value the spec leaves open
is a free value and no claim names one. -/
open Sys2Proof Sys2Proof.Machine

/-! Encodings. -/

/-- R33, R44: the decoder gives back every well-formed instruction from its word. -/
def Obligations.EncodeThenDecode : Prop :=
  ∀ (i : Instr) (w : Nat), wellFormed i = true → encode i = some w → w < 2 ^ 96 ∧ decodeWord true w = .ok i

/-- R44, R50, R53: a word that decodes, at either level, is the one word of its instruction, which is well formed. -/
def Obligations.DecodeThenEncode : Prop :=
  ∀ (sup : Bool) (w : Nat) (i : Instr), w < 2 ^ 96 → decodeWord sup w = .ok i → encode i = some w ∧ wellFormed i = true

/-- R62, R120, R307 and the listings: words the spec writes out decode to what it says they are. -/
def Obligations.DecodeWords : Prop :=
  decodeWord false 0x043200000000000000000000 = .ok (.nop ⟨true, 0⟩ ⟨0, .dflt, .unused, .unused, .unused, .unused, 0⟩) ∧
  decodeWord false 0x04040007800000000000000C = .ok (.brl ⟨false, 0⟩ ⟨0, .dflt, ⟨.d 15, .plain⟩, .unused, .unused, .unused, 12⟩) ∧
  decodeWord false 0x708000020000000000000000 = .ok (.inbx ⟨false, 0⟩ ⟨0, .dflt, ⟨.d 4, .plain⟩, .unused, .unused, .unused, 0⟩) ∧
  decodeWord false 0x680000018000000000000000 = .ok (.cgo ⟨false, 0⟩ ⟨0, .dflt, ⟨.d 3, .plain⟩, .unused, .unused, .unused, 0⟩) ∧
  decodeWord false 0x900800018000000000000012 = .ok (.gets ⟨false, 0⟩ ⟨0, .dflt, ⟨.d 3, .plain⟩, .unused, .unused, .unused, 0x12⟩) ∧
  decodeWord false 0x800400000000000000000000 = .ok (.texit ⟨false, 0⟩ ⟨0, .dflt, .unused, .unused, .unused, .unused, 0⟩)

/-- R61: the all-zero and all-ones words are refused with detail 7, a class that R60 does not list with detail 1, an op that its class
does not list with detail 2; a word refused with a detail, met at a thread's pc, raises the precise illegal-instruction trap with it. -/
def Obligations.UnassignedWords : Prop :=
  (∀ (sup : Bool) (w : Nat), w < 2 ^ 96 →
    (w = 0 ∨ w = 2 ^ 96 - 1 → decodeWord sup w = .error 7) ∧
    (w ≠ 0 → w ≠ 2 ^ 96 - 1 → w / 2 ^ 90 ∉ [0x01, 0x02, 0x04, 0x05, 0x08, 0x09, 0x0A, 0x0C, 0x0D, 0x10, 0x11, 0x12, 0x14, 0x18, 0x1A,
      0x1B, 0x1C, 0x20, 0x24, 0x26] → decodeWord sup w = .error 1) ∧
    (formsOf (w / 2 ^ 90) ≠ [] → (∀ f ∈ formsOf (w / 2 ^ 90), f.op ≠ w / 2 ^ 82 % 2 ^ 8) → decodeWord sup w = .error 2)) ∧
  (∀ (s : State) (g slot : Nat) (t : Thread) (bits : BitVec 512) (d : Nat), (t.entry = none ∨ lineTgt bits (t.pc.toNat % 8) = true) →
    t.vector = none → (∀ pcs, s.breakFor t pcs = none) → lineReserved bits = 0 →
    decodeWord t.sup (lineSlot bits (t.pc.toNat % 8)) = .error d →
    s.decodeTurn g slot t bits = s.raise g slot t (preciseReport kindIllegal d t.pc 0))

/-- R353: what a task may not execute is refused with detail 6, and it is `gets` and `sets` of the registers that a task may not read
or write; every other word decodes at both levels alike; the refusal is the precise illegal-instruction trap with address 0. -/
def Obligations.PrivilegedRefused : Prop :=
  (∀ (w : Nat) (i : Instr), decodeWord true w = .ok i →
    (decodeWord false w = .ok i ∨ decodeWord false w = .error 6) ∧
    (decodeWord false w = .error 6 ↔ ∃ gd f, (i = .gets gd f ∧ sysTaskNone (sysNum f) = true) ∨
      (i = .sets gd f ∧ (sysTaskNone (sysNum f) = true ∨ sysTaskRo (sysNum f) = true)))) ∧
  (∀ (w : Nat), decodeWord true w ≠ .error 6) ∧
  (∀ (s : State) (g slot : Nat) (t : Thread) (bits : BitVec 512), (t.entry = none ∨ lineTgt bits (t.pc.toNat % 8) = true) →
    t.vector = none → (∀ pcs, s.breakFor t pcs = none) → lineReserved bits = 0 →
    decodeWord t.sup (lineSlot bits (t.pc.toNat % 8)) = .error 6 →
    t.sup = false ∧ s.decodeTurn g slot t bits = s.raise g slot t (preciseReport kindIllegal 6 t.pc 0)) ∧
  (∀ (gd : Guard) (f : Fields) (s : State) (x : Ctx), Executes gd s x → sysNumber (sysNum f) = true → x.t.sup = false →
    (dstWait x [] f.dst = [] → sysTaskNone (sysNum f) = true → exec (.gets gd f) s = .next (x.trap kindIllegal 6 0)) ∧
    (srcWaits x [] [f.src1] = [] → (sysTaskNone (sysNum f) = true ∨ sysTaskRo (sysNum f) = true) →
      exec (.sets gd f) s = .next (x.trap kindIllegal 6 0)))

/-! Reset and memory. -/

/-- R218, R346, R369, R385, R402: what reset leaves in the registers whose reset value the spec gives. That memory lists no byte and no message is
under way are no values of the spec but the model's choices (notes/assumptions/3.md, notes/assumptions/6.md). -/
def Obligations.ResetValues : Prop :=
  State.reset.mem = [] ∧ State.reset.net = [] ∧ State.reset.powered = false ∧
  (∀ g, (State.reset.core g).stop = true) ∧
  (∀ k, (State.reset.colour k).lease = 0x16) ∧
  (∀ d, (State.reset.die d).csCtl = 0x1FFFFFF00) ∧
  (∀ d, (State.reset.die d).tcFrz = 0xF)

/-- The memory of State.reset has the canonical form (R19; the form is the model's own, notes/assumptions/3.md). -/
def Obligations.ResetMemoryCanonical : Prop := Memory.wf State.reset.mem = true

/-- Every step of the package keeps memory in its canonical form, addresses strictly rising and no listed byte 0, so that equal
memories are equal data (R19; the form is the model's own, notes/assumptions/3.md). -/
def Obligations.MemoryCanonical : Prop :=
  ∀ (s t : State), Memory.wf s.mem = true → step s = .next t → Memory.wf t.mem = true

/-- R19, R312: after a list of writes an address reads as its last write, and every other address as before. -/
def Obligations.MemoryReadsLastWrite : Prop :=
  ∀ (m : List (Nat × Byte)) (bytes : List (Nat × Byte)) (a : Nat), Memory.wf m = true →
    memGet (memPuts m bytes) a = byteAfter m bytes a

/-- R51, R204, R312: no instruction changes a byte of memory at its issue; stores, atomics, updates and copies take effect where the
bytes are at home. -/
def Obligations.IssueStoresNothing : Prop :=
  ∀ (i : Instr) (w : RawWord) (s t : State), rawOf i = some w → exec i s = .next t → SameMemory s t

/-! The turn of a thread. -/

/-- R36, R40, R53, R99: in a cycle of a core, the instruction that the bits at the pc of the offered slot's thread decode to is the
one that executes; then the turn ends (R378, R386, R388), or the thread retries where it lost a scratchpad bank (R103). Where it is the second
of a pair that the first has left waiting, the pair is over (R42; what it finds full is notes/assumptions/38.md). -/
def Obligations.StepRunsDecoded : Prop :=
  ∀ (s : State) (g : Nat) (lost : Bool) (rest : List Instr) (t : Thread) (bits : BitVec 512) (i : Instr),
    s.agenda = .coreCycle g lost :: rest → s.frozen = false → s.powered = true → g < 2048 →
    let s0 := State.startCycle { s with agenda := rest } g
    let slot := (s0.core g).cyc % 16
    let s1 := State.setThread { s0 with cur := ⟨g, slot⟩, issue := [], cls := .vacant } g slot (some t)
    s0.issues g = true → s0.thread g slot = some t →
    t.halted = false → t.handed = none → t.waitAns = false → t.haltReq = false → t.denied = none → t.park = .none →
    (t.reports = [] ∨ t.inh = true) → t.gang = .none →
    (t.entry = none ∨ (t.pc.toNat < 2 ^ 55 ∧ lineTgt bits (t.pc.toNat % 8) = true)) →
    t.pc.toNat / 8 % 8 = 0 → t.pc.toNat % 8 < 5 → s1.fetchLine g t = .line bits →
    (t.pass = true ∨ t.second = true ∨ s1.breakFor t [t.pc] = none) →
    (linePair bits (t.pc.toNat % 8) = false ∨ t.second = true) → lineReserved bits = 0 →
    decodeWord t.sup (lineSlot bits (t.pc.toNat % 8)) = .ok i →
    let settled (a : State) : State := if a.cls = .issued then a.settle t i false t.pc else a
    let done (a : State) : State := if t.second = true ∧ a.waits = false then (settled a).endPair t i else settled a
    step s = match exec i s1 with
      | .next a =>
        .next (if a.cls = .issued ∧ lost = true ∧ s1.losesBank [i] = true then s1.lostTurn.endTurn true
          else (done a).endTurn (a.cls == .issued))
      | o => o

/-- R42, R51: when both instructions of a pair are ready and the first issues without a trap, is no redeem and leaves its thread in its
slot, the pair issues as the first and then the second, which finds full what the first has taken with a synchronised read
(notes/assumptions/38.md). -/
def Obligations.PairIssuesBoth : Prop :=
  ∀ (i1 i2 : Instr) (t : Thread) (s a b c : State),
    exec i1 s = .next a → exec i2 (s.setThread s.cur.g s.cur.slot (some { t with pc := succPc t.pc })) = .next b →
    exec i2 ((a.onTid t.tid (Thread.restore t)).keepKv t) = .next c →
    a.cls = .issued → b.cls = .issued → c.cls = .issued → a.redeems s.cur t.pc = false → a.gone s.cur t.tid = false →
    issuePair i1 i2 t s = .next { (c.endPair t i2).settle t i2 false (succPc t.pc) with cls := .issued }

/-- R44, R51: an instruction whose guard is resolved false is ready, reads and writes nothing, and execution goes on at the
successor; one whose guard is unresolved is not ready, and nothing of the package changes, but that the commands of the matrix engine
are queued (R115). -/
def Obligations.GuardDecides : Prop :=
  ∀ (i : Instr) (w : RawWord) (s : State) (x : Ctx), rawOf i = some w → ctxOf s = some x →
    (x.t.guardRes w.gd = true → x.t.guardVal w.gd = false → exec i s = .next (x.finish x.c x.t)) ∧
    (engineForm i = none → x.t.guardRes w.gd = false → ∃ k, (k = .mem ∨ k = .msg) ∧ exec i s = .next { s with cls := k })

/-- R49, R51, R53: a register instruction with a source or destination that is not ready waits, and nothing of the package changes. -/
def Obligations.NotReadyWaits : Prop :=
  (∀ (i : Instr) (k : ScalarForm) (s : State) (x : Ctx), scalarForm i = some k → Executes k.gd s x →
    srcWaits x [] k.srcs ++ dstWait x k.srcs k.dst ≠ [] → ∃ c, (c = .mem ∨ c = .msg) ∧ exec i s = .next { s with cls := c }) ∧
  (∀ (i : Instr) (k : GuardForm) (s : State) (x : Ctx), guardForm i = some k → Executes k.gd s x →
    srcWaits x [] k.srcs ++ dstWait x k.srcs k.dst ≠ [] → ∃ c, (c = .mem ∨ c = .msg) ∧ exec i s = .next { s with cls := c }) ∧
  (∀ (i : Instr) (k : VectorForm) (s : State) (x : Ctx), vectorForm i = some k → Executes k.gd s x →
    srcWaits x [] (k.srcs ++ k.reads) ++ dstWait x k.srcs k.dst ≠ [] →
    ∃ c, (c = .mem ∨ c = .msg) ∧ exec i s = .next { s with cls := c })

/-- R51, R104, R114, R132, R148: what a register instruction that issues leaves unchanged: every register but its destination, every
full bit but its destination's and those of its synchronised reads, every queue, link and stream it does not name, the special
registers of the thread, every other thread and core, and all of memory. -/
def Obligations.RegisterFrames : Prop :=
  ∀ (i : Instr) (gd : Guard) (f : Fields) (s t : State) (x : Ctx), registerForm i = some (gd, f) → Executes gd s x →
    exec i s = .next t → t.cls = .issued → RegisterFrame f x s t

/-! Sources and destinations. -/

/-- R51, R106, R107, R108, R110, R111, R287: what a source gives and takes: a d register its word, the synchronised read clearing its full bit; the
zero source 0; a q register its head entry, and named twice its first two entries in order; n0–n3 the first word of the thread's own link, n4 its
head word, n5 word 0 of the colour's head message, which stays; an s register its next 128 bytes, the last ones releasing the binding. -/
def Obligations.SourcesRead : Prop :=
  ∀ (x : Ctx),
    (∀ (i : Fin 16) (m : Modif), m ≠ .sync → x.take [⟨.d i, m⟩] = ([.w x.t.d[i]], x.c, x.t)) ∧
    (∀ i : Fin 16, x.take [⟨.d i, .sync⟩] = ([.w x.t.d[i]], x.c, { x.t with dfull := x.t.dfull.set i false })) ∧
    (∀ (i : Fin 16) (j : Fin 16), (x.take [⟨.d i, .sync⟩, ⟨.d j, .plain⟩]).1 = [.w x.t.d[i], .w x.t.d[j]]) ∧
    (∀ i : Fin 8, x.take [⟨.v i, .plain⟩] = ([.v x.t.v[i]], x.c, x.t)) ∧
    (∀ m : Modif, x.take [⟨.zero, m⟩] = ([.w 0], x.c, x.t)) ∧
    (∀ (i : Fin 4) (a : Word) (rest : List Word), x.c.q[i] = a :: rest →
      x.take [⟨.q i, .plain⟩] = ([.w a], { x.c with q := x.c.q.set i rest }, x.t)) ∧
    (∀ (i : Fin 4) (a b : Word) (rest : List Word), x.c.q[i] = a :: b :: rest →
      x.take [⟨.q i, .plain⟩, ⟨.q i, .plain⟩] = ([.w a, .w b], { x.c with q := (x.c.q.set i (b :: rest)).set i rest }, x.t)) ∧
    (∀ (i : Fin 4) (before after : List (Nat × Nat × Word)) (w : Word),
      let tag := x.s.linkTag x.g x.t
      x.c.nin[i] = before ++ (tag.1, tag.2, w) :: after → (∀ e ∈ before, e.1 = tag.1 → e.2.1 ≠ tag.2) →
      x.take [⟨.n (i.castLE (by decide)), .plain⟩] = ([.w w], { x.c with nin := x.c.nin.set i (before ++ after) }, x.t)) ∧
    (∀ (a : Word) (rest : List Word), x.c.n4 = a :: rest → x.take [⟨.n 4, .plain⟩] = ([.w a], { x.c with n4 := rest }, x.t)) ∧
    (∀ (e : InboxEntry) (rest : List InboxEntry), takeInbox x.t.colour x.c.inbox = some (e, rest) →
      x.take [⟨.n 5, .plain⟩] = ([.w e.w0], x.c, x.t)) ∧
    (∀ (i : Fin 4) (st : Stream), x.t.streams[i] = some st →
      x.take [⟨.s i, .plain⟩] = ([.v (lanesOf (st.buf.take 128))], x.c, { x.t with
        streams := x.t.streams.set i (if st.buf.drop 128 = [] ∧ st.left = 0 then none else some { st with buf := st.buf.drop 128 }) }))

/-- R104, R108, R110: a d destination takes the word and its full bit is set; a q destination is appended to; a word for n0–n3 is sent
to the neighbour's register of the opposite direction. -/
def Obligations.DestinationsWritten : Prop :=
  ∀ (s : State) (x : Ctx) (c : Core) (u : Thread) (m : Modif) (w : Word), ctxOf s = some x →
    (∀ i : Fin 16, IssuesAs x (x.writeW c u ⟨.d i, m⟩ w) c { u with d := u.d.set i w, dfull := u.dfull.set i true } [] s.dies s.watches) ∧
    (∀ i : Fin 4, IssuesAs x (x.writeW c u ⟨.q i, m⟩ w) { c with q := c.q.set i (c.q[i] ++ [w]) } u [] s.dies s.watches) ∧
    (∀ i : Fin 6, i.val < 4 → IssuesAs x (x.writeW c u ⟨.n i, m⟩ w) c u
      [.nword x.t.launch (s.linkDest x.g x.t i.val).1 (s.linkDest x.g x.t i.val).2 (Fin.ofNat 4 ((i.val + 2) % 4)) w (s.die (dieOf x.g)).k]
      s.dies s.watches)

/-! Scalar instructions, compares and guards. -/

/-- R51, R130, R132, R133–R143, R170: a scalar instruction that is ready completes: it reads its sources in order and writes the
value of its operation to its destination; in a deterministic launch, a write to n0–n3 toward a core of another logical cluster traps
instead (R342). -/
def Obligations.ScalarCompletes : Prop :=
  ∀ (i : Instr) (k : ScalarForm) (s : State) (x : Ctx), scalarForm i = some k → Executes k.gd s x →
    srcWaits x [] k.srcs = [] → dstWait x k.srcs k.dst = [] →
    (linkOutside x k.dst = false →
      exec i s = .next (x.writeW (x.take k.srcs).2.1 (x.take k.srcs).2.2 k.dst (k.op x (x.take k.srcs).1))) ∧
    (linkOutside x k.dst = true → exec i s = .next (x.trap kindDet 3 0))

/-- R130, R133, R135: on 64-bit operands without negation or saturation, `add`, `sub`, `mul`, the logic operations, shifts, `rot`,
`min` and `max` are the operations on bit vectors; counts are taken modulo 64. -/
def Obligations.Arithmetic64 : Prop :=
  ∀ (gd : Guard) (f : Fields) (s : State) (x : Ctx) (a b : Word), Executes gd s x →
    srcWaits x [] [f.src1, f.src2] = [] → dstWait x [f.src1, f.src2] f.dst = [] → linkOutside x f.dst = false →
    (f.ty = .dflt ∨ f.ty = .s64 ∨ f.ty = .z64) → f.qual = 0 → f.src1.m ≠ .neg → f.src2.m ≠ .neg →
    (x.take [f.src1, f.src2]).1 = [.w a, .w b] →
    let put (w : Word) : Host.Outcome State Fault Refusal :=
      .next (x.writeW (x.take [f.src1, f.src2]).2.1 (x.take [f.src1, f.src2]).2.2 f.dst w)
    exec (.add gd f) s = put (a + b) ∧ exec (.sub gd f) s = put (a - b) ∧ exec (.mul gd f) s = put (a * b) ∧
    exec (.and gd f) s = put (a &&& b) ∧ exec (.or gd f) s = put (a ||| b) ∧ exec (.xor gd f) s = put (a ^^^ b) ∧
    exec (.andn gd f) s = put (a &&& ~~~b) ∧
    exec (.shl gd f) s = put (a <<< (b.toNat % 64)) ∧ exec (.shr gd f) s = put (a >>> (b.toNat % 64)) ∧
    exec (.sar gd f) s = put (a.sshiftRight (b.toNat % 64)) ∧ exec (.rot gd f) s = put (a.rotateLeft (b.toNat % 64)) ∧
    exec (.min gd f) s = put (if f.ty = .z64 then (if a < b then a else b) else (if a.slt b then a else b)) ∧
    exec (.max gd f) s = put (if f.ty = .z64 then (if a < b then b else a) else (if a.slt b then b else a))

/-- R136: `div` and `rem` of a type of n bits truncate toward zero, the remainder with the sign of the dividend; a zero divisor gives
the end of the type of the dividend's sign, or 0, and the dividend; the most negative number divided by −1 gives itself and 0. They
never trap. -/
def Obligations.DivisionTruncates : Prop :=
  ∀ (gd : Guard) (f : Fields) (s : State) (x : Ctx) (va vb : Word) (n : Nat) (sg : Bool), Executes gd s x →
    srcWaits x [] [f.src1, f.src2] = [] → dstWait x [f.src1, f.src2] f.dst = [] → linkOutside x f.dst = false → f.qual = 0 →
    (tyInt f.ty).getD (64, true) = (n, sg) → (x.take [f.src1, f.src2]).1 = [.w va, .w vb] →
    let a := Fields.src f f.src1 va
    let b := Fields.src f f.src2 vb
    let least : Int := if sg then -(2 ^ (n - 1)) else 0
    let most : Int := if sg then 2 ^ (n - 1) - 1 else 2 ^ n - 1
    let put (z : Int) : Host.Outcome State Fault Refusal :=
      .next (x.writeW (x.take [f.src1, f.src2]).2.1 (x.take [f.src1, f.src2]).2.2 f.dst (intWord z))
    (b ≠ 0 → ¬(a = least ∧ b = -1) → exec (.div gd f) s = put (a.tdiv b) ∧ exec (.rem gd f) s = put (a.tmod b)) ∧
    (b = 0 → exec (.rem gd f) s = put a ∧ (0 < a → exec (.div gd f) s = put most) ∧ (a < 0 → exec (.div gd f) s = put least) ∧
      (a = 0 → exec (.div gd f) s = put 0)) ∧
    (sg = true → a = least → b = -1 → exec (.div gd f) s = put least ∧ exec (.rem gd f) s = put 0)

/-- R114, R116–R118: a compare or guard instruction that is ready completes: it reads its sources and writes its guard, resolved; a
command queued under that guard while it was unresolved takes its value (R115). -/
def Obligations.GuardsWritten : Prop :=
  ∀ (i : Instr) (k : GuardForm) (s : State) (x : Ctx) (j : Fin 8), guardForm i = some k → Executes k.gd s x → k.dst.reg = .p j → j ≠ 0 →
    srcWaits x [] k.srcs = [] → dstWait x k.srcs k.dst = [] →
    ∃ t, exec i s = .next t ∧
      let u : Thread := { (x.take k.srcs).2.2 with
        pval := (x.take k.srcs).2.2.pval.set j (k.op (x.take k.srcs).1), pres := (x.take k.srcs).2.2.pres.set j true }
      IssuesAs x t ((x.take k.srcs).2.1.resolved u) u [] s.dies s.watches

/-- R117, R118: compares of integers: `.z64` is unsigned, the default signed; `.tst` and `.ntst` test common bits. -/
def Obligations.IntegerCompares : Prop :=
  ∀ (gd : Guard) (f : Fields) (a b : Word), f.ty = .dflt ∨ f.ty = .s64 ∨ f.ty = .z64 →
    let lt := if f.ty = .z64 then decide (a < b) else a.slt b
    let gt := if f.ty = .z64 then decide (b < a) else b.slt a
    (guardForm (.cmpEq gd f)).map (fun k => k.op [.w a, .w b]) = some (decide (a = b)) ∧
    (guardForm (.cmpNe gd f)).map (fun k => k.op [.w a, .w b]) = some (decide (a ≠ b)) ∧
    (guardForm (.cmpLt gd f)).map (fun k => k.op [.w a, .w b]) = some lt ∧
    (guardForm (.cmpLe gd f)).map (fun k => k.op [.w a, .w b]) = some (!gt) ∧
    (guardForm (.cmpGt gd f)).map (fun k => k.op [.w a, .w b]) = some gt ∧
    (guardForm (.cmpGe gd f)).map (fun k => k.op [.w a, .w b]) = some (!lt) ∧
    (guardForm (.cmpTst gd f)).map (fun k => k.op [.w a, .w b]) = some (decide (a &&& b ≠ 0)) ∧
    (guardForm (.cmpNtst gd f)).map (fun k => k.op [.w a, .w b]) = some (decide (a &&& b = 0))

/-! The vector unit. -/

/-- R146–R149: a vector instruction that is ready completes: it reads its sources, taking a stream's piece, and writes its destination
with the full bit set. An event with `tsk.ftrap` bit 0 set, and a stream register with no binding or no piece left (R287), trap
precisely instead: nothing is taken or written. -/
def Obligations.VectorCompletes : Prop :=
  ∀ (i : Instr) (k : VectorForm) (s : State) (x : Ctx), vectorForm i = some k → Executes k.gd s x →
    srcWaits x [] (k.srcs ++ k.reads) = [] → dstWait x k.srcs k.dst = [] →
    (unboundStream x k.srcs = false → ((k.op x (x.take k.srcs).1).events = [] ∨ x.t.evt = false) →
      (∀ j : Fin 8, k.dst.reg = .v j → ∃ t, exec i s = .next t ∧
        IssuesAs x t (x.take k.srcs).2.1 ((x.take k.srcs).2.2.putV j (k.op x (x.take k.srcs).1).val.lanes) [] s.dies s.watches) ∧
      (∀ j : Fin 16, k.dst.reg = .d j → ∃ t, exec i s = .next t ∧
        IssuesAs x t (x.take k.srcs).2.1 ((x.take k.srcs).2.2.putD j (k.op x (x.take k.srcs).1).val.word) [] s.dies s.watches)) ∧
    (unboundStream x k.srcs = true → exec i s = .next (x.trap kindStream 0 0)) ∧
    (∀ e es, unboundStream x k.srcs = false → (k.op x (x.take k.srcs).1).events = e :: es → x.t.evt = true →
      exec i s = .next (x.trap kindEvent e.2 (k.addr (e :: es))))

/-! Branches and gangs. -/

/-- R38, R39, R114, R119, R120: branches whose guard is true transfer to their target by a checked transfer and write the link with
the sequential successor; `nop` has no effect; `clrp` leaves its guard unresolved. -/
def Obligations.BranchesTransfer : Prop :=
  ∀ (gd : Guard) (f : Fields) (s : State) (x : Ctx), Executes gd s x →
    (∃ t, exec (.nop gd f) s = .next t ∧ IssuesAs x t x.c x.t [] s.dies s.watches) ∧
    (∀ j : Fin 8, f.dst.reg = .p j → x.t.pans[j] = false → ∃ t v, exec (.clrp gd f) s = .next t ∧
      IssuesAs x t x.c { x.t with pval := x.t.pval.set j v, pres := x.t.pres.set j false } [] s.dies s.watches) ∧
    (∃ t, exec (.br gd f) s = .next t ∧ t.cls = .issued ∧ SameMemory s t ∧
      t.thread x.g x.slot = some (transferredTo x.t (branchTarget x.t.pc (Fields.imm f)))) ∧
    (∀ j : Fin 16, f.dst.reg = .d j → x.t.dpend[j] = false → ∃ t, exec (.brl gd f) s = .next t ∧ t.cls = .issued ∧ SameMemory s t ∧
      t.thread x.g x.slot = some { transferredTo x.t (branchTarget x.t.pc (Fields.imm f)) with
        d := x.t.d.set j (succPc x.t.pc), dfull := x.t.dfull.set j true }) ∧
    (∀ (i : Fin 16) (m : Modif), f.src1 = ⟨.d i, m⟩ → x.t.dfull[i] = true →
      (∃ t, exec (.jr gd f) s = .next t ∧ t.cls = .issued ∧ SameMemory s t ∧
        t.thread x.g x.slot = some (transferredTo (x.take [f.src1]).2.2 x.t.d[i])) ∧
      (∃ t, exec (.ret gd f) s = .next t ∧ t.cls = .issued ∧ SameMemory s t ∧
        t.thread x.g x.slot = some (transferredTo (x.take [f.src1]).2.2 x.t.d[i])) ∧
      (∀ j : Fin 16, f.dst.reg = .d j → x.t.dpend[j] = false → ∃ t, exec (.jrLink gd f) s = .next t ∧ t.cls = .issued ∧
        SameMemory s t ∧ t.thread x.g x.slot = some (transferredTo ((x.take [f.src1]).2.2.putD j (succPc x.t.pc)) x.t.d[i])))

/-- R38, R41: sequential execution runs from slot 0 to slot 4 of a line and then to slot 0 of the next; a slot offset of 0 (R41) stays at the
slot, an offset of 1 goes to the sequential successor and −1 back, and every target is a pc: bits [5:3] zero, a slot of 0 to 4. -/
def Obligations.SequentialOrder : Prop :=
  (∀ (line slot : Nat), line < 2 ^ 58 - 1 → slot < 5 →
    succPc (BitVec.ofNat 64 (64 * line + slot)) = BitVec.ofNat 64 (if slot < 4 then 64 * line + slot + 1 else 64 * (line + 1))) ∧
  (∀ pc : Word, pc.toNat / 8 % 8 = 0 → pc.toNat % 8 < 5 → pc.toNat < 2 ^ 64 - 64 →
    branchTarget pc 0 = pc ∧ branchTarget pc 1 = succPc pc ∧ branchTarget (branchTarget pc 1) (-1) = pc ∧
    ∀ off : BitVec 32, (branchTarget pc off).toNat / 8 % 8 = 0 ∧ (branchTarget pc off).toNat % 8 < 5)

/-- R121, R122, R125, R126: `gang 1` completes without effect; `gang k` of a thread outside a gang waits, its gang to be formed, and it
completes as the gang forms (GANG_FORM): once every follower column of its row has a thread that waits at `gang k` too, or has none, the
thread and the members it has gained go on at their successors, it as leader and they as attached followers. `ungang` completes with
the thread in no gang. `rejoin` completes as a checked transfer to its label for a thread outside a gang, for an attached follower,
and for a leader none of whose followers is detached or has left the line that the leader is in (R124). -/
def Obligations.GangsForm : Prop :=
  (∀ (gd : Guard) (f : Fields) (s : State) (x : Ctx), Executes gd s x →
    let lab := branchTarget x.t.pc (Fields.imm f)
    ((Fields.imm f).toNat = 1 → ∃ t, exec (.gang gd f) s = .next t ∧ IssuesAs x t x.c x.t [] s.dies s.watches) ∧
    (x.t.gang = .none →
      ((Fields.imm f).toNat ≠ 1 → Named s ⟨x.g, x.slot⟩ x.t → ∃ t, exec (.gang gd f) s = .next t ∧ t.cls = .msg ∧ SameMemory s t ∧
        t.thread x.g x.slot = some { x.t with gang := .forming (Fields.imm f).toNat }) ∧
      (∃ t, exec (.ungang gd f) s = .next t ∧ IssuesAs x t x.c x.t [] s.dies s.watches) ∧
      (∃ t, exec (.rejoin gd f) s = .next t ∧ t.cls = .issued ∧ SameMemory s t ∧ t.thread x.g x.slot = some (transferredTo x.t lab))) ∧
    (∀ (ld : Nat) (inl : Bool) (ls : List FwdLine) (last : Option (Word × Bool)) (rj : Option Word),
      x.t.gang = .follower ld true inl ls last rj → s.leads ld x.t.tid = true →
      ∃ t, exec (.rejoin gd f) s = .next t ∧ t.cls = .issued ∧ SameMemory s t ∧ t.thread x.g x.slot = some (transferredTo x.t lab)) ∧
    (∀ (ms : List GangMember) (rj last next : Option Word), x.t.gang = .leader ms rj last next →
      (∀ m ∈ ms, s.followerOf x.t.tid m.tid false = false ∧ s.strayed m.tid = false) →
      ∃ t, exec (.rejoin gd f) s = .next t ∧ t.cls = .issued ∧ SameMemory s t ∧ t.thread x.g x.slot = some (transferredTo
        { x.t with gang := .leader (ms.map fun m => { m with arrived := none }) none last next } lab)) ∧
    (Named s ⟨x.g, x.slot⟩ x.t → ∃ t, exec (.ungang gd f) s = .next t ∧ t.cls = .issued ∧ SameMemory s t ∧
      t.thread x.g x.slot = some (issuedAs { x.t with gang := .none }))) ∧
  (∀ (s : State) (g slot k core : Nat) (t : Thread) (l : Launch), Named s ⟨g, slot⟩ t → t.gang = .forming k →
    s.launch? t.launch = some l → l.logicalOn g t.team = some core → core % 2 ^ l.lc % k = 0 → t.steps = none →
    let answers := (List.range (k - 1)).map fun i =>
      s.gangAnswer l t.launch slot (core / 2 ^ l.lc) (core % 2 ^ l.lc) k (core % 2 ^ l.lc + 1 + i)
    let members := answers.filterMap fun a => match a with
      | .joined tid => some tid
      | _ => none
    let goesOn (u : Thread) (gang : Gang) : Thread :=
      { u with gang := gang, pc := succPc u.pc, entry := none, vector := none, retry := false, kv := [], pass := false }
    (∀ a ∈ answers, a = .absent ∨ ∃ m, m ≠ t.tid ∧ a = .joined m) → members.Nodup →
    ∃ t', exec (.gangForm g slot) s = .next t' ∧ SameMemory s t' ∧
      t'.thread g slot = some (goesOn t (if members = [] then .none else .leader (members.map fun m => ⟨m, none⟩) none none none)) ∧
      ∀ (r : SlotRef) (u : Thread), Named s r u → u.tid ∈ members → u.steps = none →
        t'.thread r.g r.slot = some (goesOn u (.follower t.tid true false [] none none)))

/-! Loads, stores and fences. -/

/-- R104, R196–R201, R204: a scalar or vector load, a planar load and a scratchpad load that pass their checks complete: the first
three send one request per port entry with the address translated and leave their destination pending, a scratchpad load writes its
destination at once. -/
def Obligations.LoadsComplete : Prop :=
  ∀ (gd : Guard) (f : Fields) (s : State) (x : Ctx) (a : Word), (val (x.take [f.src1]).1 0) + Fields.simm f = a →
    (∀ (i : Fin 16) (p : Place), f.dst.reg = .d i → Ready gd s x [f.src1] [f.dst] 1 → a.toNat % accessBytes f.ty = 0 →
      Reaches x .loads .read a [a] [p] → ∃ t, exec (.ld gd f) s = .next t ∧
        IssuesAs x t (x.take [f.src1]).2.1 (loadOut ((x.take [f.src1]).2.2.pendD i) 1 s.uid (acqBits f))
          [.read (requestOf x []) [(p.addr, accessBytes f.ty)] (.d i f.ty) a] s.dies s.watches) ∧
    (∀ (i : Fin 8) (p q : Place), f.dst.reg = .v i → Ready gd s x [f.src1] [f.dst] 2 → a.toNat % 64 = 0 →
      Reaches x .loads .read a [a, a + 64] [p, q] → ∃ t, exec (.vld gd f) s = .next t ∧
        IssuesAs x t (x.take [f.src1]).2.1
          (loadOut (loadOut ((x.take [f.src1]).2.2.pendV i 2) 1 s.uid (acqBits f)) 1 (s.uid + 1) (acqBits f))
          [.read (requestOf x []) [(p.addr, 64)] (.vsec i false) a,
           .read { requestOf x [] with id := s.uid + 1 } [(q.addr, 64)] (.vsec i true) (a + 64)] s.dies s.watches) ∧
    (∀ (i : Fin 16), f.dst.reg = .d i → Ready gd s x [f.src1] [f.dst] 0 → a.toNat % accessBytes f.ty = 0 →
      ∀ off, InScratchpad x a (List.range (accessBytes f.ty)) off → ∃ t, exec (.lds gd f) s = .next t ∧
        IssuesAs x t (x.take [f.src1]).2.1 ((x.take [f.src1]).2.2.putD i (extendTo f.ty (x.c.spadBytes off (accessBytes f.ty))))
          [] s.dies s.watches) ∧
    (∀ (i : Fin 8), f.dst.reg = .v i → Ready gd s x [f.src1] [f.dst] 0 → a.toNat % 8 = 0 →
      ∀ off, InScratchpad x a (List.range 128) off → ∃ t, exec (.lds gd f) s = .next t ∧
        IssuesAs x t (x.take [f.src1]).2.1 ((x.take [f.src1]).2.2.putV i (lanesOf (x.c.spadBytes off 128))) [] s.dies s.watches) ∧
    (∀ (i : Fin 8) (ps : List Place), f.dst.reg = .v i → Ready gd s x [f.src1, f.src2] [f.dst] (Fields.fetched f) →
      let r := x.take [f.src1, f.src2]
      let b := val r.1 0 + Fields.simm f
      let addrs := planeAddrs b (val r.1 1) (Fields.fetched f)
      b.toNat % 32 = 0 → (val r.1 1) >>> 32 ≠ 0 → Reaches x .planar .read b addrs ps → planeSplit addrs ps = none →
      ∃ t, exec (.vldp gd f) s = .next t ∧ IssuesAs x t r.2.1 (loadOut (r.2.2.pendV i 1) (Fields.fetched f) s.uid (acqBits f))
        [.read (requestOf x []) (ps.map fun p => (p.addr, 32)) (.vplanes i f.ty (f.qual = 1)) b] s.dies s.watches)

/-- R197, R204, R323, R379: a scalar store that passes its checks completes: one write of its low bytes, ascending, with its release
point's clock, outstanding until performed. It stores at the address translated of base plus immediate. -/
def Obligations.StoreCompletes : Prop :=
  ∀ (gd : Guard) (f : Fields) (s s1 : State) (x : Ctx) (p : Place), Ready gd s x [f.src1, f.src2] [] 1 → sysRelWait x f = [] →
    let r := x.take [f.src1, f.src2]
    let a := val r.1 0 + Fields.simm f
    let n := accessBytes f.ty
    let o := x.orderPoint r.2.2 f
    a.toNat % n = 0 → Reaches x .loads .write a [a] [p] → s.slotsOk p.addr = true → s.storeStrike x.t (addrRange a.toNat n) = .inl s1 →
    ∃ t, exec (.st gd f) s = .next t ∧ IssuesAs x t r.2.1 (sentOut o.2 1 s.uid)
      [.write (requestOf x (o.1.writeClock x.g o.2)) (enumFrom p.addr (wordBytes n (val r.1 1))) a] o.1.dies s1.watches

/-- R199, R200, R204, R213, R323, R379: vector stores complete: a write per sector with an enabled lane, of the enabled lanes' bytes, none
where the mask disables every lane; planar stores: one write of every plane's bytes. -/
def Obligations.VectorStoresComplete : Prop :=
  ∀ (gd : Guard) (f : Fields) (s s1 : State) (x : Ctx) (ps : List Place), sysRelWait x f = [] → unboundStream x [f.src2] = false →
    let r := x.take [f.src1, f.src2, f.src3]
    let a := val r.1 0 + Fields.simm f
    let o := x.orderPoint r.2.2 f
    (let m := maskOf f.src3 (val r.1 2);
      Ready gd s x [f.src1, f.src2, f.src3] [] (maskSectors (peekMask x f.src3)).length → a.toNat % 64 = 0 →
      (m = 0 ∧ ps = []) ∨ Reaches x .loads .write (a + BitVec.ofNat 64 (64 * (maskSectors m).headD 0))
        ((maskSectors m).map fun h => a + BitVec.ofNat 64 (64 * h)) ps →
      (∀ p ∈ ps, s.slotsOk p.addr = true) → s.storeStrike x.t (maskAddrs m a) = .inl s1 →
      ∃ t, exec (.vst gd f) s = .next t ∧
        IssuesAs x t r.2.1 { o.2 with outst := o.2.outst ++ (List.range ps.length).map fun k => s.uid + k }
          ((enumFrom 0 ((maskSectors m).zip ps)).map fun e => .write { requestOf x (o.1.writeClock x.g o.2) with id := s.uid + e.1 }
            (maskBytes m (valAt r.1 1).lanes e.2.1 e.2.2.addr) (a + BitVec.ofNat 64 (64 * e.2.1))) o.1.dies s1.watches) ∧
    (Ready gd s x [f.src1, f.src2, f.src3] [] (gPlanes f.ty) → a.toNat % 32 = 0 → (val r.1 2) >>> 32 ≠ 0 →
      Reaches x .planar .write a (planeAddrs a (val r.1 2) (gPlanes f.ty)) ps →
      planeSplit (planeAddrs a (val r.1 2) (gPlanes f.ty)) ps = none →
      s.storeStrike x.t ((planeAddrs a (val r.1 2) (gPlanes f.ty)).flatMap fun b => addrRange b.toNat 32) = .inl s1 →
      ∃ t, exec (.vstp gd f) s = .next t ∧ IssuesAs x t r.2.1 (sentOut o.2 (gPlanes f.ty) s.uid)
        [.write (requestOf x (o.1.writeClock x.g o.2))
          ((enumFrom 0 ps).flatMap fun e => enumFrom e.2.addr ((valAt r.1 1).lanes.toList.map (plane e.1))) a] o.1.dies s1.watches)

/-- R50, R199, R201, R379: a scratchpad store that passes its checks completes. The scalar form stores the low bytes of its source at
the address's place in the scratchpad, the vector form the lanes its mask enables; every other byte of the scratchpad and all of memory
read as before. With no lane enabled nothing is accessed and only the alignment is checked. -/
def Obligations.ScratchpadStoreCompletes : Prop :=
  ∀ (gd : Guard) (f : Fields) (s s1 : State) (x : Ctx), Ready gd s x (Fields.stsSrcs f) [] 0 →
    let r := x.take (Fields.stsSrcs f)
    let a := val r.1 0 + Fields.simm f
    let n := accessBytes f.ty
    let m := maskOf f.src3 (val r.1 2)
    (∀ off : Nat, (∀ i : Fin 8, f.src2.reg ≠ .v i) → a.toNat % n = 0 → InScratchpad x a (List.range n) off →
      s.storeStrike x.t (addrRange a.toNat n) = .inl s1 →
      ∃ t, exec (.sts gd f) s = .next t ∧ t.cls = .issued ∧ SameMemory s t ∧
        t.thread x.g x.slot = some (issuedAs r.2.2) ∧
        (t.core x.g).spadBytes off n = wordBytes n (val r.1 1) ∧
        ∀ b, b < off ∨ off + n ≤ b → (t.core x.g).spadByte b = x.c.spadByte b) ∧
    (∀ (i : Fin 8) (off : Nat), f.src2.reg = .v i → a.toNat % 8 = 0 →
      InScratchpad x a (maskOffsets m) off → s.storeStrike x.t (maskAddrs m a) = .inl s1 →
      ∃ t, exec (.sts gd f) s = .next t ∧ t.cls = .issued ∧ SameMemory s t ∧
        t.thread x.g x.slot = some (issuedAs r.2.2) ∧
        (∀ k : Fin 32, (t.core x.g).spadBytes (off + 4 * k.val) 4 =
          if m.getLsbD k.val then planes 4 ((valAt r.1 1).lanes[k]) else x.c.spadBytes (off + 4 * k.val) 4) ∧
        ∀ b, b < off ∨ off + 128 ≤ b → (t.core x.g).spadByte b = x.c.spadByte b) ∧
    (∀ (i : Fin 8), f.src2.reg = .v i → m = 0 → a.toNat % 8 = 0 → x.c.atHome x.t = true →
      ∃ t, exec (.sts gd f) s = .next t ∧ IssuesAs x t r.2.1 r.2.2 [] s.dies s.watches)

/-- R187, R196, R201, R202: for `ld` to a d register an address above the space, in no region, in a region the instruction does not accept, or
unaligned traps precisely, in this order; `lds` to a d register traps away from the team's core before any of them, and on an address of
translated space. -/
def Obligations.AccessChecksTrap : Prop :=
  ∀ (gd : Guard) (f : Fields) (s : State) (x : Ctx), Ready gd s x [f.src1] [f.dst] 1 → (∃ i, f.dst.reg = .d i) →
    let a := val (x.take [f.src1]).1 0 + Fields.simm f
    (2 ^ 55 ≤ a.toNat → exec (.ld gd f) s = .next (x.trap kindAddress 1 a)) ∧
    (a.toNat < 2 ^ 55 → x.s.region x.g x.t.colour x.t.key a = .none → exec (.ld gd f) s = .next (x.trap kindAddress 2 a)) ∧
    (a.toNat < 2 ^ 55 → (∃ o, x.s.region x.g x.t.colour x.t.key a = .spad o) →
      exec (.ld gd f) s = .next (x.trap kindAddress 3 a)) ∧
    (a.toNat < 2 ^ 55 → regionDetail .loads (x.s.region x.g x.t.colour x.t.key a) = 0 → a.toNat % accessBytes f.ty ≠ 0 →
      exec (.ld gd f) s = .next (x.trap kindAlign 0 a)) ∧
    (x.c.atHome x.t = false → exec (.lds gd f) s = .next (x.trap kindAddress 4 0)) ∧
    (x.c.atHome x.t = true → a.toNat < 2 ^ 55 → x.s.region x.g x.t.colour x.t.key a = .translated →
      exec (.lds gd f) s = .next (x.trap kindAddress 3 a))

/-- R204, R205, R323: a fence with nothing to wait for completes: a release numbers a release point, an acquire holds later accesses
for the loads unanswered; a probe writes the word of what its address maps to. -/
def Obligations.FenceProbeComplete : Prop :=
  ∀ (gd : Guard) (f : Fields) (s : State) (x : Ctx), Executes gd s x →
    ((relBits f = true → Fields.bits f 34 2 ≠ 0 → x.t.outst = [] ∧ x.t.kvOut = 0) → relWait x (relBits f) = [] →
      let o := x.orderPoint x.t f
      ∃ t, exec (.fence gd f) s = .next t ∧
        IssuesAs x t x.c { o.2 with hold := if acqBits f then o.2.hold ++ o.2.loads else o.2.hold } [] o.1.dies s.watches) ∧
    (∀ (i : Fin 16) (w : Word), f.dst.reg = .d i → srcWaits x [] [f.src1] = [] → x.t.dpend[i] = false →
      probeOf x (val (x.take [f.src1]).1 0 + Fields.simm f) = .ok w →
      ∃ t, exec (.tprb gd f) s = .next t ∧ t.cls = .issued ∧ SameMemory s t ∧
        t.thread x.g x.slot = some (issuedAs ((x.take [f.src1]).2.2.putD i w)))

/-- R181, R209, R300: planar updates that pass their checks send one update for the 32 elements and count as non-returning operations; KV operations
within `kv.geom` send one message, and on no block, or from a sequence to itself, do nothing. That the request carries bit 0 of tsk.ftrap as it is
at issue is the model's choice (notes/assumptions/29.md), and so is that a KV operation takes one memory-port entry, for which it waits
(notes/assumptions/71.md). -/
def Obligations.UpdatesComplete : Prop :=
  ∀ (gd : Guard) (f : Fields) (s : State) (x : Ctx), nonretWait x = [] →
    let os := [f.src1, f.src2, f.src3]
    let r := x.take os
    let a := val r.1 0 + Fields.simm f
    let addrs := planeAddrs a (val r.1 2) (gPlanes f.ty)
    let o := x.orderPoint r.2.2 f
    let out (u : Thread) (n : Nat) : Thread := { sentOut u n s.uid with nonret := u.nonret ++ [s.uid] }
    (∀ ps, Ready gd s x os [] (gPlanes f.ty) → unboundStream x [f.src2] = false → a.toNat % 32 = 0 → (val r.1 2) >>> 32 ≠ 0 →
      Reaches x .planar ⟨.write, false⟩ a addrs ps → planeSplit addrs ps = none → relWait x (relBits f) = [] →
      let m (pdec : Bool) : Msg := .planar ⟨requestOf x (o.1.writeClock x.g o.2), pdec, f.ty, f.qual, ps.map Place.addr, a,
        (valAt r.1 1).lanes.toList, (val r.1 2).setWidth 32, s.watchTag x.t (addrs.flatMap fun b => addrRange b.toNat 32)⟩
      (∃ t, exec (.pupd gd f) s = .next t ∧ IssuesAs x t r.2.1 (out o.2 (gPlanes f.ty)) [m false] o.1.dies s.watches) ∧
      (∃ t, exec (.pdec gd f) s = .next t ∧ IssuesAs x t r.2.1 (out o.2 (gPlanes f.ty)) [m true] o.1.dies s.watches)) ∧
    (Ready gd s x os [] 1 →
      let q := (val r.1 0).toNat
      let b := (val r.1 1).toNat
      let n := (val r.1 2).toNat
      let geom := s.colour x.t.colour
      (kvWithin geom [q, b] 0 n = true →
        (n ≠ 0 → q ≠ b → ∃ t, exec (.kvfork gd f) s = .next t ∧
          IssuesAs x t r.2.1 { out r.2.2 1 with kvOut := r.2.2.kvOut + 1 } [.kvBlocks (requestOf x (s.writeClock x.g x.t)) true q b 0 n] s.dies s.watches) ∧
        (n = 0 ∨ q = b → ∃ t, exec (.kvfork gd f) s = .next t ∧ IssuesAs x t r.2.1 r.2.2 [] s.dies s.watches)) ∧
      (kvWithin geom [q] b n = true →
        (n ≠ 0 → ∃ t, exec (.kvfree gd f) s = .next t ∧
          IssuesAs x t r.2.1 { out r.2.2 1 with kvOut := r.2.2.kvOut + 1 } [.kvBlocks (requestOf x (s.writeClock x.g x.t)) false q 0 b n] s.dies s.watches) ∧
        (n = 0 → ∃ t, exec (.kvfree gd f) s = .next t ∧ IssuesAs x t r.2.1 r.2.2 [] s.dies s.watches)))

/-- R202, R203: a move to the core where the thread is goes on at its successor; to another, with nothing outstanding, the slot is vacated and the
context sent with the thread's d registers and its successor's pc. That `migr` finds its place through a leaf of any permission is the model's
choice (notes/assumptions/37.md). -/
def Obligations.MovesComplete : Prop :=
  ∀ (gd : Guard) (f : Fields) (s : State) (x : Ctx), Executes gd s x → x.t.inh = false →
    (srcWaits x [] [f.src1] = [] → ∀ p, Reaches x .planar .locate (val (x.take [f.src1]).1 0) [val (x.take [f.src1]).1 0] [p] →
      s.clusterOk x.t.colour (clusterOf p.moveCore) = true →
      (p.moveCore = x.g → ∃ t, exec (.migr gd f) s = .next t ∧
        IssuesAs x t (x.take [f.src1]).2.1 (x.take [f.src1]).2.2 [] s.dies s.watches) ∧
      (p.moveCore ≠ x.g → moveWait x = false → moveBlocked x = false → ∃ t u cyc clock, exec (.migr gd f) s = .next t ∧
        t.cls = .issued ∧ SameMemory s t ∧ t.thread x.g x.slot = none ∧
        t.net.getLast? = some (.context u x.g p.moveCore cyc clock) ∧ u.d = x.t.d ∧ u.wid = x.t.wid ∧ u.pc = succPc x.t.pc)) ∧
    (∀ (h : Nat) (tm : Team), s.findTeam x.t.key = some (h, tm) →
      (h = x.g → ∃ t, exec (.home gd f) s = .next t ∧ IssuesAs x t x.c x.t [] s.dies s.watches) ∧
      (h ≠ x.g → moveWait x = false → moveBlocked x = false → ∃ t u cyc clock, exec (.home gd f) s = .next t ∧
        t.cls = .issued ∧ SameMemory s t ∧ t.thread x.g x.slot = none ∧
        t.net.getLast? = some (.context u x.g h cyc clock) ∧ u.d = x.t.d ∧ u.wid = x.t.wid ∧ u.pc = succPc x.t.pc))

/-! Tickets. -/

/-- R219, R220, R222–R229: a ticket load that passes its checks sends its request and leaves its destination pending; a redeem whose ticket is not
null, at a slice of a live die, sends its claim, and its thread waits for the answer; with a null ticket, or one of a slice of a fenced die, each
form traps at the core; `tqry` and `tdrop` send theirs. That the turn of a claim is an issue and leaves the pc as it is until the answer is the
model's choice (notes/assumptions/64.md). -/
def Obligations.TicketsIssue : Prop :=
  ∀ (gd : Guard) (f : Fields) (s : State) (x : Ctx),
    let claimed (os : List Opnd) (k : Word) (form : ClaimForm) (t : State) : Prop :=
      t.cls = .issued ∧ SameMemory s t ∧ t.thread x.g x.slot = some { x.t with waitAns := true } ∧
      t.net = s.net ++ [.claim k ⟨s.uid, x.t.tid, x.g, x.slot, x.t.colour, x.t.pc, form, syncRegs os⟩]
    (∀ (i : Fin 16) (pls : List Place), f.dst.reg = .d i → Ready gd s x [f.src1, f.src2] [f.dst] 1 →
      let r := x.take [f.src1, f.src2]
      let a := val r.1 0 + Fields.simm f
      let n := wbits (val r.1 1) 0 7
      let stride : Word := val r.1 1 >>> 32
      let addrs := tldAddrs a stride n (Fields.fetched f)
      1 ≤ n → n ≤ 64 → a.toNat % 64 = 0 → (f.ty = .dflt ∨ stride ≠ 0) → (∀ b ∈ a :: addrs, b.toNat < 2 ^ 55) →
      regionDetail .planar (s.region x.g x.t.colour x.t.key a) = 0 →
      x.placesIn .planar ⟨.read, false⟩ addrs = .ok pls →
      (∃ qs, x.placesIn .planar ⟨.read, false⟩ (sortAddrs addrs) = .ok qs) → tldSplit addrs pls n = none →
      ∃ t, exec (.tld gd f) s = .next t ∧ IssuesAs x t r.2.1 (loadOut (r.2.2.pendD i) 1 s.uid false)
        [.tld (requestOf x []) i (homeOf ((pls.map Place.addr).headD 0)) f.ty (f.qual == 1) n (Fields.fetched f) (pls.map Place.addr)
          x.t.launch x.t.team (s.det x.t)] s.dies s.watches) ∧
    (Executes gd s x →
      (srcWaits x [] [f.src1, f.src2] = [] →
        let a := val (x.take [f.src1, f.src2]).1 0 + Fields.simm f
        let k := val (x.take [f.src1, f.src2]).1 1
        a.toNat % 64 = 0 → x.c.atHome x.t = true → (∃ o, s.region x.g x.t.colour x.t.key a = .spad o) →
        (k ≠ 0 → (s.die (wbits k 16 3)).fenced = false →
          ∃ t, exec (.rdmSp gd f) s = .next t ∧ claimed [f.src1, f.src2] k (.sp (a.toNat % 2 ^ 48) x.t.key) t) ∧
        (k = 0 → exec (.rdmSp gd f) s = .next (x.trap kindTicket 1 0)) ∧
        (k ≠ 0 → (s.die (wbits k 16 3)).fenced = true → exec (.rdmSp gd f) s = .next (x.trap kindTicket 6 k))) ∧
      (srcWaits x [] [f.src1] = [] →
        let k := val (x.take [f.src1]).1 0
        (k ≠ 0 → (s.die (wbits k 16 3)).fenced = false →
          (∀ i : Fin 8, f.dst.reg = .v i → x.t.vowed[i] = 0 →
            ∃ t, exec (.rdmV gd f) s = .next t ∧ claimed [f.src1] k (.v i (Fields.bits f 0 7)) t) ∧
          (∃ t, exec (.rdmS gd f) s = .next t ∧ claimed [f.src1] k (.s (Fin.ofNat 4 (Fields.bits f 0 2))) t)) ∧
        (∀ i : Fin 16, f.dst.reg = .d i → x.t.dpend[i] = false → ∃ t, exec (.tqry gd f) s = .next t ∧
          IssuesAs x t (x.take [f.src1]).2.1
            { (x.take [f.src1]).2.2.pendD i with loads := (x.take [f.src1]).2.2.loads ++ [s.uid] }
            [.tqry (requestOf x []) i k] s.dies s.watches) ∧
        (nonretWait x = [] → ∃ t, exec (.tdrop gd f) s = .next t ∧
          IssuesAs x t (x.take [f.src1]).2.1
            { sentOut (x.take [f.src1]).2.2 1 s.uid with nonret := (x.take [f.src1]).2.2.nonret ++ [s.uid] }
            [.tdrop (requestOf x []) k] s.dies s.watches) ∧
        (k = 0 → exec (.rdmS gd f) s = .next (x.trap kindTicket 1 0) ∧
          ∀ i : Fin 8, f.dst.reg = .v i → x.t.vowed[i] = 0 → exec (.rdmV gd f) s = .next (x.trap kindTicket 1 0)) ∧
        (k ≠ 0 → (s.die (wbits k 16 3)).fenced = true → exec (.rdmS gd f) s = .next (x.trap kindTicket 6 k) ∧
          ∀ i : Fin 8, f.dst.reg = .v i → x.t.vowed[i] = 0 → exec (.rdmV gd f) s = .next (x.trap kindTicket 6 k))))

/-! Engine commands, copies and barriers. -/

/-- R115, R236, R239, R252: a command of the matrix engine on its team's core, with room in the queue, completes at issue, under a
resolved true guard or an unresolved one: its operands are read, its counter is one higher, and its record is queued last. One that
names a tile or slot beyond the team's, `cld.b` and `cldt.b` in a deterministic launch (R269), and a command away from the team's core
trap precisely, in this order. -/
def Obligations.CommandsQueue : Prop :=
  ∀ (i : Instr) (k : EngForm) (gd : Guard) (f : Fields) (s : State) (x : Ctx), engineForm i = some (k, gd, f) → ctxOf s = some x →
    (x.t.guardRes gd = false ∨ x.t.guardVal gd = true) → srcWaits x [] (k.srcs f) = [] → engDstWait x f.dst = [] →
    (x.c.atHome x.t = true → x.c.queue.length < 16) →
    let det := (k.op = 1 ∨ k.op = 3) ∧ s.det x.t = true
    let r := x.take (k.srcs f)
    let e := engCmd x k f gd r.1
    let u : Thread := { r.2.2 with w := r.2.2.w.set e.ctr.toFin (r.2.2.w[e.ctr.toFin] + 1) }
    (x.c.atHome x.t = true → beyondTiles x f = false → ¬ det → ∃ t, exec i s = .next t ∧
      IssuesAs x t { r.2.1 with queue := r.2.1.queue ++ [e] } (match e.vdst with | some j => u.pendV j 1 | none => u) []
        s.dies s.watches) ∧
    (beyondTiles x f = true → exec i s = .next (x.trap kindIllegal 4 0)) ∧
    (beyondTiles x f = false → det → exec i s = .next (x.trap kindDet 1 0)) ∧
    (beyondTiles x f = false → ¬ det → x.c.atHome x.t = false → exec i s = .next (x.trap kindAddress 4 0))

/-- R251, R264: `wlt` completes once its counter is below its bound and waits until then; `cres` and `cres.d` with no parked command
on the counter complete, and with parked ones resume or discard each, oldest first, those parked on another engine of the cluster among them
(notes/assumptions/81.md). -/
def Obligations.CountersComplete : Prop :=
  ∀ (gd : Guard) (f : Fields) (s : State) (x : Ctx) (i : Fin 8), Executes gd s x → x.c.atHome x.t = true → f.src1.reg = .w i →
    (x.t.w[i] < Fields.bits f 0 5 → ∃ t, exec (.wlt gd f) s = .next t ∧ IssuesAs x t x.c x.t [] s.dies s.watches) ∧
    (Fields.bits f 0 5 ≤ x.t.w[i] → exec (.wlt gd f) s = .next { s with cls := .mem }) ∧
    (let s1 := (x.finish x.c x.t).fetchParked x.g x.t.tid (BitVec.ofNat 3 i.val)
     let us := (s1.core x.g).parkedCmds x.t.tid (BitVec.ofNat 3 i.val)
     exec (.cres gd f) s = .next (us.foldl (fun s u => s.resumeCmd x.g u false) s1) ∧
     exec (.cresD gd f) s = .next (us.foldl (fun s u => s.resumeCmd x.g u true) s1))

/-- R270, R279, R280, R281, R284, R286: a copy started by `cgo` or a read of cp.go, and a stream bound by `sbind`, on their team's core, with
registers that keep the rules, a place in the engine and a barrier word with no uncorrectable error (R212), complete: the identifier is written to
the destination, and the copy joins the engine's queue; one that moves nothing, no distributor's and over no binding, completes at once with its
message instead. -/
def Obligations.CopiesStart : Prop :=
  ∀ (gd : Guard) (f : Fields) (s : State) (x : Ctx) (i : Fin 16), Executes gd s x → f.dst.reg = .d i → x.t.dpend[i] = false →
    x.c.atHome x.t = true → x.c.copies.length < 8 →
    let r := x.t.cp
    let p := r.plan
    let size := ((x.c.teamOf x.t.key).map Team.size).getD 0
    let id := transferId x.g x.slot x.c.seq
    barWaits x r (p.m == .deal) = false → (r.barEn = true → p.m ≠ .deal → BarSound s x.t.key r.barOff) →
    (p.bad r.kindOk false size = 0 → p.count false ≠ 0 →
      let c : Copy := ⟨id, x.t.tid, x.t.key, x.t.colour, x.t.wid, x.slot, x.t.pc, r, none, 0, none, p.count false, [], [], [], 0, .queued, none⟩
      (∃ t, exec (.cgo gd f) s = .next t ∧ t.cls = .issued ∧ SameMemory s t ∧ (t.core x.g).copies = x.c.copies ++ [c] ∧
        (t.core x.g).seq = x.c.seq + 1 ∧ t.thread x.g x.slot = some (issuedAs (x.t.putD i (id.setWidth 64)))) ∧
      (∃ t, exec (.getsCpGo gd f) s = .next t ∧ t.cls = .issued ∧ SameMemory s t ∧ (t.core x.g).copies = x.c.copies ++ [c] ∧
        (t.core x.g).seq = x.c.seq + 1 ∧ t.thread x.g x.slot = some (issuedAs (x.t.putD i (id.setWidth 64))))) ∧
    (p.bad r.kindOk false size = 0 → p.count false = 0 → p.m ≠ .deal →
      let c : Copy := ⟨id, x.t.tid, x.t.key, x.t.colour, x.t.wid, x.slot, x.t.pc, r, none, 0, none, 0, [], [], [], 0, .queued, none⟩
      let done (t : State) : Prop := t.cls = .issued ∧ SameMemory s t ∧ (t.core x.g).copies = x.c.copies ∧ (t.core x.g).seq = x.c.seq + 1 ∧
        t.thread x.g x.slot = some (issuedAs (x.t.putD i (id.setWidth 64))) ∧
        .inbox (some x.t.key) x.g ⟨copyWord 0x80 0 x.slot id, c.word1, 1, x.t.colour⟩ x.g (s.die (dieOf x.g)).k ∈ t.net
      (∃ t, exec (.cgo gd f) s = .next t ∧ done t) ∧ (∃ t, exec (.getsCpGo gd f) s = .next t ∧ done t)) ∧
    (∀ j : Fin 4, f.src1.reg = .s j → p.bad r.kindOk true size = 0 → p.count true = 0 → x.t.streams[j] = none → Named s ⟨x.g, x.slot⟩ x.t →
      let c : Copy :=
        ⟨id, x.t.tid, x.t.key, x.t.colour, x.t.wid, x.slot, x.t.pc, r, none, 0, some j.val, 0, [], [], [], 0, .queued, none⟩
      ∃ t, exec (.sbind gd f) s = .next t ∧ t.cls = .issued ∧ SameMemory s t ∧ (t.core x.g).copies = x.c.copies ∧
        t.thread x.g x.slot = some (issuedAs ({ x.t with streams := x.t.streams.set j none }.putD i (id.setWidth 64))) ∧
        .inbox (some x.t.key) x.g ⟨copyWord 0x81 0 x.slot id, c.word1, 1, x.t.colour⟩ x.g (s.die (dieOf x.g)).k ∈ t.net) ∧
    (∀ j : Fin 4, f.src1.reg = .s j → p.bad r.kindOk true size = 0 → p.count true ≠ 0 → p.total ≠ 0 →
      let c : Copy :=
        ⟨id, x.t.tid, x.t.key, x.t.colour, x.t.wid, x.slot, x.t.pc, r, none, 0, some j.val, p.count true, [], [], [], 0, .queued, none⟩
      Named s ⟨x.g, x.slot⟩ x.t → (∀ old, x.t.streams[j] = some old → old.ticket = true ∨ (old.src ≠ id.toNat ∧ ∀ e ∈ s.badSpad, e.2 = false)) →
      ∃ t, exec (.sbind gd f) s = .next t ∧ t.cls = .issued ∧ SameMemory s t ∧ c ∈ (t.core x.g).copies ∧
        (x.t.streams[j] = none → (t.core x.g).copies = x.c.copies ++ [c]) ∧
        t.thread x.g x.slot = some (issuedAs
          ({ x.t with streams := x.t.streams.set j (some ⟨false, id.toNat, [], p.total⟩) }.putD i (id.setWidth 64)))) ∧
    (p.bad r.kindOk false size ≠ 0 → exec (.cgo gd f) s = .next (x.trap kindCopy (p.bad r.kindOk false size) 0))

/-- R289, R291, R292, R323: barrier instructions on a word of the team's region complete: `binit` writes the initial word, `barv` counts
an arrival where one is pending, `bwait` goes on once the phase differs from the one given; `xreq` sends its request and leaves its
guard unresolved with its answer pending. -/
def Obligations.BarriersComplete : Prop :=
  ∀ (gd : Guard) (f : Fields) (s : State) (x : Ctx) (off : Nat), Executes gd s x →
    (srcWaits x [] [f.src1, f.src2] = [] →
      let r := x.take [f.src1, f.src2]
      let a := val r.1 0 + Fields.simm f
      let n := (val r.1 1).toNat % 2 ^ 20
      a.toNat % 16 = 0 → InScratchpad x a (List.range 16) off →
      (n ≠ 0 → ∃ t, exec (.binit gd f) s = .next t ∧
        IssuesAs x t (r.2.1.barPut off (n * 2 ^ 64 + n * 2 ^ 4)) r.2.2 [] s.dies s.watches) ∧
      (n = 0 → exec (.binit gd f) s = .next (x.trap kindAlign 2 a)) ∧
      (barPhase (x.c.barAt off) ≠ (val r.1 1).toNat % 16 → ∃ t, exec (.bwait gd f) s = .next t ∧
        IssuesAs x t r.2.1 { r.2.2 with hold := if acqBits f then r.2.2.hold ++ r.2.2.loads else r.2.2.hold } [] s.dies s.watches) ∧
      (barPhase (x.c.barAt off) = (val r.1 1).toNat % 16 → exec (.bwait gd f) s = .next { s with cls := .msg })) ∧
    (srcWaits x [] [f.src1] = [] →
      let r := x.take [f.src1]
      let a := val r.1 0 + Fields.simm f
      let o := x.orderPoint r.2.2 f
      (barvWait x f = [] → a.toNat % 16 = 0 → InScratchpad x a (List.range 16) off → barArr (x.c.barAt off) ≠ 0 →
        ∃ t, exec (.barv gd f) s = .next t ∧ IssuesAs x t (r.2.1.barPut off (barArrive (x.c.barAt off))) o.2 [] o.1.dies s.watches) ∧
      (∀ j : Fin 8, f.dst.reg = .p j → x.t.pans[j] = false → x.c.atHome x.t = true →
        ∃ t, exec (.xreq gd f) s = .next t ∧
          IssuesAs x t r.2.1 { r.2.2 with pres := r.2.2.pres.set j false, pans := r.2.2.pans.set j true }
            [.xreq (requestOf x []) (clusterOf x.g) (copOf x.g) j (val r.1 0).toNat (Fields.bits f 0 4) x.t.key] s.dies s.watches))

/-! Atomics, tasks and system instructions. -/

/-- R295–R301: an atomic or reduction beyond team scope that passes its checks completes: one message with its operands; a returning
one leaves its destination pending and its thread waiting for the answer, another counts as non-returning. That the request carries bit 0 of
tsk.ftrap as it is at issue is the model's choice (notes/assumptions/29.md). -/
def Obligations.AtomicsIssue : Prop :=
  ∀ (i : Instr) (op : AtomOp) (ret : Bool) (gd : Guard) (f : Fields) (s : State) (x : Ctx) (p : Place),
    atomForm i = some (op, ret, gd, f) → Ready gd s x (atomSrcs op f) (if ret then [f.dst] else []) 1 →
    (ret = false → nonretWait x = []) → sysRelWait x f = [] → Fields.bits f 34 2 ≠ 0 →
    let r := x.take (atomSrcs op f)
    let a := val r.1 0 + Fields.simm f
    let n := atomBytes op f.ty
    let o := x.orderPoint r.2.2 f
    (s.det x.t = false ∨ op ≠ .add ∨ f.ty ≠ .f32) → a.toNat % n = 0 →
    Reaches x (scopeAccepts (Fields.bits f 34 2)) ⟨.write, Fields.bits f 34 2 == 3⟩ a [a] [p] → s.slotsOk p.addr = true →
    ∃ t m, exec i s = .next t ∧ m.req = requestOf x (o.1.writeClock x.g o.2) ∧ m.op = op ∧ m.ty = f.ty ∧ m.pa = p.addr ∧ m.va = a ∧
      m.v = val r.1 1 ∧ m.c = val r.1 2 ∧ m.parts = [] ∧
      (∀ j : Fin 16, ret = true → f.dst.reg = .d j → m.dst = some j ∧
        IssuesAs x t r.2.1 { (sentOut o.2 1 s.uid).pendD j with waitAns := true } [.atomic m] o.1.dies s.watches) ∧
      (ret = false → m.dst = none ∧
        IssuesAs x t r.2.1 { sentOut o.2 1 s.uid with nonret := o.2.nonret ++ [s.uid] } [.atomic m] o.1.dies s.watches)

/-- R296–R298: at team scope an integer atomic or reduction acts on the scratchpad at once: the location takes the new value, and a
returning one writes the old value to its destination. -/
def Obligations.TeamAtomicsComplete : Prop :=
  ∀ (i : Instr) (op : AtomOp) (ret : Bool) (gd : Guard) (f : Fields) (s s1 : State) (x : Ctx) (off : Nat),
    atomForm i = some (op, ret, gd, f) → op ≠ .x → f.ty ≠ .f32 → Ready gd s x (atomSrcs op f) (if ret then [f.dst] else []) 0 →
    (ret = false → nonretWait x = []) → sysRelWait x f = [] → Fields.bits f 34 2 = 0 →
    let r := x.take (atomSrcs op f)
    let a := val r.1 0 + Fields.simm f
    let n := accessBytes f.ty
    let old := x.c.spadBytes off n
    let y := atomValue op f.ty x.t.origin (extendTo.leNum old) (val r.1 1).toNat (val r.1 2).toNat
    a.toNat % n = 0 → InScratchpad x a (List.range n) off → s.storeStrike x.t (addrRange a.toNat n) = .inl s1 →
    atomWrites op f.ty (extendTo.leNum old) (val r.1 2).toNat = true →
    ∃ t, exec i s = .next t ∧ t.cls = .issued ∧ SameMemory s t ∧
      (t.core x.g).spadBytes off n = wordBytes n (BitVec.ofNat 64 y.1) ∧
      (∀ j : Fin 16, ret = true → f.dst.reg = .d j → ∃ u, t.thread x.g x.slot = some u ∧ u.d[j] = extendTo f.ty old ∧ u.dfull[j] = true) ∧
      (ret = false → ∃ u, t.thread x.g x.slot = some u ∧ u.d = x.t.d)

/-- R298, R303: the values of atomics on 64-bit integers, the old value first. -/
def Obligations.AtomicValues64 : Prop :=
  ∀ (o v c : BitVec 64) (w : BitVec 16),
    (∀ ty, ty = .dflt ∨ ty = .s64 ∨ ty = .z64 →
      atomValue .add ty w o.toNat v.toNat c.toNat = ((o + v).toNat, 0) ∧
      atomValue .and ty w o.toNat v.toNat c.toNat = ((o &&& v).toNat, 0) ∧
      atomValue .or ty w o.toNat v.toNat c.toNat = ((o ||| v).toNat, 0) ∧
      atomValue .xor ty w o.toNat v.toNat c.toNat = ((o ^^^ v).toNat, 0) ∧
      atomValue .swap ty w o.toNat v.toNat c.toNat = (v.toNat, 0) ∧
      atomValue .cas ty w o.toNat v.toNat c.toNat = ((if o = c then v else o).toNat, 0)) ∧
    atomValue .min .s64 w o.toNat v.toNat c.toNat = ((if v.slt o then v else o).toNat, 0) ∧
    atomValue .max .s64 w o.toNat v.toNat c.toNat = ((if o.slt v then v else o).toNat, 0) ∧
    atomValue .min .z64 w o.toNat v.toNat c.toNat = ((if v < o then v else o).toNat, 0) ∧
    atomValue .max .z64 w o.toNat v.toNat c.toNat = ((if o < v then v else o).toNat, 0)

/-- R307, R330, R334, R336, R343, R350: `inbx` takes the head entry of its colour, with a release point while its thread has writes not yet
performed (the model's way to keep R317 and R319, notes/assumptions/107.md); `launch` sends its header's address as a release point; `texit` with
nothing outstanding frees its slot; `phase` arrives, and goes on with the new phase number once the phase has advanced; `cpin` and `cunpin` set and
clear the pin bit of a team whose launch lets it castle. -/
def Obligations.TaskInstructionsComplete : Prop :=
  ∀ (gd : Guard) (f : Fields) (s : State) (x : Ctx), Executes gd s x →
    (∀ (i : Fin 16) (e : InboxEntry) (rest : List InboxEntry), f.dst.reg = .d i → x.t.dpend[i] = false → x.c.atHome x.t = true →
      takeInbox x.t.colour x.c.inbox = some (e, rest) → (x.t.unperformed = [] ∨ s.relRoom (dieOf x.g) = true) →
      ∃ t, exec (.inbx gd f) s = .next t ∧ IssuesAs x t { x.c with inbox := rest, ibRel := x.inbxPoint.2 }
        { x.t.putD i e.w0 with ibWord := e.w1, ibSrc := e.src } [] x.inbxPoint.1.dies s.watches) ∧
    (∀ i : Fin 16, f.dst.reg = .d i → x.t.dpend[i] = false → srcWaits x [] [f.src1] = [] → s.relRoom (dieOf x.g) = true →
      let r := x.take [f.src1]
      let o := s.releasePoint (dieOf x.g) r.2.2.outst
      let u : Thread := { r.2.2 with release := o.2 }
      ∃ t, exec (.launch gd f) s = .next t ∧ IssuesAs x t r.2.1 (u.pendD i)
        [.launchReq (requestOf x (o.1.writeClock x.g u)) i (val r.1 0) (((s.launch? x.t.launch).map Launch.prio).getD 0)] o.1.dies s.watches) ∧
    (drainWait x = [] → ∃ t, exec (.texit gd f) s = .next t ∧ t.cls = .issued ∧ SameMemory s t ∧ t.thread x.g x.slot = none) ∧
    (∀ (l : Launch), s.launch? x.t.launch = some l →
      (∀ (q : BitVec 32) (i : Fin 16), x.t.arrived = some q → l.phase ≠ q → f.fmt.getLsbD 0 = true → f.dst.reg = .d i →
        x.t.dpend[i] = false → ∃ t, exec (.phase gd f) s = .next t ∧
          IssuesAs x t x.c ({ x.t with arrived := none }.putD i (l.phase.setWidth 64)) [] s.dies s.watches) ∧
      (∀ (q : BitVec 32), x.t.arrived = some q → l.phase ≠ q → f.fmt.getLsbD 0 = false → ∃ t, exec (.phase gd f) s = .next t ∧
          IssuesAs x t x.c { x.t with arrived := none } [] s.dies s.watches) ∧
      (x.t.arrived = none → f.fmt.getLsbD 0 = false → drainWait x = [] → ∃ t, exec (.phase gd f) s = .next t ∧ t.cls = .msg ∧
        t.thread x.g x.slot = some { x.t with arrived := some l.phase }) ∧
      (l.castl = true →
        let pinned (b : Bool) : Core :=
          { x.c with teams := x.c.teams.map fun tm => if tm.key = x.t.key then { tm with pin := b } else tm }
        (∃ t, exec (.cpin gd f) s = .next t ∧ IssuesAs x t (pinned true) x.t [] s.dies s.watches) ∧
        (∃ t, exec (.cunpin gd f) s = .next t ∧ IssuesAs x t (pinned false) x.t [] s.dies s.watches)) ∧
      (l.castl = false →
        (∃ t, exec (.cpin gd f) s = .next t ∧ IssuesAs x t x.c x.t [] s.dies s.watches) ∧
        (∃ t, exec (.cunpin gd f) s = .next t ∧ IssuesAs x t x.c x.t [] s.dies s.watches)))

/-- R355, R356, R359, R391: `trap` and `brk` take their trap, which a handler returns from at the successor; `trc` completes; `gets`
writes the value of a register the level may read; `sets` takes its source and writes the register. -/
def Obligations.SystemInstructionsComplete : Prop :=
  ∀ (gd : Guard) (f : Fields) (s : State) (x : Ctx), Executes gd s x →
    (exec (.trap gd f) s = .next (s.raise x.g x.slot x.t (preciseReport kindSoft ((Fields.imm f).toNat % 256) (succPc x.t.pc) 0))) ∧
    (exec (.brk gd f) s = .next (s.raise x.g x.slot x.t (preciseReport kindBreak ((Fields.imm f).toNat % 256) (succPc x.t.pc) 0))) ∧
    (srcWaits x [] [f.src1] = [] → ∃ t, exec (.trc gd f) s = .next t ∧ t.cls = .issued ∧ SameMemory s t ∧
      t.thread x.g x.slot = some (issuedAs (x.take [f.src1]).2.2)) ∧
    (∀ i : Fin 16, f.dst.reg = .d i → x.t.dpend[i] = false → sysNumber (sysNum f) = true →
      (x.t.sup = true ∨ sysTaskNone (sysNum f) = false) → ∃ t, exec (.gets gd f) s = .next t ∧
        IssuesAs x t x.c (x.t.putD i (s.sysRead x.g x.slot x.t (sysNum f))) [] s.dies s.watches) ∧
    (srcWaits x [] [f.src1] = [] → sysNumber (sysNum f) = true →
      (x.t.sup = true ∨ (sysTaskNone (sysNum f) = false ∧ sysTaskRo (sysNum f) = false)) →
      exec (.sets gd f) s = .next ((x.finish (x.take [f.src1]).2.1 (x.take [f.src1]).2.2).sysWrite x.g x.slot x.t.colour (sysNum f)
        (val (x.take [f.src1]).1 0)))

/-- R6, R270, R271, R272, R278, R354, R355, R359, R407: what tsk.ftrap, tr.vec, tr.epc, tr.save and the copy registers cp.src to dist.pat of a thread
read as after they are written: reserved bits 0, and the fields of the flags word that a register does not hold as they were. -/
def Obligations.ThreadRegistersReadBack : Prop :=
  ∀ (s : State) (g slot : Nat) (t : Thread) (v : Word), s.thread g slot = some t →
    let reads (n : Nat) (w : Word) : Prop := ∃ u, (s.sysPutThread g slot t n v).thread g slot = some u ∧
      (s.sysPutThread g slot t n v).sysRead g slot u n = w
    reads 0x000 (v &&& 1) ∧ reads 0x010 (v &&& 0xFFFFFFFFFFFFFFC0) ∧ reads 0x011 v ∧ reads 0x016 v ∧
    reads 0x100 v ∧ reads 0x101 v ∧ reads 0x102 v ∧ reads 0x103 (v &&& 0x7FFFFFFFFFFFFFFF) ∧
    reads 0x104 (v &&& 0x7FFFFFFFFFFFFFFF) ∧ reads 0x105 (v &&& 0xFFFFFFFF0000003F) ∧ reads 0x106 v ∧ reads 0x107 (v &&& 0x7FFF3) ∧
    reads 0x108 (v &&& 0x3FFFFFFFFFFFFFF) ∧
    (∀ u, (s.sysPutThread g slot t 0x010 v).thread g slot = some u → u.evt = t.evt ∧ u.inh = t.inh ∧ u.sup = t.sup) ∧
    (∀ u, (s.sysPutThread g slot t 0x000 v).thread g slot = some u → u.vec = t.vec ∧ u.inh = t.inh ∧ u.sup = t.sup)

/-! Traps. -/

/-- R54, R364: a precise trap outside a handler parks the thread with its report; its registers, the other threads and memory are
unchanged, and the core's collection window is open or a winner's handler runs. -/
def Obligations.PreciseTrapParks : Prop :=
  ∀ (s : State) (x : Ctx) (kind : BitVec 8) (detail : Nat) (addr : Word), ctxOf s = some x → x.t.inh = false →
    let t := x.trap kind detail addr
    t.cls = .vacant ∧ SameMemory s t ∧
    t.thread x.g x.slot = some { x.t with park := .precise (preciseReport kind detail x.t.pc addr), retry := false, kv := [] } ∧
    (∀ k, k ≠ x.slot → t.thread x.g k = s.thread x.g k) ∧ (∀ h, h ≠ x.g → t.core h = s.core h) ∧
    ((t.core x.g).window.isSome = true ∨ (t.core x.g).winner = true)

/-- R359, R360: delivery of a trap that a task's handler takes: the report registers hold the pc to resume at, the cause, the address,
the unit and the command's pc; the thread goes to its vector by a checked transfer with `inh` set; its d, v and guard registers, its
level and its trap enable are as they were. A machine check, a trap within a handler and a trap of a thread without a vector go to the
arbiter (R362): the thread stops with the report in its hand-off record, and a trap within a handler leaves the report registers. -/
def Obligations.TrapDelivered : Prop :=
  (∀ (s : State) (g slot : Nat) (t : Thread) (r : Report) (others : Nat), slot < 16 → r.kind ≠ kindCheck → t.inh = false → t.vec ≠ 0 →
    r.clr = none → ∃ u, (s.deliver g slot t r others).thread g slot = some u ∧
      u.pc = t.vec ∧ u.entry = some 0 ∧ u.inh = true ∧ u.vec = t.vec ∧ u.evt = t.evt ∧ u.sup = t.sup ∧
      u.tr.epc = r.pc ∧ u.tr.cause = causeWord r t.ovf others ∧ u.tr.addr = r.addr ∧ u.tr.eng = r.eng ∧ u.tr.info = r.cpc ∧
      u.tr.save = t.tr.save ∧ u.d = t.d ∧ u.dfull = t.dfull ∧ u.v = t.v ∧ u.pval = t.pval ∧ u.park = .none ∧ u.ovf = false ∧
      SameMemory s (s.deliver g slot t r others)) ∧
  (∀ (s : State) (g slot : Nat) (t : Thread) (r : Report) (others : Nat), slot < 16 → t.fromWin = false → t.winning = false →
    (r.kind = kindCheck ∨ t.inh = true ∨ t.vec = 0) →
    ∃ u, (s.deliver g slot t r others).thread g slot = some u ∧ u.handed = some ⟨r, r.pc⟩ ∧ u.pc = t.pc ∧ u.d = t.d ∧
      (t.inh = true → u.tr = t.tr))

/-- R361, R364: `rti` within a handler returns to tr.epc by an unchecked transfer with `inh` clear, the other bits of the flags as they
were; outside a handler it raises the illegal-instruction trap with detail 3. -/
def Obligations.ReturnFromTrap : Prop :=
  ∀ (gd : Guard) (f : Fields) (s : State) (x : Ctx), Executes gd s x →
    (x.t.inh = true → x.t.park = .none → epcBad x.t.tr.epc = false → ∃ t u, exec (.rti gd f) s = .next t ∧ t.cls = .issued ∧ SameMemory s t ∧
      t.thread x.g x.slot = some u ∧ u.pc = x.t.tr.epc ∧ u.entry = none ∧ u.inh = false ∧ u.vec = x.t.vec ∧ u.evt = x.t.evt ∧
      u.sup = x.t.sup ∧ u.d = x.t.d ∧ u.v = x.t.v ∧ u.tr = x.t.tr) ∧
    (x.t.inh = false → exec (.rti gd f) s = .next (x.trap kindIllegal 3 0))

/-! Events. Each says where a step of a unit happens and what it leaves. -/

/-- R36, R193, R200, R204, R211, R312, R323: the steps that finish memory accesses. A walk caches its leaf or keeps its fault; a line read whole
with good parity is held, one with bad parity is a machine check of cause 1; a reply reaches its thread; a read replies the bytes of its home and
leaves memory; a write that the frontier covers is in memory, and its thread no longer waits for it; one that it does not cover, or that an earlier
access of its own source to its bytes must go before, is held, and written once neither holds; a frontier entry reaches every die; a block is
expanded. A walk and a line are read where no fenced die is in the way (R337). An answer reaches its thread in the order of its home and core, its
way back open. Accesses are of bytes that their slice does not refuse (notes/assumptions/33.md). -/
def Obligations.MemoryEventsComplete : Prop :=
  (∀ (s : State) (g colour vpage : Nat), (⟨colour, vpage, none⟩ : Walk) ∈ (s.core g).walks →
    s.walkOpen colour (dieOf g) (vpage * 2 ^ 16) = true → ∃ t, exec (.tableWalkComplete g colour vpage) s = .next t ∧ SameMemory s t ∧
      match s.walk colour (dieOf g) (vpage * 2 ^ 16) with
      | .ok (big, e) => leafEntry colour (vpage * 2 ^ 16) big e ∈ (t.core g).tlb
      | .error d => (⟨colour, vpage, some (BitVec.ofNat 8 d)⟩ : Walk) ∈ (t.core g).walks ∧ (t.core g).tlb = (s.core g).tlb) ∧
  (∀ (s : State) (g colour : Nat) (line : Word) (e : Tlb) (pa : Nat), (s.core g).fetches.contains (colour, line.toNat) = true →
    (s.core g).tlbFind colour line.toNat = some e → s.leafAccess (dieOf g) colour Use.fetch e.big e.leaf.toNat line.toNat = .ok (.mem pa) →
    s.twoWay (dieOf g) pa = true → s.bad pa 64 = false → ∃ t, exec (.lineFetchReply g colour line) s = .next t ∧ SameMemory s t ∧
      let bits := BitVec.ofNat 512 (leBytes (memGets s.mem pa 64))
      if parityOk bits then (colour, line.toNat, bits) ∈ (t.core g).lines ∧ (t.core g).checked = (s.core g).checked
      else (t.core g).checked = true ∧ (t.core g).stop = true ∧ (t.core g).mcCause = 1 ∧ (t.core g).lines = (s.core g).lines) ∧
  (∀ (s : State) (k id : Nat) (dst : Dest) (data : List Byte) (clock : List Nat) (own : Label) (r : SlotRef) (th : Thread), Named s r th →
    s.net[k]? = some (.reply th.tid id dst data clock own) → s.arrived k = true → s.wayBack own = true →
    ∃ t, exec (.loadReply k) s = .next t ∧ SameMemory s t ∧
      t.thread r.g r.slot = some ((th.receive dst data).replied id) ∧ t.net = s.net.eraseIdx k) ∧
  (∀ (s : State) (k : Nat) (r : Req) (segs : List (Nat × Nat)) (dst : Dest) (va : Word),
    let pa := (segs.headD (0, 0)).1
    s.net[k]? = some (.read r segs dst va) → s.arrived k = true → s.expanded pa = true →
    s.ownWaits (homeKeeper pa) r segs = false → isPeer pa = false → (∀ e ∈ segs, isPeer e.1 = false) → s.refuses r.colour segs = none →
    r.fromPeer = false → ∃ t, exec (.readPerform k) s = .next t ∧ SameMemory s t ∧
      .reply r.tid r.id dst (segs.flatMap fun e => memGets s.mem e.1 e.2) (s.die (homeDie pa)).k (r.label (homeOf pa)) ∈ t.net) ∧
  (∀ (s : State) (k : Nat) (r : Req) (bytes : List (Nat × Byte)) (va : Word),
    let pa := (bytes.headD (0, 0)).1
    s.net[k]? = some (.write r bytes va) → s.arrived k = true → s.slotsOk pa = true → isPeer pa = false →
    (s.covers (homeDie pa) r.clock = true → s.ownWaits (homeKeeper pa) r (bytes.map fun b => (b.1, 1)) = false →
      s.refuses r.colour (bytes.map fun b => (b.1, 1)) = none → r.fromPeer = false → ∃ t, exec (.writePerform k) s = .next t ∧ t.mem = memPuts s.mem bytes ∧
        ∀ (q : SlotRef) (th : Thread), Named s q th → th.tid = r.tid →
          t.thread q.g q.slot = some { th with outst := th.outst.filter fun i => i != r.id }) ∧
    (s.covers (homeDie pa) r.clock = false ∨ s.ownWaits (homeKeeper pa) r (bytes.map fun b => (b.1, 1)) = true →
      ∃ t, exec (.writePerform k) s = .next t ∧ SameMemory s t ∧
        (t.core (homeKeeper pa)).held = (s.core (homeKeeper pa)).held ++ [.write r bytes va])) ∧
  (∀ (s : State) (g k : Nat) (r : Req) (bytes : List (Nat × Byte)) (va : Word),
    let pa := (bytes.headD (0, 0)).1
    (s.core g).held[k]? = some (.write r bytes va) → s.covers (homeDie pa) r.clock = true → s.slotsOk pa = true → isPeer pa = false →
    (s.setCore g { s.core g with held := (s.core g).held.take k }).ownWaits g r (bytes.map fun b => (b.1, 1)) = false →
    s.refuses r.colour (bytes.map fun b => (b.1, 1)) = none →
    ∃ t, exec (.heldWriteRelease g k) s = .next t ∧ t.mem = memPuts s.mem bytes ∧ (t.core g).held = (s.core g).held.eraseIdx k) ∧
  (∀ (s : State) (die h : Nat), die < 8 → h < 8 → (∀ d, d < 8 → (s.die d).front.length = 8) →
    (s.die h).front.getD die 0 < (s.die die).front.getD die 0 →
    ∃ t, exec (.frontierUpdate die) s = .next t ∧ SameMemory s t ∧
      ∀ d, d < 8 → (t.die d).front.getD die 0 = max ((s.die d).front.getD die 0) ((s.die die).front.getD die 0)) ∧
  (∀ (s : State) (clu colour blk : Nat), clu < 128 → blk < 2 ^ 15 →
    (s.cluster clu).expander.contains (colour * 2 ^ 15 + blk) = false →
    ∃ t, exec (.clusterBlockExpand clu colour blk) s = .next t ∧ SameMemory s t ∧
      (t.cluster clu).expander.head? = some (colour * 2 ^ 15 + blk))

/-- R182, R207, R209, R298–R305: the steps of updates at their home. A planar update and an atomic read and write their bytes in one
step and answer every issuer; an exact sum is added to exactly; a KV step answers its thread; a KV operation takes one block after
another; a contribution meets a partner at a gateway and merges, is held there for one, or passes where the buffer is full and holds none that
must go before it; the answers reach their threads. -/
def Obligations.UpdateEventsComplete : Prop :=
  (∀ (s : State) (k : Nat) (p : Planar),
    let pa := p.addrs.headD 0
    let segs := p.addrs.map fun a => (a, 32)
    s.net[k]? = some (.planar p) → s.arrived k = true → s.covers (homeDie pa) p.req.clock = true →
    s.ownWaits (homeKeeper pa) p.req segs = false → s.refuses p.req.colour segs = none → ∃ t, exec (.pupdPerform k) s = .next t ∧
      t.mem = memPuts s.mem ((List.range 32).flatMap fun i => (planarElem s p i).1) ∧
      ∃ clock, .redAck p.req.tid p.req.id clock (p.req.label (homeOf pa)) ∈ t.net) ∧
  (∀ (s : State) (k : Nat) (r : Req) (sq b : Nat) (write : Bool) (va : Word),
    let pa := s.kvHome r.src r.colour sq b
    let y := (((s.takeMsg k).hearReq pa r).hearAt r.tid (s.die (homeDie pa)).k).kvStep r.src r.colour sq b write
    s.net[k]? = some (.kv r sq b write va) → s.arrived k = true →
    s.kvReady k r sq b (s.kvWords r.src r.colour sq b write).1 (s.kvCopied r.src r.colour sq b write) = true →
    (∀ bad at_, y.2 ≠ .check bad at_) → s.wayBack (r.label (homeOf pa)) = true →
    ∃ t, exec (.kvStep k) s = .next t ∧ t.mem = y.1.mem ∧ ∀ (q : SlotRef) (th : Thread), Named y.1 q th → th.tid = r.tid →
      t.thread q.g q.slot = some (th.kvAnswered sq b write y.2)) ∧
  (∀ (s s1 : State) (k : Nat) (r : Req) (fork : Bool) (sq tq b left : Nat),
    let ws := s.kvStepWords r.src r.colour fork sq tq b
    let s0 := (s.takeMsg k).correct (s.kvPlaces r.src r.colour ws)
    s.net[k]? = some (.kvBlocks r fork sq tq b left) → s.arrived k = true → 
    s.kvReady k r sq b (ws ++ s.kvStepPush r.src r.colour fork sq tq b) (s.kvStepBlocks r.src r.colour fork sq tq b) = true →
    s0.kvStepForeign r.src r.colour fork sq tq b = false → s0.kvStepBad r.src r.colour fork sq tq b = none →
    (if fork then s0.kvForkStep r.src r.colour sq tq b else some (s0.kvFreeStep r.src r.colour sq b)) = some s1 →
    ∃ t, exec (.kvBlockStep k) s = .next t ∧ t.mem = s1.mem ∧
      (left ≤ 1 → ∃ clock own, .redAck r.tid r.id clock own ∈ t.net) ∧
      (1 < left → .kvBlocks r fork sq tq (b + 1) (left - 1) ∈ t.net)) ∧
  (∀ (s : State) (k : Nat) (a : Atomic),
    let n := atomBytes a.op a.ty
    let old := s.memNum a.pa n
    let w := (a.result s.free old).1
    s.net[k]? = some (.atomic a) → s.arrived k = true → s.slotsOk a.pa = true → isPeer a.pa = false →
    (∀ r ∈ a.issuers, s.covers (homeDie a.pa) r.clock = true ∧ s.ownWaits (homeKeeper a.pa) r [(a.pa, n)] = false) →
    s.refuses a.req.colour [(a.pa, n)] = none → a.cell = false → (∀ r ∈ a.issuers, r.fromPeer = false) → ∃ t, exec (.atomicPerform k) s = .next t ∧
      (∀ i, a.dst = some i → ∃ clock, .amoReply a.req.tid a.req.id i
        (extendTo a.ty ((List.range n).map fun j => BitVec.ofNat 8 (old / 256 ^ j))) clock (a.req.label (homeOf a.pa)) ∈ t.net) ∧
      (a.dst = none → ∀ r ∈ a.issuers, ∃ clock, .redAck r.tid r.id clock (r.label (homeOf a.pa)) ∈ t.net) ∧
      t.mem = (if a.op = .x ∨ atomWrites a.op a.ty old a.c.toNat = true
        then memPuts s.mem (enumFrom a.pa ((List.range n).map fun i => BitVec.ofNat 8 (w / 256 ^ i))) else s.mem) ∧
      (a.parts = [] → a.op ≠ .x → w = (atomValue a.op a.ty (a.req.wid.setWidth 16) old a.v.toNat a.c.toNat).1) ∧
      (a.parts = [] → a.op = .x →
        w = sumWord s.free (exactAdd (a.req.wid.setWidth 16) (sumOf old) (sumContrib (a.v.setWidth 32))).1)) ∧
  (∀ (s : State) (k id : Nat) (dst : Fin 16) (v : Word) (clock : List Nat) (own : Label) (r : SlotRef) (th : Thread), Named s r th →
    s.net[k]? = some (.amoReply th.tid id dst v clock own) → s.arrived k = true → s.wayBack own = true →
    ∃ t, exec (.amoReply k) s = .next t ∧ SameMemory s t ∧
      ∃ u, t.thread r.g r.slot = some u ∧ u.d[dst] = v ∧ u.dpend[dst] = false ∧ u.waitAns = false) ∧
  (∀ (s : State) (k id : Nat) (clock : List Nat) (own : Label) (r : SlotRef) (th : Thread), Named s r th →
    s.net[k]? = some (.redAck th.tid id clock own) → s.arrived k = true → s.wayBack own = true → ∃ t, exec (.redAck k) s = .next t ∧ SameMemory s t ∧
      t.thread r.g r.slot = some { th with nonret := th.nonret.filter fun i => i != id }) ∧
  (∀ (s : State) (k die across : Nat) (b : Atomic),
    let gate := (s.die die).gate
    s.net[k]? = some (.atomic b) → b.comb = true → b.gateway = some (die, across) →
    (∀ m ∈ s.net.take k, ∀ g ∈ b.sources, m.from_ g = true → ∀ r, s.routeOf m = some r → r.2.1 ≠ homeOf b.pa) →
    (∀ e ∈ s.dies, ∀ h ∈ e.2.gate, (e.1 ≠ die ∨ h.1 ≠ across) → h.2.sameWay b = false) →
    ((gate.filter fun h => h.1 == across).length < 256 → ∃ t, exec (.gatewayMerge k die) s = .next t ∧ SameMemory s t ∧
      (t.die die).gate = (mergeInto b across gate).getD (gate ++ [(across, b)]) ∧ t.net = s.net.eraseIdx k) ∧
    (256 ≤ (gate.filter fun h => h.1 == across).length → (∀ h ∈ gate, h.1 = across → h.2.sameWay b = false) →
      ∃ t, exec (.gatewayMerge k die) s = .next t ∧ SameMemory s t ∧
        (t.die die).gate = gate ∧ .atomic { b with passed := b.passed ++ [die] } ∈ t.net)) ∧
  (∀ (s : State) (die i across : Nat) (a : Atomic), (s.die die).gate[i]? = some (across, a) →
    (∀ h ∈ (s.die die).gate.take i, h.2.sameWay a = false) →
    ∃ t, exec (.mergeHoldExpiry die i) s = .next t ∧ SameMemory s t ∧ (t.die die).gate = (s.die die).gate.eraseIdx i ∧
      .atomic { a with passed := a.passed ++ [die] } ∈ t.net)

/-- R110, R121–R125, R202, R306, R308: what arrives between cores. A word joins its neighbour's link in order; a thread enters the vacant slot of
its new core with its d registers; a member's arrival is noted by its leader; a forwarded line joins the follower's; a message joins the inbox of
its team's core, a cell's notice once no access before its contributions is still to be performed (the model's way to keep R318,
notes/assumptions/108.md), and one for a core outside the partition is counted. -/
def Obligations.ArrivalsComplete : Prop :=
  (∀ (s : State) (k launch lcore core : Nat) (dir : Fin 4) (w : Word) (clock : List Nat),
    s.net[k]? = some (.nword launch lcore core dir w clock) →
    (∀ j, j < k → ∀ w' c', s.net[j]? ≠ some (.nword launch lcore core dir w' c')) →
    s.reaches (((s.launch? launch).map fun l => l.linkSource lcore core dir.val).getD core) core = true →
    ∃ t, exec (.nWordArrival k) s = .next t ∧ SameMemory s t ∧
      (t.core core).nin[dir] = (s.core core).nin[dir] ++ [(launch, lcore, w)]) ∧
  (∀ (s : State) (k source target cyc : Nat) (th : Thread) (clock : List Nat),
    s.net[k]? = some (.context th source target cyc clock) → (s.core target).arrivals.length < 16 → s.reaches source target = true →
    (∀ j, j < k → ∀ u' cyc' clock', s.net[j]? ≠ some (.context u' source target cyc' clock')) →
    ∃ t, exec (.migrArrival k) s = .next t ∧ SameMemory s t ∧ t.net = s.net.eraseIdx k ∧
      ∀ i, (s.core target).stop = false → (s.core target).arrivals = [] → (s.core target).vacant = some i →
        t.thread target i = some (th.arriveAs s.free (dieOf source != dieOf target)) ∧
        ∀ u, t.thread target i = some u → u.d = th.d ∧ u.dfull = th.dfull ∧ u.pc = th.pc ∧ u.tid = th.tid ∧ u.wid = th.wid) ∧
  (∀ (s : State) (k follower : Nat) (lab : Word) (own : Label) (r : SlotRef) (th : Thread) (ms : List GangMember) (rj last next : Option Word),
    Named s r th → th.gang = .leader ms rj last next → rj = none ∨ rj = some lab →
    s.net[k]? = some (.rejoin th.tid follower lab own) → s.waitsAt th.tid follower lab = true → ∃ t, exec (.rejoinArrival k) s = .next t ∧ SameMemory s t ∧
      t.thread r.g r.slot = some { th with
        gang := .leader (ms.map fun m => if m.tid = follower then { m with arrived := some lab } else m) rj last next }) ∧
  (∀ (s : State) (k leader : Nat) (l : FwdLine) (own : Label) (r : SlotRef) (th : Thread) (inl : Bool) (ls : List FwdLine)
    (last : Option (Word × Bool)) (rj : Option Word), Named s r th → th.gang = .follower leader true inl ls last rj →
    s.net[k]? = some (.fwdLine leader th.tid l own) → (∀ j, j < k → ∀ x y own', s.net[j]? ≠ some (.fwdLine x th.tid y own')) →
    ∃ t, exec (.forwardedLineArrival k) s = .next t ∧ SameMemory s t ∧
      t.thread r.g r.slot = some { th with gang := .follower leader true inl (ls ++ [l]) last rj }) ∧
  (∀ (s : State) (k core src : Nat) (team : Option TeamKey) (e : InboxEntry) (clock : List Nat),
    let g := ((team.bind s.findTeam).map Prod.fst).getD core
    s.net[k]? = some (.inbox team core e src clock) →
    (team.isSome = true ∨ s.clusterOk e.colour (clusterOf core) = true → s.resident e.colour = true → s.reaches src g = true →
      team.bind s.savedHome = none → (team.isSome = true ∨ s.noticeOwed e = false) →
      ∃ t, exec (.inboxMessageArrival k) s = .next t ∧ SameMemory s t ∧ (t.core g).inbox = (s.core g).inbox ++ [e]) ∧
    (team = none → s.clusterOk e.colour (clusterOf core) = false →
      ∃ t, exec (.inboxMessageArrival k) s = .next t ∧ t.cores = s.cores ∧
        (t.die (dieOf core)).notices = (s.die (dieOf core)).notices + 1))

/-- R280–R284, R292, R293: copies and transforms. A coprocessor answers a request with a guard, false when both its places are taken,
true when it takes the request; an engine starts the first queued copy; a sector is read in one step, kept by
the copy, and written and counted as landed in a later one, which is the model's reading (R311; notes/assumptions/58.md); a copy parks at a fault
with a report; a finished one leaves its engine with its message (R370: a machine check has stopped the engine); `cp.res` resumes or
discards a parked one. -/
def Obligations.CopyEventsComplete : Prop :=
  (∀ (s : State) (k clu i off op : Nat) (r : Req) (p : Fin 8) (key : TeamKey) (q : SlotRef) (th : Thread),
    let cop := (s.cluster clu).cop i
    s.net[k]? = some (.xreq r clu i p off op key) → i < 2 → Named s q th → th.tid = r.tid →
    (cop.active.isSome = true → cop.waiting.isSome = true →
      ∃ t, exec (.xreqAnswer k) s = .next t ∧ t.thread q.g q.slot = some (th.answered p false) ∧ (t.cluster clu).cop i = cop) ∧
    (∀ g tm c, (cop.active.isSome = false ∨ cop.waiting.isSome = false) → s.findTeam key = some (g, tm) →
      s.descriptorBad g tm.base off tm.size = false →
      descCopy r key off op tm.size ((s.core g).descriptor (tm.base + off)) = (c, 0) → c.regs.barEn = false →
      ∃ t, exec (.xreqAnswer k) s = .next t ∧ t.thread q.g q.slot = some (th.answered p true) ∧
        (t.cluster clu).cop i = if cop.active.isNone then ⟨some (g, c), cop.waiting⟩ else ⟨cop.active, some (g, c)⟩)) ∧
  (∀ (s : State) (g : Nat) (c : Copy), (s.core g).stop = false →
    ((s.core g).copies.filter fun d => d.state == .active).length < 4 →
    ((s.core g).copies.find? fun d => d.state == .queued || d.state == .again) = some c → c.plan.m ≠ .deal ∨ c.state = .again →
    ∃ t, exec (.copyStart g) s = .next t ∧ SameMemory s t ∧ { c with state := .active } ∈ (t.core g).copies) ∧
  (∀ (s s1 : State) (g id sec : Nat) (c : Copy) (loc : CopyLoc) (ls : List (Word × List Byte)), s.getCopy g id = some (c, loc) →
    s.copyMoves g c sec = true → c.read? sec = none → s.landRead g c sec = .ok (s1, ls) →
    exec (.copySectorLand g id sec) s = .next (s1.putCopy g loc { c with got := smapPut c.got sec ls })) ∧
  (∀ (s s1 : State) (g id sec : Nat) (c : Copy) (loc : CopyLoc) (ls : List (Word × List Byte)) (bytes : List (Nat × Byte)),
    s.getCopy g id = some (c, loc) → s.copyMoves g c sec = true → c.read? sec = some ls → s.landWrite g c sec ls = .ok (s1, bytes) →
    s.copyStrike c sec = none → c.skid = none → c.stream = none → c.regs.barEn = false →
    exec (.copySectorLand g id sec) s = .next (s1.putCopy g loc { c with
      landed := c.landed ++ [sec], got := smapDel c.got sec, bytes := bytes.foldl (fun m e => smapPut m e.1 e.2) c.bytes,
      nzero := c.nzero + c.zeroed sec ls })) ∧
  (∀ (s : State) (g id sec : Nat) (c : Copy) (loc : CopyLoc) (e : Stop), s.getCopy g id = some (c, loc) → c.state = .active →
    c.skid = none → s.copyMoves g c sec = true → (∀ x ∈ c.got, (s.sectorFault g c loc x.1).isSome = true) →
    s.sectorStep g c loc sec = .error e → e.isFault = true →
    ∃ t, exec (.copyPark g id sec) s = .next t ∧ SameMemory s t ∧
      t = (s.putCopy g loc { c with state := .parked, got := [] }).trapEngine c.tid (dieOf g)
        (engineReport (loc.unit (c.plan.m == .deal)) e.kind e.detail c.pc e.addr)) ∧
  (∀ (s : State) (g id : Nat) (c : Copy), ((s.core g).copies.find? fun d => d.id.toNat == id) = some c → c.state = .active →
    (s.core g).checked = false → c.total ≤ c.landed.length → ∃ t, exec (.copyComplete g id) s = .next t ∧ SameMemory s t ∧
      (t.core g).copies = ((s.core g).copies.filter fun d => d.id != c.id) ∧
      .inbox (some c.team) g ⟨copyWord c.msgKind 0 c.bslot c.id, c.word1, 1, c.colour⟩ g (s.die (dieOf g)).k ∈ t.net) ∧
  (∀ (s : State) (clu cop g : Nat) (c : Copy), ((s.cluster clu).cop cop).active = some (g, c) → c.state = .active →
    c.total ≤ c.landed.length → ∃ t, exec (.transformComplete clu cop) s = .next t ∧ SameMemory s t ∧
      (t.cluster clu).cop cop = ⟨((s.cluster clu).cop cop).waiting, none⟩ ∧
      .inbox (some c.team) g ⟨copyWord c.msgKind 0 c.bslot c.id, c.word1, 1, c.colour⟩ g (s.die (dieOf g)).k ∈ t.net) ∧
  (∀ (s : State) (tid id g : Nat) (c : Copy) (loc : CopyLoc), s.parkedCopy tid id = some (g, c, loc) →
    exec (.cpResResume tid id) s = .next (s.putCopy g loc { c with
      state := if c.xop.isSome then .active else if c.plan.m = .deal then .again else .queued, skid := none }) ∧
    exec (.cpResDiscard tid id) s = .next (((s.barGiveUp loc c).removeCopy loc c).postCopy g c 1 0))

/-- R115, R246–R251, R255, R262–R266: the engines. The head of a queue whose guard resolved true becomes active and begins, one whose guard resolved
false leaves; a unit that lands is accumulated, loaded as a row, or written, as its command then reads its descriptor and list
(notes/assumptions/45.md), which ends it where they fail a check; a `fold` takes its scales; a command whose units are all marked completes, its
counter one lower, an `aclr` having emptied its tile and a `fold` its source; a fault parks a command with its report; a `cld.x` runs on an idle
engine of its row as a guest and its partial returns; a core with a team of the launch takes the words of a broadcast for which every such core has
room, another core none. -/
def Obligations.EngineEventsComplete : Prop :=
  (∀ (s : State) (g : Nat) (e : Cmd) (rest : List Cmd), (s.core g).queue = e :: rest → (s.core g).stop = false → e.gres = true →
    e.state ≠ 3 →
    (e.decided = true → (s.core g).active.length + (s.core g).guest.toList.length < 4 → (s.core g).conflict e = false →
      e.partial_ = none → exec (.commandActivate g) s =
        .next ((s.setCore g { s.core g with queue := rest, active := (s.core g).active ++ [e] }).beginCmd g e)) ∧
    (e.decided = false → ∃ t, exec (.commandActivate g) s = .next t ∧ SameMemory s t ∧
      (t.core g).queue = cmdDrop e.uid (s.core g).queue ∧
      ∀ (r : SlotRef) (th : Thread), Named s r th → th.tid = e.tid →
        ∃ u, t.thread r.g r.slot = some u ∧ u.w = (th.uncount e.ctr).w)) ∧
  (∀ (s : State) (g u : Nat) (e0 : Cmd),
    let e := s.rereadCmd g e0
    (s.core g).stop = false → cmdFind e0.uid (s.core g).active = some e0 → e0.op ≠ 7 →
    (∀ k, s.rereadFault g e0 e = some k → exec (.unitArrival g e0.uid u) s = .next ({ s with free := s.free + 4 }.endShape g e k)) ∧
    (∀ s1 ps, s.rereadFault g e0 e = none → s.unitLands g e u = some (s1, ps) →
      let s2 := s1.unitSent g e ps
      let s3 : State := { s2 with free := s2.free + 8 }
      (e.work = .stream → exec (.unitArrival g e0.uid u) s = .next (s3.accumulate g e u (s1.unitData e ps))) ∧
      (e.work = .gather → exec (.unitArrival g e0.uid u) s = .next (s3.loadRow g e u (s1.unitData e ps))) ∧
      (e.work = .rows → exec (.unitArrival g e0.uid u) s = .next (s3.writeRow g e u ps)))) ∧
  (∀ (s : State) (g u : Nat) (e : Cmd) (a b : Word) (rest : List Word), (s.core g).stop = false →
    cmdFind e.uid (s.core g).active = some e → e.op = 7 → e.state = 1 → 2 * u = e.wide.length → u < 64 → (s.core g).n4 = a :: b :: rest →
    ∃ t, exec (.unitArrival g e.uid u) s = .next t ∧ SameMemory s t ∧ (t.core g).n4 = rest ∧
      cmdFind e.uid (t.core g).active = some { e with wide := e.wide ++ [a, b] }) ∧
  (∀ (s : State) (g : Nat) (e : Cmd), (s.core g).stop = false → cmdFind e.uid (s.core g).active = some e → e.state = 1 →
    (e.op.toNat ≤ 4 ∧ (e.op = 4 → e.gathered = true) ∧ e.allMarked = true) ∨ (e.op = 7 ∧ 128 ≤ e.wide.length) ∨
      (e.op = 8 ∧ (e.vdst.isSome = true ∨ e.allMarked = true)) ∨ (e.op = 9 ∧ e.allMarked = true) ∨ e.op = 10 →
    ∃ t, exec (.commandComplete g e.uid) s = .next t ∧ SameMemory s t ∧ cmdFind e.uid (t.core g).active = none ∧
      (∀ (r : SlotRef) (th : Thread), Named s r th → th.tid = e.tid →
        ∃ u, t.thread r.g r.slot = some u ∧ u.w = (th.uncount e.ctr).w ∧ u.d = th.d ∧ u.pc = th.pc) ∧
      (e.posts = true → .inbox (some e.team) g ⟨e.message 0, e.pc, 0, e.colour⟩ g (s.die (dieOf g)).k ∈ t.net) ∧
      (e.op = 10 → (s.core g).physical e.team e.tile < 4 →
        (t.core g).tile ((s.core g).physical e.team e.tile) = ⟨e.shape.getLsbD 0, []⟩) ∧
      (e.op = 7 → (s.core g).physical e.team e.slot < 4 → (s.core g).physical e.team e.tile ≠ (s.core g).physical e.team e.slot →
        (t.core g).tile ((s.core g).physical e.team e.slot) = ⟨false, []⟩)) ∧
  (∀ (s : State) (g u : Nat) (e0 : Cmd) (st : Stop),
    let e := s.rereadCmd g e0
    (s.core g).stop = false → cmdFind e0.uid (s.core g).active = some e0 → e.state = 1 →
    s.rereadFault g e0 e = none → e.nextUnit = some u → e.skid = none → s.unitStop g e u = some st →
    ∃ t, exec (.engineFaultPark g e0.uid u) s = .next t ∧ SameMemory s t ∧
      (∃ a, cmdFind e.uid (t.core g).active = some a ∧ a.state = 2 ∧ a.kind = st.kind ∧ a.faddr = st.addr) ∧
      ∀ (r : SlotRef) (th : Thread), Named s r th → th.tid = e.tid →
        t.thread r.g r.slot = some (th.report (e.report g st.kind st.detail st.addr))) ∧
  (∀ (s : State) (g i host idx : Nat) (rest : List Nat) (e : Cmd),
    let c := s.core g
    let h := s.core host
    let y := c.rslot (c.physical e.team e.slot)
    c.queue[i]? = some e → 8 ≤ i → e.op = 0 → e.state = 0 → e.disc = false → e.gres = true → e.decided = true →
    (c.active ++ c.queue.take i).any (fun a => (c.cmdWrites a).contains (4 + c.physical e.team e.slot)) = false →
    host ≠ g → sameRow g host = true → c.leaving = false → h.leaving = false → h.checked = false → h.anyHalted = false →
    h.queue = [] → (∀ a ∈ h.active, a.state = 2) → h.guest = none →
    e.failed (((c.teamOf e.team).map Team.size).getD 0) y ⟨false, []⟩ ⟨false, []⟩ = none →
    h.spareTiles.reverse = idx :: rest →
    ∃ t, exec (.engineMigration g i host) s = .next t ∧ SameMemory s t ∧
      (t.core host).guest = some ⟨g, { e with state := 1, partial_ := none }, y, idx, []⟩ ∧
      (t.core g).queue[i]? = some { e with state := 3 }) ∧
  (∀ (s : State) (host : Nat) (q : Guest), (s.core host).guest = some q → q.home ≠ host →
    q.cmd.allMarked = true ∨ q.cmd.state = 2 ∨ (s.core host).leaving = true ∨ (s.core q.home).leaving = true →
    ∃ t, exec (.partialReturn host) s = .next t ∧ SameMemory s t ∧ (t.core host).guest = none ∧
      ∀ (i : Nat) (a : Cmd), (s.core q.home).queue[i]? = some a → a.uid = q.cmd.uid →
        ∃ b, (t.core q.home).queue[i]? = some b ∧ b.bm = q.cmd.bm ∧
          b.state = (if q.cmd.state = 2 then 2 else if q.cmd.allMarked = true then 0 else 4) ∧
          b.partial_ = some (addPartial a.origin (a.partial_.getD []) q.tile).lanes) ∧
  (∀ (s s1 : State) (clu g h : Nat) (b : Broadcast) (rest : List Broadcast),
    let n := if (s.core g).takes b then s.castRoom clu (s.cluster clu).casts 0 b else 2
    clusterOf g = clu → (s.cluster clu).casts = b :: rest → s.castsNow b = true → b.takenBy g < 128 → s.caster b = some h →
    ((s.core g).takes b = true → b.takenBy g < n) →
    (∀ b', s.formCast clu 0 h b n = (s1, some b') →
      ((s.core g).takes b = true → ∃ t, exec (.skeepBroadcast clu g) s = .next t ∧ SameMemory s t ∧
        (t.core g).n4 = (s1.core g).n4 ++ (b'.words.drop (b.takenBy g)).take (n - b.takenBy g)) ∧
      ((s.core g).takes b = false → ∃ t, exec (.skeepBroadcast clu g) s = .next t ∧ SameMemory s t ∧ t.cores = s1.cores)) ∧
    (s.formCast clu 0 h b n = (s1, none) → exec (.skeepBroadcast clu g) s = .next s1) ∧
    (n ≤ b.words.length → s.formCast clu 0 h b n = (s, some b)))

/-- R217, R220–R223, R227–R230: the slices. A `tld` takes the lowest free entry that has room and gets its ticket, or gets the null ticket; a group
that lands is in the buffer and the last one makes the entry ready; its way back open, a granted claim marks the entry claimed and its thread goes
on, a denied one traps with its detail at its thread's next turn (R364); a sector is delivered to the scratchpad and the last one frees the entry
and posts the message; a drop frees a live entry and is acknowledged; a query gets the word of its entry, detail 6 where its slice is fenced off; a
lease that has run out frees. What has arrived for an entry is taken in the order of R230, and a group is read after the earlier ones of its source.
-/
def Obligations.TicketEventsComplete : Prop :=
  (∀ (s : State) (k home n p launch team : Nat) (r : Req) (dst : Fin 16) (ty : Ty) (tz det : Bool) (addrs : List Nat),
    s.net[k]? = some (.tld r dst home ty tz n p addrs launch team det) → s.arrived k = true →
    s.heldBefore home r.src (addrs.map fun a => (a, 64)) = false →
    (∀ e, (s.core home).tkAlloc = some e → (s.core home).tkUsed + n * p ≤ 4096 →
      ∃ t, exec (.tldRequest k) s = .next t ∧ SameMemory s t ∧
        ((t.core home).tk e).st = 1 ∧ ((t.core home).tk e).gen = ((s.core home).tk e).gen % 65535 + 1 ∧
        ((t.core home).tk e).n = n ∧ ((t.core home).tk e).planes = p ∧ ((t.core home).tk e).addrs = addrs ∧
        ((t.core home).tk e).colour = r.colour ∧ ∃ id clock, .reply r.tid id (.d dst .z64)
          (wordBytes 8 (s.ticketOf home e r.colour (((s.core home).tk e).gen % 65535 + 1))) clock (r.label home) ∈ t.net) ∧
    ((s.core home).tkAlloc = none ∨ 4096 < (s.core home).tkUsed + n * p →
      ∃ t, exec (.tldRequest k) s = .next t ∧ SameMemory s t ∧ (t.core home).tickets = (s.core home).tickets ∧
        ∃ id clock, .reply r.tid id (.d dst .z64) (wordBytes 8 0) clock (r.label home) ∈ t.net)) ∧
  (∀ (s : State) (g e i : Nat),
    let k := (s.core g).tk e
    k.st ≠ 0 → i < k.n → k.landed i = false → s.groupWaits k i = false → (∀ q, q < k.planes →
      s.bad (k.addrs.getD (q * k.n + i) 0) 64 = false ∧ s.foreign k.colour (k.addrs.getD (q * k.n + i) 0) = false) →
    ∃ t, exec (.ticketGroupLanded g e i) s = .next t ∧ SameMemory s t ∧
      (∀ q, q < k.planes → smapFind ((t.core g).tk e).data (q * k.n + i) = some (memGets s.mem (k.addrs.getD (q * k.n + i) 0) 64)) ∧
      (k.st = 1 → 0 < k.planes → (∀ j, j < k.n → j ≠ i → k.landed j = true) → ((t.core g).tk e).st = 2)) ∧
  (∀ (s : State) (k x : Nat) (t0 : Word) (c : Claim) (team : TeamKey) (r : SlotRef) (th : Thread), s.net[k]? = some (.claim t0 c) →
    s.arrived k = true → s.entryBefore (tkSlice t0) (tkEntry t0) c.rank = false → c.form = .sp x team → Named s r th → th.tid = c.tid →
    (s.claimCheck (tkSlice t0) t0 c = 6 ∨ s.backTo (tkSlice t0) c c.colour = true) →
    (s.claimCheck (tkSlice t0) t0 c = 0 → ∃ t u, exec (.ticketClaim k) s = .next t ∧ SameMemory s t ∧
      ((t.core (tkSlice t0)).tk (tkEntry t0)).st = 3 ∧ ((t.core (tkSlice t0)).tk (tkEntry t0)).claim = some c ∧
      t.thread r.g r.slot = some u ∧ u.pc = succPc th.pc ∧ u.waitAns = false ∧ u.d = th.d) ∧
    (s.claimCheck (tkSlice t0) t0 c ≠ 0 → ∃ t u, exec (.ticketClaim k) s = .next t ∧ SameMemory s t ∧
      t.thread r.g r.slot = some u ∧ u.pc = th.pc ∧ u.waitAns = false ∧ u.park = th.park ∧ u.d = th.d ∧
      u.denied = some (preciseReport kindTicket (s.claimCheck (tkSlice t0) t0 c) th.pc t0))) ∧
  (∀ (s : State) (g slot : Nat) (th : Thread) (rep : Report), th.denied = some rep → th.halted = false → th.handed = none → th.waitAns = false →
    th.haltReq = false → s.turnOf g slot th = s.raise g slot { th with denied := none } rep) ∧
  (∀ (s : State) (g e i h x : Nat) (c : Claim) (team : TeamKey) (tm : Team) (bs : List Byte),
    let k := (s.core g).tk e
    k.st = 3 → k.claim = some c → c.form = .sp x team → i < k.n * k.planes → i ∉ k.sent → k.marked = [] →
    smapFind k.data i = some bs → s.resident k.colour = true → s.findTeam team = some (h, tm) → s.backTo g c k.colour = true →
    ∃ t, exec (.ticketDelivery g e i) s = .next t ∧ SameMemory s t ∧
      (t.core h).spad = ((s.core h).spadPut (tm.base + x + 64 * i) bs).spad ∧
      (k.sent.length + 1 ≠ k.n * k.planes → ((t.core g).tk e).sent = k.sent ++ [i] ∧ ((t.core g).tk e).st = 3) ∧
      (k.sent.length + 1 = k.n * k.planes → ((t.core g).tk e).st = 0 ∧
        ∃ clock, .inbox (some team) c.core ⟨s.ticketOf g e k.colour k.gen, BitVec.ofNat 64 x, 2, k.colour⟩ g clock ∈ t.net)) ∧
  (∀ (s : State) (k : Nat) (r : Req) (t0 : Word), s.net[k]? = some (.tdrop r t0) → s.arrived k = true →
    s.entryBefore (tkSlice t0) (tkEntry t0) dropRank = false →
    ∃ t, exec (.tdropAtSlice k) s = .next t ∧ SameMemory s t ∧ (∃ clock, .redAck r.tid r.id clock (r.label (tkSlice t0)) ∈ t.net) ∧
      (t0 ≠ 0 → s.ticketCheck (tkSlice t0) r.colour t0 = 0 → ((s.core (tkSlice t0)).tk (tkEntry t0)).st ≠ 3 →
        ((t.core (tkSlice t0)).tk (tkEntry t0)).st = 0)) ∧
  (∀ (s : State) (k : Nat) (r : Req) (dst : Fin 16) (t0 : Word), s.net[k]? = some (.tqry r dst t0) → s.arrived k = true →
    s.entryBefore (tkSlice t0) (tkEntry t0) queryRank = false → ∃ t own, exec (.tqryAtSlice k) s = .next t ∧ SameMemory s t ∧
      t.cores = s.cores ∧
      .reply r.tid r.id (.d dst .z64) (wordBytes 8 (s.tqryWord (tkSlice t0) r.src r.colour t0)) (s.die (dieOf (tkSlice t0))).k own ∈ t.net ∧
      (t0 ≠ 0 → s.fencedOff r.src (tkSlice t0) = true → s.tqryWord (tkSlice t0) r.src r.colour t0 = 0x30)) ∧
  (∀ (s : State) (g e : Nat), ((s.core g).tk e).st = 1 ∨ ((s.core g).tk e).st = 2 → ((s.core g).tk e).never = false →
    ((s.core g).tk e).lease = 0 → s.entryBefore g e expiryRank = false →
    ∃ t, exec (.leaseExpiry g e) s = .next t ∧ SameMemory s t ∧ ((t.core g).tk e).st = 0)

/-- R329–R335, R339–R344: launches. A header that cannot be read or breaks a check is refused with its cause, another is entered and its reply names
its entry; a launch of the arbiters' own, of a colour whose interface runs, goes at supervisor level (the model's reading, notes/assumptions/14.md);
the first record's team, alone or with its group, is bound, its threads at the entry with the argument in d0 and their work identifiers, the i-th in
the i-th vacant slot (the model's choice, notes/assumptions/52.md); a waiting record's priority rises; half the stealable teams, 16 at most, are
shipped, and become records; a round passes to the next (the rounds of clusters that stand in for those of a fenced die are the model's choice,
notes/assumptions/104.md), its cores saved; a phase commits with its number one higher; a launch whose teams have retired leaves the tables and the
host is told, on the launch's port or, where it has none, on the port of the model's reading (notes/assumptions/61.md). -/
def Obligations.LaunchEventsComplete : Prop :=
  (∀ (s : State) (k prio : Nat) (place : List Nat) (r : Req) (dst : Fin 16) (va : Word), s.net[k]? = some (.launchReq r dst va prio) →
    s.readHeader r va = some none → ∃ t clock own, exec (.launchAccept (.task k) place) s = .next t ∧ SameMemory s t ∧
      t.launches = s.launches ∧ .reply r.tid r.id (.d dst .s64) (wordBytes 8 (refuseWord 1)) clock own ∈ t.net) ∧
  (∀ (s : State) (k prio pk : Nat) (place : List Nat) (r : Req) (dst : Fin 16) (va : Word) (hdr : List Word) (p : Partition),
    let l := Launch.ofHeader hdr
    let cause := s.launchCause l p r.colour false prio
    s.net[k]? = some (.launchReq r dst va prio) → s.readHeader r va = some (some hdr) → s.partOf r.colour = some (pk, p) →
    (∀ d ∈ p.dies, s.covers d r.clock = true) →
    (cause ≠ 0 → ∃ t clock own, exec (.launchAccept (.task k) place) s = .next t ∧ SameMemory s t ∧ t.launches = s.launches ∧
      .reply r.tid r.id (.d dst .s64) (wordBytes 8 (refuseWord cause)) clock own ∈ t.net) ∧
    (cause = 0 → s.placeOk l p place = true → ∃ t clock own e, exec (.launchAccept (.task k) place) s = .next t ∧ SameMemory s t ∧
      t.launch? s.uid = some e ∧ e.hdr = l.hdr ∧ e.colour = r.colour ∧ e.sup = l.sup ∧
      .reply r.tid r.id (.d dst .s64) (wordBytes 8 (acceptWord e)) clock own ∈ t.net)) ∧
  (∀ (s : State) (colour prio pk : Nat) (hdr : List Word) (place : List Nat) (p : Partition), s.partOf colour = some (pk, p) →
    hdr.length = 8 → (s.colour colour).tdi = .run → s.launchCause { Launch.ofHeader hdr with sup := true } p colour true 0 = 0 →
    s.placeOk { Launch.ofHeader hdr with sup := true } p place = true →
    ∃ t e, exec (.launchAccept (.firmware colour prio hdr) place) s = .next t ∧ SameMemory s t ∧ t.launch? s.uid = some e ∧
      e.colour = colour ∧ e.sup = true) ∧
  (∀ (s : State) (clu lk base : Nat) (l : Launch) (e : Nat × BindRec) (rest : List (Nat × BindRec)),
    let T := e.2.team
    let g := 256 * (clu / 16) + e.2.core
    let c := s.core g
    (s.cluster clu).group = none → sortBy bindBefore (s.die (clu / 16)).table = e :: rest → s.bindable clu e = some (lk, l) →
    e.2.any = false → l.together T = [T] → c.checked = false → (l.wids T).length ≤ c.vacants.length → l.tiles ≤ c.spareTiles.length →
    c.regionFor (128 * l.spad) = some base →
    ∃ t, exec (.teamBind clu) s = .next t ∧ SameMemory s t ∧ (t.findTeam ⟨lk, T⟩).isSome = true ∧
      ∀ (i slot w : Nat), (l.wids T)[i]? = some w → c.vacants[i]? = some slot → ∃ u, t.thread g slot = some u ∧
        u.pc = l.hdr.getD 0 0 ∧ u.entry = some 0 ∧ u.d[0] = l.hdr.getD 5 0 ∧ u.wid = BitVec.ofNat 64 w ∧ u.launch = lk ∧ u.team = T ∧
        u.colour = l.colour ∧ u.inh = false ∧ u.sup = l.sup ∧ u.pval[0] = true ∧ (∀ j : Fin 16, j ≠ 0 → u.d[j] = 0)) ∧
  (∀ (s : State) (clu lk : Nat) (l : Launch) (e : Nat × BindRec) (rest ts : List (Nat × BindRec)), (s.cluster clu).group = none →
    sortBy bindBefore (s.die (clu / 16)).table = e :: rest → s.bindable clu e = some (lk, l) → s.groupRecs clu l e = some ts →
    (s.bindAll clu lk l true ts).isSome = true → ∃ t, exec (.teamBind clu) s = .next t ∧ SameMemory s t ∧
      (t.findTeam ⟨lk, e.2.team⟩).isSome = true ∧
      (t.cluster clu).group = if ts.length ≤ 1 then none else some (lk, l.group e.2.team, ts.length - 1)) ∧
  (∀ (s : State) (die e : Nat) (r : BindRec), smapFind (s.die die).table e = some r → r.st = 0 ∨ r.st = 1 → r.prio < 3 →
    ∃ t, exec (.bindRecordAging die e) s = .next t ∧ SameMemory s t ∧
      smapFind (t.die die).table e = some { r with prio := r.prio + 1 }) ∧
  (∀ (s : State) (thief victim : Nat) (a b : Nat × Partition), s.thiefReady thief victim = true → s.partOfCluster thief = some a →
    s.partOfCluster victim = some b → a.2.switch = .none → ∃ t blocks colour, exec (.stealRequest thief victim) s = .next t ∧
      SameMemory s t ∧ .stealReply thief blocks victim colour ∈ t.net ∧
      blocks.length = if a.1 = b.1 then min 16 (((s.stealable victim).map fun e => e.2.unstarted).sum / 2) else 0) ∧
  (∀ (s : State) (k thief victim colour : Nat) (blocks : List (Word × Nat)),
    s.net[k]? = some (.stealReply thief blocks victim colour) → ∃ t, exec (.stealReply k) s = .next t ∧ SameMemory s t ∧
      (blocks ≠ [] → (t.cluster thief).steal = 0) ∧
      (blocks = [] → (s.cluster thief).steal = 14 → (t.cluster thief).steal = 0 ∧ (t.cluster thief).backoff = true) ∧
      (blocks = [] → (s.cluster thief).steal ≠ 14 → (t.cluster thief).steal = (s.cluster thief).steal + 1)) ∧
  (∀ (s : State) (clu : Nat), (s.cluster clu).backoff = true → ∃ t, exec (.stealBackoffExpiry clu) s = .next t ∧ SameMemory s t ∧
    t.cluster clu = { s.cluster clu with backoff := false }) ∧
  (∀ (s : State) (lk : Nat) (l : Launch) (p : Partition), s.launch? lk = some l → smapFind s.parts l.part = some p → l.pst = 1 →
    (s.launchThreads lk).isEmpty = false → s.writesOpen lk l = false → p.resident = l.colour → p.switch = .none →
    (∀ d ∈ p.dies, s.relRoom d = true) → ∃ t e, exec (.phaseCommit lk) s = .next t ∧ SameMemory s t ∧ t.launch? lk = some e ∧
      e.phase = l.phase + 1 ∧ e.committed = true ∧ e.rounds = []) ∧
  (∀ (s : State) (lk clu : Nat) (l : Launch) (p : Partition),
    let r := smapGet 0 l.rounds clu
    let G := s.roundCluster p clu r
    let ls := clusterLcores G
    s.launch? lk = some l → smapFind s.parts l.part = some p → l.det = true → s.roundCluster p clu (r + 1) ≤ 63 →
    s.roundCluster p clu (r + 1) ≠ G →
    p.resident = l.colour → p.switch = .none → s.onlyLaunch lk clu = true →
    ((s.die (clu / 16)).table.map Prod.snd ++ (s.die (clu / 16)).backlog).any
      (fun (x : BindRec) => x.st != 2 && x.lent == l.lent && x.targets clu && s.inRound p l clu x) = false →
    (s.launchThreads lk).any (fun t => logicalCluster (l.lcore t.team) == G && t.arrived != some l.phase) = false →
    ∃ t, exec (.roundSwitch lk clu) s = .next t ∧ SameMemory s t ∧
      t.launch? lk = some { l with rounds := smapPut l.rounds clu (r + 1) } ∧
      (smapSorted 0 s.saved = true → (∀ L ∈ ls, ∀ M ∈ ls, l.phys L = l.phys M → L = M) →
        ∀ L ∈ ls, smapFind t.saved (savedKey lk L) = some (s.core (l.phys L)))) ∧
  (∀ (s : State) (lk : Nat) (l : Launch),
    let port := l.port.getD s.hostPort
    s.launch? lk = some l → l.retired = l.teams → l.pst = 1 → s.launchThreads lk = [] → s.writesOpen lk l = false →
    smapSorted 0 s.launches = true → ∃ t, exec (.launchComplete lk) s = .next t ∧ t.launch? lk = none ∧
      (l.notify = 0 → SameMemory s t ∧ ∃ gap digest sig, .completion l.colour l.seq false gap digest sig ∈
        (t.port port).store.map Prod.snd ++ (t.port port).waiting))

/-- R101, R360, R364, R369–R371, R376–R379, R193, R352: cores, their traps and the debug functions. The cycle of a stopped core only
counts; a queued report parks its thread for a window; a window that has run out gives its trap to the parked thread of the lowest
slot; a machine check stops the core with its cause; the arbiter resumes a thread where it says; registers are written over the
service network; a breakpoint halts its thread at the turn at which it would issue at the entry's pc, alone or as either instruction of a pair,
but not at the first issue after a resume; a resumed one runs on. -/
def Obligations.CoreEventsComplete : Prop :=
  (∀ (s : State) (g : Nat) (b : Bool), g < 2048 → s.powered = true → ∃ t, exec (.coreCycle g b) s = .next t ∧ SameMemory s t ∧
    t.cur.g = g ∧ (s.issues g = false → (t.core g).cyc = (s.core g).cyc + 1) ∧
    (s.issues g = false → (s.core g).windowDue = false → (t.core g).threads = (s.core g).threads)) ∧
  (∀ (s : State) (g slot : Nat) (th : Thread), s.thread g slot = some th → (s.core g).stop = false → (s.core g).cyc % 16 = slot →
    th.hasTurn = true → th.reports ≠ [] → th.park = .none → th.inh = false →
    ∃ t, exec (.reportDelivery g slot) s = .next t ∧ SameMemory s t ∧
      t.thread g slot = some { th with park := .imprecise, retry := false, kv := [] } ∧
      ((t.core g).window.isSome = true ∨ (t.core g).winner = true)) ∧
  (∀ (s : State) (g : Nat), (s.core g).windowDue = true → ∃ t, exec (.collectionWindowClose g) s = .next t ∧ SameMemory s t ∧
    (t.core g).window = none ∧
    ∀ i rest th r, (s.core g).parked = i :: rest → s.thread g i = some th → th.park = .precise r →
      t.thread g i = some { th with park := .winner r rest.length } ∧ (t.core g).winner = true) ∧
  (∀ (s : State) (g cause : Nat), g < 2048 → 1 ≤ cause → cause ≤ 5 → ∃ t, exec (.coreMachineCheck g cause) s = .next t ∧ SameMemory s t ∧
    (t.core g).stop = true ∧ (t.core g).checked = true ∧ (t.core g).mcCause = BitVec.ofNat 4 cause ∧
    (t.core g).mcSlot = BitVec.ofNat 4 ((s.core g).cyc % 16) ∧ (t.core g).threads = (s.core g).threads) ∧
  (∀ (s : State) (g slot : Nat) (pc : Word) (inh : Bool) (th : Thread), s.thread g slot = some th → th.handed.isSome = true →
    ∃ t u, exec (.arbiterResumeThread g slot pc inh) s = .next t ∧ SameMemory s t ∧ t.thread g slot = some u ∧ u.pc = pc ∧
      u.inh = inh ∧ u.handed = none ∧ u.d = th.d ∧ u.tr = th.tr) ∧
  (∀ (s : State) (g : Nat) (v : Word), g < 2048 → ∃ t, exec (.peCtlWrite g v) s = .next t ∧ SameMemory s t ∧
    (t.core g).stop = (v.getLsbD 0 || (s.core g).checked) ∧ (t.core g).peCol = (v >>> 1).setWidth 5 ∧
    (t.core g).threads = (s.core g).threads) ∧
  (∀ (s : State) (colour : Nat) (va : Word), colour < 32 → ∃ t, exec (.tbInval colour va) s = .next t ∧ SameMemory s t ∧
    ∀ g, (t.core g).tlbFind colour va.toNat = none) ∧
  (∀ (s : State) (g slot colour num : Nat) (v : Word), sysNumber num = true → g < 2048 → colour < 32 →
    (sysOfThread num = true → (s.thread g slot).isSome = true) →
    exec (.serviceRegisterWrite g slot colour num v) s = .next (s.sysWrite g slot colour num v)) ∧
  (∀ (s a : State) (r : SlotRef) (entry : Nat) (th : Thread) (b : Breakpoint) (is : List Instr), Named s r th → s.cur = r →
    s.issues r.g = true → (s.core r.g).cyc % 16 = r.slot → th.halted = false → th.handed = none → th.waitAns = false →
    th.haltReq = false → th.denied = none → th.park = .none → th.reports = [] ∨ th.inh = true → th.pass = false → th.second = false →
    smapFind s.breaks entry = some b → b.names th = true →
    s.AboutToIssue r th is → issueAll is s = .next a → a.waits = false → b.pc = th.pc ∨ (is.length = 2 ∧ b.pc = succPc th.pc) →
    ∃ t, exec (.breakpointHalt r.g r.slot entry) s = .next t ∧ SameMemory s t ∧ t.cls = .vacant ∧
      t.thread r.g r.slot = some { th with halted := true, steps := none, retry := false }) ∧
  (∀ (s : State) (g slot count : Nat) (th : Thread), s.thread g slot = some th → th.halted = true →
    ∃ t, exec (.debugResume g slot count) s = .next t ∧ SameMemory s t ∧ t.thread g slot = some { th with
      halted := false, haltReq := false, pass := true, steps := if count = 0 then none else some count }) ∧
  (∀ (s : State) (i : Nat) (w0 wval wmask pc : Word), i < 64 → ∃ t b, exec (.debugTableWrite (.breakpoint i w0 wval wmask pc)) s = .next t ∧
    SameMemory s t ∧ smapFind t.breaks i = some b ∧ b.v = w0.getLsbD 0 ∧ b.wval = wval ∧ b.wmask = wmask ∧
    b.pc = pc &&& 0xFFFFFFFFFFFFFFC7) ∧
  (∀ (s : State) (colour : Nat) (wid : Word) (k : Fin 4) (base ctl : Word),
    exec (.debugTableWrite (.watch colour wid k base ctl)) s =
      .next (s.watchPut colour wid k.val fun x => watchCtl ctl (watchBase base x)))

/-- R337, R338, R346–R349, R366–R368, R372: castling, pre-emption, lost dies and discarded jobs. A swap instant halves the traffic
counts; an accepted offer is noted by the other core, and the swap exchanges what the two cores hold; a pre-emption stops its cores,
waits for the drain, exchanges the images and resumes under the new colour; heartbeats count misses; a lost die is fenced; a discarded
job leaves no thread or launch of its colour, and the host hears of its launches, on the port of the model's reading
(notes/assumptions/61.md). -/
def Obligations.ArbiterEventsComplete : Prop :=
  (∀ (s : State) (g : Nat), (s.core g).swapDue = true → ∃ t, exec (.swapInstant g) s = .next t ∧ SameMemory s t ∧
    (t.core g).swapDue = false ∧ (t.core g).traffic = (s.core g).traffic.map (fun e => (e.1, e.2 / 2)) ∧
    (t.core g).threads = (s.core g).threads) ∧
  (∀ (s : State) (p q : Nat), (s.core p).offer = some q → (s.core q).offerIn = none → p ≠ q → ∃ t, exec (.castlingOffer p q) s = .next t ∧
    SameMemory s t ∧ ((t.core q).offerIn = some p ∨ (t.core p).offer = none) ∧
    (((s.core q).offer = none ∧ s.maySwap p = true ∧ s.maySwap q = true) → (t.core q).offerIn = some p)) ∧
  (∀ (s : State) (p q : Nat), (s.core p).offer = some q → (s.core q).offerIn = some p → p ≠ q → s.quiet2 p q = true →
    (s.core p).guest = none → (s.core q).guest = none → (s.core p).queue.all (fun e => e.state != 3) = true →
    (s.core q).queue.all (fun e => e.state != 3) = true → ∃ t, exec (.castlingSwap p q) s = .next t ∧ SameMemory s t ∧
      (t.core p).threads = (s.core q).threads ∧ (t.core q).threads = (s.core p).threads ∧ (t.core p).spad = (s.core q).spad ∧
      (t.core q).spad = (s.core p).spad ∧ (t.core p).tiles = (s.core q).tiles ∧ (t.core q).tiles = (s.core p).tiles ∧
      (t.core p).teams = (s.core q).teams ∧ (t.core q).teams = (s.core p).teams ∧ (t.core p).offer = none ∧ (t.core q).offerIn = none) ∧
  (∀ (s : State) (part colour : Nat) (p : Partition), smapFind s.parts part = some p →
    (p.switch = .none → p.resident ≠ colour → p.colours.contains colour = true → p.cores.any s.swapping = false →
      ∃ t, exec (.preemptStop part colour) s = .next t ∧ SameMemory s t ∧
        smapFind t.parts part = some { p with switch := .stopping colour } ∧ ∀ g ∈ p.cores, (t.core g).stop = true) ∧
    (p.switch = .stopping colour → s.drained p = true → ∃ t, exec (.preemptDrainDone part) s = .next t ∧ SameMemory s t ∧
      smapFind t.parts part = some { p with switch := .exchanging colour } ∧ t.cores = s.cores) ∧
    (p.switch = .exchanging colour → ∃ t, exec (.preemptExchangeDone part) s = .next t ∧ SameMemory s t ∧
      smapFind t.parts part = some { p with switch := .none, resident := colour } ∧
      ∀ g ∈ p.cores, (t.core g).stop = (s.core g).checked ∧ (t.core g).peCol = BitVec.ofNat 5 colour)) ∧
  (∀ (s : State) (die : Nat) (missed : List Nat), die < 8 → (s.die die).fenced = false → ∃ t, exec (.heartbeat die missed) s = .next t ∧
    SameMemory s t ∧ ∀ d, d < 8 → d ≠ die → (s.die d).fenced = false →
      smapGet 0 (t.die d).misses die = if missed.contains d then smapGet 0 (s.die d).misses die + 1 else 0) ∧
  (∀ (s : State) (die : Nat) (check : Bool), die < 8 → (s.die die).fenced = false →
    (check = true ∨ ∃ d, d < 8 ∧ d ≠ die ∧ (s.die d).fenced = false ∧ 4 ≤ smapGet 0 (s.die d).misses die) →
    ∃ t, exec (.dieFence die check) s = .next t ∧ SameMemory s t ∧ (t.die die).fenced = true) ∧
  (∀ (s : State) (colour : Nat), colour < 32 → ∃ t, exec (.jobDiscard colour) s = .next t ∧ SameMemory s t ∧
    (∀ e ∈ t.launches, e.2.colour ≠ colour) ∧ (∀ g slot th, t.thread g slot = some th → th.colour ≠ colour) ∧
    .jobEnd colour ((s.launchesOf colour).map fun e => e.2.seq) ∈
      (t.port s.hostPort).store.map Prod.snd ++ (t.port s.hostPort).waiting)

/-- R383, R384, R385, R386, R387, R388, R389, R390, R404: recorders, freezes and the throttle. A sample is taken once a period, its record in the buffer of a recorder that
runs; a frozen recorder starts again; a record goes to its place in the sink, a drain writes one after another there as long as the sink takes them, or,
where it takes none, they are dropped and counted; the watchdog has its die's
recorders freeze where the trigger is enabled, as they do when the cycle ends; the clocks freeze; the throttle steps down; a flit retry is
counted with its link. -/
def Obligations.DebugEventsComplete : Prop :=
  (∀ (s : State) (g : Nat) (th : Thread),
    let k := s.cluster (clusterOf g)
    s.cur.g = g → s.thread g s.cur.slot = some th → (s.core g).cyc ≠ (s.core g).sampled → (s.core g).cyc % k.period = 0 →
    ∃ t, exec (.traceSample g) s = .next t ∧ SameMemory s t ∧ (t.core g).sampled = (s.core g).cyc ∧
      (t.core g).threads = (s.core g).threads ∧
      (k.frz = false → k.tcCtl.getLsbD 16 = true → k.tcCtl.getLsbD 6 = true → k.recs.length < 2048 → k.dropped = 0 → k.epochDue = false →
        (t.cluster (clusterOf g)).recs = recInsert k.recs
          (mkRec (s.die (dieOf g)).cyc 0x08 s.cur.slot (indexOf g) th.colour th.wid th.pc (BitVec.ofNat 64 s.cls.code)))) ∧
  (∀ (s : State) (clu : Nat), clu < 128 → ∃ t, exec (.tcUnfreeze clu) s = .next t ∧ SameMemory s t ∧
    t.cluster clu = { s.cluster clu with frz := false }) ∧
  (∀ (s : State) (clu : Nat) (r : TraceRec) (rest : List TraceRec) (p : Place), (s.cluster clu).recs = r :: rest → s.sinkAddr clu = some p →
    (∃ t, exec (.traceSinkWrite clu) s = .next t ∧ t.mem = (s.placeWrite 0 p r.bytes).mem ∧ (t.cluster clu).recs = rest) ∧
    (∃ t n, exec (.recorderDrain clu) s = .next t ∧ (t.cluster clu).recs = rest.drop n) ∧
    (∀ t1, exec (.traceSinkWrite clu) s = .next t1 →
      ((t1.cluster clu).recs = [] ∨ t1.sinkAddr clu = none → exec (.recorderDrain clu) s = .next t1) ∧
      ((t1.cluster clu).recs ≠ [] → t1.sinkAddr clu ≠ none → exec (.recorderDrain clu) s = exec (.recorderDrain clu) t1))) ∧
  (∀ (s : State) (clu : Nat), (s.cluster clu).recs ≠ [] → s.sinkAddr clu = none → ∃ t, exec (.sinkTimeout clu) s = .next t ∧
    SameMemory s t ∧ (t.cluster clu).recs = [] ∧ (t.cluster clu).dropped = (s.cluster clu).dropped + (s.cluster clu).recs.length) ∧
  (∀ (s : State) (die : Nat), die < 8 → ∃ t, exec (.arbiterWatchdogExpiry die) s = .next t ∧ SameMemory s t ∧ t.cores = s.cores ∧
    ((s.die die).tcFrz.getLsbD 2 = true → (s.die die).frzDue = none → (t.die die).frzDue = some ((s.die die).cyc, 2))) ∧
  (∀ (s : State) (die cyc since cause i : Nat), (s.die die).frzDue = some (since, cause) → (s.die die).cyc < cyc → i < 16 →
    ((s.clockDie die cyc).cluster (16 * die + i)).frz = true ∧ ((s.clockDie die cyc).die die).frzDue = none) ∧
  (∀ (s : State), exec .clockFreeze s = .next { s with frozen := true }) ∧
  (∀ (s : State) (die : Nat), die < 8 → ∃ t, exec (.thermalThrottle die) s = .next t ∧ SameMemory s t ∧
    (t.die die).throttle = (s.die die).throttle + 1 ∧ t.cores = s.cores) ∧
  (∀ (s : State) (die link : Nat), die < 8 → ∃ t, exec (.linkFlitRetry die link) s = .next t ∧ SameMemory s t ∧
    (link, (s.die die).cyc) ∈ (t.die die).retries ∧ t.cores = s.cores)

/-- R192, R392–R398: links and sessions. A message with the next number is accepted and acknowledged, a host's into the queue of its port, another
package's request onto the fabric; another number is answered as a duplicate or asked for again; a bad tag is counted, and the sixteenth in a row
ends the session; an acknowledgement only rises and retires what it covers; retained messages above it are sent again; a port trains when its die
takes part, and a lost link keeps its numbering; a handshake gives a peer a session or reports; package, route and peer are configured while no
interface is locked; a session's keys are replaced; an SPDM request is answered in its order, or with an error (its codes and bodies, and the
report's code, are the model's, notes/assumptions/15.md); what the host has sent in a session that ends and no one has taken goes with it
(notes/assumptions/26.md). That an earlier number is told from a later one by the shorter way round the ring is the model's choice
(notes/assumptions/60.md), the host port that a report goes to its reading (notes/assumptions/61.md). -/
def Obligations.LinkEventsComplete : Prop :=
  (∀ (s : State) (port seq : Nat) (tagOk : Bool) (msg : LinkMsg),
    let p := s.port port
    let next := nextSeq p.rxl
    port < 18 → p.up = true → seq ≠ 0 → seq < 2 ^ 32 → LinkMsg.fits msg = true → p.got < keyLife →
    (2 ≤ port ∨ LinkMsg.inSession msg = true → p.sess = true) →
    (tagOk = true → seq = next → port < 2 → ∃ t, exec (.linkMessageReceive port seq tagOk msg) s = .next t ∧ SameMemory s t ∧
      t.port port = { p with rxl := seq, tagRun := 0, got := p.got + 1, ctl := p.ctl ++ [.ack seq], rxq := p.rxq ++ [msg] }) ∧
    (∀ m, tagOk = true → seq = next → 2 ≤ port → peerRequest port msg = some m →
      ∃ t us, exec (.linkMessageReceive port seq tagOk msg) s = .next t ∧ SameMemory s t ∧ t.net = s.net ++ [m] ∧
        t.port port = { p with rxl := seq, tagRun := 0, got := p.got + 1, ctl := p.ctl ++ [.ack seq], users := us } ∧
        ∀ r, m.access? = some r → us.contains r.colour = true) ∧
    (tagOk = true → seq ≠ next → ∃ t, exec (.linkMessageReceive port seq tagOk msg) s = .next t ∧ SameMemory s t ∧
      t.port port = { p with tagRun := 0, ctl := p.ctl ++ [if seqAhead next seq < 2 ^ 31 then .resend next else .ack seq] }) ∧
    (tagOk = false → ∃ t, exec (.linkMessageReceive port seq tagOk msg) s = .next t ∧ SameMemory s t ∧ (t.port port).rxl = p.rxl ∧
      (t.port port).tagf = min 255 (p.tagf + 1) ∧ (t.port port).ctl = p.ctl ++ [.resend next] ∧
      (p.tagRun < 15 → (t.port port).tagRun = p.tagRun + 1 ∧ (t.port port).sess = p.sess ∧ (t.port port).rxq = p.rxq) ∧
      (15 ≤ p.tagRun → (t.port port).sess = false ∧ (t.port port).rxq = p.rxq.filter fun m => !LinkMsg.inSession m))) ∧
  (∀ (s : State) (port ack : Nat), port < 18 → ack < 2 ^ 32 → ∃ t, exec (.lkAckWrite port ack) s = .next t ∧ SameMemory s t ∧
    (t.port port).ack = max ack (s.port port).ack ∧
    ((s.port port).waiting = [] → (s.port port).ack ≤ ack →
      (t.port port).store = (s.port port).store.filter fun e => decide (ack < e.1))) ∧
  (∀ (s : State) (port : Nat), port < 18 → (s.port port).up = true → ∃ t, exec (.lkAckReplay port) s = .next t ∧ SameMemory s t ∧
    (t.port port).wire = (s.port port).wire ++
      (s.port port).store.filter (fun e => decide ((s.port port).ack < e.1) && (s.port port).carries e.2) ∧
    (t.port port).store = (s.port port).store) ∧
  (∀ (s : State) (port : Nat), port < 18 → (s.port port).up = false → s.powered = true → (s.die (portDie port)).boot = 0 →
    port < 2 ∨ (s.port port).digest.isSome = true → ∃ t, exec (.linkTrain port) s = .next t ∧ SameMemory s t ∧ (t.port port).up = true) ∧
  (∀ (s : State) (port : Nat), port < 18 → (s.port port).up = true → ∃ t, exec (.linkLoss port) s = .next t ∧ SameMemory s t ∧
    t.port port = { s.port port with up := false, sess := (s.port port).sess && decide (port < 2) }) ∧
  (∀ (s : State) (port : Nat) (chain : Option Nat), 2 ≤ port → port < 18 → (s.port port).up = true → (s.port port).sess = false →
    ∃ t, exec (.peerHandshake port chain) s = .next t ∧ SameMemory s t ∧
      (t.port port).sess = (chain.isSome && (s.port port).digest == chain) ∧
      (∀ d, chain = some d → (s.port port).digest = some d → (t.port port).lead = decide (Config.chainDigest < d)) ∧
      (chain = none ∨ (s.port port).digest ≠ chain →
        .management (0x1000 + port) ∈ (t.port s.hostPort).store.map Prod.snd ++ (t.port s.hostPort).waiting)) ∧
  (∀ (s : State), s.allUnlocked = true →
    (∀ pkg, pkg < 256 → ∃ t, exec (.peerConfigWrite (.own pkg)) s = .next t ∧ SameMemory s t ∧ ∀ d, d < 8 → (t.die d).pkg = pkg) ∧
    (∀ die pkg p, die < 8 → pkg < 256 → p / 2 = die + 1 → ∃ t, exec (.peerConfigWrite (.route die pkg (some p))) s = .next t ∧
      SameMemory s t ∧ smapFind (t.die die).routes pkg = some p) ∧
    (∀ port pkg digest, 2 ≤ port → port < 18 → ∃ t, exec (.peerConfigWrite (.peer port pkg digest)) s = .next t ∧ SameMemory s t ∧
      (t.port port).digest = some digest ∧ (t.port port).peer = pkg)) ∧
  (∀ (s : State) (port : Nat), port < 18 → (s.port port).sess = true → ∃ t, exec (.keyUpdate port) s = .next t ∧ SameMemory s t ∧
    (t.port port).keyGen = (s.port port).keyGen + 1 ∧ (t.port port).got = 0 ∧ ((s.port port).waiting = [] → (t.port port).sent = 0)) ∧
  (∀ (s : State) (port code : Nat) (rest : List LinkMsg), port < 2 → (s.port port).rxq = .spdm code :: rest →
    ∃ t, exec (.spdmRequest port) s = .next t ∧ SameMemory s t ∧ (code ≠ 0xEC → (t.port port).rxq = rest) ∧
      (∀ stage body, spdmAnswer s.firmware (s.port port).spdm code = some (stage, body) → (t.port port).spdm = stage ∧
        (code = 0xE5 → (t.port port).sess = true) ∧
        (code = 0xEC → (t.port port).sess = false ∧ (t.port port).rxq = rest.filter fun m => !LinkMsg.inSession m) ∧
        .spdmResponse (code % 128) body ∈ (t.port port).store.map Prod.snd ++ (t.port port).waiting) ∧
      (spdmAnswer s.firmware (s.port port).spdm code = none → (t.port port).spdm = (s.port port).spdm ∧ (t.port port).sess = (s.port port).sess ∧
        .spdmResponse 0x7F [] ∈ (t.port port).store.map Prod.snd ++ (t.port port).waiting))

/-- R330, R389, R390, R392, R399–R403: the package. An interface is locked, its frames and cluster memory written with zeros, started and stopped by
its host's requests; a partition of free clusters is formed, and one resized with its interfaces in ERROR; new firmware sends locked and running
interfaces to ERROR; a host's launch is refused with its cause or entered; data move where every byte translates; power-up draws a ticket key and
fences a die whose check failed; a die reports its status to the host ports whose dies take part; a reset leaves the package as at reset. That
frames are given at LOCK and by their owner, and which are zeroed (notes/assumptions/33.md, 41.md), and that a transfer is made whole in one step
(notes/assumptions/69.md), are the model's choices. That a reset leaves memory listing nothing and every table empty (notes/assumptions/3.md, 6.md,
54.md), and that a new partition has the number of its first colour and a resized one its cores running (notes/assumptions/62.md), are the model's
choices. -/
def Obligations.PackageEventsComplete : Prop :=
  (∀ (s s1 : State) (colour port pk : Nat) (frames : List Nat) (p : Partition),
    let cleared (a : Nat) : Prop := a / 65536 ∈ frames ∨
      ∃ c ∈ p.clusters, clusterAddr colour c 0 ≤ a ∧ a < clusterAddr colour c 0 + 2 ^ 26
    colour < 32 → s.tdispPort colour 0 = some (port, s1) → (s.colour colour).tdi = .unlocked → s.partOf colour = some (pk, p) →
    (∀ f ∈ frames, f < 2 ^ 23 ∧ ∀ k, smapFind s.owners f = some k → k = colour ∨ k = 0) → Memory.wf s.mem = true →
    ∃ t, exec (.lockInterfaceRequest ⟨colour, frames⟩) s = .next t ∧ (t.colour colour).tdi = .locked ∧ (t.colour colour).key = true ∧
      (t.colour colour).port = port ∧ (∀ f ∈ frames, smapFind t.owners f = some colour) ∧
      (∀ a, cleared a → memGet t.mem a = 0) ∧ (∀ a, ¬ cleared a → memGet t.mem a = memGet s.mem a)) ∧
  (∀ (s s1 : State) (colour port : Nat), colour < 32 → s.tdispPort colour 1 = some (port, s1) → (s.colour colour).tdi = .locked →
    ∃ t, exec (.startInterfaceRequest colour) s = .next t ∧ SameMemory s t ∧ (t.colour colour).tdi = .run) ∧
  (∀ (s s1 : State) (colour port : Nat), colour < 32 → s.tdispPort colour 2 = some (port, s1) →
    ∃ t, exec (.stopInterfaceRequest colour) s = .next t ∧ SameMemory s t ∧ (t.colour colour).tdi = .unlocked ∧
      ((s.colour colour).tdi ≠ .unlocked → (t.colour colour).key = false ∧ ∀ e ∈ t.launches, e.2.colour ≠ colour)) ∧
  (∀ (s : State) (part : Nat) (clusters : List Nat), clusters ≠ [] → part ≠ 0 → part < 32 →
    (∀ c ∈ clusters, c < 128 ∧ (s.die (c / 16)).fenced = false) →
    (s.parts = [] → ∃ t, exec (.partitionResize part clusters) s = .next t ∧ SameMemory s t ∧
      smapFind t.parts part = some ⟨sortNats clusters, [part], part, .none⟩ ∧
      ∀ c ∈ clusters, ∀ g ∈ clusterCores c, (t.core g).stop = (s.core g).checked) ∧
    (∀ p, smapFind s.parts part = some p → p.switch = .none →
      (∀ e ∈ s.parts, e.1 ≠ part → ∀ c ∈ clusters, c ∉ e.2.clusters) → ∃ t, exec (.partitionResize part clusters) s = .next t ∧
        smapFind t.parts part = some { p with clusters := sortNats clusters } ∧
        ∀ k ∈ p.colours, (t.colour k).tdi ≠ .locked ∧ (t.colour k).tdi ≠ .run)) ∧
  (∀ (s : State), ∃ t, exec .arbiterFirmwareReplace s = .next t ∧ SameMemory s t ∧
    ∀ c, c < 32 → (t.colour c).tdi ≠ .locked ∧ (t.colour c).tdi ≠ .run) ∧
  (∀ (s s1 : State) (port colour prio pk : Nat) (place : List Nat) (hdr : List Word) (p : Partition),
    let l := Launch.ofHeader hdr
    let cause := s1.launchCause l p colour true 0
    s.takeHost port = some (.launch colour prio hdr, s1) → s.partOf colour = some (pk, p) → (s.port port).sess = true →
    (s.colour colour).tdi = .run →
    (cause ≠ 0 → ∃ t, exec (.hostLaunch port place) s = .next t ∧ SameMemory s t ∧ t.launches = s.launches ∧
      .launchReply (refuseWord cause) ∈ (t.port port).store.map Prod.snd ++ (t.port port).waiting) ∧
    (cause = 0 → s1.placeOk l p place = true → ∃ t e, exec (.hostLaunch port place) s = .next t ∧ SameMemory s t ∧
      t.launch? s.uid = some e ∧ e.hdr = l.hdr ∧ e.colour = colour ∧ e.port = some port ∧
      .launchReply (acceptWord e) ∈ (t.port port).store.map Prod.snd ++ (t.port port).waiting)) ∧
  (∀ (s s1 : State) (port colour : Nat) (va : Word), (s.port port).sess = true →
    (∀ bytes, s.takeHost port = some (.dmaWrite colour va bytes, s1) →
      (∀ ps, s1.dmaPlaces (portDie port) colour va.toNat Use.write bytes.length = some ps → ∃ t, exec (.dmaDescriptor port) s = .next t ∧
        t.mem = ((ps.zip bytes).foldl (fun s e => s.placeWrite colour e.1 [e.2]) s1).mem ∧
        (t.port port).dma = (s.port port).dma ++ [.dmaDone colour true []]) ∧
      (s1.dmaPlaces (portDie port) colour va.toNat Use.write bytes.length = none → ∃ t, exec (.dmaDescriptor port) s = .next t ∧
        SameMemory s t ∧ (t.port port).dma = (s.port port).dma ++ [.dmaDone colour false []])) ∧
    (∀ n ps, s.takeHost port = some (.dmaRead colour va n, s1) → s1.dmaPlaces (portDie port) colour va.toNat Use.read n = some ps →
      ∃ t, exec (.dmaDescriptor port) s = .next t ∧ SameMemory s t ∧
        (t.port port).dma = (s.port port).dma ++ [.dmaDone colour true (ps.map fun p => s1.placeByte p 0)]) ∧
    (∀ rs, s.takeHost port = some (.regions colour rs, s1) → ∃ t, exec (.dmaDescriptor port) s = .next t ∧ SameMemory s t ∧
      (t.colour colour).regions = rs ∧ (t.colour colour).digest = List.replicate 64 0 ∧ (t.colour colour).gap = false)) ∧
  (∀ (s : State) (port : Nat) (m : DevMsg) (rest : List DevMsg), (s.port port).dma = m :: rest → ∃ t, exec (.dmaComplete port) s = .next t ∧
    SameMemory s t ∧ (t.port port).dma = rest ∧ m ∈ (t.port port).store.map Prod.snd ++ (t.port port).waiting) ∧
  (∀ (s : State) (status : List Nat), s.powered = false → status.length ≤ 8 → (∀ x ∈ status, x ≤ 5) →
    ∃ t, exec (.powerUp status) s = .next t ∧ SameMemory s t ∧ t.powered = true ∧
      t.boots = (if s.warm = true then s.boots else s.boots + 1) ∧ (∀ e ∈ t.cores, e.2.stop = true) ∧
      (∀ d, d < 8 → ((t.die d).fenced = true ↔ status.getD d 0 ≠ 0) ∧ (t.die d).boot = BitVec.ofNat 8 (status.getD d 0)) ∧
      ∀ p, p < 2 → ((t.port p).up = true ↔ status.getD (portDie p) 0 = 0)) ∧
  (∀ (s : State) (die p : Nat), die < 8 → (s.die die).boot ≠ 0xFF → p < 2 → (s.die (portDie p)).boot = 0 →
    ∃ t, exec (.bootStatusQuery die) s = .next t ∧ SameMemory s t ∧ smapFind t.lkBoot (8 * p + die) = some (s.die die).boot.toNat) ∧
  (∀ (s : State) (keeps : Bool), ∃ t, exec (.reset keeps) s = .next t ∧ t.mem = [] ∧ t.cores = [] ∧ t.net = [] ∧ t.colours = [] ∧
    t.launches = [] ∧ t.parts = [] ∧ t.powered = false ∧ t.frozen = false ∧ (∀ d, (t.die d).fenced = false ∧ (t.die d).boot = 0xFF) ∧
    (keeps = true → ∀ d, (t.die d).black = (s.die d).black))
end

