-- ==== Sys2Proof/Laws/Sparse.lean ====
section
/-! SUPPORT. Sparse stores: what a store reads as after a write, that its keys keep rising, and that every memory operation keeps
the canonical form of memory. -/
namespace Sys2Proof.Machine

variable {α : Type}

@[simp] theorem smapFind_nil (k : Nat) : smapFind ([] : List (Nat × α)) k = none := rfl

theorem smapFind_put_self (m : List (Nat × α)) (k : Nat) (v : α) : smapFind (smapPut m k v) k = some v := by
  induction m with
  | nil => simp [smapPut, smapFind]
  | cons e rest ih =>
    obtain ⟨j, w⟩ := e
    simp only [smapPut]
    split
    · simp [smapFind]
    · split
      · simp [smapFind]
      · simp [smapFind, *]

theorem smapFind_put_other (m : List (Nat × α)) {k i : Nat} (v : α) (h : i ≠ k) : smapFind (smapPut m k v) i = smapFind m i := by
  induction m with
  | nil => simp only [smapPut, smapFind]; split <;> simp_all
  | cons e rest ih =>
    obtain ⟨j, w⟩ := e
    simp only [smapPut]
    split
    · simp only [smapFind]; subst_vars; simp [Ne.symm h]
    · split
      · simp only [smapFind]
        split
        · omega
        · split <;> (try split) <;> first | rfl | omega | (split <;> first | rfl | omega)
      · simp only [smapFind, ih]

theorem smapFind_put (m : List (Nat × α)) (k i : Nat) (v : α) :
    smapFind (smapPut m k v) i = if i = k then some v else smapFind m i := by
  split
  · subst_vars; exact smapFind_put_self m _ v
  · exact smapFind_put_other m v ‹_›

theorem smapGet_put (d : α) (m : List (Nat × α)) (k i : Nat) (v : α) :
    smapGet d (smapPut m k v) i = if i = k then v else smapGet d m i := by
  unfold smapGet; rw [smapFind_put]; split <;> rfl

@[simp] theorem smapGet_put_self (d : α) (m : List (Nat × α)) (k : Nat) (v : α) : smapGet d (smapPut m k v) k = v := by
  simp [smapGet_put]

theorem smapGet_put_other (d : α) (m : List (Nat × α)) {k i : Nat} (v : α) (h : i ≠ k) :
    smapGet d (smapPut m k v) i = smapGet d m i := by
  simp [smapGet_put, h]

theorem smapSorted_mono {lo hi : Nat} (h : lo ≤ hi) (m : List (Nat × α)) (s : smapSorted hi m = true) : smapSorted lo m = true := by
  cases m with
  | nil => rfl
  | cons e rest =>
    obtain ⟨j, w⟩ := e
    simp only [smapSorted, Bool.and_eq_true, decide_eq_true_eq] at s ⊢
    exact ⟨by omega, s.2⟩

/-- A key below every listed one is not listed. -/
theorem smapFind_below {lo k : Nat} (m : List (Nat × α)) (s : smapSorted lo m = true) (h : k < lo) : smapFind m k = none := by
  cases m with
  | nil => rfl
  | cons e rest =>
    obtain ⟨j, w⟩ := e
    simp only [smapSorted, Bool.and_eq_true, decide_eq_true_eq] at s
    simp only [smapFind]
    rw [if_neg (by omega), if_pos (by omega)]

theorem smapSorted_put {lo : Nat} (m : List (Nat × α)) (k : Nat) (v : α) (h : lo ≤ k) (s : smapSorted lo m = true) :
    smapSorted lo (smapPut m k v) = true := by
  induction m generalizing lo with
  | nil => simp [smapPut, smapSorted, h]
  | cons e rest ih =>
    obtain ⟨j, w⟩ := e
    simp only [smapSorted, Bool.and_eq_true, decide_eq_true_eq] at s
    simp only [smapPut]
    split
    · subst_vars; simp [smapSorted, h, s.2]
    · split
      · simp only [smapSorted, Bool.and_eq_true, decide_eq_true_eq]
        exact ⟨h, by omega, s.2⟩
      · simp only [smapSorted, Bool.and_eq_true, decide_eq_true_eq]
        exact ⟨s.1, ih (by omega) s.2⟩

theorem smapSorted_del {lo : Nat} (m : List (Nat × α)) (k : Nat) (s : smapSorted lo m = true) : smapSorted lo (smapDel m k) = true := by
  induction m generalizing lo with
  | nil => rfl
  | cons e rest ih =>
    obtain ⟨j, w⟩ := e
    have s' := s
    simp only [smapSorted, Bool.and_eq_true, decide_eq_true_eq] at s
    simp only [smapDel]
    split
    · exact smapSorted_mono (by omega) _ s.2
    · split
      · exact s'
      · simp only [smapSorted, Bool.and_eq_true, decide_eq_true_eq]
        exact ⟨s.1, ih s.2⟩

theorem smapFind_del {lo : Nat} (m : List (Nat × α)) (k i : Nat) (s : smapSorted lo m = true) :
    smapFind (smapDel m k) i = if i = k then none else smapFind m i := by
  induction m generalizing lo with
  | nil => simp [smapDel, smapFind]
  | cons e rest ih =>
    obtain ⟨j, w⟩ := e
    simp only [smapSorted, Bool.and_eq_true, decide_eq_true_eq] at s
    simp only [smapDel]
    split
    · subst_vars
      split
      · subst_vars; exact smapFind_below rest s.2 (by omega)
      · simp only [smapFind]
        rw [if_neg (fun h => ‹¬ _› h.symm)]
        split
        · exact smapFind_below rest s.2 (by omega)
        · rfl
    · split
      · split
        · subst_vars; simp only [smapFind]; rw [if_neg ‹_›, if_pos ‹_›]
        · rfl
      · simp only [smapFind, ih s.2]
        split
        · split <;> first | rfl | omega
        · split <;> (try split) <;> rfl

/-! Memory. -/

theorem memGet_memPut (m : List (Nat × Byte)) (a i : Nat) (b : Byte) (h : Memory.wf m = true) :
    memGet (memPut m a b) i = if i = a then b else memGet m i := by
  simp only [Memory.wf, Bool.and_eq_true] at h
  unfold memPut memGet
  split
  · unfold smapGet; rw [smapFind_del m a i h.1]; split <;> simp_all
  · exact smapGet_put 0 m a i b

theorem mem_smapPut {m : List (Nat × α)} {k : Nat} {v : α} {e : Nat × α} (h : e ∈ smapPut m k v) : e = (k, v) ∨ e ∈ m := by
  induction m with
  | nil => simp_all [smapPut]
  | cons x rest ih =>
    obtain ⟨j, w⟩ := x
    simp only [smapPut] at h
    split at h
    · simp_all; tauto
    · split at h
      · simp_all
      · simp only [List.mem_cons] at h ⊢
        rcases h with h | h
        · exact .inr (.inl h)
        · rcases ih h with h | h
          · exact .inl h
          · exact .inr (.inr h)

theorem mem_smapDel {m : List (Nat × α)} {k : Nat} {e : Nat × α} (h : e ∈ smapDel m k) : e ∈ m := by
  induction m with
  | nil => simp_all [smapDel]
  | cons x rest ih =>
    obtain ⟨j, w⟩ := x
    simp only [smapDel] at h
    split at h
    · exact List.mem_cons_of_mem _ h
    · split at h
      · exact h
      · simp only [List.mem_cons] at h ⊢
        rcases h with h | h
        · exact .inl h
        · exact .inr (ih h)

theorem wf_nil : Memory.wf [] = true := rfl

theorem wf_memPut (m : List (Nat × Byte)) (a : Nat) (b : Byte) (h : Memory.wf m = true) : Memory.wf (memPut m a b) = true := by
  simp only [Memory.wf, Bool.and_eq_true, List.all_eq_true] at h ⊢
  unfold memPut
  split
  · exact ⟨smapSorted_del m a h.1, fun e he => h.2 e (mem_smapDel he)⟩
  · refine ⟨smapSorted_put m a b (Nat.zero_le _) h.1, fun e he => ?_⟩
    rcases mem_smapPut he with rfl | he
    · simpa using ‹¬ b = 0›
    · exact h.2 e he

theorem wf_memPuts (m : List (Nat × Byte)) (bytes : List (Nat × Byte)) (h : Memory.wf m = true) : Memory.wf (memPuts m bytes) = true := by
  induction bytes generalizing m with
  | nil => exact h
  | cons e rest ih => exact ih _ (wf_memPut m e.1 e.2 h)

theorem wf_memWrite (s : State) (bytes : List (Nat × Byte)) (h : Memory.wf s.mem = true) : Memory.wf (s.memWrite bytes).mem = true :=
  wf_memPuts s.mem bytes h

@[simp] theorem claim_mem (s : State) (colour : Nat) (pas : List Nat) : (s.claim colour pas).mem = s.mem := rfl

@[simp] theorem memStore_mem (s : State) (colour : Nat) (bytes : List (Nat × Byte)) :
    (s.memStore colour bytes).mem = memPuts s.mem bytes := rfl

theorem wf_memStore (s : State) (colour : Nat) (bytes : List (Nat × Byte)) (h : Memory.wf s.mem = true) :
    Memory.wf (s.memStore colour bytes).mem = true :=
  wf_memPuts s.mem bytes h

/-- A frame has one owner: the first to write it, or the one it was given to. -/
theorem claimFrame_keeps (colour : Nat) (owners : List (Nat × Nat)) (pa f k : Nat) (h : smapFind owners f = some k) :
    smapFind (claimFrame colour owners pa) f = some k := by
  unfold claimFrame
  split
  · exact h
  · rename_i hn
    have hf : f ≠ pa / 65536 := fun e => hn (.inr (by rw [← e, h]; rfl))
    rw [smapFind_put_other owners colour hf, h]

theorem claim_keeps (s : State) (colour : Nat) (pas : List Nat) (f k : Nat) (h : smapFind s.owners f = some k) :
    smapFind (s.claim colour pas).owners f = some k := by
  show smapFind (pas.foldl (claimFrame colour) s.owners) f = some k
  generalize s.owners = os at h
  induction pas generalizing os with
  | nil => exact h
  | cons a as ih => exact ih _ (claimFrame_keeps colour os a f k h)

/-- Bytes taken out leave the canonical form: as a LOCK_INTERFACE_REQUEST clears frames and cluster memory. -/
theorem smapSorted_filter {lo : Nat} (m : List (Nat × α)) (p : Nat × α → Bool) (h : smapSorted lo m = true) :
    smapSorted lo (m.filter p) = true := by
  induction m generalizing lo with
  | nil => rfl
  | cons e rest ih =>
    simp only [smapSorted, Bool.and_eq_true, decide_eq_true_eq] at h
    rw [List.filter_cons]
    split
    · simp only [smapSorted, Bool.and_eq_true, decide_eq_true_eq]
      exact ⟨h.1, ih h.2⟩
    · exact smapSorted_mono (by omega) _ (ih h.2)

theorem wf_filter (m : List (Nat × Byte)) (p : Nat × Byte → Bool) (h : Memory.wf m = true) : Memory.wf (m.filter p) = true := by
  simp only [Memory.wf, Bool.and_eq_true, List.all_eq_true] at h ⊢
  exact ⟨smapSorted_filter m p h.1, fun e he => h.2 e (List.mem_of_mem_filter he)⟩

end Sys2Proof.Machine
end

