-- ==== Sys2Proof/Laws/State.lean ====
section
/-! SUPPORT. What each update of a record leaves in each field: one lemma per field per update, so that no proof unfolds one. -/
namespace Sys2Proof.Machine
open Sys2Proof

@[simp] theorem State.setCore_mem (s : State) (g : Nat) (c : Core) : (s.setCore g c).mem = s.mem := rfl
@[simp] theorem State.setCore_net (s : State) (g : Nat) (c : Core) : (s.setCore g c).net = s.net := rfl
@[simp] theorem State.setCore_clusters (s : State) (g : Nat) (c : Core) : (s.setCore g c).clusters = s.clusters := rfl
@[simp] theorem State.setCore_dies (s : State) (g : Nat) (c : Core) : (s.setCore g c).dies = s.dies := rfl
@[simp] theorem State.setCore_colours (s : State) (g : Nat) (c : Core) : (s.setCore g c).colours = s.colours := rfl
@[simp] theorem State.setCore_wpBase (s : State) (g : Nat) (c : Core) : (s.setCore g c).wpBase = s.wpBase := rfl
@[simp] theorem State.setCore_vlBase (s : State) (g : Nat) (c : Core) : (s.setCore g c).vlBase = s.vlBase := rfl
@[simp] theorem State.setCore_vlLimit (s : State) (g : Nat) (c : Core) : (s.setCore g c).vlLimit = s.vlLimit := rfl
@[simp] theorem State.setCore_launches (s : State) (g : Nat) (c : Core) : (s.setCore g c).launches = s.launches := rfl
@[simp] theorem State.setCore_parts (s : State) (g : Nat) (c : Core) : (s.setCore g c).parts = s.parts := rfl
@[simp] theorem State.setCore_shadow (s : State) (g : Nat) (c : Core) : (s.setCore g c).shadow = s.shadow := rfl
@[simp] theorem State.setCore_moved (s : State) (g : Nat) (c : Core) : (s.setCore g c).moved = s.moved := rfl
@[simp] theorem State.setCore_saved (s : State) (g : Nat) (c : Core) : (s.setCore g c).saved = s.saved := rfl
@[simp] theorem State.setCore_ports (s : State) (g : Nat) (c : Core) : (s.setCore g c).ports = s.ports := rfl
@[simp] theorem State.setCore_breaks (s : State) (g : Nat) (c : Core) : (s.setCore g c).breaks = s.breaks := rfl
@[simp] theorem State.setCore_watches (s : State) (g : Nat) (c : Core) : (s.setCore g c).watches = s.watches := rfl
@[simp] theorem State.setCore_owners (s : State) (g : Nat) (c : Core) : (s.setCore g c).owners = s.owners := rfl
@[simp] theorem State.setCore_badMem (s : State) (g : Nat) (c : Core) : (s.setCore g c).badMem = s.badMem := rfl
@[simp] theorem State.setCore_badSpad (s : State) (g : Nat) (c : Core) : (s.setCore g c).badSpad = s.badSpad := rfl
@[simp] theorem State.setCore_owed (s : State) (g : Nat) (c : Core) : (s.setCore g c).owed = s.owed := rfl
@[simp] theorem State.setCore_powered (s : State) (g : Nat) (c : Core) : (s.setCore g c).powered = s.powered := rfl
@[simp] theorem State.setCore_warm (s : State) (g : Nat) (c : Core) : (s.setCore g c).warm = s.warm := rfl
@[simp] theorem State.setCore_lkBoot (s : State) (g : Nat) (c : Core) : (s.setCore g c).lkBoot = s.lkBoot := rfl
@[simp] theorem State.setCore_boots (s : State) (g : Nat) (c : Core) : (s.setCore g c).boots = s.boots := rfl
@[simp] theorem State.setCore_firmware (s : State) (g : Nat) (c : Core) : (s.setCore g c).firmware = s.firmware := rfl
@[simp] theorem State.setCore_frozen (s : State) (g : Nat) (c : Core) : (s.setCore g c).frozen = s.frozen := rfl
@[simp] theorem State.setCore_agenda (s : State) (g : Nat) (c : Core) : (s.setCore g c).agenda = s.agenda := rfl
@[simp] theorem State.setCore_cur (s : State) (g : Nat) (c : Core) : (s.setCore g c).cur = s.cur := rfl
@[simp] theorem State.setCore_issue (s : State) (g : Nat) (c : Core) : (s.setCore g c).issue = s.issue := rfl
@[simp] theorem State.setCore_cls (s : State) (g : Nat) (c : Core) : (s.setCore g c).cls = s.cls := rfl
@[simp] theorem State.setCore_focus (s : State) (g : Nat) (c : Core) : (s.setCore g c).focus = s.focus := rfl
@[simp] theorem State.setCore_free (s : State) (g : Nat) (c : Core) : (s.setCore g c).free = s.free := rfl
@[simp] theorem State.setCore_uid (s : State) (g : Nat) (c : Core) : (s.setCore g c).uid = s.uid := rfl

@[simp] theorem State.setThread_mem (s : State) (g slot : Nat) (t : Option Thread) : (s.setThread g slot t).mem = s.mem := rfl
@[simp] theorem State.setThread_net (s : State) (g slot : Nat) (t : Option Thread) : (s.setThread g slot t).net = s.net := rfl
@[simp] theorem State.setThread_clusters (s : State) (g slot : Nat) (t : Option Thread) : (s.setThread g slot t).clusters = s.clusters := rfl
@[simp] theorem State.setThread_dies (s : State) (g slot : Nat) (t : Option Thread) : (s.setThread g slot t).dies = s.dies := rfl
@[simp] theorem State.setThread_colours (s : State) (g slot : Nat) (t : Option Thread) : (s.setThread g slot t).colours = s.colours := rfl
@[simp] theorem State.setThread_wpBase (s : State) (g slot : Nat) (t : Option Thread) : (s.setThread g slot t).wpBase = s.wpBase := rfl
@[simp] theorem State.setThread_vlBase (s : State) (g slot : Nat) (t : Option Thread) : (s.setThread g slot t).vlBase = s.vlBase := rfl
@[simp] theorem State.setThread_vlLimit (s : State) (g slot : Nat) (t : Option Thread) : (s.setThread g slot t).vlLimit = s.vlLimit := rfl
@[simp] theorem State.setThread_launches (s : State) (g slot : Nat) (t : Option Thread) : (s.setThread g slot t).launches = s.launches := rfl
@[simp] theorem State.setThread_parts (s : State) (g slot : Nat) (t : Option Thread) : (s.setThread g slot t).parts = s.parts := rfl
@[simp] theorem State.setThread_shadow (s : State) (g slot : Nat) (t : Option Thread) : (s.setThread g slot t).shadow = s.shadow := rfl
@[simp] theorem State.setThread_moved (s : State) (g slot : Nat) (t : Option Thread) : (s.setThread g slot t).moved = s.moved := rfl
@[simp] theorem State.setThread_saved (s : State) (g slot : Nat) (t : Option Thread) : (s.setThread g slot t).saved = s.saved := rfl
@[simp] theorem State.setThread_ports (s : State) (g slot : Nat) (t : Option Thread) : (s.setThread g slot t).ports = s.ports := rfl
@[simp] theorem State.setThread_breaks (s : State) (g slot : Nat) (t : Option Thread) : (s.setThread g slot t).breaks = s.breaks := rfl
@[simp] theorem State.setThread_watches (s : State) (g slot : Nat) (t : Option Thread) : (s.setThread g slot t).watches = s.watches := rfl
@[simp] theorem State.setThread_owners (s : State) (g slot : Nat) (t : Option Thread) : (s.setThread g slot t).owners = s.owners := rfl
@[simp] theorem State.setThread_badMem (s : State) (g slot : Nat) (t : Option Thread) : (s.setThread g slot t).badMem = s.badMem := rfl
@[simp] theorem State.setThread_badSpad (s : State) (g slot : Nat) (t : Option Thread) : (s.setThread g slot t).badSpad = s.badSpad := rfl
@[simp] theorem State.setThread_owed (s : State) (g slot : Nat) (t : Option Thread) : (s.setThread g slot t).owed = s.owed := rfl
@[simp] theorem State.setThread_powered (s : State) (g slot : Nat) (t : Option Thread) : (s.setThread g slot t).powered = s.powered := rfl
@[simp] theorem State.setThread_warm (s : State) (g slot : Nat) (t : Option Thread) : (s.setThread g slot t).warm = s.warm := rfl
@[simp] theorem State.setThread_lkBoot (s : State) (g slot : Nat) (t : Option Thread) : (s.setThread g slot t).lkBoot = s.lkBoot := rfl
@[simp] theorem State.setThread_boots (s : State) (g slot : Nat) (t : Option Thread) : (s.setThread g slot t).boots = s.boots := rfl
@[simp] theorem State.setThread_firmware (s : State) (g slot : Nat) (t : Option Thread) : (s.setThread g slot t).firmware = s.firmware := rfl
@[simp] theorem State.setThread_frozen (s : State) (g slot : Nat) (t : Option Thread) : (s.setThread g slot t).frozen = s.frozen := rfl
@[simp] theorem State.setThread_agenda (s : State) (g slot : Nat) (t : Option Thread) : (s.setThread g slot t).agenda = s.agenda := rfl
@[simp] theorem State.setThread_cur (s : State) (g slot : Nat) (t : Option Thread) : (s.setThread g slot t).cur = s.cur := rfl
@[simp] theorem State.setThread_issue (s : State) (g slot : Nat) (t : Option Thread) : (s.setThread g slot t).issue = s.issue := rfl
@[simp] theorem State.setThread_cls (s : State) (g slot : Nat) (t : Option Thread) : (s.setThread g slot t).cls = s.cls := rfl
@[simp] theorem State.setThread_focus (s : State) (g slot : Nat) (t : Option Thread) : (s.setThread g slot t).focus = s.focus := rfl
@[simp] theorem State.setThread_free (s : State) (g slot : Nat) (t : Option Thread) : (s.setThread g slot t).free = s.free := rfl
@[simp] theorem State.setThread_uid (s : State) (g slot : Nat) (t : Option Thread) : (s.setThread g slot t).uid = s.uid := rfl

@[simp] theorem State.setCluster_mem (s : State) (k : Nat) (c : Cluster) : (s.setCluster k c).mem = s.mem := rfl
@[simp] theorem State.setCluster_net (s : State) (k : Nat) (c : Cluster) : (s.setCluster k c).net = s.net := rfl
@[simp] theorem State.setCluster_cores (s : State) (k : Nat) (c : Cluster) : (s.setCluster k c).cores = s.cores := rfl
@[simp] theorem State.setCluster_dies (s : State) (k : Nat) (c : Cluster) : (s.setCluster k c).dies = s.dies := rfl
@[simp] theorem State.setCluster_colours (s : State) (k : Nat) (c : Cluster) : (s.setCluster k c).colours = s.colours := rfl
@[simp] theorem State.setCluster_wpBase (s : State) (k : Nat) (c : Cluster) : (s.setCluster k c).wpBase = s.wpBase := rfl
@[simp] theorem State.setCluster_vlBase (s : State) (k : Nat) (c : Cluster) : (s.setCluster k c).vlBase = s.vlBase := rfl
@[simp] theorem State.setCluster_vlLimit (s : State) (k : Nat) (c : Cluster) : (s.setCluster k c).vlLimit = s.vlLimit := rfl
@[simp] theorem State.setCluster_launches (s : State) (k : Nat) (c : Cluster) : (s.setCluster k c).launches = s.launches := rfl
@[simp] theorem State.setCluster_parts (s : State) (k : Nat) (c : Cluster) : (s.setCluster k c).parts = s.parts := rfl
@[simp] theorem State.setCluster_shadow (s : State) (k : Nat) (c : Cluster) : (s.setCluster k c).shadow = s.shadow := rfl
@[simp] theorem State.setCluster_moved (s : State) (k : Nat) (c : Cluster) : (s.setCluster k c).moved = s.moved := rfl
@[simp] theorem State.setCluster_saved (s : State) (k : Nat) (c : Cluster) : (s.setCluster k c).saved = s.saved := rfl
@[simp] theorem State.setCluster_ports (s : State) (k : Nat) (c : Cluster) : (s.setCluster k c).ports = s.ports := rfl
@[simp] theorem State.setCluster_breaks (s : State) (k : Nat) (c : Cluster) : (s.setCluster k c).breaks = s.breaks := rfl
@[simp] theorem State.setCluster_watches (s : State) (k : Nat) (c : Cluster) : (s.setCluster k c).watches = s.watches := rfl
@[simp] theorem State.setCluster_owners (s : State) (k : Nat) (c : Cluster) : (s.setCluster k c).owners = s.owners := rfl
@[simp] theorem State.setCluster_badMem (s : State) (k : Nat) (c : Cluster) : (s.setCluster k c).badMem = s.badMem := rfl
@[simp] theorem State.setCluster_badSpad (s : State) (k : Nat) (c : Cluster) : (s.setCluster k c).badSpad = s.badSpad := rfl
@[simp] theorem State.setCluster_owed (s : State) (k : Nat) (c : Cluster) : (s.setCluster k c).owed = s.owed := rfl
@[simp] theorem State.setCluster_powered (s : State) (k : Nat) (c : Cluster) : (s.setCluster k c).powered = s.powered := rfl
@[simp] theorem State.setCluster_warm (s : State) (k : Nat) (c : Cluster) : (s.setCluster k c).warm = s.warm := rfl
@[simp] theorem State.setCluster_lkBoot (s : State) (k : Nat) (c : Cluster) : (s.setCluster k c).lkBoot = s.lkBoot := rfl
@[simp] theorem State.setCluster_boots (s : State) (k : Nat) (c : Cluster) : (s.setCluster k c).boots = s.boots := rfl
@[simp] theorem State.setCluster_firmware (s : State) (k : Nat) (c : Cluster) : (s.setCluster k c).firmware = s.firmware := rfl
@[simp] theorem State.setCluster_frozen (s : State) (k : Nat) (c : Cluster) : (s.setCluster k c).frozen = s.frozen := rfl
@[simp] theorem State.setCluster_agenda (s : State) (k : Nat) (c : Cluster) : (s.setCluster k c).agenda = s.agenda := rfl
@[simp] theorem State.setCluster_cur (s : State) (k : Nat) (c : Cluster) : (s.setCluster k c).cur = s.cur := rfl
@[simp] theorem State.setCluster_issue (s : State) (k : Nat) (c : Cluster) : (s.setCluster k c).issue = s.issue := rfl
@[simp] theorem State.setCluster_cls (s : State) (k : Nat) (c : Cluster) : (s.setCluster k c).cls = s.cls := rfl
@[simp] theorem State.setCluster_focus (s : State) (k : Nat) (c : Cluster) : (s.setCluster k c).focus = s.focus := rfl
@[simp] theorem State.setCluster_free (s : State) (k : Nat) (c : Cluster) : (s.setCluster k c).free = s.free := rfl
@[simp] theorem State.setCluster_uid (s : State) (k : Nat) (c : Cluster) : (s.setCluster k c).uid = s.uid := rfl

@[simp] theorem State.setDie_mem (s : State) (d : Nat) (x : Die) : (s.setDie d x).mem = s.mem := rfl
@[simp] theorem State.setDie_net (s : State) (d : Nat) (x : Die) : (s.setDie d x).net = s.net := rfl
@[simp] theorem State.setDie_cores (s : State) (d : Nat) (x : Die) : (s.setDie d x).cores = s.cores := rfl
@[simp] theorem State.setDie_clusters (s : State) (d : Nat) (x : Die) : (s.setDie d x).clusters = s.clusters := rfl
@[simp] theorem State.setDie_colours (s : State) (d : Nat) (x : Die) : (s.setDie d x).colours = s.colours := rfl
@[simp] theorem State.setDie_wpBase (s : State) (d : Nat) (x : Die) : (s.setDie d x).wpBase = s.wpBase := rfl
@[simp] theorem State.setDie_vlBase (s : State) (d : Nat) (x : Die) : (s.setDie d x).vlBase = s.vlBase := rfl
@[simp] theorem State.setDie_vlLimit (s : State) (d : Nat) (x : Die) : (s.setDie d x).vlLimit = s.vlLimit := rfl
@[simp] theorem State.setDie_launches (s : State) (d : Nat) (x : Die) : (s.setDie d x).launches = s.launches := rfl
@[simp] theorem State.setDie_parts (s : State) (d : Nat) (x : Die) : (s.setDie d x).parts = s.parts := rfl
@[simp] theorem State.setDie_shadow (s : State) (d : Nat) (x : Die) : (s.setDie d x).shadow = s.shadow := rfl
@[simp] theorem State.setDie_moved (s : State) (d : Nat) (x : Die) : (s.setDie d x).moved = s.moved := rfl
@[simp] theorem State.setDie_saved (s : State) (d : Nat) (x : Die) : (s.setDie d x).saved = s.saved := rfl
@[simp] theorem State.setDie_ports (s : State) (d : Nat) (x : Die) : (s.setDie d x).ports = s.ports := rfl
@[simp] theorem State.setDie_breaks (s : State) (d : Nat) (x : Die) : (s.setDie d x).breaks = s.breaks := rfl
@[simp] theorem State.setDie_watches (s : State) (d : Nat) (x : Die) : (s.setDie d x).watches = s.watches := rfl
@[simp] theorem State.setDie_owners (s : State) (d : Nat) (x : Die) : (s.setDie d x).owners = s.owners := rfl
@[simp] theorem State.setDie_badMem (s : State) (d : Nat) (x : Die) : (s.setDie d x).badMem = s.badMem := rfl
@[simp] theorem State.setDie_badSpad (s : State) (d : Nat) (x : Die) : (s.setDie d x).badSpad = s.badSpad := rfl
@[simp] theorem State.setDie_owed (s : State) (d : Nat) (x : Die) : (s.setDie d x).owed = s.owed := rfl
@[simp] theorem State.setDie_powered (s : State) (d : Nat) (x : Die) : (s.setDie d x).powered = s.powered := rfl
@[simp] theorem State.setDie_warm (s : State) (d : Nat) (x : Die) : (s.setDie d x).warm = s.warm := rfl
@[simp] theorem State.setDie_lkBoot (s : State) (d : Nat) (x : Die) : (s.setDie d x).lkBoot = s.lkBoot := rfl
@[simp] theorem State.setDie_boots (s : State) (d : Nat) (x : Die) : (s.setDie d x).boots = s.boots := rfl
@[simp] theorem State.setDie_firmware (s : State) (d : Nat) (x : Die) : (s.setDie d x).firmware = s.firmware := rfl
@[simp] theorem State.setDie_frozen (s : State) (d : Nat) (x : Die) : (s.setDie d x).frozen = s.frozen := rfl
@[simp] theorem State.setDie_agenda (s : State) (d : Nat) (x : Die) : (s.setDie d x).agenda = s.agenda := rfl
@[simp] theorem State.setDie_cur (s : State) (d : Nat) (x : Die) : (s.setDie d x).cur = s.cur := rfl
@[simp] theorem State.setDie_issue (s : State) (d : Nat) (x : Die) : (s.setDie d x).issue = s.issue := rfl
@[simp] theorem State.setDie_cls (s : State) (d : Nat) (x : Die) : (s.setDie d x).cls = s.cls := rfl
@[simp] theorem State.setDie_focus (s : State) (d : Nat) (x : Die) : (s.setDie d x).focus = s.focus := rfl
@[simp] theorem State.setDie_free (s : State) (d : Nat) (x : Die) : (s.setDie d x).free = s.free := rfl
@[simp] theorem State.setDie_uid (s : State) (d : Nat) (x : Die) : (s.setDie d x).uid = s.uid := rfl

@[simp] theorem State.setColour_mem (s : State) (k : Nat) (x : Colour) : (s.setColour k x).mem = s.mem := rfl
@[simp] theorem State.setColour_net (s : State) (k : Nat) (x : Colour) : (s.setColour k x).net = s.net := rfl
@[simp] theorem State.setColour_cores (s : State) (k : Nat) (x : Colour) : (s.setColour k x).cores = s.cores := rfl
@[simp] theorem State.setColour_clusters (s : State) (k : Nat) (x : Colour) : (s.setColour k x).clusters = s.clusters := rfl
@[simp] theorem State.setColour_dies (s : State) (k : Nat) (x : Colour) : (s.setColour k x).dies = s.dies := rfl
@[simp] theorem State.setColour_wpBase (s : State) (k : Nat) (x : Colour) : (s.setColour k x).wpBase = s.wpBase := rfl
@[simp] theorem State.setColour_vlBase (s : State) (k : Nat) (x : Colour) : (s.setColour k x).vlBase = s.vlBase := rfl
@[simp] theorem State.setColour_vlLimit (s : State) (k : Nat) (x : Colour) : (s.setColour k x).vlLimit = s.vlLimit := rfl
@[simp] theorem State.setColour_launches (s : State) (k : Nat) (x : Colour) : (s.setColour k x).launches = s.launches := rfl
@[simp] theorem State.setColour_parts (s : State) (k : Nat) (x : Colour) : (s.setColour k x).parts = s.parts := rfl
@[simp] theorem State.setColour_shadow (s : State) (k : Nat) (x : Colour) : (s.setColour k x).shadow = s.shadow := rfl
@[simp] theorem State.setColour_moved (s : State) (k : Nat) (x : Colour) : (s.setColour k x).moved = s.moved := rfl
@[simp] theorem State.setColour_saved (s : State) (k : Nat) (x : Colour) : (s.setColour k x).saved = s.saved := rfl
@[simp] theorem State.setColour_ports (s : State) (k : Nat) (x : Colour) : (s.setColour k x).ports = s.ports := rfl
@[simp] theorem State.setColour_breaks (s : State) (k : Nat) (x : Colour) : (s.setColour k x).breaks = s.breaks := rfl
@[simp] theorem State.setColour_watches (s : State) (k : Nat) (x : Colour) : (s.setColour k x).watches = s.watches := rfl
@[simp] theorem State.setColour_owners (s : State) (k : Nat) (x : Colour) : (s.setColour k x).owners = s.owners := rfl
@[simp] theorem State.setColour_badMem (s : State) (k : Nat) (x : Colour) : (s.setColour k x).badMem = s.badMem := rfl
@[simp] theorem State.setColour_badSpad (s : State) (k : Nat) (x : Colour) : (s.setColour k x).badSpad = s.badSpad := rfl
@[simp] theorem State.setColour_owed (s : State) (k : Nat) (x : Colour) : (s.setColour k x).owed = s.owed := rfl
@[simp] theorem State.setColour_powered (s : State) (k : Nat) (x : Colour) : (s.setColour k x).powered = s.powered := rfl
@[simp] theorem State.setColour_warm (s : State) (k : Nat) (x : Colour) : (s.setColour k x).warm = s.warm := rfl
@[simp] theorem State.setColour_lkBoot (s : State) (k : Nat) (x : Colour) : (s.setColour k x).lkBoot = s.lkBoot := rfl
@[simp] theorem State.setColour_boots (s : State) (k : Nat) (x : Colour) : (s.setColour k x).boots = s.boots := rfl
@[simp] theorem State.setColour_firmware (s : State) (k : Nat) (x : Colour) : (s.setColour k x).firmware = s.firmware := rfl
@[simp] theorem State.setColour_frozen (s : State) (k : Nat) (x : Colour) : (s.setColour k x).frozen = s.frozen := rfl
@[simp] theorem State.setColour_agenda (s : State) (k : Nat) (x : Colour) : (s.setColour k x).agenda = s.agenda := rfl
@[simp] theorem State.setColour_cur (s : State) (k : Nat) (x : Colour) : (s.setColour k x).cur = s.cur := rfl
@[simp] theorem State.setColour_issue (s : State) (k : Nat) (x : Colour) : (s.setColour k x).issue = s.issue := rfl
@[simp] theorem State.setColour_cls (s : State) (k : Nat) (x : Colour) : (s.setColour k x).cls = s.cls := rfl
@[simp] theorem State.setColour_focus (s : State) (k : Nat) (x : Colour) : (s.setColour k x).focus = s.focus := rfl
@[simp] theorem State.setColour_free (s : State) (k : Nat) (x : Colour) : (s.setColour k x).free = s.free := rfl
@[simp] theorem State.setColour_uid (s : State) (k : Nat) (x : Colour) : (s.setColour k x).uid = s.uid := rfl

@[simp] theorem State.setLaunch_mem (s : State) (l : Nat) (x : Launch) : (s.setLaunch l x).mem = s.mem := rfl
@[simp] theorem State.setLaunch_net (s : State) (l : Nat) (x : Launch) : (s.setLaunch l x).net = s.net := rfl
@[simp] theorem State.setLaunch_cores (s : State) (l : Nat) (x : Launch) : (s.setLaunch l x).cores = s.cores := rfl
@[simp] theorem State.setLaunch_clusters (s : State) (l : Nat) (x : Launch) : (s.setLaunch l x).clusters = s.clusters := rfl
@[simp] theorem State.setLaunch_dies (s : State) (l : Nat) (x : Launch) : (s.setLaunch l x).dies = s.dies := rfl
@[simp] theorem State.setLaunch_colours (s : State) (l : Nat) (x : Launch) : (s.setLaunch l x).colours = s.colours := rfl
@[simp] theorem State.setLaunch_wpBase (s : State) (l : Nat) (x : Launch) : (s.setLaunch l x).wpBase = s.wpBase := rfl
@[simp] theorem State.setLaunch_vlBase (s : State) (l : Nat) (x : Launch) : (s.setLaunch l x).vlBase = s.vlBase := rfl
@[simp] theorem State.setLaunch_vlLimit (s : State) (l : Nat) (x : Launch) : (s.setLaunch l x).vlLimit = s.vlLimit := rfl
@[simp] theorem State.setLaunch_parts (s : State) (l : Nat) (x : Launch) : (s.setLaunch l x).parts = s.parts := rfl
@[simp] theorem State.setLaunch_shadow (s : State) (l : Nat) (x : Launch) : (s.setLaunch l x).shadow = s.shadow := rfl
@[simp] theorem State.setLaunch_moved (s : State) (l : Nat) (x : Launch) : (s.setLaunch l x).moved = s.moved := rfl
@[simp] theorem State.setLaunch_saved (s : State) (l : Nat) (x : Launch) : (s.setLaunch l x).saved = s.saved := rfl
@[simp] theorem State.setLaunch_ports (s : State) (l : Nat) (x : Launch) : (s.setLaunch l x).ports = s.ports := rfl
@[simp] theorem State.setLaunch_breaks (s : State) (l : Nat) (x : Launch) : (s.setLaunch l x).breaks = s.breaks := rfl
@[simp] theorem State.setLaunch_watches (s : State) (l : Nat) (x : Launch) : (s.setLaunch l x).watches = s.watches := rfl
@[simp] theorem State.setLaunch_owners (s : State) (l : Nat) (x : Launch) : (s.setLaunch l x).owners = s.owners := rfl
@[simp] theorem State.setLaunch_badMem (s : State) (l : Nat) (x : Launch) : (s.setLaunch l x).badMem = s.badMem := rfl
@[simp] theorem State.setLaunch_badSpad (s : State) (l : Nat) (x : Launch) : (s.setLaunch l x).badSpad = s.badSpad := rfl
@[simp] theorem State.setLaunch_owed (s : State) (l : Nat) (x : Launch) : (s.setLaunch l x).owed = s.owed := rfl
@[simp] theorem State.setLaunch_powered (s : State) (l : Nat) (x : Launch) : (s.setLaunch l x).powered = s.powered := rfl
@[simp] theorem State.setLaunch_warm (s : State) (l : Nat) (x : Launch) : (s.setLaunch l x).warm = s.warm := rfl
@[simp] theorem State.setLaunch_lkBoot (s : State) (l : Nat) (x : Launch) : (s.setLaunch l x).lkBoot = s.lkBoot := rfl
@[simp] theorem State.setLaunch_boots (s : State) (l : Nat) (x : Launch) : (s.setLaunch l x).boots = s.boots := rfl
@[simp] theorem State.setLaunch_firmware (s : State) (l : Nat) (x : Launch) : (s.setLaunch l x).firmware = s.firmware := rfl
@[simp] theorem State.setLaunch_frozen (s : State) (l : Nat) (x : Launch) : (s.setLaunch l x).frozen = s.frozen := rfl
@[simp] theorem State.setLaunch_agenda (s : State) (l : Nat) (x : Launch) : (s.setLaunch l x).agenda = s.agenda := rfl
@[simp] theorem State.setLaunch_cur (s : State) (l : Nat) (x : Launch) : (s.setLaunch l x).cur = s.cur := rfl
@[simp] theorem State.setLaunch_issue (s : State) (l : Nat) (x : Launch) : (s.setLaunch l x).issue = s.issue := rfl
@[simp] theorem State.setLaunch_cls (s : State) (l : Nat) (x : Launch) : (s.setLaunch l x).cls = s.cls := rfl
@[simp] theorem State.setLaunch_focus (s : State) (l : Nat) (x : Launch) : (s.setLaunch l x).focus = s.focus := rfl
@[simp] theorem State.setLaunch_free (s : State) (l : Nat) (x : Launch) : (s.setLaunch l x).free = s.free := rfl
@[simp] theorem State.setLaunch_uid (s : State) (l : Nat) (x : Launch) : (s.setLaunch l x).uid = s.uid := rfl

@[simp] theorem State.setPort_mem (s : State) (p : Nat) (x : Port) : (s.setPort p x).mem = s.mem := rfl
@[simp] theorem State.setPort_net (s : State) (p : Nat) (x : Port) : (s.setPort p x).net = s.net := rfl
@[simp] theorem State.setPort_cores (s : State) (p : Nat) (x : Port) : (s.setPort p x).cores = s.cores := rfl
@[simp] theorem State.setPort_clusters (s : State) (p : Nat) (x : Port) : (s.setPort p x).clusters = s.clusters := rfl
@[simp] theorem State.setPort_dies (s : State) (p : Nat) (x : Port) : (s.setPort p x).dies = s.dies := rfl
@[simp] theorem State.setPort_colours (s : State) (p : Nat) (x : Port) : (s.setPort p x).colours = s.colours := rfl
@[simp] theorem State.setPort_wpBase (s : State) (p : Nat) (x : Port) : (s.setPort p x).wpBase = s.wpBase := rfl
@[simp] theorem State.setPort_vlBase (s : State) (p : Nat) (x : Port) : (s.setPort p x).vlBase = s.vlBase := rfl
@[simp] theorem State.setPort_vlLimit (s : State) (p : Nat) (x : Port) : (s.setPort p x).vlLimit = s.vlLimit := rfl
@[simp] theorem State.setPort_launches (s : State) (p : Nat) (x : Port) : (s.setPort p x).launches = s.launches := rfl
@[simp] theorem State.setPort_parts (s : State) (p : Nat) (x : Port) : (s.setPort p x).parts = s.parts := rfl
@[simp] theorem State.setPort_shadow (s : State) (p : Nat) (x : Port) : (s.setPort p x).shadow = s.shadow := rfl
@[simp] theorem State.setPort_moved (s : State) (p : Nat) (x : Port) : (s.setPort p x).moved = s.moved := rfl
@[simp] theorem State.setPort_saved (s : State) (p : Nat) (x : Port) : (s.setPort p x).saved = s.saved := rfl
@[simp] theorem State.setPort_breaks (s : State) (p : Nat) (x : Port) : (s.setPort p x).breaks = s.breaks := rfl
@[simp] theorem State.setPort_watches (s : State) (p : Nat) (x : Port) : (s.setPort p x).watches = s.watches := rfl
@[simp] theorem State.setPort_owners (s : State) (p : Nat) (x : Port) : (s.setPort p x).owners = s.owners := rfl
@[simp] theorem State.setPort_badMem (s : State) (p : Nat) (x : Port) : (s.setPort p x).badMem = s.badMem := rfl
@[simp] theorem State.setPort_badSpad (s : State) (p : Nat) (x : Port) : (s.setPort p x).badSpad = s.badSpad := rfl
@[simp] theorem State.setPort_owed (s : State) (p : Nat) (x : Port) : (s.setPort p x).owed = s.owed := rfl
@[simp] theorem State.setPort_powered (s : State) (p : Nat) (x : Port) : (s.setPort p x).powered = s.powered := rfl
@[simp] theorem State.setPort_warm (s : State) (p : Nat) (x : Port) : (s.setPort p x).warm = s.warm := rfl
@[simp] theorem State.setPort_lkBoot (s : State) (p : Nat) (x : Port) : (s.setPort p x).lkBoot = s.lkBoot := rfl
@[simp] theorem State.setPort_boots (s : State) (p : Nat) (x : Port) : (s.setPort p x).boots = s.boots := rfl
@[simp] theorem State.setPort_firmware (s : State) (p : Nat) (x : Port) : (s.setPort p x).firmware = s.firmware := rfl
@[simp] theorem State.setPort_frozen (s : State) (p : Nat) (x : Port) : (s.setPort p x).frozen = s.frozen := rfl
@[simp] theorem State.setPort_agenda (s : State) (p : Nat) (x : Port) : (s.setPort p x).agenda = s.agenda := rfl
@[simp] theorem State.setPort_cur (s : State) (p : Nat) (x : Port) : (s.setPort p x).cur = s.cur := rfl
@[simp] theorem State.setPort_issue (s : State) (p : Nat) (x : Port) : (s.setPort p x).issue = s.issue := rfl
@[simp] theorem State.setPort_cls (s : State) (p : Nat) (x : Port) : (s.setPort p x).cls = s.cls := rfl
@[simp] theorem State.setPort_focus (s : State) (p : Nat) (x : Port) : (s.setPort p x).focus = s.focus := rfl
@[simp] theorem State.setPort_free (s : State) (p : Nat) (x : Port) : (s.setPort p x).free = s.free := rfl
@[simp] theorem State.setPort_uid (s : State) (p : Nat) (x : Port) : (s.setPort p x).uid = s.uid := rfl

@[simp] theorem State.send_mem (s : State) (m : Msg) : (s.send m).mem = s.mem := rfl
@[simp] theorem State.send_cores (s : State) (m : Msg) : (s.send m).cores = s.cores := rfl
@[simp] theorem State.send_clusters (s : State) (m : Msg) : (s.send m).clusters = s.clusters := rfl
@[simp] theorem State.send_dies (s : State) (m : Msg) : (s.send m).dies = s.dies := rfl
@[simp] theorem State.send_colours (s : State) (m : Msg) : (s.send m).colours = s.colours := rfl
@[simp] theorem State.send_wpBase (s : State) (m : Msg) : (s.send m).wpBase = s.wpBase := rfl
@[simp] theorem State.send_vlBase (s : State) (m : Msg) : (s.send m).vlBase = s.vlBase := rfl
@[simp] theorem State.send_vlLimit (s : State) (m : Msg) : (s.send m).vlLimit = s.vlLimit := rfl
@[simp] theorem State.send_launches (s : State) (m : Msg) : (s.send m).launches = s.launches := rfl
@[simp] theorem State.send_parts (s : State) (m : Msg) : (s.send m).parts = s.parts := rfl
@[simp] theorem State.send_shadow (s : State) (m : Msg) : (s.send m).shadow = s.shadow := rfl
@[simp] theorem State.send_moved (s : State) (m : Msg) : (s.send m).moved = s.moved := rfl
@[simp] theorem State.send_saved (s : State) (m : Msg) : (s.send m).saved = s.saved := rfl
@[simp] theorem State.send_ports (s : State) (m : Msg) : (s.send m).ports = s.ports := rfl
@[simp] theorem State.send_breaks (s : State) (m : Msg) : (s.send m).breaks = s.breaks := rfl
@[simp] theorem State.send_watches (s : State) (m : Msg) : (s.send m).watches = s.watches := rfl
@[simp] theorem State.send_owners (s : State) (m : Msg) : (s.send m).owners = s.owners := rfl
@[simp] theorem State.send_badMem (s : State) (m : Msg) : (s.send m).badMem = s.badMem := rfl
@[simp] theorem State.send_badSpad (s : State) (m : Msg) : (s.send m).badSpad = s.badSpad := rfl
@[simp] theorem State.send_owed (s : State) (m : Msg) : (s.send m).owed = s.owed := rfl
@[simp] theorem State.send_powered (s : State) (m : Msg) : (s.send m).powered = s.powered := rfl
@[simp] theorem State.send_warm (s : State) (m : Msg) : (s.send m).warm = s.warm := rfl
@[simp] theorem State.send_lkBoot (s : State) (m : Msg) : (s.send m).lkBoot = s.lkBoot := rfl
@[simp] theorem State.send_boots (s : State) (m : Msg) : (s.send m).boots = s.boots := rfl
@[simp] theorem State.send_firmware (s : State) (m : Msg) : (s.send m).firmware = s.firmware := rfl
@[simp] theorem State.send_frozen (s : State) (m : Msg) : (s.send m).frozen = s.frozen := rfl
@[simp] theorem State.send_agenda (s : State) (m : Msg) : (s.send m).agenda = s.agenda := rfl
@[simp] theorem State.send_cur (s : State) (m : Msg) : (s.send m).cur = s.cur := rfl
@[simp] theorem State.send_issue (s : State) (m : Msg) : (s.send m).issue = s.issue := rfl
@[simp] theorem State.send_cls (s : State) (m : Msg) : (s.send m).cls = s.cls := rfl
@[simp] theorem State.send_focus (s : State) (m : Msg) : (s.send m).focus = s.focus := rfl
@[simp] theorem State.send_free (s : State) (m : Msg) : (s.send m).free = s.free := rfl
@[simp] theorem State.send_uid (s : State) (m : Msg) : (s.send m).uid = s.uid := rfl

@[simp] theorem State.takeMsg_mem (s : State) (k : Nat) : (s.takeMsg k).mem = s.mem := rfl
@[simp] theorem State.takeMsg_cores (s : State) (k : Nat) : (s.takeMsg k).cores = s.cores := rfl
@[simp] theorem State.takeMsg_clusters (s : State) (k : Nat) : (s.takeMsg k).clusters = s.clusters := rfl
@[simp] theorem State.takeMsg_dies (s : State) (k : Nat) : (s.takeMsg k).dies = s.dies := rfl
@[simp] theorem State.takeMsg_colours (s : State) (k : Nat) : (s.takeMsg k).colours = s.colours := rfl
@[simp] theorem State.takeMsg_wpBase (s : State) (k : Nat) : (s.takeMsg k).wpBase = s.wpBase := rfl
@[simp] theorem State.takeMsg_vlBase (s : State) (k : Nat) : (s.takeMsg k).vlBase = s.vlBase := rfl
@[simp] theorem State.takeMsg_vlLimit (s : State) (k : Nat) : (s.takeMsg k).vlLimit = s.vlLimit := rfl
@[simp] theorem State.takeMsg_launches (s : State) (k : Nat) : (s.takeMsg k).launches = s.launches := rfl
@[simp] theorem State.takeMsg_parts (s : State) (k : Nat) : (s.takeMsg k).parts = s.parts := rfl
@[simp] theorem State.takeMsg_shadow (s : State) (k : Nat) : (s.takeMsg k).shadow = s.shadow := rfl
@[simp] theorem State.takeMsg_moved (s : State) (k : Nat) : (s.takeMsg k).moved = s.moved := rfl
@[simp] theorem State.takeMsg_saved (s : State) (k : Nat) : (s.takeMsg k).saved = s.saved := rfl
@[simp] theorem State.takeMsg_ports (s : State) (k : Nat) : (s.takeMsg k).ports = s.ports := rfl
@[simp] theorem State.takeMsg_breaks (s : State) (k : Nat) : (s.takeMsg k).breaks = s.breaks := rfl
@[simp] theorem State.takeMsg_watches (s : State) (k : Nat) : (s.takeMsg k).watches = s.watches := rfl
@[simp] theorem State.takeMsg_owners (s : State) (k : Nat) : (s.takeMsg k).owners = s.owners := rfl
@[simp] theorem State.takeMsg_badMem (s : State) (k : Nat) : (s.takeMsg k).badMem = s.badMem := rfl
@[simp] theorem State.takeMsg_badSpad (s : State) (k : Nat) : (s.takeMsg k).badSpad = s.badSpad := rfl
@[simp] theorem State.takeMsg_owed (s : State) (k : Nat) : (s.takeMsg k).owed = s.owed := rfl
@[simp] theorem State.takeMsg_powered (s : State) (k : Nat) : (s.takeMsg k).powered = s.powered := rfl
@[simp] theorem State.takeMsg_warm (s : State) (k : Nat) : (s.takeMsg k).warm = s.warm := rfl
@[simp] theorem State.takeMsg_lkBoot (s : State) (k : Nat) : (s.takeMsg k).lkBoot = s.lkBoot := rfl
@[simp] theorem State.takeMsg_boots (s : State) (k : Nat) : (s.takeMsg k).boots = s.boots := rfl
@[simp] theorem State.takeMsg_firmware (s : State) (k : Nat) : (s.takeMsg k).firmware = s.firmware := rfl
@[simp] theorem State.takeMsg_frozen (s : State) (k : Nat) : (s.takeMsg k).frozen = s.frozen := rfl
@[simp] theorem State.takeMsg_agenda (s : State) (k : Nat) : (s.takeMsg k).agenda = s.agenda := rfl
@[simp] theorem State.takeMsg_cur (s : State) (k : Nat) : (s.takeMsg k).cur = s.cur := rfl
@[simp] theorem State.takeMsg_issue (s : State) (k : Nat) : (s.takeMsg k).issue = s.issue := rfl
@[simp] theorem State.takeMsg_cls (s : State) (k : Nat) : (s.takeMsg k).cls = s.cls := rfl
@[simp] theorem State.takeMsg_focus (s : State) (k : Nat) : (s.takeMsg k).focus = s.focus := rfl
@[simp] theorem State.takeMsg_free (s : State) (k : Nat) : (s.takeMsg k).free = s.free := rfl
@[simp] theorem State.takeMsg_uid (s : State) (k : Nat) : (s.takeMsg k).uid = s.uid := rfl

@[simp] theorem State.bumpUid_mem (s : State) : (s.bumpUid).mem = s.mem := rfl
@[simp] theorem State.bumpUid_net (s : State) : (s.bumpUid).net = s.net := rfl
@[simp] theorem State.bumpUid_cores (s : State) : (s.bumpUid).cores = s.cores := rfl
@[simp] theorem State.bumpUid_clusters (s : State) : (s.bumpUid).clusters = s.clusters := rfl
@[simp] theorem State.bumpUid_dies (s : State) : (s.bumpUid).dies = s.dies := rfl
@[simp] theorem State.bumpUid_colours (s : State) : (s.bumpUid).colours = s.colours := rfl
@[simp] theorem State.bumpUid_wpBase (s : State) : (s.bumpUid).wpBase = s.wpBase := rfl
@[simp] theorem State.bumpUid_vlBase (s : State) : (s.bumpUid).vlBase = s.vlBase := rfl
@[simp] theorem State.bumpUid_vlLimit (s : State) : (s.bumpUid).vlLimit = s.vlLimit := rfl
@[simp] theorem State.bumpUid_launches (s : State) : (s.bumpUid).launches = s.launches := rfl
@[simp] theorem State.bumpUid_parts (s : State) : (s.bumpUid).parts = s.parts := rfl
@[simp] theorem State.bumpUid_shadow (s : State) : (s.bumpUid).shadow = s.shadow := rfl
@[simp] theorem State.bumpUid_moved (s : State) : (s.bumpUid).moved = s.moved := rfl
@[simp] theorem State.bumpUid_saved (s : State) : (s.bumpUid).saved = s.saved := rfl
@[simp] theorem State.bumpUid_ports (s : State) : (s.bumpUid).ports = s.ports := rfl
@[simp] theorem State.bumpUid_breaks (s : State) : (s.bumpUid).breaks = s.breaks := rfl
@[simp] theorem State.bumpUid_watches (s : State) : (s.bumpUid).watches = s.watches := rfl
@[simp] theorem State.bumpUid_owners (s : State) : (s.bumpUid).owners = s.owners := rfl
@[simp] theorem State.bumpUid_badMem (s : State) : (s.bumpUid).badMem = s.badMem := rfl
@[simp] theorem State.bumpUid_badSpad (s : State) : (s.bumpUid).badSpad = s.badSpad := rfl
@[simp] theorem State.bumpUid_owed (s : State) : (s.bumpUid).owed = s.owed := rfl
@[simp] theorem State.bumpUid_powered (s : State) : (s.bumpUid).powered = s.powered := rfl
@[simp] theorem State.bumpUid_warm (s : State) : (s.bumpUid).warm = s.warm := rfl
@[simp] theorem State.bumpUid_lkBoot (s : State) : (s.bumpUid).lkBoot = s.lkBoot := rfl
@[simp] theorem State.bumpUid_boots (s : State) : (s.bumpUid).boots = s.boots := rfl
@[simp] theorem State.bumpUid_firmware (s : State) : (s.bumpUid).firmware = s.firmware := rfl
@[simp] theorem State.bumpUid_frozen (s : State) : (s.bumpUid).frozen = s.frozen := rfl
@[simp] theorem State.bumpUid_agenda (s : State) : (s.bumpUid).agenda = s.agenda := rfl
@[simp] theorem State.bumpUid_cur (s : State) : (s.bumpUid).cur = s.cur := rfl
@[simp] theorem State.bumpUid_issue (s : State) : (s.bumpUid).issue = s.issue := rfl
@[simp] theorem State.bumpUid_cls (s : State) : (s.bumpUid).cls = s.cls := rfl
@[simp] theorem State.bumpUid_focus (s : State) : (s.bumpUid).focus = s.focus := rfl
@[simp] theorem State.bumpUid_free (s : State) : (s.bumpUid).free = s.free := rfl

@[simp] theorem State.bumpFree_mem (s : State) : (s.bumpFree).mem = s.mem := rfl
@[simp] theorem State.bumpFree_net (s : State) : (s.bumpFree).net = s.net := rfl
@[simp] theorem State.bumpFree_cores (s : State) : (s.bumpFree).cores = s.cores := rfl
@[simp] theorem State.bumpFree_clusters (s : State) : (s.bumpFree).clusters = s.clusters := rfl
@[simp] theorem State.bumpFree_dies (s : State) : (s.bumpFree).dies = s.dies := rfl
@[simp] theorem State.bumpFree_colours (s : State) : (s.bumpFree).colours = s.colours := rfl
@[simp] theorem State.bumpFree_wpBase (s : State) : (s.bumpFree).wpBase = s.wpBase := rfl
@[simp] theorem State.bumpFree_vlBase (s : State) : (s.bumpFree).vlBase = s.vlBase := rfl
@[simp] theorem State.bumpFree_vlLimit (s : State) : (s.bumpFree).vlLimit = s.vlLimit := rfl
@[simp] theorem State.bumpFree_launches (s : State) : (s.bumpFree).launches = s.launches := rfl
@[simp] theorem State.bumpFree_parts (s : State) : (s.bumpFree).parts = s.parts := rfl
@[simp] theorem State.bumpFree_shadow (s : State) : (s.bumpFree).shadow = s.shadow := rfl
@[simp] theorem State.bumpFree_moved (s : State) : (s.bumpFree).moved = s.moved := rfl
@[simp] theorem State.bumpFree_saved (s : State) : (s.bumpFree).saved = s.saved := rfl
@[simp] theorem State.bumpFree_ports (s : State) : (s.bumpFree).ports = s.ports := rfl
@[simp] theorem State.bumpFree_breaks (s : State) : (s.bumpFree).breaks = s.breaks := rfl
@[simp] theorem State.bumpFree_watches (s : State) : (s.bumpFree).watches = s.watches := rfl
@[simp] theorem State.bumpFree_owners (s : State) : (s.bumpFree).owners = s.owners := rfl
@[simp] theorem State.bumpFree_badMem (s : State) : (s.bumpFree).badMem = s.badMem := rfl
@[simp] theorem State.bumpFree_badSpad (s : State) : (s.bumpFree).badSpad = s.badSpad := rfl
@[simp] theorem State.bumpFree_owed (s : State) : (s.bumpFree).owed = s.owed := rfl
@[simp] theorem State.bumpFree_powered (s : State) : (s.bumpFree).powered = s.powered := rfl
@[simp] theorem State.bumpFree_warm (s : State) : (s.bumpFree).warm = s.warm := rfl
@[simp] theorem State.bumpFree_lkBoot (s : State) : (s.bumpFree).lkBoot = s.lkBoot := rfl
@[simp] theorem State.bumpFree_boots (s : State) : (s.bumpFree).boots = s.boots := rfl
@[simp] theorem State.bumpFree_firmware (s : State) : (s.bumpFree).firmware = s.firmware := rfl
@[simp] theorem State.bumpFree_frozen (s : State) : (s.bumpFree).frozen = s.frozen := rfl
@[simp] theorem State.bumpFree_agenda (s : State) : (s.bumpFree).agenda = s.agenda := rfl
@[simp] theorem State.bumpFree_cur (s : State) : (s.bumpFree).cur = s.cur := rfl
@[simp] theorem State.bumpFree_issue (s : State) : (s.bumpFree).issue = s.issue := rfl
@[simp] theorem State.bumpFree_cls (s : State) : (s.bumpFree).cls = s.cls := rfl
@[simp] theorem State.bumpFree_focus (s : State) : (s.bumpFree).focus = s.focus := rfl
@[simp] theorem State.bumpFree_uid (s : State) : (s.bumpFree).uid = s.uid := rfl

@[simp] theorem State.memWrite_net (s : State) (bs : List (Nat × Byte)) : (s.memWrite bs).net = s.net := rfl
@[simp] theorem State.memWrite_cores (s : State) (bs : List (Nat × Byte)) : (s.memWrite bs).cores = s.cores := rfl
@[simp] theorem State.memWrite_clusters (s : State) (bs : List (Nat × Byte)) : (s.memWrite bs).clusters = s.clusters := rfl
@[simp] theorem State.memWrite_dies (s : State) (bs : List (Nat × Byte)) : (s.memWrite bs).dies = s.dies := rfl
@[simp] theorem State.memWrite_colours (s : State) (bs : List (Nat × Byte)) : (s.memWrite bs).colours = s.colours := rfl
@[simp] theorem State.memWrite_wpBase (s : State) (bs : List (Nat × Byte)) : (s.memWrite bs).wpBase = s.wpBase := rfl
@[simp] theorem State.memWrite_vlBase (s : State) (bs : List (Nat × Byte)) : (s.memWrite bs).vlBase = s.vlBase := rfl
@[simp] theorem State.memWrite_vlLimit (s : State) (bs : List (Nat × Byte)) : (s.memWrite bs).vlLimit = s.vlLimit := rfl
@[simp] theorem State.memWrite_launches (s : State) (bs : List (Nat × Byte)) : (s.memWrite bs).launches = s.launches := rfl
@[simp] theorem State.memWrite_parts (s : State) (bs : List (Nat × Byte)) : (s.memWrite bs).parts = s.parts := rfl
@[simp] theorem State.memWrite_shadow (s : State) (bs : List (Nat × Byte)) : (s.memWrite bs).shadow = s.shadow := rfl
@[simp] theorem State.memWrite_moved (s : State) (bs : List (Nat × Byte)) : (s.memWrite bs).moved = s.moved := rfl
@[simp] theorem State.memWrite_saved (s : State) (bs : List (Nat × Byte)) : (s.memWrite bs).saved = s.saved := rfl
@[simp] theorem State.memWrite_ports (s : State) (bs : List (Nat × Byte)) : (s.memWrite bs).ports = s.ports := rfl
@[simp] theorem State.memWrite_breaks (s : State) (bs : List (Nat × Byte)) : (s.memWrite bs).breaks = s.breaks := rfl
@[simp] theorem State.memWrite_watches (s : State) (bs : List (Nat × Byte)) : (s.memWrite bs).watches = s.watches := rfl
@[simp] theorem State.memWrite_owners (s : State) (bs : List (Nat × Byte)) : (s.memWrite bs).owners = s.owners := rfl
@[simp] theorem State.memWrite_badMem (s : State) (bs : List (Nat × Byte)) : (s.memWrite bs).badMem = s.badMem := rfl
@[simp] theorem State.memWrite_badSpad (s : State) (bs : List (Nat × Byte)) : (s.memWrite bs).badSpad = s.badSpad := rfl
@[simp] theorem State.memWrite_owed (s : State) (bs : List (Nat × Byte)) : (s.memWrite bs).owed = s.owed := rfl
@[simp] theorem State.memWrite_powered (s : State) (bs : List (Nat × Byte)) : (s.memWrite bs).powered = s.powered := rfl
@[simp] theorem State.memWrite_warm (s : State) (bs : List (Nat × Byte)) : (s.memWrite bs).warm = s.warm := rfl
@[simp] theorem State.memWrite_lkBoot (s : State) (bs : List (Nat × Byte)) : (s.memWrite bs).lkBoot = s.lkBoot := rfl
@[simp] theorem State.memWrite_boots (s : State) (bs : List (Nat × Byte)) : (s.memWrite bs).boots = s.boots := rfl
@[simp] theorem State.memWrite_firmware (s : State) (bs : List (Nat × Byte)) : (s.memWrite bs).firmware = s.firmware := rfl
@[simp] theorem State.memWrite_frozen (s : State) (bs : List (Nat × Byte)) : (s.memWrite bs).frozen = s.frozen := rfl
@[simp] theorem State.memWrite_agenda (s : State) (bs : List (Nat × Byte)) : (s.memWrite bs).agenda = s.agenda := rfl
@[simp] theorem State.memWrite_cur (s : State) (bs : List (Nat × Byte)) : (s.memWrite bs).cur = s.cur := rfl
@[simp] theorem State.memWrite_issue (s : State) (bs : List (Nat × Byte)) : (s.memWrite bs).issue = s.issue := rfl
@[simp] theorem State.memWrite_cls (s : State) (bs : List (Nat × Byte)) : (s.memWrite bs).cls = s.cls := rfl
@[simp] theorem State.memWrite_focus (s : State) (bs : List (Nat × Byte)) : (s.memWrite bs).focus = s.focus := rfl
@[simp] theorem State.memWrite_free (s : State) (bs : List (Nat × Byte)) : (s.memWrite bs).free = s.free := rfl
@[simp] theorem State.memWrite_uid (s : State) (bs : List (Nat × Byte)) : (s.memWrite bs).uid = s.uid := rfl

@[simp] theorem Core.setThread_cyc (c : Core) (slot : Nat) (t : Option Thread) : (c.setThread slot t).cyc = c.cyc := rfl
@[simp] theorem Core.setThread_stop (c : Core) (slot : Nat) (t : Option Thread) : (c.setThread slot t).stop = c.stop := rfl
@[simp] theorem Core.setThread_peCol (c : Core) (slot : Nat) (t : Option Thread) : (c.setThread slot t).peCol = c.peCol := rfl
@[simp] theorem Core.setThread_mcCause (c : Core) (slot : Nat) (t : Option Thread) : (c.setThread slot t).mcCause = c.mcCause := rfl
@[simp] theorem Core.setThread_mcSlot (c : Core) (slot : Nat) (t : Option Thread) : (c.setThread slot t).mcSlot = c.mcSlot := rfl
@[simp] theorem Core.setThread_checked (c : Core) (slot : Nat) (t : Option Thread) : (c.setThread slot t).checked = c.checked := rfl
@[simp] theorem Core.setThread_arrivals (c : Core) (slot : Nat) (t : Option Thread) : (c.setThread slot t).arrivals = c.arrivals := rfl
@[simp] theorem Core.setThread_q (c : Core) (slot : Nat) (t : Option Thread) : (c.setThread slot t).q = c.q := rfl
@[simp] theorem Core.setThread_nin (c : Core) (slot : Nat) (t : Option Thread) : (c.setThread slot t).nin = c.nin := rfl
@[simp] theorem Core.setThread_n4 (c : Core) (slot : Nat) (t : Option Thread) : (c.setThread slot t).n4 = c.n4 := rfl
@[simp] theorem Core.setThread_inbox (c : Core) (slot : Nat) (t : Option Thread) : (c.setThread slot t).inbox = c.inbox := rfl
@[simp] theorem Core.setThread_lines (c : Core) (slot : Nat) (t : Option Thread) : (c.setThread slot t).lines = c.lines := rfl
@[simp] theorem Core.setThread_fetches (c : Core) (slot : Nat) (t : Option Thread) : (c.setThread slot t).fetches = c.fetches := rfl
@[simp] theorem Core.setThread_tlb (c : Core) (slot : Nat) (t : Option Thread) : (c.setThread slot t).tlb = c.tlb := rfl
@[simp] theorem Core.setThread_walks (c : Core) (slot : Nat) (t : Option Thread) : (c.setThread slot t).walks = c.walks := rfl
@[simp] theorem Core.setThread_spad (c : Core) (slot : Nat) (t : Option Thread) : (c.setThread slot t).spad = c.spad := rfl
@[simp] theorem Core.setThread_fresh (c : Core) (slot : Nat) (t : Option Thread) : (c.setThread slot t).fresh = c.fresh := rfl
@[simp] theorem Core.setThread_teams (c : Core) (slot : Nat) (t : Option Thread) : (c.setThread slot t).teams = c.teams := rfl
@[simp] theorem Core.setThread_tiles (c : Core) (slot : Nat) (t : Option Thread) : (c.setThread slot t).tiles = c.tiles := rfl
@[simp] theorem Core.setThread_slots (c : Core) (slot : Nat) (t : Option Thread) : (c.setThread slot t).slots = c.slots := rfl
@[simp] theorem Core.setThread_queue (c : Core) (slot : Nat) (t : Option Thread) : (c.setThread slot t).queue = c.queue := rfl
@[simp] theorem Core.setThread_active (c : Core) (slot : Nat) (t : Option Thread) : (c.setThread slot t).active = c.active := rfl
@[simp] theorem Core.setThread_guest (c : Core) (slot : Nat) (t : Option Thread) : (c.setThread slot t).guest = c.guest := rfl
@[simp] theorem Core.setThread_copies (c : Core) (slot : Nat) (t : Option Thread) : (c.setThread slot t).copies = c.copies := rfl
@[simp] theorem Core.setThread_seq (c : Core) (slot : Nat) (t : Option Thread) : (c.setThread slot t).seq = c.seq := rfl
@[simp] theorem Core.setThread_window (c : Core) (slot : Nat) (t : Option Thread) : (c.setThread slot t).window = c.window := rfl
@[simp] theorem Core.setThread_winner (c : Core) (slot : Nat) (t : Option Thread) : (c.setThread slot t).winner = c.winner := rfl
@[simp] theorem Core.setThread_traffic (c : Core) (slot : Nat) (t : Option Thread) : (c.setThread slot t).traffic = c.traffic := rfl
@[simp] theorem Core.setThread_sent (c : Core) (slot : Nat) (t : Option Thread) : (c.setThread slot t).sent = c.sent := rfl
@[simp] theorem Core.setThread_records (c : Core) (slot : Nat) (t : Option Thread) : (c.setThread slot t).records = c.records := rfl
@[simp] theorem Core.setThread_bar (c : Core) (slot : Nat) (t : Option Thread) : (c.setThread slot t).bar = c.bar := rfl
@[simp] theorem Core.setThread_offer (c : Core) (slot : Nat) (t : Option Thread) : (c.setThread slot t).offer = c.offer := rfl
@[simp] theorem Core.setThread_offerIn (c : Core) (slot : Nat) (t : Option Thread) : (c.setThread slot t).offerIn = c.offerIn := rfl
@[simp] theorem Core.setThread_swapDue (c : Core) (slot : Nat) (t : Option Thread) : (c.setThread slot t).swapDue = c.swapDue := rfl
@[simp] theorem Core.setThread_tickets (c : Core) (slot : Nat) (t : Option Thread) : (c.setThread slot t).tickets = c.tickets := rfl
@[simp] theorem Core.setThread_held (c : Core) (slot : Nat) (t : Option Thread) : (c.setThread slot t).held = c.held := rfl
@[simp] theorem Core.setThread_counts (c : Core) (slot : Nat) (t : Option Thread) : (c.setThread slot t).counts = c.counts := rfl
@[simp] theorem Core.setThread_hist (c : Core) (slot : Nat) (t : Option Thread) : (c.setThread slot t).hist = c.hist := rfl
@[simp] theorem Core.setThread_ready (c : Core) (slot : Nat) (t : Option Thread) : (c.setThread slot t).ready = c.ready := rfl
@[simp] theorem Core.setThread_sampled (c : Core) (slot : Nat) (t : Option Thread) : (c.setThread slot t).sampled = c.sampled := rfl
@[simp] theorem Core.setThread_away (c : Core) (slot : Nat) (t : Option Thread) : (c.setThread slot t).away = c.away := rfl
@[simp] theorem Core.setThread_ibRel (c : Core) (slot : Nat) (t : Option Thread) : (c.setThread slot t).ibRel = c.ibRel := rfl

@[simp] theorem Thread.putD_tid (t : Thread) (i : Fin 16) (w : Word) : (t.putD i w).tid = t.tid := rfl
@[simp] theorem Thread.putD_colour (t : Thread) (i : Fin 16) (w : Word) : (t.putD i w).colour = t.colour := rfl
@[simp] theorem Thread.putD_wid (t : Thread) (i : Fin 16) (w : Word) : (t.putD i w).wid = t.wid := rfl
@[simp] theorem Thread.putD_launch (t : Thread) (i : Fin 16) (w : Word) : (t.putD i w).launch = t.launch := rfl
@[simp] theorem Thread.putD_team (t : Thread) (i : Fin 16) (w : Word) : (t.putD i w).team = t.team := rfl
@[simp] theorem Thread.putD_pc (t : Thread) (i : Fin 16) (w : Word) : (t.putD i w).pc = t.pc := rfl
@[simp] theorem Thread.putD_dpend (t : Thread) (i : Fin 16) (w : Word) : (t.putD i w).dpend = t.dpend := rfl
@[simp] theorem Thread.putD_v (t : Thread) (i : Fin 16) (w : Word) : (t.putD i w).v = t.v := rfl
@[simp] theorem Thread.putD_vfull (t : Thread) (i : Fin 16) (w : Word) : (t.putD i w).vfull = t.vfull := rfl
@[simp] theorem Thread.putD_vowed (t : Thread) (i : Fin 16) (w : Word) : (t.putD i w).vowed = t.vowed := rfl
@[simp] theorem Thread.putD_halves (t : Thread) (i : Fin 16) (w : Word) : (t.putD i w).halves = t.halves := rfl
@[simp] theorem Thread.putD_pval (t : Thread) (i : Fin 16) (w : Word) : (t.putD i w).pval = t.pval := rfl
@[simp] theorem Thread.putD_pres (t : Thread) (i : Fin 16) (w : Word) : (t.putD i w).pres = t.pres := rfl
@[simp] theorem Thread.putD_pans (t : Thread) (i : Fin 16) (w : Word) : (t.putD i w).pans = t.pans := rfl
@[simp] theorem Thread.putD_w (t : Thread) (i : Fin 16) (w : Word) : (t.putD i w).w = t.w := rfl
@[simp] theorem Thread.putD_flags (t : Thread) (i : Fin 16) (w : Word) : (t.putD i w).flags = t.flags := rfl
@[simp] theorem Thread.putD_cp (t : Thread) (i : Fin 16) (w : Word) : (t.putD i w).cp = t.cp := rfl
@[simp] theorem Thread.putD_ibWord (t : Thread) (i : Fin 16) (w : Word) : (t.putD i w).ibWord = t.ibWord := rfl
@[simp] theorem Thread.putD_ibSrc (t : Thread) (i : Fin 16) (w : Word) : (t.putD i w).ibSrc = t.ibSrc := rfl
@[simp] theorem Thread.putD_tr (t : Thread) (i : Fin 16) (w : Word) : (t.putD i w).tr = t.tr := rfl
@[simp] theorem Thread.putD_streams (t : Thread) (i : Fin 16) (w : Word) : (t.putD i w).streams = t.streams := rfl
@[simp] theorem Thread.putD_outst (t : Thread) (i : Fin 16) (w : Word) : (t.putD i w).outst = t.outst := rfl
@[simp] theorem Thread.putD_loads (t : Thread) (i : Fin 16) (w : Word) : (t.putD i w).loads = t.loads := rfl
@[simp] theorem Thread.putD_hold (t : Thread) (i : Fin 16) (w : Word) : (t.putD i w).hold = t.hold := rfl
@[simp] theorem Thread.putD_nonret (t : Thread) (i : Fin 16) (w : Word) : (t.putD i w).nonret = t.nonret := rfl
@[simp] theorem Thread.putD_waitAns (t : Thread) (i : Fin 16) (w : Word) : (t.putD i w).waitAns = t.waitAns := rfl
@[simp] theorem Thread.putD_kvOut (t : Thread) (i : Fin 16) (w : Word) : (t.putD i w).kvOut = t.kvOut := rfl
@[simp] theorem Thread.putD_kv (t : Thread) (i : Fin 16) (w : Word) : (t.putD i w).kv = t.kv := rfl
@[simp] theorem Thread.putD_release (t : Thread) (i : Fin 16) (w : Word) : (t.putD i w).release = t.release := rfl
@[simp] theorem Thread.putD_entry (t : Thread) (i : Fin 16) (w : Word) : (t.putD i w).entry = t.entry := rfl
@[simp] theorem Thread.putD_vector (t : Thread) (i : Fin 16) (w : Word) : (t.putD i w).vector = t.vector := rfl
@[simp] theorem Thread.putD_reports (t : Thread) (i : Fin 16) (w : Word) : (t.putD i w).reports = t.reports := rfl
@[simp] theorem Thread.putD_ovf (t : Thread) (i : Fin 16) (w : Word) : (t.putD i w).ovf = t.ovf := rfl
@[simp] theorem Thread.putD_park (t : Thread) (i : Fin 16) (w : Word) : (t.putD i w).park = t.park := rfl
@[simp] theorem Thread.putD_fromWin (t : Thread) (i : Fin 16) (w : Word) : (t.putD i w).fromWin = t.fromWin := rfl
@[simp] theorem Thread.putD_handed (t : Thread) (i : Fin 16) (w : Word) : (t.putD i w).handed = t.handed := rfl
@[simp] theorem Thread.putD_halted (t : Thread) (i : Fin 16) (w : Word) : (t.putD i w).halted = t.halted := rfl
@[simp] theorem Thread.putD_haltReq (t : Thread) (i : Fin 16) (w : Word) : (t.putD i w).haltReq = t.haltReq := rfl
@[simp] theorem Thread.putD_steps (t : Thread) (i : Fin 16) (w : Word) : (t.putD i w).steps = t.steps := rfl
@[simp] theorem Thread.putD_pass (t : Thread) (i : Fin 16) (w : Word) : (t.putD i w).pass = t.pass := rfl
@[simp] theorem Thread.putD_gang (t : Thread) (i : Fin 16) (w : Word) : (t.putD i w).gang = t.gang := rfl
@[simp] theorem Thread.putD_arrived (t : Thread) (i : Fin 16) (w : Word) : (t.putD i w).arrived = t.arrived := rfl
@[simp] theorem Thread.putD_retry (t : Thread) (i : Fin 16) (w : Word) : (t.putD i w).retry = t.retry := rfl
@[simp] theorem Thread.putD_second (t : Thread) (i : Fin 16) (w : Word) : (t.putD i w).second = t.second := rfl
@[simp] theorem Thread.putD_taken (t : Thread) (i : Fin 16) (w : Word) : (t.putD i w).taken = t.taken := rfl
@[simp] theorem Thread.putD_denied (t : Thread) (i : Fin 16) (w : Word) : (t.putD i w).denied = t.denied := rfl
@[simp] theorem Thread.putD_trapped (t : Thread) (i : Fin 16) (w : Word) : (t.putD i w).trapped = t.trapped := rfl

@[simp] theorem Thread.putV_tid (t : Thread) (i : Fin 8) (v : VReg) : (t.putV i v).tid = t.tid := rfl
@[simp] theorem Thread.putV_colour (t : Thread) (i : Fin 8) (v : VReg) : (t.putV i v).colour = t.colour := rfl
@[simp] theorem Thread.putV_wid (t : Thread) (i : Fin 8) (v : VReg) : (t.putV i v).wid = t.wid := rfl
@[simp] theorem Thread.putV_launch (t : Thread) (i : Fin 8) (v : VReg) : (t.putV i v).launch = t.launch := rfl
@[simp] theorem Thread.putV_team (t : Thread) (i : Fin 8) (v : VReg) : (t.putV i v).team = t.team := rfl
@[simp] theorem Thread.putV_pc (t : Thread) (i : Fin 8) (v : VReg) : (t.putV i v).pc = t.pc := rfl
@[simp] theorem Thread.putV_d (t : Thread) (i : Fin 8) (v : VReg) : (t.putV i v).d = t.d := rfl
@[simp] theorem Thread.putV_dfull (t : Thread) (i : Fin 8) (v : VReg) : (t.putV i v).dfull = t.dfull := rfl
@[simp] theorem Thread.putV_dpend (t : Thread) (i : Fin 8) (v : VReg) : (t.putV i v).dpend = t.dpend := rfl
@[simp] theorem Thread.putV_vowed (t : Thread) (i : Fin 8) (v : VReg) : (t.putV i v).vowed = t.vowed := rfl
@[simp] theorem Thread.putV_halves (t : Thread) (i : Fin 8) (v : VReg) : (t.putV i v).halves = t.halves := rfl
@[simp] theorem Thread.putV_pval (t : Thread) (i : Fin 8) (v : VReg) : (t.putV i v).pval = t.pval := rfl
@[simp] theorem Thread.putV_pres (t : Thread) (i : Fin 8) (v : VReg) : (t.putV i v).pres = t.pres := rfl
@[simp] theorem Thread.putV_pans (t : Thread) (i : Fin 8) (v : VReg) : (t.putV i v).pans = t.pans := rfl
@[simp] theorem Thread.putV_w (t : Thread) (i : Fin 8) (v : VReg) : (t.putV i v).w = t.w := rfl
@[simp] theorem Thread.putV_flags (t : Thread) (i : Fin 8) (v : VReg) : (t.putV i v).flags = t.flags := rfl
@[simp] theorem Thread.putV_cp (t : Thread) (i : Fin 8) (v : VReg) : (t.putV i v).cp = t.cp := rfl
@[simp] theorem Thread.putV_ibWord (t : Thread) (i : Fin 8) (v : VReg) : (t.putV i v).ibWord = t.ibWord := rfl
@[simp] theorem Thread.putV_ibSrc (t : Thread) (i : Fin 8) (v : VReg) : (t.putV i v).ibSrc = t.ibSrc := rfl
@[simp] theorem Thread.putV_tr (t : Thread) (i : Fin 8) (v : VReg) : (t.putV i v).tr = t.tr := rfl
@[simp] theorem Thread.putV_streams (t : Thread) (i : Fin 8) (v : VReg) : (t.putV i v).streams = t.streams := rfl
@[simp] theorem Thread.putV_outst (t : Thread) (i : Fin 8) (v : VReg) : (t.putV i v).outst = t.outst := rfl
@[simp] theorem Thread.putV_loads (t : Thread) (i : Fin 8) (v : VReg) : (t.putV i v).loads = t.loads := rfl
@[simp] theorem Thread.putV_hold (t : Thread) (i : Fin 8) (v : VReg) : (t.putV i v).hold = t.hold := rfl
@[simp] theorem Thread.putV_nonret (t : Thread) (i : Fin 8) (v : VReg) : (t.putV i v).nonret = t.nonret := rfl
@[simp] theorem Thread.putV_waitAns (t : Thread) (i : Fin 8) (v : VReg) : (t.putV i v).waitAns = t.waitAns := rfl
@[simp] theorem Thread.putV_kvOut (t : Thread) (i : Fin 8) (v : VReg) : (t.putV i v).kvOut = t.kvOut := rfl
@[simp] theorem Thread.putV_kv (t : Thread) (i : Fin 8) (v : VReg) : (t.putV i v).kv = t.kv := rfl
@[simp] theorem Thread.putV_release (t : Thread) (i : Fin 8) (v : VReg) : (t.putV i v).release = t.release := rfl
@[simp] theorem Thread.putV_entry (t : Thread) (i : Fin 8) (v : VReg) : (t.putV i v).entry = t.entry := rfl
@[simp] theorem Thread.putV_vector (t : Thread) (i : Fin 8) (v : VReg) : (t.putV i v).vector = t.vector := rfl
@[simp] theorem Thread.putV_reports (t : Thread) (i : Fin 8) (v : VReg) : (t.putV i v).reports = t.reports := rfl
@[simp] theorem Thread.putV_ovf (t : Thread) (i : Fin 8) (v : VReg) : (t.putV i v).ovf = t.ovf := rfl
@[simp] theorem Thread.putV_park (t : Thread) (i : Fin 8) (v : VReg) : (t.putV i v).park = t.park := rfl
@[simp] theorem Thread.putV_fromWin (t : Thread) (i : Fin 8) (v : VReg) : (t.putV i v).fromWin = t.fromWin := rfl
@[simp] theorem Thread.putV_handed (t : Thread) (i : Fin 8) (v : VReg) : (t.putV i v).handed = t.handed := rfl
@[simp] theorem Thread.putV_halted (t : Thread) (i : Fin 8) (v : VReg) : (t.putV i v).halted = t.halted := rfl
@[simp] theorem Thread.putV_haltReq (t : Thread) (i : Fin 8) (v : VReg) : (t.putV i v).haltReq = t.haltReq := rfl
@[simp] theorem Thread.putV_steps (t : Thread) (i : Fin 8) (v : VReg) : (t.putV i v).steps = t.steps := rfl
@[simp] theorem Thread.putV_pass (t : Thread) (i : Fin 8) (v : VReg) : (t.putV i v).pass = t.pass := rfl
@[simp] theorem Thread.putV_gang (t : Thread) (i : Fin 8) (v : VReg) : (t.putV i v).gang = t.gang := rfl
@[simp] theorem Thread.putV_arrived (t : Thread) (i : Fin 8) (v : VReg) : (t.putV i v).arrived = t.arrived := rfl
@[simp] theorem Thread.putV_retry (t : Thread) (i : Fin 8) (v : VReg) : (t.putV i v).retry = t.retry := rfl
@[simp] theorem Thread.putV_second (t : Thread) (i : Fin 8) (v : VReg) : (t.putV i v).second = t.second := rfl
@[simp] theorem Thread.putV_taken (t : Thread) (i : Fin 8) (v : VReg) : (t.putV i v).taken = t.taken := rfl
@[simp] theorem Thread.putV_denied (t : Thread) (i : Fin 8) (v : VReg) : (t.putV i v).denied = t.denied := rfl
@[simp] theorem Thread.putV_trapped (t : Thread) (i : Fin 8) (v : VReg) : (t.putV i v).trapped = t.trapped := rfl

@[simp] theorem Thread.pendD_tid (t : Thread) (i : Fin 16) : (t.pendD i).tid = t.tid := rfl
@[simp] theorem Thread.pendD_colour (t : Thread) (i : Fin 16) : (t.pendD i).colour = t.colour := rfl
@[simp] theorem Thread.pendD_wid (t : Thread) (i : Fin 16) : (t.pendD i).wid = t.wid := rfl
@[simp] theorem Thread.pendD_launch (t : Thread) (i : Fin 16) : (t.pendD i).launch = t.launch := rfl
@[simp] theorem Thread.pendD_team (t : Thread) (i : Fin 16) : (t.pendD i).team = t.team := rfl
@[simp] theorem Thread.pendD_pc (t : Thread) (i : Fin 16) : (t.pendD i).pc = t.pc := rfl
@[simp] theorem Thread.pendD_d (t : Thread) (i : Fin 16) : (t.pendD i).d = t.d := rfl
@[simp] theorem Thread.pendD_v (t : Thread) (i : Fin 16) : (t.pendD i).v = t.v := rfl
@[simp] theorem Thread.pendD_vfull (t : Thread) (i : Fin 16) : (t.pendD i).vfull = t.vfull := rfl
@[simp] theorem Thread.pendD_vowed (t : Thread) (i : Fin 16) : (t.pendD i).vowed = t.vowed := rfl
@[simp] theorem Thread.pendD_halves (t : Thread) (i : Fin 16) : (t.pendD i).halves = t.halves := rfl
@[simp] theorem Thread.pendD_pval (t : Thread) (i : Fin 16) : (t.pendD i).pval = t.pval := rfl
@[simp] theorem Thread.pendD_pres (t : Thread) (i : Fin 16) : (t.pendD i).pres = t.pres := rfl
@[simp] theorem Thread.pendD_pans (t : Thread) (i : Fin 16) : (t.pendD i).pans = t.pans := rfl
@[simp] theorem Thread.pendD_w (t : Thread) (i : Fin 16) : (t.pendD i).w = t.w := rfl
@[simp] theorem Thread.pendD_flags (t : Thread) (i : Fin 16) : (t.pendD i).flags = t.flags := rfl
@[simp] theorem Thread.pendD_cp (t : Thread) (i : Fin 16) : (t.pendD i).cp = t.cp := rfl
@[simp] theorem Thread.pendD_ibWord (t : Thread) (i : Fin 16) : (t.pendD i).ibWord = t.ibWord := rfl
@[simp] theorem Thread.pendD_ibSrc (t : Thread) (i : Fin 16) : (t.pendD i).ibSrc = t.ibSrc := rfl
@[simp] theorem Thread.pendD_tr (t : Thread) (i : Fin 16) : (t.pendD i).tr = t.tr := rfl
@[simp] theorem Thread.pendD_streams (t : Thread) (i : Fin 16) : (t.pendD i).streams = t.streams := rfl
@[simp] theorem Thread.pendD_outst (t : Thread) (i : Fin 16) : (t.pendD i).outst = t.outst := rfl
@[simp] theorem Thread.pendD_loads (t : Thread) (i : Fin 16) : (t.pendD i).loads = t.loads := rfl
@[simp] theorem Thread.pendD_hold (t : Thread) (i : Fin 16) : (t.pendD i).hold = t.hold := rfl
@[simp] theorem Thread.pendD_nonret (t : Thread) (i : Fin 16) : (t.pendD i).nonret = t.nonret := rfl
@[simp] theorem Thread.pendD_waitAns (t : Thread) (i : Fin 16) : (t.pendD i).waitAns = t.waitAns := rfl
@[simp] theorem Thread.pendD_kvOut (t : Thread) (i : Fin 16) : (t.pendD i).kvOut = t.kvOut := rfl
@[simp] theorem Thread.pendD_kv (t : Thread) (i : Fin 16) : (t.pendD i).kv = t.kv := rfl
@[simp] theorem Thread.pendD_release (t : Thread) (i : Fin 16) : (t.pendD i).release = t.release := rfl
@[simp] theorem Thread.pendD_entry (t : Thread) (i : Fin 16) : (t.pendD i).entry = t.entry := rfl
@[simp] theorem Thread.pendD_vector (t : Thread) (i : Fin 16) : (t.pendD i).vector = t.vector := rfl
@[simp] theorem Thread.pendD_reports (t : Thread) (i : Fin 16) : (t.pendD i).reports = t.reports := rfl
@[simp] theorem Thread.pendD_ovf (t : Thread) (i : Fin 16) : (t.pendD i).ovf = t.ovf := rfl
@[simp] theorem Thread.pendD_park (t : Thread) (i : Fin 16) : (t.pendD i).park = t.park := rfl
@[simp] theorem Thread.pendD_fromWin (t : Thread) (i : Fin 16) : (t.pendD i).fromWin = t.fromWin := rfl
@[simp] theorem Thread.pendD_handed (t : Thread) (i : Fin 16) : (t.pendD i).handed = t.handed := rfl
@[simp] theorem Thread.pendD_halted (t : Thread) (i : Fin 16) : (t.pendD i).halted = t.halted := rfl
@[simp] theorem Thread.pendD_haltReq (t : Thread) (i : Fin 16) : (t.pendD i).haltReq = t.haltReq := rfl
@[simp] theorem Thread.pendD_steps (t : Thread) (i : Fin 16) : (t.pendD i).steps = t.steps := rfl
@[simp] theorem Thread.pendD_pass (t : Thread) (i : Fin 16) : (t.pendD i).pass = t.pass := rfl
@[simp] theorem Thread.pendD_gang (t : Thread) (i : Fin 16) : (t.pendD i).gang = t.gang := rfl
@[simp] theorem Thread.pendD_arrived (t : Thread) (i : Fin 16) : (t.pendD i).arrived = t.arrived := rfl
@[simp] theorem Thread.pendD_retry (t : Thread) (i : Fin 16) : (t.pendD i).retry = t.retry := rfl
@[simp] theorem Thread.pendD_second (t : Thread) (i : Fin 16) : (t.pendD i).second = t.second := rfl
@[simp] theorem Thread.pendD_taken (t : Thread) (i : Fin 16) : (t.pendD i).taken = t.taken := rfl
@[simp] theorem Thread.pendD_denied (t : Thread) (i : Fin 16) : (t.pendD i).denied = t.denied := rfl
@[simp] theorem Thread.pendD_trapped (t : Thread) (i : Fin 16) : (t.pendD i).trapped = t.trapped := rfl

@[simp] theorem Thread.pendV_tid (t : Thread) (i : Fin 8) (n : Nat) : (t.pendV i n).tid = t.tid := rfl
@[simp] theorem Thread.pendV_colour (t : Thread) (i : Fin 8) (n : Nat) : (t.pendV i n).colour = t.colour := rfl
@[simp] theorem Thread.pendV_wid (t : Thread) (i : Fin 8) (n : Nat) : (t.pendV i n).wid = t.wid := rfl
@[simp] theorem Thread.pendV_launch (t : Thread) (i : Fin 8) (n : Nat) : (t.pendV i n).launch = t.launch := rfl
@[simp] theorem Thread.pendV_team (t : Thread) (i : Fin 8) (n : Nat) : (t.pendV i n).team = t.team := rfl
@[simp] theorem Thread.pendV_pc (t : Thread) (i : Fin 8) (n : Nat) : (t.pendV i n).pc = t.pc := rfl
@[simp] theorem Thread.pendV_d (t : Thread) (i : Fin 8) (n : Nat) : (t.pendV i n).d = t.d := rfl
@[simp] theorem Thread.pendV_dfull (t : Thread) (i : Fin 8) (n : Nat) : (t.pendV i n).dfull = t.dfull := rfl
@[simp] theorem Thread.pendV_dpend (t : Thread) (i : Fin 8) (n : Nat) : (t.pendV i n).dpend = t.dpend := rfl
@[simp] theorem Thread.pendV_v (t : Thread) (i : Fin 8) (n : Nat) : (t.pendV i n).v = t.v := rfl
@[simp] theorem Thread.pendV_halves (t : Thread) (i : Fin 8) (n : Nat) : (t.pendV i n).halves = t.halves := rfl
@[simp] theorem Thread.pendV_pval (t : Thread) (i : Fin 8) (n : Nat) : (t.pendV i n).pval = t.pval := rfl
@[simp] theorem Thread.pendV_pres (t : Thread) (i : Fin 8) (n : Nat) : (t.pendV i n).pres = t.pres := rfl
@[simp] theorem Thread.pendV_pans (t : Thread) (i : Fin 8) (n : Nat) : (t.pendV i n).pans = t.pans := rfl
@[simp] theorem Thread.pendV_w (t : Thread) (i : Fin 8) (n : Nat) : (t.pendV i n).w = t.w := rfl
@[simp] theorem Thread.pendV_flags (t : Thread) (i : Fin 8) (n : Nat) : (t.pendV i n).flags = t.flags := rfl
@[simp] theorem Thread.pendV_cp (t : Thread) (i : Fin 8) (n : Nat) : (t.pendV i n).cp = t.cp := rfl
@[simp] theorem Thread.pendV_ibWord (t : Thread) (i : Fin 8) (n : Nat) : (t.pendV i n).ibWord = t.ibWord := rfl
@[simp] theorem Thread.pendV_ibSrc (t : Thread) (i : Fin 8) (n : Nat) : (t.pendV i n).ibSrc = t.ibSrc := rfl
@[simp] theorem Thread.pendV_tr (t : Thread) (i : Fin 8) (n : Nat) : (t.pendV i n).tr = t.tr := rfl
@[simp] theorem Thread.pendV_streams (t : Thread) (i : Fin 8) (n : Nat) : (t.pendV i n).streams = t.streams := rfl
@[simp] theorem Thread.pendV_outst (t : Thread) (i : Fin 8) (n : Nat) : (t.pendV i n).outst = t.outst := rfl
@[simp] theorem Thread.pendV_loads (t : Thread) (i : Fin 8) (n : Nat) : (t.pendV i n).loads = t.loads := rfl
@[simp] theorem Thread.pendV_hold (t : Thread) (i : Fin 8) (n : Nat) : (t.pendV i n).hold = t.hold := rfl
@[simp] theorem Thread.pendV_nonret (t : Thread) (i : Fin 8) (n : Nat) : (t.pendV i n).nonret = t.nonret := rfl
@[simp] theorem Thread.pendV_waitAns (t : Thread) (i : Fin 8) (n : Nat) : (t.pendV i n).waitAns = t.waitAns := rfl
@[simp] theorem Thread.pendV_kvOut (t : Thread) (i : Fin 8) (n : Nat) : (t.pendV i n).kvOut = t.kvOut := rfl
@[simp] theorem Thread.pendV_kv (t : Thread) (i : Fin 8) (n : Nat) : (t.pendV i n).kv = t.kv := rfl
@[simp] theorem Thread.pendV_release (t : Thread) (i : Fin 8) (n : Nat) : (t.pendV i n).release = t.release := rfl
@[simp] theorem Thread.pendV_entry (t : Thread) (i : Fin 8) (n : Nat) : (t.pendV i n).entry = t.entry := rfl
@[simp] theorem Thread.pendV_vector (t : Thread) (i : Fin 8) (n : Nat) : (t.pendV i n).vector = t.vector := rfl
@[simp] theorem Thread.pendV_reports (t : Thread) (i : Fin 8) (n : Nat) : (t.pendV i n).reports = t.reports := rfl
@[simp] theorem Thread.pendV_ovf (t : Thread) (i : Fin 8) (n : Nat) : (t.pendV i n).ovf = t.ovf := rfl
@[simp] theorem Thread.pendV_park (t : Thread) (i : Fin 8) (n : Nat) : (t.pendV i n).park = t.park := rfl
@[simp] theorem Thread.pendV_fromWin (t : Thread) (i : Fin 8) (n : Nat) : (t.pendV i n).fromWin = t.fromWin := rfl
@[simp] theorem Thread.pendV_handed (t : Thread) (i : Fin 8) (n : Nat) : (t.pendV i n).handed = t.handed := rfl
@[simp] theorem Thread.pendV_halted (t : Thread) (i : Fin 8) (n : Nat) : (t.pendV i n).halted = t.halted := rfl
@[simp] theorem Thread.pendV_haltReq (t : Thread) (i : Fin 8) (n : Nat) : (t.pendV i n).haltReq = t.haltReq := rfl
@[simp] theorem Thread.pendV_steps (t : Thread) (i : Fin 8) (n : Nat) : (t.pendV i n).steps = t.steps := rfl
@[simp] theorem Thread.pendV_pass (t : Thread) (i : Fin 8) (n : Nat) : (t.pendV i n).pass = t.pass := rfl
@[simp] theorem Thread.pendV_gang (t : Thread) (i : Fin 8) (n : Nat) : (t.pendV i n).gang = t.gang := rfl
@[simp] theorem Thread.pendV_arrived (t : Thread) (i : Fin 8) (n : Nat) : (t.pendV i n).arrived = t.arrived := rfl
@[simp] theorem Thread.pendV_retry (t : Thread) (i : Fin 8) (n : Nat) : (t.pendV i n).retry = t.retry := rfl
@[simp] theorem Thread.pendV_second (t : Thread) (i : Fin 8) (n : Nat) : (t.pendV i n).second = t.second := rfl
@[simp] theorem Thread.pendV_taken (t : Thread) (i : Fin 8) (n : Nat) : (t.pendV i n).taken = t.taken := rfl
@[simp] theorem Thread.pendV_denied (t : Thread) (i : Fin 8) (n : Nat) : (t.pendV i n).denied = t.denied := rfl
@[simp] theorem Thread.pendV_trapped (t : Thread) (i : Fin 8) (n : Nat) : (t.pendV i n).trapped = t.trapped := rfl

@[simp] theorem Thread.setInh_tid (t : Thread) (b : Bool) : (t.setInh b).tid = t.tid := rfl
@[simp] theorem Thread.setInh_colour (t : Thread) (b : Bool) : (t.setInh b).colour = t.colour := rfl
@[simp] theorem Thread.setInh_wid (t : Thread) (b : Bool) : (t.setInh b).wid = t.wid := rfl
@[simp] theorem Thread.setInh_launch (t : Thread) (b : Bool) : (t.setInh b).launch = t.launch := rfl
@[simp] theorem Thread.setInh_team (t : Thread) (b : Bool) : (t.setInh b).team = t.team := rfl
@[simp] theorem Thread.setInh_pc (t : Thread) (b : Bool) : (t.setInh b).pc = t.pc := rfl
@[simp] theorem Thread.setInh_d (t : Thread) (b : Bool) : (t.setInh b).d = t.d := rfl
@[simp] theorem Thread.setInh_dfull (t : Thread) (b : Bool) : (t.setInh b).dfull = t.dfull := rfl
@[simp] theorem Thread.setInh_dpend (t : Thread) (b : Bool) : (t.setInh b).dpend = t.dpend := rfl
@[simp] theorem Thread.setInh_v (t : Thread) (b : Bool) : (t.setInh b).v = t.v := rfl
@[simp] theorem Thread.setInh_vfull (t : Thread) (b : Bool) : (t.setInh b).vfull = t.vfull := rfl
@[simp] theorem Thread.setInh_vowed (t : Thread) (b : Bool) : (t.setInh b).vowed = t.vowed := rfl
@[simp] theorem Thread.setInh_halves (t : Thread) (b : Bool) : (t.setInh b).halves = t.halves := rfl
@[simp] theorem Thread.setInh_pval (t : Thread) (b : Bool) : (t.setInh b).pval = t.pval := rfl
@[simp] theorem Thread.setInh_pres (t : Thread) (b : Bool) : (t.setInh b).pres = t.pres := rfl
@[simp] theorem Thread.setInh_pans (t : Thread) (b : Bool) : (t.setInh b).pans = t.pans := rfl
@[simp] theorem Thread.setInh_w (t : Thread) (b : Bool) : (t.setInh b).w = t.w := rfl
@[simp] theorem Thread.setInh_cp (t : Thread) (b : Bool) : (t.setInh b).cp = t.cp := rfl
@[simp] theorem Thread.setInh_ibWord (t : Thread) (b : Bool) : (t.setInh b).ibWord = t.ibWord := rfl
@[simp] theorem Thread.setInh_ibSrc (t : Thread) (b : Bool) : (t.setInh b).ibSrc = t.ibSrc := rfl
@[simp] theorem Thread.setInh_tr (t : Thread) (b : Bool) : (t.setInh b).tr = t.tr := rfl
@[simp] theorem Thread.setInh_streams (t : Thread) (b : Bool) : (t.setInh b).streams = t.streams := rfl
@[simp] theorem Thread.setInh_outst (t : Thread) (b : Bool) : (t.setInh b).outst = t.outst := rfl
@[simp] theorem Thread.setInh_loads (t : Thread) (b : Bool) : (t.setInh b).loads = t.loads := rfl
@[simp] theorem Thread.setInh_hold (t : Thread) (b : Bool) : (t.setInh b).hold = t.hold := rfl
@[simp] theorem Thread.setInh_nonret (t : Thread) (b : Bool) : (t.setInh b).nonret = t.nonret := rfl
@[simp] theorem Thread.setInh_waitAns (t : Thread) (b : Bool) : (t.setInh b).waitAns = t.waitAns := rfl
@[simp] theorem Thread.setInh_kvOut (t : Thread) (b : Bool) : (t.setInh b).kvOut = t.kvOut := rfl
@[simp] theorem Thread.setInh_kv (t : Thread) (b : Bool) : (t.setInh b).kv = t.kv := rfl
@[simp] theorem Thread.setInh_release (t : Thread) (b : Bool) : (t.setInh b).release = t.release := rfl
@[simp] theorem Thread.setInh_entry (t : Thread) (b : Bool) : (t.setInh b).entry = t.entry := rfl
@[simp] theorem Thread.setInh_vector (t : Thread) (b : Bool) : (t.setInh b).vector = t.vector := rfl
@[simp] theorem Thread.setInh_reports (t : Thread) (b : Bool) : (t.setInh b).reports = t.reports := rfl
@[simp] theorem Thread.setInh_ovf (t : Thread) (b : Bool) : (t.setInh b).ovf = t.ovf := rfl
@[simp] theorem Thread.setInh_park (t : Thread) (b : Bool) : (t.setInh b).park = t.park := rfl
@[simp] theorem Thread.setInh_fromWin (t : Thread) (b : Bool) : (t.setInh b).fromWin = t.fromWin := rfl
@[simp] theorem Thread.setInh_handed (t : Thread) (b : Bool) : (t.setInh b).handed = t.handed := rfl
@[simp] theorem Thread.setInh_halted (t : Thread) (b : Bool) : (t.setInh b).halted = t.halted := rfl
@[simp] theorem Thread.setInh_haltReq (t : Thread) (b : Bool) : (t.setInh b).haltReq = t.haltReq := rfl
@[simp] theorem Thread.setInh_steps (t : Thread) (b : Bool) : (t.setInh b).steps = t.steps := rfl
@[simp] theorem Thread.setInh_pass (t : Thread) (b : Bool) : (t.setInh b).pass = t.pass := rfl
@[simp] theorem Thread.setInh_gang (t : Thread) (b : Bool) : (t.setInh b).gang = t.gang := rfl
@[simp] theorem Thread.setInh_arrived (t : Thread) (b : Bool) : (t.setInh b).arrived = t.arrived := rfl
@[simp] theorem Thread.setInh_retry (t : Thread) (b : Bool) : (t.setInh b).retry = t.retry := rfl
@[simp] theorem Thread.setInh_second (t : Thread) (b : Bool) : (t.setInh b).second = t.second := rfl
@[simp] theorem Thread.setInh_taken (t : Thread) (b : Bool) : (t.setInh b).taken = t.taken := rfl
@[simp] theorem Thread.setInh_denied (t : Thread) (b : Bool) : (t.setInh b).denied = t.denied := rfl
@[simp] theorem Thread.setInh_trapped (t : Thread) (b : Bool) : (t.setInh b).trapped = t.trapped := rfl

end Sys2Proof.Machine
end

