-- ==== Sys2Proof/Laws/Ops.lean ====
section
/-! SUPPORT. What the shared operations can do, once for each: the parts of a package after one of them is replaced, what a turn
can answer, and that recording, trapping and passing on a thread leave memory as it is. -/
namespace Sys2Proof.Machine
open Sys2Proof

/-! A part read after a part was replaced. -/

theorem core_setCore (s : State) (g i : Nat) (c : Core) : (s.setCore g c).core i = if i = g then c else s.core i :=
  smapGet_put Core.reset s.cores g i c
@[simp] theorem core_setCore_self (s : State) (g : Nat) (c : Core) : (s.setCore g c).core g = c := by simp [core_setCore]
theorem core_setCore_other (s : State) {g i : Nat} (c : Core) (h : i ≠ g) : (s.setCore g c).core i = s.core i := by
  simp [core_setCore, h]
theorem cluster_setCluster (s : State) (k i : Nat) (c : Cluster) : (s.setCluster k c).cluster i = if i = k then c else s.cluster i :=
  smapGet_put Cluster.reset s.clusters k i c
theorem die_setDie (s : State) (k i : Nat) (d : Die) : (s.setDie k d).die i = if i = k then d else s.die i :=
  smapGet_put Die.reset s.dies k i d
theorem colour_setColour (s : State) (k i : Nat) (c : Colour) : (s.setColour k c).colour i = if i = k then c else s.colour i :=
  smapGet_put Colour.reset s.colours k i c
theorem port_setPort (s : State) (k i : Nat) (p : Port) : (s.setPort k p).port i = if i = k then p else s.port i :=
  smapGet_put Port.reset s.ports k i p
theorem launch_setLaunch (s : State) (k i : Nat) (l : Launch) :
    (s.setLaunch k l).launch? i = if i = k then some l else s.launch? i := smapFind_put s.launches k i l

theorem getD_setIfInBounds {α : Type} {n : Nat} (v : Vector α n) (i j : Nat) (x d : α) (h : i < n) :
    (v.setIfInBounds i x).toList.getD j d = if j = i then x else v.toList.getD j d := by
  by_cases e : j = i
  · subst e; simp [h]
  · simp [e, List.getD_eq_getElem?_getD, Ne.symm e]

/-- A slot of a core after a slot was given a thread. -/
theorem coreThread_setThread (c : Core) {k : Nat} (i : Nat) (t : Option Thread) (h : k < 16) :
    (c.setThread k t).thread i = if i = k then t else c.thread i := getD_setIfInBounds c.threads k i t none h

/-- A slot of the package after a slot was given a thread. -/
theorem thread_setThread (s : State) {k : Nat} (g g' i : Nat) (t : Option Thread) (h : k < 16) :
    (s.setThread g k t).thread g' i = if g' = g ∧ i = k then t else s.thread g' i := by
  unfold State.setThread State.thread
  rw [core_setCore]
  by_cases e : g' = g
  · subst e; simp [coreThread_setThread _ _ _ h]
  · simp [e]

/-! What a turn can answer (R44, R53). -/

/-- Every next state of a turn: the guard waits, the guard passes the instruction over, an operand waits, or it takes effect. -/
theorem turn_cases {gd : Guard} {s t : State} {waits : Ctx → List SlotClass} {body : Ctx → State}
    (h : turn gd s waits body = .next t) : ∃ x, ctxOf s = some x ∧
      ((x.t.guardRes gd = false ∧ t = x.wait ((worst (.msg :: waits x)).getD .msg)) ∨
       (x.t.guardRes gd = true ∧ x.t.guardVal gd = false ∧ t = x.finish x.c x.t) ∨
       (x.t.guardRes gd = true ∧ x.t.guardVal gd = true ∧ ∃ k, worst (waits x) = some k ∧ t = x.wait k) ∨
       (x.t.guardRes gd = true ∧ x.t.guardVal gd = true ∧ worst (waits x) = none ∧ t = body x)) := by
  unfold turn at h
  split at h
  · cases h
  · next x hx =>
    refine ⟨x, hx, ?_⟩
    split at h
    · next hr => exact .inl ⟨hr, by cases h; rfl⟩
    · next hr =>
      have hr' : x.t.guardRes gd = true := by simpa using hr
      split at h
      · next hv => exact .inr (.inl ⟨hr', hv, by cases h; rfl⟩)
      · next hv =>
        have hv' : x.t.guardVal gd = true := by simpa using hv
        split at h
        · next k hk => exact .inr (.inr (.inl ⟨hr', hv', k, hk, by cases h; rfl⟩))
        · next hk => exact .inr (.inr (.inr ⟨hr', hv', hk, by cases h; rfl⟩))

/-- A turn whose guard lets the instruction execute and whose operands are ready answers its effect. -/
theorem turn_executes {gd : Guard} {s : State} {x : Ctx} {waits : Ctx → List SlotClass} {body : Ctx → State}
    (c : ctxOf s = some x) (hr : x.t.guardRes gd = true) (hv : x.t.guardVal gd = true) (hw : worst (waits x) = none) :
    turn gd s waits body = .next (body x) := by
  simp [turn, c, hr, hv, hw]

theorem worst_none {ks : List SlotClass} : worst ks = none ↔ ks = [] := by
  cases ks with
  | nil => simp [worst]
  | cons k rest => simp only [worst]; split <;> simp

/-- The context of a turn is that of its state. -/
theorem ctxOf_state {s : State} {x : Ctx} (h : ctxOf s = some x) : x.s = s ∧ x.g = s.cur.g ∧ x.slot = s.cur.slot ∧
    x.c = s.core s.cur.g ∧ s.thread s.cur.g s.cur.slot = some x.t := by
  unfold ctxOf at h
  split at h
  · cases h
  · next t ht => cases h; exact ⟨rfl, rfl, rfl, rfl, ht⟩

/-! Memory after the operations that record, trap and pass a thread on. -/

@[simp] theorem setThread_mem (s : State) (g k : Nat) (t : Option Thread) : (s.setThread g k t).mem = s.mem := rfl

@[simp] theorem onTid_mem (s : State) (tid : Nat) (f : Thread → Thread) : (s.onTid tid f).mem = s.mem := by
  unfold State.onTid; split
  · rfl
  · split <;> rfl

@[simp] theorem trace_mem (s : State) (g slot ty colour : Nat) (wid pc payload : Word) :
    (s.trace g slot ty colour wid pc payload).mem = s.mem := by
  simp only [State.trace]; repeat' split
  all_goals rfl

theorem foldl_mem {α : Type} (f : State → α → State) (h : ∀ s a, (f s a).mem = s.mem) (l : List α) (s : State) :
    (l.foldl f s).mem = s.mem := by
  induction l generalizing s with
  | nil => rfl
  | cons a rest ih => rw [List.foldl_cons, ih, h]

@[simp] theorem freezeDie_mem (s : State) (die cause : Nat) : (s.freezeDie die cause).mem = s.mem := by
  simp only [State.freezeDie]; split <;> rfl

@[simp] theorem trigger_mem (s : State) (die bit : Nat) : (s.trigger die bit).mem = s.mem := by
  unfold State.trigger; split <;> simp

/-- The freeze at the end of a cycle writes the recorders and no byte of memory (R385). -/
@[simp] theorem settleFreeze_mem (s : State) (die : Nat) : (s.settleFreeze die).mem = s.mem := by
  unfold State.settleFreeze; split
  · rfl
  · dsimp only
    rw [State.setDie_mem]
    apply foldl_mem
    intro s i
    split
    · rfl
    · rw [State.setCluster_mem, trace_mem]

@[simp] theorem alarm_mem (s : State) (die : Nat) (kind : BitVec 8) : (s.alarm die kind).mem = s.mem := by
  unfold State.alarm; split
  · simp
  · split <;> simp

@[simp] theorem handOver_mem (s : State) (g slot : Nat) (t : Thread) (r : Report) : (s.handOver g slot t r).mem = s.mem := by
  simp only [State.handOver]; split <;> rfl

@[simp] theorem deliver_mem (s : State) (g slot : Nat) (t : Thread) (r : Report) (others : Nat) :
    (s.deliver g slot t r others).mem = s.mem := by
  simp only [State.deliver]; split <;> simp

@[simp] theorem park_mem (s : State) (g slot : Nat) (t : Thread) (p : Park) : (s.park g slot t p).mem = s.mem := rfl

@[simp] theorem raise_mem (s : State) (g slot : Nat) (t : Thread) (r : Report) : (s.raise g slot t r).mem = s.mem := by
  simp only [State.raise]; split <;> simp

@[simp] theorem trapEngine_mem (s : State) (tid die : Nat) (r : Report) : (s.trapEngine tid die r).mem = s.mem := by
  simp [State.trapEngine]

@[simp] theorem wait_mem (x : Ctx) (k : SlotClass) : (x.wait k).mem = x.s.mem := rfl
@[simp] theorem finish_mem (x : Ctx) (c : Core) (t : Thread) : (x.finish c t).mem = x.s.mem := rfl
@[simp] theorem transfer_mem (x : Ctx) (c : Core) (t : Thread) (target : Word) : (x.transfer c t target).mem = x.s.mem := rfl
@[simp] theorem trap_mem (x : Ctx) (kind : BitVec 8) (detail : Nat) (addr : Word) : (x.trap kind detail addr).mem = x.s.mem :=
  raise_mem ..
@[simp] theorem trapFree_mem (x : Ctx) (kind : BitVec 8) (detail : Nat) : (x.trapFree kind detail).mem = x.s.mem := trap_mem ..

/-- A turn whose effect leaves memory as it is leaves memory as it is. -/
theorem turn_mem {gd : Guard} {s t : State} {waits : Ctx → List SlotClass} {body : Ctx → State}
    (h : turn gd s waits body = .next t) (hb : ∀ x, x.s = s → (body x).mem = s.mem) : t.mem = s.mem := by
  obtain ⟨x, hx, h⟩ := turn_cases h
  have hs := (ctxOf_state hx).1
  rcases h with ⟨_, rfl⟩ | ⟨_, _, rfl⟩ | ⟨_, _, _, _, rfl⟩ | ⟨_, _, _, rfl⟩
  · simp [hs]
  · simp [hs]
  · simp [hs]
  · exact hb x hs

@[simp] theorem writeW_mem (x : Ctx) (c : Core) (t : Thread) (o : Opnd) (v : Word) : (x.writeW c t o v).mem = x.s.mem := by
  unfold Ctx.writeW; split <;> rfl

/-- An instruction of the scalar unit writes no byte of memory (R132). -/
theorem scalarTurn_mem {gd : Guard} {s t : State} {dst : Opnd} {srcs : List Opnd} {op : Ctx → List Val → Word}
    (h : scalarTurn gd s dst srcs op = .next t) : t.mem = s.mem :=
  turn_mem h fun x hx => by dsimp only; split <;> simp [hx]

/-- An instruction of the vector unit writes no byte of memory (R146). -/
theorem vectorTurn_mem {gd : Guard} {s t : State} {dst : Opnd} {srcs reads : List Opnd} {op : Ctx → List Val → VResult}
    {addr : List (Nat × Nat) → Word} (h : vectorTurn gd s dst srcs reads op addr = .next t) : t.mem = s.mem := by
  have fin (x : Ctx) (c : Core) (t : Thread) (v : Val) : (vectorTurn.vfin dst x c t v).mem = x.s.mem := by
    unfold vectorTurn.vfin; split <;> rfl
  refine turn_mem h fun x hx => ?_
  dsimp only; repeat' split
  all_goals simp [hx, fin]

end Sys2Proof.Machine
end

