-- ==== Sys2Proof/Laws/Tickets.lean ====
section
/-! SUPPORT. A ticket carries its fields, and a live entry's ticket passes the checks of its slice (R214–R217). -/
namespace Sys2Proof.Machine
open Sys2Proof

theorem leNum_lt (bs : List Byte) : extendTo.leNum bs < 256 ^ bs.length := by
  induction bs with
  | nil => simp [extendTo.leNum]
  | cons b rest ih =>
    simp only [extendTo.leNum, List.length_cons, Nat.pow_succ]
    have := b.isLt
    omega

theorem checkCode_lt (s : State) (t40 : Nat) : s.checkCode t40 < 2 ^ 24 := by
  unfold State.checkCode
  refine Nat.lt_of_lt_of_le (leNum_lt _) ?_
  calc 256 ^ (shake256 3 _).length ≤ 256 ^ 3 := Nat.pow_le_pow_right (by omega) (by unfold shake256; exact List.length_take_le _ _)
    _ ≤ 2 ^ 24 := by norm_num

/-- The number below bit 40 of an entry's ticket. -/
theorem ticketOf_toNat (s : State) {g e colour gen : Nat} (hg : g < 2048) (he : e < 256) (hc : colour < 32) (hn : gen < 65536) :
    (s.ticketOf g e colour gen).toNat = e + 2 ^ 8 * g + 2 ^ 19 * colour + 2 ^ 24 * gen
      + 2 ^ 40 * s.checkCode (e + 2 ^ 8 * g + 2 ^ 19 * colour + 2 ^ 24 * gen) := by
  have := checkCode_lt s (e + 2 ^ 8 * g + 2 ^ 19 * colour + 2 ^ 24 * gen)
  simp only [State.ticketOf, BitVec.toNat_ofNat]
  omega

theorem tk_fields (s : State) {g e colour gen : Nat} (hg : g < 2048) (he : e < 256) (hc : colour < 32) (hn : gen < 65536) :
    tkEntry (s.ticketOf g e colour gen) = e ∧ tkSlice (s.ticketOf g e colour gen) = g ∧
    tkColour (s.ticketOf g e colour gen) = colour ∧ tkGen (s.ticketOf g e colour gen) = gen := by
  simp only [tkEntry, tkSlice, tkColour, tkGen, wbits, ticketOf_toNat s hg he hc hn]
  generalize s.checkCode _ = c
  omega

/-- The ticket of a live entry of a colour passes the checks of its slice. -/
theorem ticketCheck_ticketOf (s : State) {g e colour gen : Nat} (hg : g < 2048) (he : e < 256) (hc : colour < 32) (hn : gen < 65536)
    (h1 : ((s.core g).tk e).colour = colour) (h2 : ((s.core g).tk e).gen = gen) (h3 : ((s.core g).tk e).st ≠ 0) :
    s.ticketCheck g colour (s.ticketOf g e colour gen) = 0 := by
  obtain ⟨he', -, hc', hn'⟩ := tk_fields s hg he hc hn
  have h40 : (s.ticketOf g e colour gen).toNat / 2 ^ 40 = s.checkCode ((s.ticketOf g e colour gen).toNat % 2 ^ 40) := by
    rw [ticketOf_toNat s hg he hc hn]
    have : (e + 2 ^ 8 * g + 2 ^ 19 * colour + 2 ^ 24 * gen
      + 2 ^ 40 * s.checkCode (e + 2 ^ 8 * g + 2 ^ 19 * colour + 2 ^ 24 * gen)) % 2 ^ 40 = e + 2 ^ 8 * g + 2 ^ 19 * colour + 2 ^ 24 * gen := by
      omega
    rw [this]; omega
  unfold State.ticketCheck
  rw [if_neg (not_not.mpr h40), he', hc', hn', h1, h2, if_neg (by simp), if_neg (by simpa using h3)]

end Sys2Proof.Machine
end

