-- ==== Sys2Proof/Tests/Slice0.lean ====
section
/-! SUPPORT. Tests of the model: words of the spec's encodings, terms that well-formedness refuses, single turns whose result the
spec states, and, for every obligation with hypotheses, a state and operands that meet them. -/
namespace Sys2Proof.Tests
open Sys2Proof Sys2Proof.Machine
/- One test after the other: the kernel's evaluations in parallel take too many threads. -/
set_option Elab.async false

/-! A small package: core 0 of die 0, its team 0 of a launch of colour 1, and one thread in slot 0. -/

/-- Two teams of one thread, 1,024 bytes of region, two tiles, a logical mesh of one row and two columns. -/
def job : Launch :=
  ⟨0, 1, 0, [0x10000, 0, 2, 64 + 64 <<< 49, 8 + 2 <<< 13 + 1 <<< 16, 5, 0x10, 0], 0, false, 0, 0, [0, 1], 0, 0, 0, [], false, none⟩

def team : Team := ⟨⟨0, 0⟩, 1, 0, 1024, 0, 0, [0, 1], 0, false, false⟩

/-- The launch's first thread: d0 5, d1 0x10040, d2 7, d3 −2, v registers of small numbers. -/
def run : Thread := { Thread.start 1 1 0 0 0 0x10000 5 false 0 with
  entry := none
  d := #v[5, 0x10040, 7, 0xFFFFFFFFFFFFFFFE, 0, 0, 0, 0, 0, 0, 0, 0, 0, 0, 0, 0]
  v := Vector.ofFn fun i => Vector.ofFn fun j => BitVec.ofNat 32 (i.val + j.val) }

def coreOf (t : Thread) : Core := { Core.reset.setThread 0 (some t) with
  stop := false, teams := [team], tlb := [⟨1, false, 1, 0x1F⟩] }

/-- The package with that thread and core 0 as a function of it. -/
def pkg (t : Thread) (k : Core → Core) : State := { State.reset with
  powered := true, uid := 10, launches := [(0, job)], parts := [(0, ⟨[0], [1], 1, .none⟩)], cores := [(0, k (coreOf t))]
  wpBase := [(8, 0x1000000001)], colours := [(1, { Colour.reset with key := true, tdi := .run })] }

def st (t : Thread) : State := pkg t id

/-- The turn of its thread. -/
def cx (s : State) : Ctx := ⟨s, 0, 0, s.core 0, (s.thread 0 0).getD run⟩

def g0 : Guard := ⟨false, 0⟩

/-- Operands d1, d2, d3 and no field. -/
def fd : Fields := ⟨0, .dflt, ⟨.d 4, .plain⟩, ⟨.d 1, .plain⟩, ⟨.d 2, .plain⟩, .unused, 0⟩

/-- What a turn leaves, where it is a next state that satisfies a condition. -/
def After (o : Host.Outcome State Fault Refusal) (p : State → Bool) : Bool := match o with
  | .next t => p t
  | _ => false

theorem after_next {o : Host.Outcome State Fault Refusal} (h : After o (fun _ => true) = true) : ∃ t, o = .next t := by
  unfold After at h; split at h
  · exact ⟨_, rfl⟩
  · cases h

def okIs {α : Type} [DecidableEq α] (a : Acc α) (p : α) : Bool := match a with
  | .ok q => decide (q = p)
  | _ => false

theorem ok_of {α : Type} [DecidableEq α] {a : Acc α} {p : α} (h : okIs a p = true) : a = .ok p := by
  unfold okIs at h; split at h
  · rw [of_decide_eq_true h]
  · cases h

theorem below_of {as : List Word} (h : (as.all fun b => decide (b.toNat < 2 ^ 55)) = true) : ∀ b ∈ as, b.toNat < 2 ^ 55 :=
  fun b hb => of_decide_eq_true (List.all_eq_true.mp h b hb)

theorem reaches_of {x : Ctx} {k : Accepts} {u : Use} {a : Word} {addrs : List Word} {ps : List Place}
    (h : ((a :: addrs).all fun b => decide (b.toNat < 2 ^ 55)) = true ∧ regionDetail k (x.s.region x.g x.t.colour x.t.key a) = 0 ∧
      okIs (x.placesIn k u addrs) ps = true) : Reaches x k u a addrs ps := ⟨below_of h.1, h.2.1, ok_of h.2.2⟩

theorem inScratchpad_of {x : Ctx} {a : Word} {os : List Nat} {off : Nat}
    (h : (os != []) = true ∧ x.c.atHome x.t = true ∧ x.s.badSpad = [] ∧
      ([a + BitVec.ofNat 64 (64 * (os.headD 0 / 64)), a + BitVec.ofNat 64 (64 * (os.headD 0 / 64))].all
        fun b => decide (b.toNat < 2 ^ 55)) = true ∧
      regionDetail .spad (x.s.region x.g x.t.colour x.t.key (a + BitVec.ofNat 64 (64 * (os.headD 0 / 64)))) = 0 ∧
      okIs (x.placesIn .spad .read [a + BitVec.ofNat 64 (64 * (os.headD 0 / 64))]) [.spad x.g (off + 64 * (os.headD 0 / 64))] = true ∧
      ∀ k, k < 2 → beyondRegion x a (os.filter fun o => o / 64 == k) = false) : InScratchpad x a os off :=
  ⟨by simpa using h.1, h.2.1, reaches_of ⟨h.2.2.2.1, h.2.2.2.2.1, h.2.2.2.2.2.1⟩, h.2.2.2.2.2.2,
    fun o _ e he => by rw [h.2.2.1] at he; cases he⟩

/-- A fetch gives these bits. -/
def lineIs (x : Fetched) (bits : BitVec 512) : Bool := match x with
  | .line b => decide (b = bits)
  | _ => false

theorem line_of {x : Fetched} {bits : BitVec 512} (h : lineIs x bits = true) : x = .line bits := by
  unfold lineIs at h; split at h
  · rw [of_decide_eq_true h]
  · cases h

theorem executes_of {gd : Guard} {s : State} {x : Ctx} (c : ctxOf s = some x) (h : x.t.guardRes gd = true ∧ x.t.guardVal gd = true) :
    Executes gd s x := ⟨c, h⟩

theorem ready_of {gd : Guard} {s : State} {x : Ctx} {srcs dst : List Opnd} {n : Nat} (c : ctxOf s = some x)
    (h : (x.t.guardRes gd = true ∧ x.t.guardVal gd = true) ∧ srcWaits x [] srcs = [] ∧
      (∀ o ∈ dst, dstWait x srcs o = []) ∧ memWait x n = []) : Ready gd s x srcs dst n := ⟨⟨c, h.1⟩, h.2⟩

theorem named_of {s : State} {r : SlotRef} {t : Thread} (h : s.thread r.g r.slot = some t ∧ s.findTid t.tid = some r) : Named s r t := h

/-! Operands that meet the hypotheses of each obligation. -/

theorem witness_EncodeThenDecode : wellFormed (.add g0 fd) = true ∧ encode (.add g0 fd) = some 0x100000020040400000000000 := by
  decide +kernel

theorem witness_DecodeThenEncode : decodeWord false 0x100000020040400000000000 = .ok (.add g0 fd) ∧
    decodeWord true 0x900C0000014000000000_0300 = .ok (.sets g0 ⟨0, .dflt, .unused, ⟨.d 5, .plain⟩, .unused, .unused, 0x300⟩) := by
  decide +kernel

/-- The first and the last class R60 leaves out, an op past a class's list, and the zero word met at a thread's pc. -/
theorem witness_UnassignedWords : 0x00 * 2 ^ 90 + 1 ≠ 0 ∧ (0x00 * 2 ^ 90 + 1) / 2 ^ 90 ∉ [0x01, 0x02, 0x04, 0x05, 0x08, 0x09, 0x0A, 0x0C,
      0x0D, 0x10, 0x11, 0x12, 0x14, 0x18, 0x1A, 0x1B, 0x1C, 0x20, 0x24, 0x26] ∧
    0x3F * 2 ^ 90 ≠ 2 ^ 96 - 1 ∧ decodeWord false (0x3F * 2 ^ 90) = .error 1 ∧
    formsOf (0x26 * 2 ^ 90 / 2 ^ 90) ≠ [] ∧ (∀ f ∈ formsOf 0x26, f.op ≠ (0x26 * 2 ^ 90 + 2 * 2 ^ 82) / 2 ^ 82 % 2 ^ 8) ∧
    run.entry = none ∧ run.vector = none ∧ (∀ pcs, State.reset.breakFor run pcs = none) ∧ lineReserved (makeLine [0] 0 0) = 0 ∧
    decodeWord run.sup (lineSlot (makeLine [0] 0 0) (run.pc.toNat % 8)) = .error 7 := by
  refine ⟨?_, ?_, ?_, ?_, ?_, ?_, ?_, ?_, fun _ => rfl, ?_, ?_⟩ <;> decide +kernel

def fSys (n : BitVec 36) (dst src : Opnd) : Fields := ⟨0, .dflt, dst, src, .unused, .unused, n⟩

/-- `gets` of a register a task may not read, `sets` of one it may only read; at a pc, and at issue. -/
theorem witness_PrivilegedRefused :
    decodeWord true 0x900800018000000000000300 = .ok (.gets g0 (fSys 0x300 ⟨.d 3, .plain⟩ .unused)) ∧
    decodeWord false 0x900800018000000000000300 = .error 6 ∧ decodeWord false 0x900C00000140000000000012 = .error 6 ∧
    decodeWord run.sup (lineSlot (makeLine [0x900800018000000000000300] 0 0) (run.pc.toNat % 8)) = .error 6 ∧
    lineReserved (makeLine [0x900800018000000000000300] 0 0) = 0 ∧
    Executes g0 (st run) (cx (st run)) ∧ run.sup = false ∧ sysNumber 0x300 = true ∧ sysTaskNone 0x300 = true ∧ sysTaskRo 0x12 = true ∧
    dstWait (cx (st run)) [] ⟨.d 3, .plain⟩ = [] ∧ srcWaits (cx (st run)) [] [⟨.d 5, .plain⟩] = [] := by
  unfold Executes; decide +kernel

theorem witness_MemoryCanonical : Memory.wf (st run).mem = true ∧ (∃ t, step (pkg run id) = .next t) :=
  ⟨by decide, after_next (by decide +kernel)⟩

theorem witness_MemoryReadsLastWrite : Memory.wf [(3, 1), (8, 255)] = true := by decide

theorem witness_IssueStoresNothing : (rawOf (.add g0 fd)).isSome = true ∧ (∃ t, exec (.add g0 fd) (st run) = .next t) :=
  ⟨by decide +kernel, after_next (by decide +kernel)⟩

/-- Core 0 in cycle 0 with `add d4, d1, d2` at its thread's pc, in a line it holds. -/
def fetched : State := { pkg run fun c => { c with lines := [(1, 0x10000, makeLine [0x100000020040400000000000] 0 0)] } with
  agenda := [.coreCycle 0 false] }

theorem witness_StepRunsDecoded :
    let s0 := State.startCycle { fetched with agenda := [] } 0
    let s1 := State.setThread { s0 with cur := ⟨0, 0⟩, issue := [], cls := .vacant } 0 0 (some run)
    let bits := makeLine [0x100000020040400000000000] 0 0
    fetched.agenda = [.coreCycle 0 false] ∧ fetched.frozen = false ∧ fetched.powered = true ∧ (s0.core 0).cyc % 16 = 0 ∧
    s0.issues 0 = true ∧ s0.thread 0 0 = some run ∧ run.halted = false ∧ run.handed = none ∧ run.waitAns = false ∧
    run.haltReq = false ∧ run.denied = none ∧ run.park = .none ∧ run.reports = [] ∧ run.gang = .none ∧ run.entry = none ∧ run.pc.toNat / 8 % 8 = 0 ∧
    run.pc.toNat % 8 < 5 ∧ s1.fetchLine 0 run = .line bits ∧ s1.breakFor run [run.pc] = none ∧
    linePair bits (run.pc.toNat % 8) = false ∧ lineReserved bits = 0 ∧
    decodeWord run.sup (lineSlot bits (run.pc.toNat % 8)) = .ok (.add g0 fd) := by
  refine ⟨rfl, rfl, rfl, ?_, ?_, ?_, rfl, rfl, rfl, rfl, rfl, rfl, rfl, rfl, rfl, ?_, ?_, line_of ?_, ?_, ?_, ?_, ?_⟩ <;> decide +kernel

/-- `add d4, d1, d2` and then `add d5, d4, d2`. -/
theorem witness_PairIssuesBoth :
    let fe : Fields := { fd with dst := ⟨.d 5, .plain⟩, src1 := ⟨.d 3, .plain⟩ }
    After (exec (.add g0 fd) (st run)) (fun a => a.cls = .issued && !a.redeems ⟨0, 0⟩ run.pc && !a.gone ⟨0, 0⟩ run.tid &&
      After (exec (.add g0 fe) ((a.onTid run.tid (Thread.restore run)).keepKv run)) fun c => c.cls = .issued) = true ∧
    After (exec (.add g0 fe) ((st run).setThread 0 0 (some { run with pc := succPc run.pc }))) (fun b => b.cls = .issued) = true := by
  decide +kernel

/-- R42, R49, R51: a pair whose first takes d1 with a synchronised read and whose second reads d1 issues, and d1 is empty after it. -/
theorem test_pair_reads_what_the_first_takes :
    After (issuePair (.add g0 { fd with src1 := ⟨.d 1, .sync⟩ }) (.add g0 { fd with dst := ⟨.d 5, .plain⟩ }) run (st run)) (fun t =>
      t.cls = .issued && ((t.thread 0 0).map fun u => (u.d[4], u.d[5], u.dfull[1], u.taken)) = some (0x10047, 0x10047, false, [])) = true := by
  decide +kernel

/-- p1 false, p2 unresolved. -/
def guarded : Thread := { run with pres := run.pres.set 2 false }

theorem witness_GuardDecides : (rawOf (.add ⟨false, 1⟩ fd)).map RawWord.gd = some ⟨false, 1⟩ ∧ ctxOf (st guarded) = some (cx (st guarded)) ∧
    guarded.guardRes ⟨false, 1⟩ = true ∧ guarded.guardVal ⟨false, 1⟩ = false ∧ engineForm (.add ⟨false, 2⟩ fd) = none ∧
    guarded.guardRes ⟨false, 2⟩ = false := ⟨by decide +kernel, rfl, by decide +kernel, by decide +kernel, rfl, by decide +kernel⟩

/-- A source awaited in d1; a source awaited in v1. -/
def awaiting : Thread := { run with dfull := run.dfull.set 1 false, vfull := run.vfull.set 1 false }
def fv : Fields := ⟨0, .dflt, ⟨.v 4, .plain⟩, ⟨.v 1, .plain⟩, ⟨.v 2, .plain⟩, .unused, 0⟩
def fp : Fields := { fd with dst := ⟨.p 1, .plain⟩ }

theorem witness_NotReadyWaits : (scalarForm (.add g0 fd)).isSome = true ∧ (guardForm (.cmpEq g0 fp)).isSome = true ∧
    (vectorForm (.fadd g0 fv)).isSome = true ∧ Executes g0 (st awaiting) (cx (st awaiting)) ∧
    srcWaits (cx (st awaiting)) [] [fd.src1, fd.src2] ≠ [] ∧ srcWaits (cx (st awaiting)) [] [fv.src1, fv.src2] ≠ [] := by
  unfold Executes; decide +kernel

theorem witness_RegisterFrames : registerForm (.add g0 fd) = some (g0, fd) ∧ registerForm (.fadd g0 fv) = some (g0, fv) ∧
    Executes g0 (st run) (cx (st run)) ∧ After (exec (.add g0 fd) (st run)) (fun t => t.cls = .issued) = true ∧
    After (exec (.fadd g0 fv) (st run)) (fun t => t.cls = .issued) = true := by
  unfold Executes; decide +kernel

/-- q3 holds two entries; n2 a word of another launch and one of the thread's link; n4 a word; the inbox a message; s1 130 bytes. -/
theorem witness_SourcesRead :
    let t : Thread := { run with streams := run.streams.set 1 (some ⟨false, 0, List.replicate 130 7, 0⟩) }
    let c := (pkg t fun c => { c with
      q := c.q.set 3 [8, 9], nin := c.nin.set 2 [(5, 0, 1), (0, 0, 2)], n4 := [3], inbox := [⟨4, 0, 0, 2⟩, ⟨6, 0, 0, 1⟩] }).core 0
    c.q[3] = [8, 9] ∧ (st t).linkTag 0 t = (0, 0) ∧ c.nin[2] = [(5, 0, 1)] ++ (0, 0, 2) :: [] ∧ c.n4 = [3] ∧
    takeInbox t.colour c.inbox = some (⟨6, 0, 0, 1⟩, [⟨4, 0, 0, 2⟩]) ∧ (t.streams[1].map fun st => (st.buf.drop 128).length) = some 2 := by
  decide +kernel

theorem witness_DestinationsWritten : ctxOf (st run) = some (cx (st run)) := rfl

/-- The same launch made deterministic, on a mesh of 32 by 32. -/
def detJob : Launch := { job with hdr := [0x10000, 0, 1024, 64 + 64 <<< 49, 8 + 2 <<< 13 + 1 <<< 16 + 1 <<< 21, 5, 0x155, 0], map := List.range 1024 }
def detPkg : State := { st run with launches := [(0, detJob)] }

theorem witness_ScalarCompletes : (scalarForm (.add g0 fd)).map ScalarForm.srcs = some [fd.src1, fd.src2] ∧
    Executes g0 (st run) (cx (st run)) ∧ srcWaits (cx (st run)) [] [fd.src1, fd.src2] = [] ∧
    dstWait (cx (st run)) [fd.src1, fd.src2] fd.dst = [] ∧ linkOutside (cx (st run)) fd.dst = false ∧
    Executes g0 detPkg (cx detPkg) ∧ linkOutside (cx detPkg) ⟨.n 3, .plain⟩ = true ∧
    dstWait (cx detPkg) [fd.src1, fd.src2] ⟨.n 3, .plain⟩ = [] := by
  unfold Executes; decide +kernel

theorem witness_Arithmetic64 : Executes g0 (st run) (cx (st run)) ∧ srcWaits (cx (st run)) [] [fd.src1, fd.src2] = [] ∧
    dstWait (cx (st run)) [fd.src1, fd.src2] fd.dst = [] ∧ fd.src1.m ≠ .neg ∧ fd.src2.m ≠ .neg ∧
    ((cx (st run)).take [fd.src1, fd.src2]).1 = [.w 0x10040, .w 7] := by
  unfold Executes; decide +kernel

/-- A quotient of `.s8`; a zero divisor with a dividend above, below and at 0; the most negative number by −1. -/
def fdiv8 (a b : Fin 16) : Fields := ⟨0, .s8, ⟨.d 4, .plain⟩, ⟨.d a, .plain⟩, ⟨.d b, .plain⟩, .unused, 0⟩
def dividers : Thread := { run with d := #v[0x80, 0xFF, 7, 0, 0, 0, 0, 0, 0, 0, 0, 0, 0, 0, 0, 0] }

theorem witness_DivisionTruncates : Executes g0 (st dividers) (cx (st dividers)) ∧ (tyInt .s8).getD (64, true) = (8, true) ∧
    (tyInt .z64).getD (64, true) = (64, false) ∧ (∀ a b : Fin 4, srcWaits (cx (st dividers)) []
      [(fdiv8 (Fin.ofNat 16 a) (Fin.ofNat 16 b)).src1, (fdiv8 (Fin.ofNat 16 a) (Fin.ofNat 16 b)).src2] = []) ∧
    ((cx (st dividers)).take [(fdiv8 0 1).src1, (fdiv8 0 1).src2]).1 = [.w 0x80, .w 0xFF] ∧
    Fields.src (fdiv8 0 1) (fdiv8 0 1).src1 0x80 = -128 ∧ Fields.src (fdiv8 0 1) (fdiv8 0 1).src2 0xFF = -1 ∧
    Fields.src (fdiv8 2 3) (fdiv8 2 3).src1 7 = 7 ∧ Fields.src (fdiv8 2 3) (fdiv8 2 3).src2 0 = 0 := by
  unfold Executes; decide +kernel

theorem witness_GuardsWritten : (guardForm (.cmpEq g0 fp)).map GuardForm.dst = some ⟨.p 1, .plain⟩ ∧ Executes g0 (st run) (cx (st run)) ∧
    srcWaits (cx (st run)) [] [fp.src1, fp.src2] = [] ∧ dstWait (cx (st run)) [fp.src1, fp.src2] fp.dst = [] := by
  unfold Executes; decide +kernel

theorem witness_IntegerCompares : fp.ty = .dflt ∧ ({ fp with ty := .z64 } : Fields).ty = .z64 := by decide

/-- Lanes whose sum is an event (+∞ and −∞), with traps on. -/
def huge : Thread := { run with flags := 1, v := (Vector.replicate 8 (Vector.replicate 32 0x7F800000)).set 2 (Vector.replicate 32 0xFF800000) }
def fs : Fields := { fv with src1 := ⟨.s 0, .plain⟩ }

theorem witness_VectorCompletes : (vectorForm (.fadd g0 fv)).map VectorForm.srcs = some [fv.src1, fv.src2] ∧
    Executes g0 (st run) (cx (st run)) ∧ srcWaits (cx (st run)) [] [fv.src1, fv.src2] = [] ∧
    dstWait (cx (st run)) [fv.src1, fv.src2] fv.dst = [] ∧ unboundStream (cx (st run)) [fv.src1, fv.src2] = false ∧ run.evt = false ∧
    srcWaits (cx (st run)) [] [fs.src1, fs.src2] = [] ∧ unboundStream (cx (st run)) [fs.src1, fs.src2] = true ∧
    Executes g0 (st huge) (cx (st huge)) ∧ huge.evt = true ∧
    (vectorForm (.fadd g0 fv)).map (fun k => (k.op (cx (st huge)) ((cx (st huge)).take k.srcs).1).events.length) = some 32 ∧
    (vectorForm (.fcls g0 { fv with dst := ⟨.d 4, .plain⟩, src2 := .unused })).map (fun k => k.dst.reg) = some (.d 4) := by
  unfold Executes; decide +kernel

theorem witness_BranchesTransfer : Executes g0 (st run) (cx (st run)) ∧ run.pans[1] = false ∧ run.dpend[15] = false ∧ run.dfull[1] = true := by
  unfold Executes; decide +kernel

/-- The first and the last line and slot. -/
theorem witness_SequentialOrder : 0 < 2 ^ 58 - 1 ∧ 2 ^ 58 - 2 < 2 ^ 58 - 1 ∧ (4 : Nat) < 5 ∧
    (0x10004 : Word).toNat / 8 % 8 = 0 ∧ (0x10004 : Word).toNat % 8 < 5 ∧ (0x10004 : Word).toNat < 2 ^ 64 - 64 := by decide

/-- The leader of a gang of two, its follower waiting in slot 0 of core 1. -/
def gangPkg : State :=
  let lead := { run with gang := .forming 2 }
  let f := { run with tid := 2, team := 1, wid := 1, gang := .forming 2 }
  { st lead with cores := [(0, coreOf lead), (1, { coreOf f with teams := [{ team with key := ⟨0, 1⟩ }] })] }

/-- An attached follower of the thread of core 0, on core 1; a leader one of whose followers it is. -/
def inGang (t u : Thread) : State := { st t with cores := [(0, coreOf t), (1, coreOf { u with tid := 2, team := 1, wid := 1 })] }
def follower2 : Thread := { run with gang := .follower 2 true false [] none none }
def leader2 : Thread := { run with gang := .leader [⟨2, none⟩] none none none }

theorem witness_GangsForm : Executes g0 (st run) (cx (st run)) ∧ run.gang = .none ∧ (st run).thread 0 0 = some run ∧
    (st run).findTid run.tid = some ⟨0, 0⟩ ∧ (Fields.imm { fd with fmt := 1 }).toNat = 1 ∧ (Fields.imm { fd with fmt := 2 }).toNat ≠ 1 ∧
    (let s := inGang follower2 { run with gang := .leader [⟨1, none⟩] none none none }
     Executes g0 s (cx s) ∧ s.thread 0 0 = some follower2 ∧ s.leads 2 follower2.tid = true) ∧
    (let s := inGang leader2 { run with gang := .follower 1 true false [] none none }
     Executes g0 s (cx s) ∧ s.thread 0 0 = some leader2 ∧ ([⟨2, none⟩] : List GangMember).all (fun m => !s.followerOf leader2.tid m.tid false && !s.strayed m.tid) = true) := by
  unfold Executes; and_intros <;> decide +kernel

/-- Its gang: a leader of columns 0 and 1, of which core 1 holds the second; and one of columns 0 to 3, of which two are absent. -/
theorem witness_GangsForm_answers : gangPkg.thread 0 0 = some { run with gang := .forming 2 } ∧ gangPkg.findTid run.tid = some ⟨0, 0⟩ ∧
    gangPkg.launch? 0 = some job ∧ job.logicalOn 0 0 = some 0 ∧ run.steps = none ∧ gangPkg.gangAnswer job 0 0 0 0 2 1 = .joined 2 ∧
    gangPkg.findTid 2 = some ⟨1, 0⟩ ∧ (gangPkg.thread 1 0).map (fun u => (u.tid, u.steps)) = some (2, none) ∧
    gangPkg.gangAnswer job 0 0 0 0 4 2 = .absent := by
  and_intros <;> decide +kernel

/-! Addresses: d1 0x10040 in a translated page; d5 the end of the address space; d6 the last 128 bytes of the team's region; d7 one
plane stride; d8 a region that does not exist. -/
def acc : Thread := { run with
  d := #v[0, 0x10040, 7, 1, 0, 0x80000000000000, 0x43000000000380, 0x100000000, 0x4F000000000000, 64, 0x20000, 0x43000000000000,
    0x10000, 0, 0, 0x2FFF0] }

def fa (dst src1 src2 src3 : Opnd) (ty : Ty) (fmt : BitVec 36) : Fields := ⟨0, ty, dst, src1, src2, src3, fmt⟩
abbrev D (i : Fin 16) : Opnd := ⟨.d i, .plain⟩
abbrev V (i : Fin 8) : Opnd := ⟨.v i, .plain⟩
def cxa : Ctx := cx (st acc)

theorem witness_LoadsComplete :
    Ready g0 (st acc) cxa [D 1] [D 4] 1 ∧ (val (cxa.take [D 1]).1 0).toNat % accessBytes .s64 = 0 ∧
    Reaches cxa .loads .read 0x10040 [0x10040] [.mem 0x40] ∧
    Ready g0 (st acc) cxa [D 1] [V 4] 2 ∧ Reaches cxa .loads .read 0x10040 [0x10040, 0x10080] [.mem 0x40, .mem 0x80] ∧
    Ready g0 (st acc) cxa [D 6] [D 4] 0 ∧ InScratchpad cxa 0x430000000003F8 (List.range 8) 0x3F8 ∧
    Ready g0 (st acc) cxa [D 6] [V 4] 0 ∧ InScratchpad cxa 0x43000000000380 (List.range 128) 0x380 ∧
    Ready g0 (st acc) cxa [D 1, D 7] [V 4] (Fields.fetched (fa (V 4) (D 1) (D 7) .unused .g16 0)) ∧
    (val (cxa.take [D 1, D 7]).1 1) >>> 32 ≠ 0 ∧ planeAddrs 0x10040 0x100000000 2 = [0x10040, 0x10080] ∧
    Reaches cxa .planar .read 0x10040 [0x10040, 0x10080] [.mem 0x40, .mem 0x80] ∧
    planeSplit [0x10040, 0x10080] [.mem 0x40, .mem 0x80] = none := by
  refine ⟨ready_of rfl ?_, ?_, reaches_of ?_, ready_of rfl ?_, reaches_of ?_, ready_of rfl ?_, inScratchpad_of ?_, ready_of rfl ?_,
    inScratchpad_of ?_, ready_of rfl ?_, ?_, ?_, reaches_of ?_, ?_⟩ <;> decide +kernel

theorem witness_StoreCompletes :
    Ready g0 (st acc) cxa [D 1, D 2] [] 1 ∧ sysRelWait cxa (fa .unused (D 1) (D 2) .unused .s64 0x800000000) = [] ∧
    Reaches cxa .loads .write 0x10040 [0x10040] [.mem 0x40] ∧ (st acc).slotsOk 0x40 = true ∧
    (st acc).storeStrike cxa.t (addrRange 0x10040 8) = .inl (st acc) := by
  refine ⟨ready_of rfl ?_, ?_, reaches_of ?_, ?_, ?_⟩ <;> decide +kernel

/-- Lanes 0 to 2 of v2, lane 16 alone, and no lane; then two planes of v2. -/
theorem witness_VectorStoresComplete :
    sysRelWait cxa (fa .unused (D 1) (V 2) (D 2) .dflt 0x800000000) = [] ∧ unboundStream cxa [V 2] = false ∧
    Ready g0 (st acc) cxa [D 1, V 2, D 2] [] (maskSectors (peekMask cxa (D 2))).length ∧
    (maskSectors (maskOf (D 2) 7)).map (fun h => (0x10040 : Word) + BitVec.ofNat 64 (64 * h)) = [0x10040] ∧
    Reaches cxa .loads .write 0x10040 [0x10040] [.mem 0x40] ∧
    (st acc).slotsOk 0x40 = true ∧ (st acc).storeStrike cxa.t (maskAddrs 7 0x10040) = .inl (st acc) ∧
    (maskSectors (0x10000 : BitVec 32)).headD 0 = 1 ∧ Reaches cxa .loads .write (0x10040 + BitVec.ofNat 64 (64 * 1)) [0x10080] [.mem 0x80] ∧
    maskOf (D 7) 0x100000000 = 0 ∧ Ready g0 (st acc) cxa [D 1, V 2, D 7] [] (maskSectors (peekMask cxa (D 7))).length ∧
    Ready g0 (st acc) cxa [D 1, V 2, D 7] [] (gPlanes .g16) ∧ gPlanes .g16 = 2 ∧
    Reaches cxa .planar .write 0x10040 [0x10040, 0x10080] [.mem 0x40, .mem 0x80] ∧
    planeAddrs 0x10040 0x100000000 2 = [0x10040, 0x10080] ∧ planeSplit [0x10040, 0x10080] [.mem 0x40, .mem 0x80] = none ∧
    (st acc).storeStrike cxa.t ([(0x10040 : Word), 0x10080].flatMap fun b => addrRange b.toNat 32) = .inl (st acc) := by
  refine ⟨?_, ?_, ready_of rfl ?_, ?_, reaches_of ?_, ?_, ?_, ?_, reaches_of ?_, ?_, ready_of rfl ?_, ready_of rfl ?_, ?_, reaches_of
    ?_, ?_, ?_, ?_⟩ <;> decide +kernel

/-- The last word of the region, lanes 0 to 2 of a vector and lane 31 alone, and a vector with no lane. -/
theorem witness_ScratchpadStoreCompletes :
    let f (src2 src3 : Opnd) := fa .unused (D 6) src2 src3 .dflt 0
    Ready g0 (st acc) cxa (Fields.stsSrcs (f (D 2) .unused)) [] 0 ∧ InScratchpad cxa 0x430000000003F8 (List.range 8) 0x3F8 ∧
    (st acc).storeStrike cxa.t (addrRange 0x430000000003F8 8) = .inl (st acc) ∧
    Ready g0 (st acc) cxa (Fields.stsSrcs (f (V 2) (D 2))) [] 0 ∧ maskOf (D 2) 7 ≠ 0 ∧
    InScratchpad cxa 0x43000000000380 (maskOffsets 7) 0x380 ∧ InScratchpad cxa 0x43000000000380 (maskOffsets 0x80000000) 0x380 ∧
    (st acc).storeStrike cxa.t (maskAddrs 7 0x43000000000380) = .inl (st acc) ∧
    Ready g0 (st acc) cxa (Fields.stsSrcs (f (V 2) (D 4))) [] 0 ∧ maskOf (D 4) 0 = 0 ∧ cxa.c.atHome cxa.t = true := by
  refine ⟨ready_of rfl ?_, inScratchpad_of ?_, ?_, ready_of rfl ?_, ?_, inScratchpad_of ?_, inScratchpad_of ?_, ?_, ready_of rfl ?_,
    ?_, ?_⟩ <;> decide +kernel

/-- The package with the thread's team on core 1. -/
def away : State := { st acc with cores := [(0, { coreOf acc with teams := [] }), (1, { Core.reset with teams := [team] })] }

theorem witness_AccessChecksTrap :
    Ready g0 (st acc) cxa [D 5] [D 4] 1 ∧ 2 ^ 55 ≤ (val (cxa.take [D 5]).1 0).toNat ∧
    Ready g0 (st acc) cxa [D 8] [D 4] 1 ∧ (st acc).region 0 1 acc.key 0x4F000000000000 = .none ∧
    Ready g0 (st acc) cxa [D 6] [D 4] 1 ∧ (st acc).region 0 1 acc.key 0x43000000000380 = .spad 0x380 ∧
    Ready g0 (st acc) cxa [D 1] [D 4] 1 ∧ regionDetail .loads ((st acc).region 0 1 acc.key 0x10041) = 0 ∧
    (0x10041 : Word).toNat % accessBytes .s16 ≠ 0 ∧ (st acc).region 0 1 acc.key 0x10040 = .translated ∧ cxa.c.atHome cxa.t = true ∧
    Ready g0 away (cx away) [D 1] [D 4] 1 ∧ (cx away).c.atHome (cx away).t = false := by
  refine ⟨ready_of rfl ?_, ?_, ready_of rfl ?_, ?_, ready_of rfl ?_, ?_, ready_of rfl ?_, ?_, ?_, ?_, ?_, ready_of rfl ?_, ?_⟩ <;>
    decide +kernel

theorem witness_FenceProbeComplete : Executes g0 (st acc) cxa ∧ relBits (fa .unused .unused .unused .unused .dflt 0xA00000000) = true ∧
    relWait cxa true = [] ∧ acc.outst = [] ∧ acc.kvOut = 0 ∧ srcWaits cxa [] [D 1] = [] ∧ acc.dpend[4] = false ∧
    ∃ w, probeOf cxa 0x10040 = .ok w := by
  refine ⟨executes_of rfl ?_, ?_, ?_, rfl, rfl, ?_, ?_, match probeOf cxa 0x10040 with | .ok w => w | _ => 0, ok_of ?_⟩ <;> decide +kernel

/-- kv.geom of two sequences of two blocks, the tables in the page at 0x10000, empty. -/
def kvPkg : State := { st acc with colours := [(1, { Colour.reset with key := true, tdi := .run, kvGeom := 0x21, kvMap := 0x10000, kvPool := 0x10100, kvFree := 0x10200 })] }

theorem witness_UpdatesComplete :
    nonretWait cxa = [] ∧ Ready g0 (st acc) cxa [D 1, V 2, D 7] [] (gPlanes .g32) ∧ unboundStream cxa [V 2] = false ∧ relWait cxa true = [] ∧
    planeAddrs 0x10040 0x100000000 (gPlanes .g32) = [0x10040, 0x10080, 0x100C0, 0x10100] ∧
    Reaches cxa .planar ⟨.write, false⟩ 0x10040 [0x10040, 0x10080, 0x100C0, 0x10100] [.mem 0x40, .mem 0x80, .mem 0xC0, .mem 0x100] ∧
    planeSplit [0x10040, 0x10080, 0x100C0, 0x10100] [.mem 0x40, .mem 0x80, .mem 0xC0, .mem 0x100] = none ∧
    Ready g0 kvPkg (cx kvPkg) [D 0, D 3, D 3] [] 1 ∧ kvWithin (kvPkg.colour 1) [0, 1] 0 1 = true ∧ kvWithin (kvPkg.colour 1) [0, 1] 0 0 = true ∧
    kvWithin (kvPkg.colour 1) [1] 1 1 = true ∧ kvWithin (kvPkg.colour 1) [1] 1 0 = true := by
  refine ⟨?_, ready_of rfl ?_, ?_, ?_, ?_, reaches_of ?_, ?_, ready_of rfl ?_, ?_, ?_, ?_, ?_⟩ <;> decide +kernel

/-- A second page in the vault of core 1. -/
def twoPages : State := pkg acc fun c => { c with tlb := c.tlb ++ [⟨1, false, 2, 0x100001F⟩] }

theorem witness_MovesComplete :
    Executes g0 twoPages (cx twoPages) ∧ acc.inh = false ∧ srcWaits (cx twoPages) [] [D 1] = [] ∧
    Reaches (cx twoPages) .planar .locate 0x10040 [0x10040] [.mem 0x40] ∧ (Place.mem 0x40).moveCore = 0 ∧
    twoPages.clusterOk 1 (clusterOf 0) = true ∧ srcWaits (cx twoPages) [] [D 10] = [] ∧
    Reaches (cx twoPages) .planar .locate 0x20000 [0x20000] [.mem 0x10000000] ∧ (Place.mem 0x10000000).moveCore = 1 ∧
    twoPages.clusterOk 1 (clusterOf 1) = true ∧ moveWait (cx twoPages) = false ∧ moveBlocked (cx twoPages) = false ∧
    twoPages.findTeam acc.key = some (0, team) ∧ Executes g0 away (cx away) ∧ away.findTeam acc.key = some (1, team) ∧
    moveWait (cx away) = false ∧ moveBlocked (cx away) = false := by
  refine ⟨executes_of rfl ?_, ?_, ?_, reaches_of ?_, ?_, ?_, ?_, reaches_of ?_, ?_, ?_, ?_, ?_, ?_, executes_of rfl ?_, ?_, ?_, ?_⟩ <;>
    decide +kernel

/-- 64 sectors of one plane; a ticket of die 0, the null ticket, and one of a fenced die 1. -/
def lostDie : State := { st acc with dies := [(1, { Die.reset with fenced := true })] }
def sectors : List Place := (List.range 64).map fun i => .mem (0x40 + 64 * i)

theorem witness_TicketsIssue :
    Ready g0 (st acc) cxa [D 1, D 9] [D 4] 1 ∧ wbits (64 : Word) 0 7 = 64 ∧ (∀ b ∈ tldAddrs 0x10040 0 64 1, b.toNat < 2 ^ 55) ∧
    cxa.placesIn .planar ⟨.read, false⟩ (tldAddrs 0x10040 0 64 1) = .ok sectors ∧
    cxa.placesIn .planar ⟨.read, false⟩ (sortAddrs (tldAddrs 0x10040 0 64 1)) = .ok sectors ∧
    tldSplit (tldAddrs 0x10040 0 64 1) sectors 64 = none ∧
    Executes g0 (st acc) cxa ∧ srcWaits cxa [] [D 11, D 2] = [] ∧ cxa.c.atHome cxa.t = true ∧
    (st acc).region 0 1 acc.key 0x43000000000000 = .spad 0 ∧
    ((st acc).die (wbits (7 : Word) 16 3)).fenced = false ∧ acc.vowed[4] = 0 ∧ acc.dpend[4] = false ∧ nonretWait cxa = [] ∧
    acc.d[4] = 0 ∧ srcWaits cxa [] [D 11, D 4] = [] ∧ Executes g0 lostDie (cx lostDie) ∧
    (lostDie.die (wbits (0x10000 : Word) 16 3)).fenced = true ∧ srcWaits (cx lostDie) [] [D 11, D 12] = [] ∧
    (cx lostDie).c.atHome acc = true ∧ lostDie.region 0 1 acc.key 0x43000000000000 = .spad 0 := by
  refine ⟨ready_of rfl ?_, ?_, below_of ?_, ok_of ?_, ok_of ?_, ?_, executes_of rfl ?_, ?_, ?_, ?_, ?_, ?_, ?_, ?_, ?_, ?_, executes_of rfl
    ?_, ?_, ?_, ?_, ?_⟩ <;> decide +kernel

/-- A command's operands: tile 1 and slot 1, the last two of the team; and tile 2, beyond them. -/
def fe (dst src1 : Reg) : Fields := ⟨0, .g8, ⟨dst, .plain⟩, ⟨src1, .plain⟩, D 6, D 4, 0⟩
def kx : EngForm := ⟨0, true, true⟩

/-- Fifteen commands queued. -/
def queued : State := pkg acc fun c => { c with queue := List.replicate 15 (engCmd cxa kx (fe (.a 0) (.y 0)) g0 []) }
def detAcc : State := { st acc with launches := [(0, detJob)] }

theorem witness_CommandsQueue :
    engineForm (.cldX g0 (fe (.a 1) (.y 1))) = some (kx, g0, fe (.a 1) (.y 1)) ∧ ctxOf queued = some (cx queued) ∧
    srcWaits (cx queued) [] [D 6, D 4] = [] ∧ engDstWait (cx queued) ⟨.a 1, .plain⟩ = [] ∧ (cx queued).c.atHome acc = true ∧
    (cx queued).c.queue.length < 16 ∧ beyondTiles (cx queued) (fe (.a 1) (.y 1)) = false ∧ queued.det acc = false ∧
    acc.guardVal g0 = true ∧ guarded.guardRes ⟨false, 2⟩ = false ∧
    beyondTiles (cx queued) (fe (.a 2) (.y 1)) = true ∧ ctxOf detAcc = some (cx detAcc) ∧ detAcc.det acc = true ∧
    (engineForm (.cldB g0 (fe (.a 1) (.y 1)))).map (fun e => e.1.op) = some 1 ∧
    beyondTiles (cx away) (fe (.a 1) (.y 1)) = false ∧ (cx away).c.atHome acc = false := by
  and_intros <;> decide +kernel

/-- Counter 3 at 30: below 31, not below 30. -/
def counted : Thread := { acc with w := acc.w.set 3 30 }

theorem witness_CountersComplete : Executes g0 (st counted) (cx (st counted)) ∧ (cx (st counted)).c.atHome counted = true ∧
    counted.w[3] < Fields.bits (fa .unused ⟨.w 3, .plain⟩ .unused .unused .dflt 31) 0 5 ∧
    Fields.bits (fa .unused ⟨.w 3, .plain⟩ .unused .unused .dflt 30) 0 5 ≤ counted.w[3] := by
  unfold Executes; decide +kernel

/-- 512 bytes from 0x10000 to 0x10400, seven copies in the engine; and a source that is not aligned. -/
def copier (src : Word) : Thread := { acc with cp := { CopyRegs.zero with src := src, dst := 0x10400, shape := 0x0001000100010200 } }
def aCopy : Copy := ⟨7, 1, ⟨0, 0⟩, 1, 0, 0, 0x10000, (copier 0x10000).cp, none, 0, none, 8, [], [], [], 0, .queued, none⟩
def copyPkg (src : Word) : State := pkg (copier src) fun c => { c with copies := List.replicate 7 aCopy }

/-- Reads where no word of a scratchpad has an error. -/
theorem barSound_of {s : State} (h : s.badSpad = []) (key : TeamKey) (off : Nat) : BarSound s key off := by
  intro g tm _; simp [State.badSp, h]

/-- With a barrier in the last 16 bytes of the region. -/
def barCopier : Thread := { copier 0x10000 with cp := { (copier 0x10000).cp with bar := 0x3F1 } }

theorem witness_CopiesStart_bar : Executes g0 (st barCopier) (cx (st barCopier)) ∧ barCopier.cp.barEn = true ∧
    barCopier.cp.plan.m ≠ .deal ∧ barWaits (cx (st barCopier)) barCopier.cp false = false ∧
    barCopier.cp.plan.bad barCopier.cp.kindOk false 1024 = 0 ∧ barCopier.cp.plan.count false ≠ 0 ∧
    BarSound (st barCopier) barCopier.key barCopier.cp.barOff := by
  refine ⟨executes_of rfl ?_, ?_, ?_, ?_, ?_, ?_, barSound_of rfl _ _⟩ <;> decide +kernel

theorem witness_CopiesStart :
    let x := cx (copyPkg 0x10000)
    let p := (copier 0x10000).cp.plan
    Executes g0 (copyPkg 0x10000) x ∧ x.t.dpend[4] = false ∧ x.c.atHome x.t = true ∧ x.c.copies.length < 8 ∧
    barWaits x x.t.cp (p.m == .deal) = false ∧ p.bad x.t.cp.kindOk false 1024 = 0 ∧ p.count false = 8 ∧
    p.bad x.t.cp.kindOk true 1024 = 0 ∧ p.count true ≠ 0 ∧ p.total ≠ 0 ∧ x.t.streams[3] = none ∧
    (copyPkg 0x10000).thread 0 0 = some x.t ∧ (copyPkg 0x10000).findTid x.t.tid = some ⟨0, 0⟩ ∧
    Executes g0 (copyPkg 0x10008) (cx (copyPkg 0x10008)) ∧ (copier 0x10008).cp.plan.bad true false 1024 = 3 ∧
    (let e := cx (st acc)
     Executes g0 (st acc) e ∧ e.t.cp = CopyRegs.zero ∧ e.t.cp.plan.bad e.t.cp.kindOk false 1024 = 0 ∧ e.t.cp.plan.count false = 0 ∧
     e.t.cp.plan.bad e.t.cp.kindOk true 1024 = 0 ∧ e.t.cp.plan.count true = 0 ∧ e.t.cp.plan.m ≠ .deal ∧
     barWaits e e.t.cp (e.t.cp.plan.m == .deal) = false ∧ e.t.dpend[4] = false ∧ e.c.atHome e.t = true ∧ e.c.copies.length < 8 ∧
     e.t.streams[3] = none ∧ Named (st acc) ⟨0, 0⟩ e.t) ∧
    (let b := { copier 0x10000 with streams := acc.streams.set 3 (some ⟨true, 0, [], 64⟩) }
     Executes g0 (st b) (cx (st b)) ∧ (cx (st b)).t = b ∧ Named (st b) ⟨0, 0⟩ b ∧ (cx (st b)).c.atHome b = true ∧
     b.streams[3] = some ⟨true, 0, [], 64⟩) := by
  unfold Executes Named; decide +kernel

/-- A barrier word of phase 0 with seven arrivals pending in the last 16 bytes of the region's first 1,024. -/
def barPkg : State := pkg acc fun c => (c.spadPut 0x3F0 (List.replicate 16 0)).barPut 0x3F0 (7 * 2 ^ 64 + 7 * 2 ^ 4)

theorem witness_BarriersComplete :
    let x := cx barPkg
    Executes g0 barPkg x ∧ srcWaits x [] [D 6, D 2] = [] ∧ (0x430000000003F0 : Word).toNat % 16 = 0 ∧
    InScratchpad x 0x430000000003F0 (List.range 16) 0x3F0 ∧ (val (x.take [D 6, D 2]).1 1).toNat % 2 ^ 20 ≠ 0 ∧
    (val (x.take [D 6, D 4]).1 1).toNat % 2 ^ 20 = 0 ∧ barPhase (x.c.barAt 0x3F0) ≠ (7 : Word).toNat % 16 ∧
    barPhase (x.c.barAt 0x3F0) = (0 : Word).toNat % 16 ∧ barvWait x (fa .unused (D 6) .unused .unused .dflt 0x200000070) = [] ∧
    barArr (x.c.barAt 0x3F0) = 7 ∧ x.t.pans[1] = false ∧ x.c.atHome x.t = true := by
  refine ⟨executes_of rfl ?_, ?_, ?_, inScratchpad_of ?_, ?_, ?_, ?_, ?_, ?_, ?_, ?_, ?_⟩ <;> decide +kernel

def dev : BitVec 36 := 0x800000000

theorem witness_AtomicsIssue :
    atomForm (.amoAdd g0 (fa (D 4) (D 1) (D 2) .unused .dflt dev)) = some (.add, true, g0, fa (D 4) (D 1) (D 2) .unused .dflt dev) ∧
    atomForm (.redAdd g0 (fa .unused (D 1) (D 2) .unused .dflt dev)) = some (.add, false, g0, fa .unused (D 1) (D 2) .unused .dflt dev) ∧
    Ready g0 (st acc) cxa [D 1, D 2] [D 4] 1 ∧ Ready g0 (st acc) cxa [D 1, D 2] [] 1 ∧ nonretWait cxa = [] ∧
    sysRelWait cxa (fa (D 4) (D 1) (D 2) .unused .dflt dev) = [] ∧ Fields.bits (fa (D 4) (D 1) (D 2) .unused .dflt dev) 34 2 = 2 ∧
    (st acc).det cxa.t = false ∧ Reaches cxa (scopeAccepts 2) ⟨.write, false⟩ 0x10040 [0x10040] [.mem 0x40] ∧
    (st acc).slotsOk 0x40 = true ∧ Reaches cxa (scopeAccepts 3) ⟨.write, true⟩ 0x10040 [0x10040] [.mem 0x40] ∧
    Reaches cxa (scopeAccepts 1) ⟨.write, false⟩ 0x41000000000040 [0x41000000000040] [.mem (clusterAddr 1 0 0x40)] := by
  refine ⟨?_, ?_, ready_of rfl ?_, ready_of rfl ?_, ?_, ?_, ?_, ?_, reaches_of ?_, ?_, reaches_of ?_, reaches_of ?_⟩ <;> decide +kernel

theorem witness_TeamAtomicsComplete :
    let f := fa (D 4) (D 6) (D 2) .unused .dflt 0x78
    atomForm (.amoAdd g0 f) = some (.add, true, g0, f) ∧ f.ty ≠ .f32 ∧ Ready g0 barPkg (cx barPkg) [D 6, D 2] [D 4] 0 ∧
    nonretWait (cx barPkg) = [] ∧ sysRelWait (cx barPkg) f = [] ∧ Fields.bits f 34 2 = 0 ∧
    InScratchpad (cx barPkg) 0x430000000003F8 (List.range 8) 0x3F8 ∧
    barPkg.storeStrike (cx barPkg).t (addrRange 0x430000000003F8 8) = .inl barPkg ∧
    atomWrites .add .dflt (extendTo.leNum ((cx barPkg).c.spadBytes 0x3F8 8)) 0 = true := by
  refine ⟨?_, ?_, ready_of rfl ?_, ?_, ?_, ?_, inScratchpad_of ?_, ?_, ?_⟩ <;> decide +kernel

/-- A message in the inbox; a launch in phase 1 whose thread arrived at phase 0; a launch that lets its teams castle. -/
def mail : InboxEntry := ⟨3, 4, 1, 1⟩
def phased : State := { st { acc with arrived := some 0 } with launches := [(0, { job with phase := 1 })] }
def castJob : Launch := { job with hdr := job.hdr.set 4 (8 + 2 <<< 13 + 1 <<< 16 + 1 <<< 22) }

theorem witness_TaskInstructionsComplete :
    let x := cx (pkg acc fun c => { c with inbox := [mail] })
    Executes g0 (pkg acc fun c => { c with inbox := [mail] }) x ∧ x.t.dpend[4] = false ∧ x.c.atHome x.t = true ∧
    takeInbox 1 x.c.inbox = some (mail, []) ∧ srcWaits x [] [D 1] = [] ∧ x.s.relRoom 0 = true ∧ drainWait x = [] ∧ x.s.launch? 0 = some job ∧
    Executes g0 phased (cx phased) ∧ (cx phased).t.arrived = some 0 ∧ x.t.unperformed = [] ∧ ({ job with phase := 1 } : Launch).phase ≠ 0 ∧
    (fa (D 4) .unused .unused .unused .dflt 1).fmt.getLsbD 0 = true ∧ acc.arrived = none ∧ castJob.castl = true ∧ job.castl = false := by
  unfold Executes; decide +kernel

theorem witness_SystemInstructionsComplete : Executes g0 (st acc) cxa ∧ srcWaits cxa [] [D 5] = [] ∧ acc.dpend[4] = false ∧
    sysNumber 0x000 = true ∧ sysTaskNone 0x000 = false ∧ sysTaskRo 0x000 = false ∧ sysNumber 0x340 = true ∧ sysTaskNone 0x340 = false ∧
    sysNumber 0x307 = true ∧ ({ acc with flags := 4 } : Thread).sup = true := by
  unfold Executes; decide +kernel

theorem witness_ThreadRegistersReadBack : (st acc).thread 0 0 = some acc := rfl

theorem witness_PreciseTrapParks : ctxOf (st acc) = some cxa ∧ acc.inh = false := ⟨rfl, by decide +kernel⟩

/-- A thread with a vector at 64; a machine check, a handler and a thread without a vector. -/
def vectored : Thread := { acc with flags := 0x40 }

theorem witness_TrapDelivered :
    let r := preciseReport kindSoft 1 0x10001 0
    (15 : Nat) < 16 ∧ r.kind ≠ kindCheck ∧ vectored.inh = false ∧ vectored.vec ≠ 0 ∧ r.clr = none ∧
    acc.fromWin = false ∧ acc.winning = false ∧ (preciseReport kindCheck 0 0 0).kind = kindCheck ∧
    ({ acc with flags := 2 } : Thread).inh = true ∧ acc.vec = 0 := by decide +kernel

/-- A handler that returns to slot 4 of a line. -/
def handler : Thread := { acc with flags := 0x42, tr := ⟨0x10044, 0, 0, 0, 0, 0⟩ }

theorem witness_ReturnFromTrap : Executes g0 (st handler) (cx (st handler)) ∧ handler.inh = true ∧ handler.park = .none ∧
    epcBad handler.tr.epc = false ∧ Executes g0 (st acc) cxa ∧ acc.inh = false := by
  unfold Executes; decide +kernel

/-! Events: a message in flight, or a unit at the point where its next step is due. -/
def clk0 : List Nat := List.replicate 8 0
def rq : Req := ⟨3, 1, 0, 0, 1, 0, 0x10000, false, clk0, []⟩

/-- What an answer of the slice of core 0 to core 0 bears. -/
def own : Label := ⟨0, 1, 0⟩
def inNet (m : Msg) : State := { st acc with net := [m] }

/-- A write that waits for release point 1 of die 0. -/
def late : Req := { rq with clock := [1, 0, 0, 0, 0, 0, 0, 0] }
def wr (r : Req) : Msg := .write r [(0x40, 9)] 0x10040

theorem witness_MemoryEventsComplete :
    (let s := pkg acc fun c => { c with walks := [⟨1, 3, none⟩] }
     (⟨1, 3, none⟩ : Walk) ∈ (s.core 0).walks ∧ s.walkOpen 1 (dieOf 0) (3 * 2 ^ 16) = true) ∧
    (let s := pkg acc fun c => { c with fetches := [(1, 0x10000)] }
     (s.core 0).fetches.contains (1, (0x10000 : Word).toNat) = true ∧ (s.core 0).tlbFind 1 0x10000 = some ⟨1, false, 1, 0x1F⟩ ∧
     s.leafAccess (dieOf 0) 1 Use.fetch false 0x1F 0x10000 = .ok (.mem 0) ∧ s.twoWay (dieOf 0) 0 = true ∧
     s.bad 0 64 = false) ∧
    (Named (inNet (.reply 1 3 (.d 4 .z64) [1, 2] clk0 own)) ⟨0, 0⟩ acc ∧
      (inNet (.reply 1 3 (.d 4 .z64) [1, 2] clk0 own)).net[0]? = some (.reply acc.tid 3 (.d 4 .z64) [1, 2] clk0 own) ∧
      (inNet (.reply 1 3 (.d 4 .z64) [1, 2] clk0 own)).arrived 0 = true ∧ (st acc).wayBack own = true) ∧
    (let s := inNet (.read rq [(0x40, 8)] (.d 4 .z64) 0x10040)
     s.arrived 0 = true ∧ s.expanded 0x40 = true ∧ s.ownWaits (homeKeeper 0x40) rq [(0x40, 8)] = false ∧ isPeer 0x40 = false ∧
     s.refuses 1 [(0x40, 8)] = none ∧ rq.fromPeer = false) ∧
    (let s := inNet (wr rq)
     s.arrived 0 = true ∧ s.slotsOk 0x40 = true ∧ isPeer 0x40 = false ∧ s.ownWaits (homeKeeper 0x40) rq [(0x40, 1)] = false ∧
     s.covers (homeDie 0x40) rq.clock = true ∧ s.refuses 1 [(0x40, 1)] = none ∧ s.covers (homeDie 0x40) late.clock = false) ∧
    (let s := pkg acc fun c => { c with held := [wr rq] }
     (s.core 0).held[0]? = some (wr rq) ∧ s.covers (homeDie 0x40) rq.clock = true ∧ s.slotsOk 0x40 = true ∧
     (s.setCore 0 { s.core 0 with held := (s.core 0).held.take 0 }).ownWaits 0 rq [(0x40, 1)] = false ∧ s.refuses 1 [(0x40, 1)] = none) ∧
    (let s : State := { st acc with dies := [(7, { Die.reset with front := [0, 0, 0, 0, 0, 0, 0, 1] })] }
     (∀ d, d < 8 → (s.die d).front.length = 8) ∧ (s.die 0).front.getD 7 0 < (s.die 7).front.getD 7 0) ∧
    ((st acc).cluster 127).expander.contains (31 * 2 ^ 15 + (2 ^ 15 - 1)) = false := by
  refine ⟨?_, ⟨?_, ?_, ok_of ?_, ?_, ?_⟩, ⟨named_of ?_, ?_, ?_, ?_⟩, ?_, ?_, ?_, ?_, ?_⟩ <;> decide +kernel

def plan1 : Planar := ⟨rq, false, .g8, 0, [0x40], 0x10040, List.replicate 32 0x3F800000, 0, none⟩
def atom (op : AtomOp) : Atomic := ⟨rq, op, .dflt, 0x40, 0x10040, 5, 0, none, none, [], false, false, false, []⟩

/-- A contribution from a core of die 1 to a home in die 0, and die 1's gateway toward die 0. -/
def far : Atomic := { atom .add with req := { rq with src := 256 }, comb := true }
def gateOf (gate : List (Nat × Atomic)) : State := { inNet (.atomic far) with dies := [(1, { Die.reset with gate := gate })] }

/-- The answer of a KV step is no report of a bad word. -/
def noCheck (x : KvRes) : Bool := match x with
  | .check _ _ => false
  | _ => true

/-- A thread of a colour with two sequences of two blocks, a message of its in flight. -/
def kvNet (m : Msg) : State := { kvPkg with net := [m] }

theorem witness_UpdateEventsComplete :
    (let s := inNet (.planar plan1)
     s.arrived 0 = true ∧ s.covers (homeDie 0x40) rq.clock = true ∧ s.ownWaits (homeKeeper 0x40) rq [(0x40, 32)] = false ∧
     s.refuses 1 [(0x40, 32)] = none) ∧
    (let s := kvNet (.kv rq 0 1 true 0)
     s.arrived 0 = true ∧ s.kvReady 0 rq 0 1 (s.kvWords 0 1 0 1 true).1 (s.kvCopied 0 1 0 1 true) = true ∧ noCheck
       ((((s.takeMsg 0).hearReq (s.kvHome 0 1 0 1) rq).hearAt 1 (s.die (homeDie (s.kvHome 0 1 0 1))).k).kvStep 0 1 0 1 true).2 = true ∧
     s.wayBack (rq.label (homeOf (s.kvHome 0 1 0 1))) = true) ∧
    (let s := kvNet (.kvBlocks rq true 0 1 0 2)
     s.arrived 0 = true ∧ s.kvReady 0 rq 0 0 (s.kvStepWords 0 1 true 0 1 0 ++ s.kvStepPush 0 1 true 0 1 0) (s.kvStepBlocks 0 1 true 0 1 0) = true ∧
     ((s.takeMsg 0).correct (s.kvPlaces 0 1 (s.kvStepWords 0 1 true 0 1 0))).kvStepForeign 0 1 true 0 1 0 = false ∧
     ((s.takeMsg 0).correct (s.kvPlaces 0 1 (s.kvStepWords 0 1 true 0 1 0))).kvStepBad 0 1 true 0 1 0 = none ∧
     (((s.takeMsg 0).correct (s.kvPlaces 0 1 (s.kvStepWords 0 1 true 0 1 0))).kvForkStep 0 1 0 1 0).isSome = true) ∧
    (let s := inNet (.atomic (atom .add))
     s.arrived 0 = true ∧ s.slotsOk 0x40 = true ∧ isPeer 0x40 = false ∧ s.covers (homeDie 0x40) rq.clock = true ∧
     s.ownWaits (homeKeeper 0x40) rq [(0x40, 8)] = false ∧ s.refuses 1 [(0x40, 8)] = none ∧ (atom .add).cell = false ∧
     (atom .add).issuers.all (fun r => !r.fromPeer) = true) ∧
    ((inNet (.atomic (atom .x))).refuses 1 [(0x40, atomBytes .x .dflt)] = none ∧ (atom .x).parts = []) ∧
    (inNet (.amoReply 1 3 4 9 clk0 own)).net[0]? = some (.amoReply acc.tid 3 4 9 clk0 own) ∧
    (inNet (.redAck 1 3 clk0 own)).net[0]? = some (.redAck acc.tid 3 clk0 own) ∧ (inNet (.amoReply 1 3 4 9 clk0 own)).arrived 0 = true ∧
    (inNet (.redAck 1 3 clk0 own)).arrived 0 = true ∧ (st acc).wayBack own = true ∧ Named (inNet (.redAck 1 3 clk0 own)) ⟨0, 0⟩ acc := by
  refine ⟨?_, ?_, ?_, ?_, ?_, ?_, ?_, ?_, ?_, ?_, named_of ?_⟩ <;> decide +kernel

/-- The same contribution from another core of die 1. -/
def far2 : Atomic := { far with req := { far.req with src := 257, tid := 4 } }

/-- A gateway with room, with a partner, and full of another core's; a contribution it holds. -/
theorem witness_UpdateEventsComplete_gate :
    far.comb = true ∧ far.gateway = some (1, 0) ∧ mergeInto far 0 [] = none ∧ (mergeInto far 0 [(0, far)]).isSome = true ∧
    256 ≤ (((gateOf (List.replicate 256 (0, far2))).die 1).gate.filter fun h => h.1 == 0).length ∧ far2.sameWay far = false ∧
    (([[], [(0, far)], List.replicate 256 (0, far2)].all fun gate => (gateOf gate).dies.all fun e => e.2.gate.all fun h =>
      (e.1 == 1 && h.1 == 0) || !h.2.sameWay far) = true) ∧
    ((gateOf [(0, far)]).die 1).gate[0]? = some (0, far) := by
  and_intros <;> decide +kernel

/-- An attached follower of thread 9; a leader whose follower, detached, waits at `rejoin`. -/
def follow : Thread := { acc with gang := .follower 9 true false [] none none }
def rejoining : State := { inGang leader2 { run with gang := .follower 1 false false [] none (some 0x10040) } with
  net := [.rejoin 1 2 0x10040 own] }
def aLine : FwdLine := ⟨0x10000, 0, 0x10000, none⟩

theorem witness_ArrivalsComplete :
    (let s := inNet (.nword 0 0 1 3 8 clk0)
     s.net[0]? = some (.nword 0 0 1 3 8 clk0) ∧ s.reaches (((s.launch? 0).map fun l => l.linkSource 0 1 3).getD 1) 1 = true) ∧
    (let s := { st acc with net := [.context { acc with tid := 2 } 256 0 0 clk0] }
     (s.core 0).arrivals.length < 16 ∧ (s.core 0).stop = false ∧ (s.core 0).arrivals = [] ∧ (s.core 0).vacant.isSome = true ∧
     s.reaches 256 0 = true) ∧
    (Named rejoining ⟨0, 0⟩ leader2 ∧ leader2.gang = .leader [⟨2, none⟩] none none none ∧
     rejoining.net[0]? = some (.rejoin leader2.tid 2 0x10040 own) ∧ rejoining.waitsAt 1 2 0x10040 = true) ∧
    (let s : State := { st follow with net := [.fwdLine 9 1 aLine own] }
     Named s ⟨0, 0⟩ follow ∧ follow.gang = .follower 9 true false [] none none ∧ s.net[0]? = some (.fwdLine 9 follow.tid aLine own)) ∧
    (let s := inNet (.inbox (some ⟨0, 0⟩) 0 mail 0 clk0)
     s.net[0]? = some (.inbox (some ⟨0, 0⟩) 0 mail 0 clk0) ∧ s.clusterOk 1 (clusterOf 0) = true ∧ s.resident 1 = true ∧
     s.reaches 0 0 = true ∧ s.savedHome ⟨0, 0⟩ = none) ∧
    (inNet (.inbox none 0 mail 0 clk0)).noticeOwed mail = false ∧
    (st acc).clusterOk 1 (clusterOf 2047) = false := by
  refine ⟨?_, ?_, ⟨named_of ?_, ?_, ?_, ?_⟩, ⟨named_of ?_, ?_, ?_⟩, ?_, ?_, ?_⟩ <;> decide +kernel

/-! Page tables that map 0x10000 to the first page of vault 0 for colour 1 (R189, R190). -/
def word8 (a : Nat) (w : Word) : List (Nat × Byte) := enumFrom a (wordBytes 8 w)
def tables : List (Nat × Byte) := memPuts [] (word8 0x10000 0x2000000001 ++ word8 0x20000 0x3000000001 ++ word8 0x30008 0x1F)
def mapped (s : State) : State := { s with mem := tables, wpBase := [(8, 0x1000000001)] }

/-- What an access gives, where it does not stop; and whether it stops at a fault. -/
def reached {α : Type} (x : Except Stop α) : Option α := match x with
  | .ok y => some y
  | .error _ => none

theorem reached_of {α : Type} {x : Except Stop α} (h : (reached x).isSome = true) : ∃ y, x = .ok y := by
  cases x with
  | ok y => exact ⟨y, rfl⟩
  | error e => cases h

def faults {α : Type} (x : Except Stop α) : Bool := match x with
  | .ok _ => false
  | .error e => e.isFault

theorem fault_of {α : Type} {x : Except Stop α} (h : faults x = true) : ∃ e, x = .error e ∧ e.isFault = true := by
  cases x with
  | ok y => cases h
  | error e => exact ⟨e, rfl, h⟩

def moving : Copy := { aCopy with state := .active }
def doneCopy : Copy := { moving with landed := List.range 8 }
def withCopies (cs : List Copy) : State := pkg (copier 0x10000) fun c => { c with copies := cs }

/-- A copy whose last sector has been read. -/
def readSector : List (Word × List Byte) := ((reached ((mapped (withCopies [moving])).landRead 0 moving 7)).map Prod.snd).getD []
def holding : Copy := { moving with got := [(7, readSector)] }
def descWords : List Word := [0x10000, 0x10400, 0x0001000100010200, 0, 0, 0, 0, 0]
def askXop : State := { pkg acc fun c => c.spadPut 0 (descWords.flatMap (wordBytes 8)) with
  net := [.xreq rq 0 1 1 0 3 ⟨0, 0⟩] }
def coprocs (a w : Option (Nat × Copy)) : List (Nat × Cluster) :=
  [(0, { Cluster.reset with cops := Vector.replicate 2 ⟨a, w⟩ })]
def parked : Copy := { aCopy with state := .parked }

/-- A copy whose source no page maps. -/
def astray : Copy := { moving with regs := (copier 0x20000).cp }

theorem witness_CopyEventsComplete :
    (Named askXop ⟨0, 0⟩ acc ∧ ((askXop.cluster 0).cop 1).active = none ∧ askXop.findTeam ⟨0, 0⟩ = some (0, team) ∧
      askXop.descriptorBad 0 team.base 0 1024 = false ∧
      (descCopy rq ⟨0, 0⟩ 0 3 1024 ((askXop.core 0).descriptor 0)).2 = 0 ∧
      (descCopy rq ⟨0, 0⟩ 0 3 1024 ((askXop.core 0).descriptor 0)).1.regs.barEn = false) ∧
    (let s : State := { askXop with clusters := coprocs (some (0, moving)) (some (0, moving)) }
     ((s.cluster 0).cop 1).active.isSome = true ∧ ((s.cluster 0).cop 1).waiting.isSome = true) ∧
    (let s := withCopies [aCopy]
     (s.core 0).stop = false ∧ ((s.core 0).copies.filter fun d => d.state == .active).length < 4 ∧
     ((s.core 0).copies.find? fun d => d.state == .queued || d.state == .again) = some aCopy ∧ aCopy.plan.m ≠ .deal) ∧
    (let s := mapped (withCopies [moving])
     s.getCopy 0 7 = some (moving, .engine 0) ∧ s.copyMoves 0 moving 7 = true ∧ moving.read? 7 = none ∧
     ∃ y, s.landRead 0 moving 7 = .ok y) ∧
    (let s := mapped (withCopies [holding])
     s.getCopy 0 7 = some (holding, .engine 0) ∧ s.copyMoves 0 holding 7 = true ∧ holding.read? 7 = some readSector ∧
     s.copyStrike holding 7 = none ∧ holding.skid = none ∧ holding.stream = none ∧ holding.regs.barEn = false ∧
     ∃ y, s.landWrite 0 holding 7 readSector = .ok y) ∧
    (let s := withCopies [astray]
     s.getCopy 0 7 = some (astray, .engine 0) ∧ astray.state = .active ∧ astray.skid = none ∧ s.copyMoves 0 astray 0 = true ∧
     astray.got = [] ∧ ∃ e, s.sectorStep 0 astray (.engine 0) 0 = .error e ∧ e.isFault = true) ∧
    (((withCopies [doneCopy]).core 0).copies.find? fun d => d.id.toNat == 7) = some doneCopy ∧ doneCopy.state = .active ∧ ((withCopies [doneCopy]).core 0).checked = false ∧
    doneCopy.total ≤ doneCopy.landed.length ∧
    ((({ st acc with clusters := coprocs (some (0, doneCopy)) none } : State).cluster 0).cop 1).active = some (0, doneCopy) ∧
    (withCopies [parked]).parkedCopy 1 7 = some (0, parked, .engine 0) := by
  refine ⟨⟨named_of ?_, ?_, ?_, ?_, ?_, ?_⟩, ?_, ?_, ⟨?_, ?_, ?_, reached_of ?_⟩, ⟨?_, ?_, ?_, ?_, ?_, ?_, ?_, reached_of ?_⟩,
    ⟨?_, ?_, ?_, ?_, ?_, fault_of ?_⟩, ?_, ?_, ?_, ?_, ?_, ?_⟩ <;> decide +kernel

/-- A command of one unit at 0x10000: of op `op`, in state 1. -/
def cmd (op : Nat) : Cmd := { engCmd cxa ⟨op, true, true⟩ (fe (.a 1) (.y 1)) g0 [.w 0x10000, .w 0x10081] with state := 1, uid := 20 }
def cmdIn (s : State) (e : Cmd) : State := s.setCore 0 { s.core 0 with active := [e] }
def rowCmd : Cmd := { cmd 8 with vdst := none, mod := 9, op2 := 0x43000000000000, op3 := 0x40040 }

/-- A command whose operand no page maps. -/
def strayCmd : Cmd := { cmd 0 with op2 := 0x20000 }

theorem witness_EngineEventsComplete :
    (let e := { cmd 0 with state := 0 }
     let s := pkg acc fun c => { c with queue := [e] }
     (s.core 0).queue = [e] ∧ (s.core 0).stop = false ∧ e.gres = true ∧ e.state ≠ 3 ∧ e.decided = true ∧
     (s.core 0).active.length + (s.core 0).guest.toList.length < 4 ∧ (s.core 0).conflict e = false ∧ e.partial_ = none ∧
     ({ e with gval := false } : Cmd).decided = false) ∧
    (let s := cmdIn (mapped (st acc)) (cmd 0)
     (s.core 0).stop = false ∧ cmdFind 20 (s.core 0).active = some (cmd 0) ∧ (cmd 0).op ≠ 7 ∧ (cmd 0).work = .stream ∧
     s.rereadCmd 0 (cmd 0) = cmd 0 ∧ s.rereadFault 0 (cmd 0) (cmd 0) = none ∧ (s.unitLands 0 (cmd 0) 0).isSome = true) ∧
    (let s := cmdIn (mapped (st acc)) (cmd 5)
     (cmd 5).work = .gather ∧ s.rereadCmd 0 (cmd 5) = cmd 5 ∧ s.rereadFault 0 (cmd 5) (cmd 5) = none ∧
     (s.unitLands 0 (cmd 5) 0).isSome = true) ∧
    (let s := cmdIn (st acc) rowCmd
     rowCmd.work = .rows ∧ s.rereadCmd 0 rowCmd = rowCmd ∧ s.rereadFault 0 rowCmd rowCmd = none ∧ (s.unitLands 0 rowCmd 0).isSome = true) ∧
    (let e := { cmd 4 with op3 := 0x43000000000000, desc := [0, 0, 1, 0] }
     let s := cmdIn (pkg acc fun c => c.spadPut 0 (List.replicate 32 0)) e
     cmdFind 20 (s.core 0).active = some e ∧ (s.rereadFault 0 e (s.rereadCmd 0 e)).isSome = true) ∧
    (let e := { cmd 7 with wide := List.replicate 126 0 }
     let s := (cmdIn (st acc) e).setCore 0 { (cmdIn (st acc) e).core 0 with n4 := [1, 2] }
     (s.core 0).stop = false ∧ e.op = 7 ∧ e.state = 1 ∧ 2 * 63 = e.wide.length ∧ (s.core 0).n4 = [1, 2] ∧
     cmdFind 20 (s.core 0).active = some e) ∧
    (((cmd 0).mark [0]).allMarked = true ∧ ((cmd 0).mark [0]).op.toNat ≤ 4 ∧ ({ (cmd 4).mark [0] with gathered := true } : Cmd).allMarked = true ∧
      (cmd 10).op = 10 ∧ ({ cmd 7 with wide := List.replicate 128 0, tile := 0 } : Cmd).wide.length = 128 ∧
      ({ cmd 8 with vdst := some 4 } : Cmd).vdst.isSome = true ∧ cmdFind 20 ((cmdIn (st acc) (cmd 10)).core 0).active = some (cmd 10) ∧
      ((st acc).core 0).physical ⟨0, 0⟩ 1 = 1 ∧ ((st acc).core 0).physical ⟨0, 0⟩ 0 = 0) ∧
    (strayCmd.nextUnit = some 0 ∧ strayCmd.skid = none ∧ strayCmd.state = 1 ∧
      (cmdIn (st acc) strayCmd).rereadCmd 0 strayCmd = strayCmd ∧ (cmdIn (st acc) strayCmd).rereadFault 0 strayCmd strayCmd = none ∧
      cmdFind 20 ((cmdIn (st acc) strayCmd).core 0).active = some strayCmd ∧
      ((cmdIn (st acc) strayCmd).unitStop 0 strayCmd 0).isSome = true) := by
  refine ⟨?_, ?_, ?_, ?_, ?_, ?_, ?_, ?_⟩ <;> decide +kernel

/-- A ninth command that core 1 runs; its partial, complete and stopped; a broadcast whose last word core 0 has not taken, with room for
one word, and a core of no team of its launch. -/
theorem witness_EngineEventsComplete_shared :
    (let e := { cmd 0 with state := 0 }
     let y : RSlot := ⟨0, 1, 1, [], none⟩
     let s0 := pkg acc fun c => { c with slots := c.slots.set 1 y, queue := List.replicate 8 { cmd 10 with tile := 0 } ++ [e] }
     let s := s0.setCore 1 { Core.reset with stop := false, active := [{ cmd 10 with state := 2 }] }
     let c := s.core 0
     c.queue[8]? = some e ∧ e.op = 0 ∧ e.disc = false ∧ e.gres = true ∧ e.decided = true ∧
     (c.active ++ c.queue.take 8).any (fun a => (c.cmdWrites a).contains (4 + c.physical e.team e.slot)) = false ∧
     sameRow 0 1 = true ∧ c.leaving = false ∧ (s.core 1).leaving = false ∧ (s.core 1).checked = false ∧ (s.core 1).anyHalted = false ∧
     (s.core 1).queue = [] ∧ ((s.core 1).active.all fun a => a.state == 2) = true ∧ (s.core 1).guest = none ∧
     e.failed 1024 (c.rslot (c.physical e.team e.slot)) ⟨false, []⟩ ⟨false, []⟩ = none ∧ (s.core 1).spareTiles.reverse ≠ [] ∧
     ((c.teamOf e.team).map Team.size).getD 0 = 1024) ∧
    (let q : Guest := ⟨0, (cmd 0).mark [0], ⟨0, 1, 1, [], none⟩, 3, []⟩
     let s := (st acc).setCore 1 { Core.reset with guest := some q, stop := true }
     (s.core 1).guest = some q ∧ q.home ≠ 1 ∧ q.cmd.allMarked = true ∧ (s.core 1).leaving = true ∧
     ({ cmd 0 with state := 2 } : Cmd).state = 2) ∧
    (let b : Broadcast := ⟨20, 0, List.replicate 128 0, [(0, 127)]⟩
     let s : State := { pkg acc fun c => { c with n4 := List.replicate 63 0, active := [cmd 11] } with
       clusters := [(0, { Cluster.reset with casts := [b] })] }
     clusterOf 0 = 0 ∧ (s.cluster 0).casts = [b] ∧ s.castsNow b = true ∧ b.takenBy 0 < 128 ∧ s.caster b = some 0 ∧
     b.words ≠ [] ∧ (s.core 0).takes b = true ∧ b.takenBy 0 < s.castRoom 0 [b] 0 b ∧ (s.core 1).takes b = false ∧ b.takenBy 1 < 128) ∧
    (let b : Broadcast := ⟨20, 0, [], []⟩
     let s : State := { pkg acc fun c => { c with active := [cmd 11] } with clusters := [(0, { Cluster.reset with casts := [b] })] }
     s.caster b = some 0 ∧ s.castsNow b = true ∧ (s.formCast 0 0 0 b 2).2 = none) := by
  refine ⟨?_, ?_, ?_, ?_⟩ <;> decide +kernel

/-- Entry 2 of the slice of core 0: one sector of one plane, ready, of the launch's colour. -/
def tkReady : TkEntry := { TkEntry.free with
  st := 2, gen := 1, colour := 1, lease := 9, n := 1, planes := 1, addrs := [0x40], data := [(0, List.replicate 64 7)] }
def withTk (k : TkEntry) : State := { pkg { acc with waitAns := true } fun c => { c with tickets := [(2, k)] } with badMem := [] }
def tk : Word := (withTk tkReady).ticketOf 0 2 1 1
def claimed : Claim := ⟨3, 1, 0, 0, 1, 0x10000, .sp 0x380 ⟨0, 0⟩, []⟩

theorem witness_TicketEventsComplete :
    (let s := inNet (.tld rq 4 0 .dflt false 64 1 ((List.range 64).map fun i => 64 * i) 0 0 false)
     s.arrived 0 = true ∧ s.heldBefore 0 0 ((List.range 64).map fun i => (64 * i, 64)) = false ∧ (s.core 0).tkAlloc = some 0 ∧
     (s.core 0).tkUsed + 64 * 1 ≤ 4096 ∧ 4096 < (s.core 0).tkUsed + 64 * 65) ∧
    (let k := { tkReady with st := 1, data := [] }
     ((withTk k).core 0).tk 2 = k ∧ k.st ≠ 0 ∧ k.landed 0 = false ∧ (withTk k).groupWaits k 0 = false ∧ (withTk k).bad 0x40 64 = false ∧
     (withTk k).foreign 1 0x40 = false) ∧
    (((withTk tkReady).core 0).tk 2 = tkReady ∧ tkReady.landed 0 = true) := by
  refine ⟨?_, ?_, ?_⟩ <;> decide +kernel

theorem tk_ok : (withTk tkReady).claimCheck (tkSlice tk) tk claimed = 0 := by
  have h := tk_fields (withTk tkReady) (g := 0) (e := 2) (colour := 1) (gen := 1) (by decide) (by decide) (by decide) (by decide)
  have hc := ticketCheck_ticketOf (withTk tkReady) (g := 0) (e := 2) (colour := 1) (gen := 1) (by decide) (by decide) (by decide)
    (by decide) (by decide +kernel) (by decide +kernel) (by decide +kernel)
  have hd : (withTk tkReady).fencedOff claimed.core 0 = false := by decide +kernel
  have hs : (((withTk tkReady).core 0).tk 2).st ≠ 3 := by decide +kernel
  have hf : (withTk tkReady).fits (((withTk tkReady).core 0).tk 2) claimed.form = true := by decide +kernel
  have c : (withTk tkReady).ticketCheck 0 claimed.colour tk = 0 := hc
  unfold State.claimCheck
  rw [show tkSlice tk = 0 from h.2.1, show tkEntry tk = 2 from h.1, hd]
  simp only [c, hf, if_neg hs]
  rfl

/-- A claim is not before itself. -/
theorem claim_first (t : Word) (c : Claim) (s : State) (h : s.net = [.claim t c]) (hr : c.rank < expiryRank) :
    s.entryBefore (tkSlice t) (tkEntry t) c.rank = false := by
  simp [State.entryBefore, h, Msg.atEntry, Nat.not_lt.mpr (Nat.le_of_lt hr)]

/-- The first message arrives where no gateway holds a contribution. -/
theorem claim_arrives (t : Word) (c : Claim) (s : State) (h : s.net = [.claim t c]) (hd : s.dies = []) : s.arrived 0 = true := by
  simp [State.arrived, State.gated, State.routeOf, h, hd, Msg.answer?, Msg.route?, Msg.alwaysAnswered]

/-- The slice of the ticket is that of core 0. -/
theorem tk_slice : tkSlice tk = 0 :=
  (tk_fields (withTk tkReady) (g := 0) (e := 2) (colour := 1) (gen := 1) (by decide) (by decide) (by decide) (by decide)).2.1

def tkClaimed : TkEntry := { tkReady with st := 3, claim := some claimed }

/-- The claim is granted; at a fenced die it is denied. -/
theorem witness_TicketEventsComplete_claim :
    (let s : State := { withTk tkReady with net := [.claim tk claimed] }
     s.arrived 0 = true ∧ s.entryBefore (tkSlice tk) (tkEntry tk) claimed.rank = false ∧ Named s ⟨0, 0⟩ { acc with waitAns := true } ∧ claimed.tid = acc.tid ∧
      claimed.form = .sp 0x380 ⟨0, 0⟩ ∧ s.backTo (tkSlice tk) claimed 1 = true) ∧
    (withTk tkReady).claimCheck (tkSlice tk) tk claimed = 0 ∧
    ({ withTk tkReady with dies := [(0, { Die.reset with fenced := true })] } : State).claimCheck 0 tk claimed ≠ 0 ∧
    (let u := { acc with denied := some (preciseReport kindTicket 6 0x10000 tk) }
     u.denied.isSome = true ∧ u.halted = false ∧ u.handed = none ∧ u.waitAns = false ∧ u.haltReq = false) :=
  ⟨⟨claim_arrives tk claimed _ rfl rfl, claim_first tk claimed _ rfl (by decide), named_of (by decide +kernel), rfl, rfl, by rw [tk_slice]; decide +kernel⟩, tk_ok, by decide +kernel, by decide +kernel⟩

theorem witness_TicketEventsComplete_rest :
    (let s := withTk tkClaimed
     (s.core 0).tk 2 = tkClaimed ∧ tkClaimed.st = 3 ∧ tkClaimed.claim = some claimed ∧ 0 < tkClaimed.n * tkClaimed.planes ∧
     0 ∉ tkClaimed.sent ∧ tkClaimed.marked = [] ∧ smapFind tkClaimed.data 0 = some (List.replicate 64 7) ∧
     s.resident tkClaimed.colour = true ∧ s.findTeam ⟨0, 0⟩ = some (0, team) ∧ s.backTo 0 claimed 1 = true) ∧
    (inNet (.tdrop rq 0)).arrived 0 = true ∧ (inNet (.tdrop rq 0)).entryBefore 0 0 dropRank = false ∧
    (inNet (.tqry rq 4 0)).arrived 0 = true ∧ (inNet (.tqry rq 4 0)).entryBefore 0 0 queryRank = false ∧
    (let s : State := { inNet (.tqry rq 4 1) with dies := [(0, { Die.reset with fenced := true })] }
     s.arrived 0 = true ∧ s.entryBefore (tkSlice 1) (tkEntry 1) queryRank = false ∧ s.fencedOff rq.src (tkSlice 1) = true) ∧
    (let k := { tkReady with lease := 0 }
     ((withTk k).core 0).tk 2 = k ∧ k.st = 2 ∧ k.never = false ∧ k.lease = 0 ∧ (withTk k).entryBefore 0 2 expiryRank = false) := by
  decide +kernel

/-! Launches. -/

def header : State := { mapped (st acc) with
  mem := memPuts tables ((enumFrom 0 job.hdr).flatMap fun e => word8 (8 * e.1) e.2), net := [.launchReq rq 4 0x10000 0] }
def rec0 (core first : Nat) : BindRec := ⟨0, 2, false, false, 0, core, 0, 0, first, 1, 0⟩

/-- Two teams of the launch wait for cores 0 and 1. -/
def binding : State := { State.reset with
  powered := true, launches := [(0, job)], parts := [(0, ⟨[0], [1], 1, .none⟩)]
  cores := [(0, { Core.reset with stop := false }), (1, { Core.reset with stop := false })]
  dies := [(0, { Die.reset with table := [(0, rec0 0 0), (1, rec0 1 1)] })] }
def part : Partition := ⟨[0], [1], 1, .none⟩

/-- The same with every team a group of its own. -/
def soloJob : Launch := { job with hdr := job.hdr.set 3 64 }
def soloBinding : State := { binding with launches := [(0, soloJob)] }

theorem witness_LaunchEventsComplete_accept :
    (header.readHeader rq 0x20000 = some none ∧ header.net[0]? = some (.launchReq rq 4 0x10000 0)) ∧
    (header.readHeader rq 0x10000 = some (some job.hdr) ∧ header.partOf 1 = some (0, part) ∧ part.dies.all (fun d => header.covers d rq.clock) = true ∧
      header.launchCause (Launch.ofHeader job.hdr) part 1 false 0 = 0 ∧ header.placeOk (Launch.ofHeader job.hdr) part [0, 1] = true) ∧
    ((mapped (st acc)).readHeader rq 0x10000 = some (some (List.replicate 8 0)) ∧
      header.launchCause (Launch.ofHeader (List.replicate 8 0)) part 1 false 0 ≠ 0) ∧
    (let l := { Launch.ofHeader job.hdr with sup := true }
     job.hdr.length = 8 ∧ (header.colour 1).tdi = .run ∧ header.launchCause l part 1 true 0 = 0 ∧ header.placeOk l part [0, 1] = true) := by
  refine ⟨?_, ?_, ?_, ?_⟩ <;> decide +kernel

theorem witness_LaunchEventsComplete_bind :
    (let e := (0, rec0 0 0)
     (soloBinding.cluster 0).group = none ∧ sortBy bindBefore (soloBinding.die (0 / 16)).table = [e, (1, rec0 1 1)] ∧
     soloBinding.bindable 0 e = some (0, soloJob) ∧ e.2.any = false ∧ soloJob.together e.2.team = [e.2.team] ∧
     (soloBinding.core 0).checked = false ∧ (soloJob.wids e.2.team).length ≤ (soloBinding.core 0).vacants.length ∧
     soloJob.tiles ≤ (soloBinding.core 0).spareTiles.length ∧ (soloBinding.core 0).regionFor (128 * soloJob.spad) = some 0 ∧
     (soloJob.wids e.2.team)[0]? = some 0 ∧ (soloBinding.core 0).vacants[0]? = some 0) ∧
    (let e := (0, rec0 0 0)
     (binding.cluster 0).group = none ∧ sortBy bindBefore (binding.die (0 / 16)).table = [e, (1, rec0 1 1)] ∧
     binding.bindable 0 e = some (0, job) ∧ (binding.groupRecs 0 job e).map List.length = some 2 ∧
     (binding.bindAll 0 0 job true ((binding.groupRecs 0 job e).getD [])).isSome = true) ∧
    (smapFind (binding.die 0).table 0 = some (rec0 0 0) ∧ (rec0 0 0).st = 0 ∧ (rec0 0 0).prio < 3 ∧
      ({ rec0 0 0 with st := 1 } : BindRec).st = 1) := by
  refine ⟨?_, ?_, ?_⟩ <;> decide +kernel

/-- A thief and a victim of one partition, and of two; an answer with nothing, to the fifteenth request and to the first. -/
theorem witness_LaunchEventsComplete_steal :
    (let s : State := { State.reset with parts := [(0, ⟨[0, 1], [1], 1, .none⟩)] }
     s.thiefReady 0 1 = true ∧ s.partOfCluster 0 = some (0, ⟨[0, 1], [1], 1, .none⟩) ∧
     s.partOfCluster 1 = some (0, ⟨[0, 1], [1], 1, .none⟩)) ∧
    (let s : State := { State.reset with parts := [(0, part), (1, ⟨[1], [2], 2, .none⟩)] }
     s.thiefReady 0 1 = true ∧ s.partOfCluster 0 = some (0, part) ∧ s.partOfCluster 1 = some (1, ⟨[1], [2], 2, .none⟩)) ∧
    (let s : State := { State.reset with net := [.stealReply 0 [] 1 1], clusters := [(0, { Cluster.reset with steal := 14, backoff := true })] }
     s.net[0]? = some (.stealReply 0 [] 1 1) ∧ (s.cluster 0).steal = 14 ∧ (State.reset.cluster 0).steal ≠ 14 ∧ (s.cluster 0).backoff = true) := by
  refine ⟨?_, ?_, ?_⟩ <;> decide +kernel

theorem witness_LaunchEventsComplete_phase :
    (let l := { job with pst := 1 }
     let s : State := { st acc with launches := [(0, l)] }
     s.launch? 0 = some l ∧ smapFind s.parts l.part = some part ∧ l.pst = 1 ∧ (s.launchThreads 0).isEmpty = false ∧
     s.writesOpen 0 l = false ∧ part.resident = l.colour ∧ part.switch = .none ∧ part.dies.all s.relRoom = true) ∧
    (let l := { detJob with rounds := [(0, 62)] }
     let s : State := { st { acc with team := 4, wid := 4 } with launches := [(0, l)] }
     let ls := clusterLcores (s.roundCluster part 0 62)
     s.roundCluster part 0 (smapGet 0 l.rounds 0 + 1) = 63 ∧ s.roundCluster part 0 62 = 62 ∧ l.det = true ∧
     part.resident = l.colour ∧ s.onlyLaunch 0 0 = true ∧
     ((s.die (0 / 16)).table.map Prod.snd ++ (s.die (0 / 16)).backlog).any
       (fun (x : BindRec) => x.st != 2 && x.lent == l.lent && x.targets 0 && s.inRound part l 0 x) = false ∧
     (s.launchThreads 0).any (fun t => logicalCluster (l.lcore t.team) == s.roundCluster part 0 62 && t.arrived != some l.phase) = false ∧
     smapSorted 0 s.saved = true ∧ ∀ L ∈ ls, ∀ M ∈ ls, l.phys L = l.phys M → L = M) ∧
    (let l := { job with retired := 2, pst := 1 }
     let s : State := { State.reset with launches := [(0, l)] }
     s.launch? 0 = some l ∧ l.retired = l.teams ∧ l.pst = 1 ∧ s.launchThreads 0 = [] ∧ s.writesOpen 0 l = false ∧
     smapSorted 0 s.launches = true ∧ l.notify = 0) := by
  refine ⟨?_, ?_, ?_⟩ <;> decide +kernel

/-! Cores, arbiters and recorders. -/

def rep : Report := engineReport (engWord 1 0 0) kindPage 1 0x10000 0x40000
def withReport : Thread := { acc with reports := [rep] }
def losing : Thread := { acc with park := .precise (preciseReport kindSoft 1 0x10001 0) }
def bp : Breakpoint := ⟨true, 1, 0, 0, 0, 0x10000⟩

theorem witness_CoreEventsComplete :
    ((st withReport).thread 0 0 = some withReport ∧ ((st withReport).core 0).stop = false ∧ ((st withReport).core 0).cyc % 16 = 0 ∧
      withReport.hasTurn = true ∧ withReport.reports ≠ [] ∧ withReport.park = .none ∧ withReport.inh = false) ∧
    (let s := pkg losing fun c => { c with cyc := 16, window := some 0 }
     (s.core 0).windowDue = true ∧ (s.core 0).parked = [0] ∧ s.thread 0 0 = some losing) ∧
    (let u := { acc with handed := some ⟨rep, 0⟩ }
     (st u).thread 0 0 = some u ∧ u.handed.isSome = true) ∧
    ((st acc).issues 0 = true ∧ State.reset.issues 2047 = false ∧ (1 : Nat) ≤ 5) ∧
    (sysNumber 0x10 = true ∧ sysOfThread 0x10 = true ∧ ((st acc).thread 0 0).isSome = true ∧ sysNumber 0x340 = true ∧ sysOfThread 0x340 = false) ∧
    (let u := { acc with halted := true }
     (st u).thread 0 0 = some u ∧ u.halted = true) := by
  refine ⟨?_, ?_, ?_, ?_, ?_, ?_⟩ <;> decide +kernel

/-- Core 0 with `add d4, d1, d2` at its thread's pc and `add d5, d3, d2` behind it, and whether they are a pair, for breakpoint 63. -/
def atBreak (pair : Nat) (b : Breakpoint) : State :=
  { pkg run fun c => { c with lines := [(1, 0x10000, makeLine [0x100000020040400000000000, 0x1000000280c0400000000000] 0 pair)] } with
    breaks := [(63, b)] }

/-- At the entry's pc, and at the second of a pair that is about to issue (R377). -/
theorem witness_CoreEventsComplete_break (pair : Nat) (h : pair = 0 ∨ pair = 1) :
    let b : Breakpoint := { bp with pc := 0x10000 + BitVec.ofNat 64 pair }
    let fe : Fields := { fd with dst := ⟨.d 5, .plain⟩, src1 := ⟨.d 3, .plain⟩ }
    let is : List Instr := if pair = 0 then [.add g0 fd] else [.add g0 fd, .add g0 fe]
    let s := atBreak pair b
    Named s ⟨0, 0⟩ run ∧ s.cur = ⟨0, 0⟩ ∧ s.issues 0 = true ∧ (s.core 0).cyc % 16 = 0 ∧ run.halted = false ∧ run.handed = none ∧
    run.waitAns = false ∧ run.haltReq = false ∧ run.park = .none ∧ (run.reports = [] ∨ run.inh = true) ∧ run.pass = false ∧ run.second = false ∧
    smapFind s.breaks 63 = some b ∧ b.names run = true ∧ s.AboutToIssue ⟨0, 0⟩ run is ∧
    After (issueAll is s) (fun a => a.waits = false) = true ∧ (b.pc = run.pc ∨ (is.length = 2 ∧ b.pc = succPc run.pc)) := by
  rcases h with rfl | rfl <;> intro b fe is s <;>
    refine ⟨named_of (by decide +kernel), by decide +kernel, by decide +kernel, by decide +kernel, rfl, rfl, rfl, rfl, rfl, .inl rfl, rfl, rfl,
      by decide +kernel, by decide +kernel, ?_, by decide +kernel, by decide +kernel⟩
  · exact ⟨_, .add g0 fd, by decide +kernel, .inl rfl, .inl (line_of (bits := makeLine
      [0x100000020040400000000000, 0x1000000280c0400000000000] 0 0) (by decide +kernel)), by decide +kernel,
      .inl ⟨rfl, by decide +kernel⟩⟩
  · exact ⟨_, .add g0 fd, by decide +kernel, .inl rfl, .inl (line_of (bits := makeLine
      [0x100000020040400000000000, 0x1000000280c0400000000000] 0 1) (by decide +kernel)), by decide +kernel,
      .inr ⟨.add g0 fe, rfl, by decide +kernel, by decide +kernel, by decide +kernel⟩⟩

/-- Cores 0 and 1 with teams of a launch that lets them castle. -/
def castles (o0 i1 : Option Nat) : State := { st acc with
  launches := [(0, castJob)]
  cores := [(0, { coreOf acc with offer := o0 }), (1, { Core.reset with stop := false, offerIn := i1 })] }
def switching (w : Switch) : State := { st acc with parts := [(0, ⟨[0], [1, 2], 1, w⟩)] }

theorem witness_ArbiterEventsComplete :
    ((pkg acc fun c => { c with swapDue := true }).core 0).swapDue = true ∧
    (let s := castles (some 1) none
     (s.core 0).offer = some 1 ∧ (s.core 1).offerIn = none ∧ (s.core 1).offer = none ∧ s.maySwap 0 = true ∧ s.maySwap 1 = true) ∧
    (let s := castles (some 1) (some 0)
     (s.core 0).offer = some 1 ∧ (s.core 1).offerIn = some 0 ∧ s.quiet2 0 1 = true ∧ (s.core 0).guest = none ∧
     (s.core 1).guest = none ∧ (s.core 0).queue.all (fun e => e.state != 3) = true) ∧
    (let p : Partition := ⟨[0], [1, 2], 1, .none⟩
     smapFind (switching .none).parts 0 = some p ∧ p.resident ≠ 2 ∧ p.colours.contains 2 = true ∧
     p.cores.any (switching .none).swapping = false) ∧
    (switching (.stopping 2)).drained ⟨[0], [1, 2], 1, .stopping 2⟩ = true ∧
    ((switching (.exchanging 2)).parts.map fun e => e.2.switch) = [.exchanging 2] ∧
    (State.reset.die 7).fenced = false ∧
    (let s : State := { State.reset with dies := [(0, { Die.reset with misses := [(7, 4)] })] }
     (s.die 7).fenced = false ∧ (s.die 0).fenced = false ∧ 4 ≤ smapGet 0 (s.die 0).misses 7) := by
  refine ⟨?_, ?_, ?_, ?_, ?_, ?_, ?_, ?_⟩ <;> decide +kernel

def recd : TraceRec := ⟨1, 2, 3, 4⟩
def recorder (s : State) : State := { s with clusters := [(0, { Cluster.reset with recs := [recd], tcSink := 0x10000 })] }

/-- A recorder that records samples. -/
def sampling : State := { pkg acc fun c => { c with cyc := (State.reset.cluster 0).period } with
  clusters := [(0, { Cluster.reset with tcCtl := 0x10040 })] }

theorem witness_DebugEventsComplete :
    (let s := sampling
     let k := s.cluster (clusterOf 0)
     s.cur.g = 0 ∧ s.thread 0 s.cur.slot = some acc ∧ (s.core 0).cyc ≠ (s.core 0).sampled ∧ (s.core 0).cyc % k.period = 0 ∧
     k.frz = false ∧ k.tcCtl.getLsbD 16 = true ∧ k.tcCtl.getLsbD 6 = true ∧ k.recs.length < 2048 ∧ k.dropped = 0 ∧ k.epochDue = false) ∧
    (let s := recorder { mapped (st acc) with wpBase := [(0, 0x1000000001)] }
     (s.cluster 0).recs = [recd] ∧ s.sinkAddr 0 = some (.mem 0) ∧
     After (exec (.traceSinkWrite 0) s) (fun t => (t.cluster 0).recs = []) = true) ∧
    (let s : State := { mapped (st acc) with wpBase := [(0, 0x1000000001)]
                                             clusters := [(0, { Cluster.reset with recs := [recd, recd], tcSink := 0x10000 })] }
     After (exec (.traceSinkWrite 0) s) (fun t => (t.cluster 0).recs = [recd] && (t.sinkAddr 0).isSome) = true) ∧
    (((recorder (st acc)).cluster 0).recs ≠ [] ∧ (recorder (st acc)).sinkAddr 0 = none) ∧
    ((State.reset.die 7).tcFrz.getLsbD 2 = true ∧ (State.reset.die 7).frzDue = none) ∧
    (let s : State := { State.reset with dies := [(7, { Die.reset with frzDue := some (0, 2) })] }
     (s.die 7).frzDue = some (0, 2) ∧ (s.die 7).cyc < 1) := by
  refine ⟨?_, ?_, ?_, ?_, ?_, ?_⟩ <;> decide +kernel

/-! Links and the package. -/

def portIs (p : Nat) (x : Port) : State := { State.reset with powered := true, ports := [(p, x)], parts := [(0, part)] }

/-- The number after the last is 1; a later number, a duplicate's, and a bad tag, the fifteenth and the sixteenth in a row. -/
theorem witness_LinkEventsComplete_receive :
    (let p := (portIs 1 { Port.reset with up := true, sess := true, rxl := 2 ^ 32 - 1 }).port 1
     p.up = true ∧ p.sess = true ∧ nextSeq p.rxl = 1 ∧ (1 : Nat) < 2 ^ 32 ∧ LinkMsg.fits (.launch 1 0 job.hdr) = true ∧ p.got < keyLife) ∧
    (let p := (portIs 17 { Port.reset with up := true, sess := true, rxl := 7 }).port 17
     p.up = true ∧ p.sess = true ∧ nextSeq p.rxl = 8 ∧ LinkMsg.fits (.peerRead 3 1 [(0x40, 8)]) = true ∧ p.got < keyLife ∧
     (peerRequest 17 (.peerRead 3 1 [(0x40, 8)])).isSome = true ∧ seqAhead 8 9 < 2 ^ 31 ∧ ¬ seqAhead 8 7 < 2 ^ 31) ∧
    (({ Port.reset with up := true, tagRun := 14 } : Port).tagRun < 15 ∧ 15 ≤ ({ Port.reset with up := true, tagRun := 15 } : Port).tagRun) := by
  and_intros <;> decide +kernel

theorem witness_LinkEventsComplete :
    (let s := portIs 17 { Port.reset with up := true, ack := 4, store := [(4, .management 0), (5, .management 1)] }
     (s.port 17).up = true ∧ (s.port 17).waiting = [] ∧ (s.port 17).ack ≤ 5) ∧
    (let s : State := { portIs 1 Port.reset with dies := [(7, { Die.reset with boot := 0 })] }
     (s.port 1).up = false ∧ s.powered = true ∧ (s.die (portDie 1)).boot = 0) ∧
    (let s : State := { portIs 17 { Port.reset with digest := some 3 } with dies := [(7, { Die.reset with boot := 0 })] }
     (s.port 17).digest.isSome = true ∧ (s.die (portDie 17)).boot = 0) ∧
    (let p := (portIs 2 { Port.reset with up := true, digest := some 3 }).port 2
     p.up = true ∧ p.sess = false ∧ p.digest = some 3 ∧ p.digest ≠ some 4) ∧
    (State.reset.allUnlocked = true ∧ 17 / 2 = 7 + 1) ∧
    ((portIs 17 { Port.reset with sess := true }).port 17).sess = true ∧
    (let s := portIs 0 { Port.reset with rxq := [.spdm 0xE5], spdm := 4 }
     (s.port 0).rxq = [.spdm 0xE5] ∧ (spdmAnswer s.firmware (s.port 0).spdm 0xE5).isSome = true ∧ spdmAnswer s.firmware 0 0xE5 = none) := by
  and_intros <;> decide +kernel

def colourIs (t : TdiState) (m : LinkMsg) : State := { mapped (portIs 0 { Port.reset with sess := true, rxq := [m] }) with
  colours := [(1, { Colour.reset with tdi := t, key := true })] }

theorem witness_PackageEventsComplete :
    (let s := { colourIs .unlocked (.tdisp 1 0) with owners := [(0, 1)] }
     (s.tdispPort 1 0).map Prod.fst = some 0 ∧ (s.colour 1).tdi = .unlocked ∧ (s.partOf 1).isSome = true ∧
     smapFind s.owners 0 = some 1 ∧ smapFind s.owners (2 ^ 23 - 1) = none ∧ Memory.wf s.mem = true) ∧
    (((colourIs .locked (.tdisp 1 1)).tdispPort 1 1).map Prod.fst = some 0 ∧ ((colourIs .locked (.tdisp 1 1)).colour 1).tdi = .locked) ∧
    ((colourIs .run (.tdisp 1 2)).tdispPort 1 2).map Prod.fst = some 0 ∧
    (State.reset.parts = [] ∧ (State.reset.die (127 / 16)).fenced = false) ∧
    (let s : State := { State.reset with parts := [(31, ⟨[3], [31], 31, .none⟩), (1, part)] }
     smapFind s.parts 31 = some ⟨[3], [31], 31, .none⟩ ∧ s.parts.all (fun e => e.1 == 31 || !e.2.clusters.contains 127) = true) ∧
    (let s := colourIs .run (.launch 1 0 job.hdr)
     (s.takeHost 0).map Prod.fst = some (.launch 1 0 job.hdr) ∧ s.partOf 1 = some (0, part) ∧ (s.port 0).sess = true ∧
     (s.colour 1).tdi = .run ∧
     (s.takeHost 0).map (fun e => (e.2.launchCause (Launch.ofHeader job.hdr) part 1 true 0, e.2.placeOk (Launch.ofHeader job.hdr) part [0, 1])) =
       some (0, true) ∧
     (s.takeHost 0).map (fun e => e.2.launchCause (Launch.ofHeader (List.replicate 8 0)) part 1 true 0) ≠ some 0) := by
  refine ⟨?_, ?_, ?_, ?_, ?_, ?_⟩ <;> decide +kernel

theorem witness_PackageEventsComplete_dma :
    (let s := colourIs .run (.dmaWrite 1 0x1FFFE [1, 2])
     (s.takeHost 0).map Prod.fst = some (.dmaWrite 1 0x1FFFE [1, 2]) ∧ (s.port 0).sess = true ∧
     (s.takeHost 0).map (fun e => (e.2.dmaPlaces (portDie 0) 1 0x1FFFE Use.write 2).isSome) = some true ∧
     (s.takeHost 0).map (fun e => e.2.dmaPlaces (portDie 0) 1 0x1FFFF Use.write 2) = some none ∧
     (s.takeHost 0).map (fun e => e.2.dmaPlaces (portDie 0) 1 0x1FFFE Use.read 2) = some (some [.mem 0xFFFE, .mem 0xFFFF])) ∧
    ((colourIs .run (.regions 1 [(0x10000, 64)])).takeHost 0).map Prod.fst = some (.regions 1 [(0x10000, 64)]) ∧
    ((portIs 0 { Port.reset with dma := [.dmaDone 1 true []] }).port 0).dma = [.dmaDone 1 true []] ∧
    State.reset.powered = false ∧
    (let s : State := { State.reset with dies := [(0, { Die.reset with boot := 0 }), (7, { Die.reset with boot := 3 })] }
     (s.die 7).boot ≠ 0xFF ∧ (s.die (portDie 0)).boot = 0) := by
  refine ⟨?_, ?_, ?_, ?_, ?_⟩ <;> decide +kernel

/-! Terms that are no instruction, with the detail of R55 their words get. -/

def P (i : Fin 8) : Opnd := ⟨.p i, .plain⟩
def A (i : Fin 4) : Opnd := ⟨.a i, .plain⟩
def Y (i : Fin 4) : Opnd := ⟨.y i, .plain⟩
def U : Opnd := .unused

def illFormed (i : Instr) (detail : Nat) : Bool := !wellFormed i && (rawOf i).map (illegalDetail true) == some detail

/-- Modifiers (R49, R52): `!` on a destination, `!` on a v source, negate outside classes 0x04 to 0x09. Operands (R49): a file the
position does not accept, p0 and n4 as destinations, a tile folded into itself (R238). -/
theorem test_refuses_operands :
    illFormed (.add g0 (fa ⟨.d 4, .sync⟩ (D 1) (D 2) U .dflt 0)) 5 = true ∧
    illFormed (.fadd g0 (fa (V 4) ⟨.v 1, .sync⟩ (V 2) U .dflt 0)) 5 = true ∧
    illFormed (.ld g0 (fa (D 4) ⟨.d 1, .neg⟩ U U .dflt 0x800000000)) 5 = true ∧
    illFormed (.add g0 (fa (V 4) (D 1) (D 2) U .dflt 0)) 4 = true ∧
    illFormed (.cmpEq g0 (fa (P 0) (D 1) (D 2) U .dflt 0)) 4 = true ∧
    illFormed (.add g0 (fa ⟨.n 4, .plain⟩ (D 1) (D 2) U .dflt 0)) 4 = true ∧
    illFormed (.fold g0 (fa (A 1) (A 1) ⟨.n 4, .plain⟩ U .dflt 0)) 4 = true := by decide +kernel

/-- Unused fields, qualifiers, types and fmt bits (R50, R54), and a term whose word is another instruction's. -/
theorem test_refuses_fields :
    illFormed (.nop g0 (fa U (D 1) U U .dflt 0)) 3 = true ∧ illFormed (.add g0 { fa (D 4) (D 1) (D 2) U .dflt 0 with qual := 3 }) 3 = true ∧
    illFormed (.add g0 (fa (D 4) (D 1) (D 2) U .f32 0)) 3 = true ∧ illFormed (.add g0 (fa (D 4) (D 1) (D 2) U .dflt 1)) 3 = true ∧
    wellFormed (.jr g0 (fa (D 4) (D 1) U U .dflt 1)) = false := by decide +kernel

/-- The further limits of an entry, in the order of the forms. -/
theorem test_refuses_limits :
    illFormed (.gang g0 (fa U U U U .dflt 3)) 3 = true ∧ illFormed (.cmpUn g0 (fa (P 1) (D 1) (D 2) U .s64 0)) 3 = true ∧
    illFormed (.cmpTst g0 (fa (P 1) (D 1) (D 2) U .f32 0)) 3 = true ∧ illFormed (.shlImm g0 (fa (D 4) (D 1) U U .dflt 64)) 3 = true ∧
    illFormed (.bextImm g0 (fa (D 4) (D 1) U U .dflt 0x40)) 3 = true ∧ illFormed (.wid g0 (fa (D 4) U U U .dflt 8)) 3 = true ∧
    illFormed (.idot4 g0 (fa (V 4) (V 1) (V 2) (V 3) .z8 1)) 3 = true ∧
    illFormed (.vredAdd g0 (fa (D 4) (V 1) U U .s32 4)) 3 = true ∧ illFormed (.cvt g0 (fa (D 4) (D 1) U U .s32 0x300000000)) 3 = true ∧
    illFormed (.cvtVector g0 (fa (V 4) (V 1) U U .f32 0x900000000)) 3 = true ∧
    illFormed (.qsc g0 (fa (D 4) (V 1) (V 2) (D 3) .dflt 0x300000000)) 3 = true ∧
    illFormed (.dqcb g0 (fa (V 4) (V 1) (D 2) U .dflt 0x300000000)) 3 = true ∧
    illFormed (.nanm g0 (fa (V 4) (V 1) (D 2) U .f32 0x1F)) 3 = true ∧ illFormed (.pspl g0 (fa (V 4) (V 1) U U .g16 8)) 3 = true ∧
    illFormed (.pupd g0 (fa U (D 1) (V 2) (D 3) .g16 0x900000000)) 3 = true ∧
    illFormed (.ld g0 (fa (D 4) (D 1) U U .dflt 0xA00000000)) 3 = true ∧ illFormed (.st g0 (fa U (D 1) (D 2) U .dflt 0x900000000)) 3 = true ∧
    illFormed (.bwait g0 (fa U (D 1) (D 2) U .dflt 0x200000000)) 3 = true ∧ illFormed (.fence g0 (fa U U U U .dflt 0x800000000)) 3 = true ∧
    illFormed (.vldp g0 { fa (V 4) (D 1) (D 2) U .g32 0x800000000 with qual := 1 }) 3 = true ∧
    illFormed (.tld g0 (fa (D 4) (D 1) (D 2) U .dflt 0)) 3 = true := by decide +kernel

theorem test_refuses_limits_units :
    illFormed (.cldX g0 (fa (A 1) (Y 1) (D 6) (D 3) .g16 0)) 3 = true ∧
    illFormed (.rld g0 (fa (Y 1) U (D 6) (D 3) .dflt 0x80000000)) 3 = true ∧
    illFormed (.acpV g0 (fa (V 4) (A 1) U (D 3) .f32 0x800000)) 3 = true ∧
    illFormed (.wlt g0 (fa U ⟨.w 3, .plain⟩ U U .dflt 0)) 3 = true ∧ illFormed (.xreq g0 (fa (P 1) (D 1) U U .dflt 5)) 3 = true ∧
    illFormed (.redAdd g0 (fa U (D 1) (D 2) U .dflt 0x900000000)) 3 = true ∧
    illFormed (.redX g0 (fa U (D 1) (D 2) U .f32 0)) 3 = true ∧ illFormed (.gets g0 (fa (D 4) U U U .dflt 2)) 3 = true := by decide +kernel

/-! Words the spec writes out (R59, R62, R117–R124, R139–R142, R154–R166, R171–R184, R200–R219, R239–R264, R279–R343). -/

theorem test_spec_words : ∀ e ∈ ([
    (0x1402C00381C00000FFFFFFFB, .addImm ⟨true, 3⟩ (fa (D 7) (D 7) U U .dflt 0xFFFFFFFB)),
    (0x400003020240000900000040, .ld g0 (fa (D 4) (D 9) U U .s32 0x900000040)),
    (0x0400400000000000FFFFFFF9, .br ⟨false, 1⟩ (fa U U U U .dflt 0xFFFFFFF9)),
    (0x60002CE0F180C07680000000, .cldX g0 { fa (A 1) (Y 2) (D 6) (D 7) .g16 0x680000000 with qual := 2 }),
    (0x041800C1E070400000000002, .pand g0 (fa (P 3) (P 1) (P 2) U .dflt 2)),
    (0x080800C10140C00000000000, .cmpLt g0 (fa (P 2) (D 5) (D 6) U .dflt 0)),
    (0x145008028100000000000B04, .bextImm g0 (fa (D 5) (D 4) U U .z64 0xB04)),
    (0x145800018040400E00000040, .leaIndex g0 (fa (D 3) (D 1) (D 2) U .dflt 0xE00000040)),
    (0x200C2020908C644000000000, .ffma g0 { fa (V 1) (V 2) ⟨.v 3, .neg⟩ (V 4) .dflt 0 with qual := 2 }),
    (0x202000011140000000000007, .fcls g0 (fa (D 2) (V 5) U U .dflt 7)),
    (0x280809019040000000000008, .vredAdd g0 (fa (D 3) (V 1) U U .f32 8)),
    (0x30000C219040000900000000, .cvtVector g0 (fa (V 3) (V 1) U U .g16 0x900000000)),
    (0x300400031048405000000000, .qsc g0 (fa (D 6) (V 1) (V 2) (D 5) .dflt 0)),
    (0x34080D000108405800000040, .pupd g0 (fa U (D 4) (V 2) (D 5) .g32 0x800000040)),
    (0x440400000088205800000080, .vst g0 (fa U (D 2) (V 1) (D 5) .dflt 0x800000080)),
    (0x44081C218100A00800000000, .vldp g0 { fa (V 3) (D 4) (D 5) U .g16 0x800000000 with qual := 1 })] : List (Nat × Instr)),
    decodeWord false e.1 = .ok e.2 := by decide +kernel

theorem test_spec_words_2 : ∀ e ∈ ([
    (0x4008000001C0000000000000, .migr g0 (fa U (D 7) U U .dflt 0)),
    (0x50000C020240A00800000040, .tld g0 (fa (D 4) (D 9) (D 5) U .g16 0x800000040)),
    (0x500800210100000000000003, .rdmV g0 (fa (V 2) (D 4) U U .dflt 3)),
    (0x601C10E17020800200000000, .fold g0 { fa (A 2) (A 0) ⟨.n 4, .plain⟩ U .dflt 0x200000000 with qual := 1 }),
    (0x60200321F040006400800000, .acpV g0 (fa (V 3) (A 1) U (D 6) .s32 0x400800000)),
    (0x6034000050C0000000000001, .wlt g0 (fa U ⟨.w 3, .plain⟩ U U .dflt 1)),
    (0x680C00000100C00100000020, .bwait g0 (fa U (D 4) (D 6) U .dflt 0x100000020)),
    (0x700000028080600900000010, .amoAdd g0 (fa (D 5) (D 2) (D 3) U .dflt 0x900000010)),
    (0x706000000180E00A00000020, .redX g0 (fa U (D 6) (D 7) U .dflt 0xA00000020)),
    (0x40100000_0000000B_00000000, .fence g0 (fa U U U U .dflt 0xB00000000)),
    (0x800800018000000000000001, .phase g0 (fa (D 3) U U U .dflt 1)),
    (0x900000000000000000000041, .trap g0 (fa U U U U .dflt 0x41)),
    (0x98040000014000000000003A, .trc g0 (fa U (D 5) U U .dflt 0x3A)),
    (0x104C000502C0582000000000, .sel g0 (fa (D 10) (D 11) (D 2) (P 2) .dflt 0))] : List (Nat × Instr)),
    decodeWord false e.1 = .ok e.2 := by decide +kernel

/-! Results the spec states: a turn on the small package, and worked conversions. -/

def wide : Thread := { run with
  d := #v[0x80, 0xFF, 0xFFFFFFFFFFFFFFFF, 1, 0xABCD, 0x8000000000000000, 4, 0x40000000, 0, 0, 0, 0, 0, 0, 0, 0]
  v := #v[(Vector.replicate 32 0).set 0 0x7F800102, (Vector.replicate 32 0).set 0 0x0180FF01,
    (((Vector.replicate 32 0).set 0 0x3FC00000).set 1 0xBE99999A).set 2 0x3F000000,
    Vector.replicate 32 0, Vector.replicate 32 0, Vector.replicate 32 0, Vector.replicate 32 0, Vector.replicate 32 0] }

/-- The word d8, or lane 0 of v4, that the thread holds after a turn. -/
def gives (o : Host.Outcome State Fault Refusal) (w : Word) : Bool := After o fun t => (t.thread 0 0).any fun q => q.d[8] == w
def givesLane (o : Host.Outcome State Fault Refusal) (l : Lane) : Bool := After o fun t => (t.thread 0 0).any fun q => q.v[4][0] == l

/-- R131: a narrow result is extended as its type's signedness says; R133: mulh takes the exact product. -/
theorem test_scalar_types :
    gives (exec (.and g0 (fa (D 8) (D 0) (D 1) U .s8 0)) (st wide)) 0xFFFFFFFFFFFFFF80 = true ∧
    gives (exec (.mulh g0 (fa (D 8) (D 2) (D 3) U .s64 0)) (st wide)) 0xFFFFFFFFFFFFFFFF = true ∧
    gives (exec (.mulh g0 (fa (D 8) (D 5) (D 6) U .z64 0)) (st wide)) 2 = true := by decide +kernel

/-- The example of R139, in both signs. -/
theorem test_bext :
    gives (exec (.bextImm g0 (fa (D 8) (D 4) U U .z64 0x0B04)) (st wide)) 0xABC = true ∧
    gives (exec (.bextImm g0 (fa (D 8) (D 4) U U .dflt 0x0B04)) (st wide)) 0xFFFFFFFFFFFFFABC = true := by decide +kernel

/-- The example of R160. -/
theorem test_iadd_sat :
    givesLane (exec (.iadd g0 { fa (V 4) (V 0) (V 1) U .s8 0 with qual := 1 }) (st wide)) 0x7F800003 = true := by decide +kernel

/-- The block of R177: 1.5, −0.3, 0.5 and 61 zeros under S = 2.0. -/
theorem test_qsc : gives (exec (.qsc g0 (fa (D 8) (V 2) (V 3) (D 7) .dflt 0)) (st wide)) 0x40000000000000C2 = true := by decide +kernel

/-- π, 2.5, −2.5, 2 + 511/1024 and 3 × 2^−34 in the G format (R81). -/
theorem test_encode_g :
    ([(13176795, -22), (5, -1), (-5, -1), (2559, -10), (3, -34)] : List (Int × Int)).map (fun x => encodeG .rne false (xOfInt x.1 x.2)) =
    [0x6C3F2441, 0x00008041, 0x000080C0, 0x00C08041, 0x00006000] := by decide +kernel

/-- G8 and G16 reads of the table of R81, and the truncating G8 read of 2.5 (R84), each as binary32. -/
theorem test_read_g :
    ([[0x41], [0x41, 0x24], [0x41, 0x80], [0xC0], [0x41, 0x80, 0xC0], [0, 0x60]] : List (List Byte)).map
      (fun b => f32Of .rne false (readG b)) = [0x40400000, 0x40490000, 0x40200000, 0xC0000000, 0x401FF000, 0x2F400000] ∧
    f32Of .rne false (readGTrunc 1 [0x41, 0x80]) = 0x40000000 := by decide +kernel

/-- The example of R89. -/
theorem test_wide_scale : wideScale 0x3F400000 200 0x40000000 128 0 = (0x2580000000000000, 0xFFC2) := by decide +kernel

/-- Reserved op of `vred` (R165), a destination on a `red` (R310). -/
theorem test_refuses_words : decodeWord false 0x280803009080000000000003 = .error 3 ∧
    decodeWord false 0x704000008080600800000008 = .error 4 := by decide +kernel

/-- An update to exactly zero takes the sign of its rounding (R65, R182): toward −∞ the lead byte is 0x80, otherwise 0x00. -/
theorem test_planar_zero : ([Rnd.rdn, Rnd.rne].map fun r =>
    planes 1 (encodeG r false (planarValue false r 0 (f32Val 0x3F800000) (f32Val 0xBF800000) (f32Val 0)).1)) = [[0x80], [0x00]] := by decide +kernel

/-! Words written out bit by bit from the encodings, one or more for each constructor. -/

/-- Class 0x01, ops in the order of R60: class [95:90], op [89:82], guard [81:78], mod [77:72], dst [71:63], src1 [62:54],
src2 [53:45], src3 [44:36], fmt [35:0] (R44, R46, R49). -/
theorem test_decode_class01 : ∀ e ∈ ([
    (0x040000000000000000000005, .br ⟨false, 0⟩ ⟨0, .dflt, .unused, .unused, .unused, .unused, 5⟩),
    (0x04040000800000000000000C, .brl ⟨false, 0⟩ ⟨0, .dflt, ⟨.d 1, .plain⟩, .unused, .unused, .unused, 12⟩),
    (0x040800000080000000000000, .jr ⟨false, 0⟩ ⟨0, .dflt, .unused, ⟨.d 2, .plain⟩, .unused, .unused, 0⟩),
    (0x040800008080000000000001, .jrLink ⟨false, 0⟩ ⟨0, .dflt, ⟨.d 1, .plain⟩, ⟨.d 2, .plain⟩, .unused, .unused, 1⟩),
    (0x040C00000080000000000000, .ret ⟨false, 0⟩ ⟨0, .dflt, .unused, ⟨.d 2, .plain⟩, .unused, .unused, 0⟩),
    (0x041000C08000000000000000, .setp ⟨false, 0⟩ ⟨0, .dflt, ⟨.p 1, .plain⟩, .unused, .unused, .unused, 0⟩),
    (0x041000C08080000000000001, .setpReg ⟨false, 0⟩ ⟨0, .dflt, ⟨.p 1, .plain⟩, ⟨.d 2, .plain⟩, .unused, .unused, 1⟩),
    (0x041400C08000000000000000, .clrp ⟨false, 0⟩ ⟨0, .dflt, ⟨.p 1, .plain⟩, .unused, .unused, .unused, 0⟩),
    (0x041800C0E0B0600000000000, .pand ⟨false, 0⟩ ⟨0, .dflt, ⟨.p 1, .plain⟩, ⟨.p 2, .plain⟩, ⟨.p 3, .plain⟩, .unused, 0⟩),
    (0x041C00C0E0B0600000000000, .por ⟨false, 0⟩ ⟨0, .dflt, ⟨.p 1, .plain⟩, ⟨.p 2, .plain⟩, ⟨.p 3, .plain⟩, .unused, 0⟩),
    (0x042000C0E080000000000000, .pnot ⟨false, 0⟩ ⟨0, .dflt, ⟨.p 1, .plain⟩, ⟨.p 2, .plain⟩, .unused, .unused, 0⟩),
    (0x042400000000000000000004, .gang ⟨false, 0⟩ ⟨0, .dflt, .unused, .unused, .unused, .unused, 4⟩),
    (0x042800000000000000000007, .rejoin ⟨false, 0⟩ ⟨0, .dflt, .unused, .unused, .unused, .unused, 7⟩),
    (0x042C00000000000000000000, .ungang ⟨false, 0⟩ ⟨0, .dflt, .unused, .unused, .unused, .unused, 0⟩),
    (0x043000000000000000000000, .nop ⟨false, 0⟩ ⟨0, .dflt, .unused, .unused, .unused, .unused, 0⟩)] : List (Nat × Instr)), decodeWord false e.1 = .ok e.2 := by decide +kernel

/-- Class 0x02, ops in the order of R60: class [95:90], op [89:82], guard [81:78], mod [77:72], dst [71:63], src1 [62:54],
src2 [53:45], src3 [44:36], fmt [35:0] (R44, R46, R49). -/
theorem test_decode_class02_1 : ∀ e ∈ ([
    (0x080000C08080600000000000, .cmpEq ⟨false, 0⟩ ⟨0, .dflt, ⟨.p 1, .plain⟩, ⟨.d 2, .plain⟩, ⟨.d 3, .plain⟩, .unused, 0⟩),
    (0x080400C08080600000000000, .cmpNe ⟨false, 0⟩ ⟨0, .dflt, ⟨.p 1, .plain⟩, ⟨.d 2, .plain⟩, ⟨.d 3, .plain⟩, .unused, 0⟩),
    (0x080800C08080600000000000, .cmpLt ⟨false, 0⟩ ⟨0, .dflt, ⟨.p 1, .plain⟩, ⟨.d 2, .plain⟩, ⟨.d 3, .plain⟩, .unused, 0⟩),
    (0x080C00C08080600000000000, .cmpLe ⟨false, 0⟩ ⟨0, .dflt, ⟨.p 1, .plain⟩, ⟨.d 2, .plain⟩, ⟨.d 3, .plain⟩, .unused, 0⟩),
    (0x081000C08080600000000000, .cmpGt ⟨false, 0⟩ ⟨0, .dflt, ⟨.p 1, .plain⟩, ⟨.d 2, .plain⟩, ⟨.d 3, .plain⟩, .unused, 0⟩),
    (0x081400C08080600000000000, .cmpGe ⟨false, 0⟩ ⟨0, .dflt, ⟨.p 1, .plain⟩, ⟨.d 2, .plain⟩, ⟨.d 3, .plain⟩, .unused, 0⟩),
    (0x081809C08080600000000000, .cmpUn ⟨false, 0⟩ ⟨0, .f32, ⟨.p 1, .plain⟩, ⟨.d 2, .plain⟩, ⟨.d 3, .plain⟩, .unused, 0⟩),
    (0x081C00C08080600000000000, .cmpTst ⟨false, 0⟩ ⟨0, .dflt, ⟨.p 1, .plain⟩, ⟨.d 2, .plain⟩, ⟨.d 3, .plain⟩, .unused, 0⟩),
    (0x082000C08080600000000000, .cmpNtst ⟨false, 0⟩ ⟨0, .dflt, ⟨.p 1, .plain⟩, ⟨.d 2, .plain⟩, ⟨.d 3, .plain⟩, .unused, 0⟩),
    (0x084000C08080000000000007, .cmpEqImm ⟨false, 0⟩ ⟨0, .dflt, ⟨.p 1, .plain⟩, ⟨.d 2, .plain⟩, .unused, .unused, 7⟩),
    (0x084400C08080000000000000, .cmpNeImm ⟨false, 0⟩ ⟨0, .dflt, ⟨.p 1, .plain⟩, ⟨.d 2, .plain⟩, .unused, .unused, 0⟩),
    (0x084800C08080000000000000, .cmpLtImm ⟨false, 0⟩ ⟨0, .dflt, ⟨.p 1, .plain⟩, ⟨.d 2, .plain⟩, .unused, .unused, 0⟩),
    (0x084C00C08080000000000000, .cmpLeImm ⟨false, 0⟩ ⟨0, .dflt, ⟨.p 1, .plain⟩, ⟨.d 2, .plain⟩, .unused, .unused, 0⟩),
    (0x085000C08080000000000000, .cmpGtImm ⟨false, 0⟩ ⟨0, .dflt, ⟨.p 1, .plain⟩, ⟨.d 2, .plain⟩, .unused, .unused, 0⟩),
    (0x085400C08080000000000000, .cmpGeImm ⟨false, 0⟩ ⟨0, .dflt, ⟨.p 1, .plain⟩, ⟨.d 2, .plain⟩, .unused, .unused, 0⟩),
    (0x085809C08080000000000000, .cmpUnImm ⟨false, 0⟩ ⟨0, .f32, ⟨.p 1, .plain⟩, ⟨.d 2, .plain⟩, .unused, .unused, 0⟩)] : List (Nat × Instr)), decodeWord false e.1 = .ok e.2 := by decide +kernel

/-- Class 0x02, ops in the order of R60: class [95:90], op [89:82], guard [81:78], mod [77:72], dst [71:63], src1 [62:54],
src2 [53:45], src3 [44:36], fmt [35:0] (R44, R46, R49). -/
theorem test_decode_class02_2 : ∀ e ∈ ([
    (0x085C00C08080000000000000, .cmpTstImm ⟨false, 0⟩ ⟨0, .dflt, ⟨.p 1, .plain⟩, ⟨.d 2, .plain⟩, .unused, .unused, 0⟩),
    (0x086000C08080000000000000, .cmpNtstImm ⟨false, 0⟩ ⟨0, .dflt, ⟨.p 1, .plain⟩, ⟨.d 2, .plain⟩, .unused, .unused, 0⟩)] : List (Nat × Instr)), decodeWord false e.1 = .ok e.2 := by decide +kernel

/-- Class 0x04, ops in the order of R60: class [95:90], op [89:82], guard [81:78], mod [77:72], dst [71:63], src1 [62:54],
src2 [53:45], src3 [44:36], fmt [35:0] (R44, R46, R49). -/
theorem test_decode_class04_1 : ∀ e ∈ ([
    (0x1002C0008080600000000000, .add ⟨true, 3⟩ ⟨0, .dflt, ⟨.d 1, .plain⟩, ⟨.d 2, .plain⟩, ⟨.d 3, .plain⟩, .unused, 0⟩),
    (0x1006C0008080600000000000, .sub ⟨true, 3⟩ ⟨0, .dflt, ⟨.d 1, .plain⟩, ⟨.d 2, .plain⟩, ⟨.d 3, .plain⟩, .unused, 0⟩),
    (0x100AC0008080600000000000, .mul ⟨true, 3⟩ ⟨0, .dflt, ⟨.d 1, .plain⟩, ⟨.d 2, .plain⟩, ⟨.d 3, .plain⟩, .unused, 0⟩),
    (0x100EC0008080600000000000, .mulh ⟨true, 3⟩ ⟨0, .dflt, ⟨.d 1, .plain⟩, ⟨.d 2, .plain⟩, ⟨.d 3, .plain⟩, .unused, 0⟩),
    (0x1012C0008080600000000000, .div ⟨true, 3⟩ ⟨0, .dflt, ⟨.d 1, .plain⟩, ⟨.d 2, .plain⟩, ⟨.d 3, .plain⟩, .unused, 0⟩),
    (0x1016C0008080600000000000, .rem ⟨true, 3⟩ ⟨0, .dflt, ⟨.d 1, .plain⟩, ⟨.d 2, .plain⟩, ⟨.d 3, .plain⟩, .unused, 0⟩),
    (0x101AC0008080600000000000, .and ⟨true, 3⟩ ⟨0, .dflt, ⟨.d 1, .plain⟩, ⟨.d 2, .plain⟩, ⟨.d 3, .plain⟩, .unused, 0⟩),
    (0x101EC0008080600000000000, .or ⟨true, 3⟩ ⟨0, .dflt, ⟨.d 1, .plain⟩, ⟨.d 2, .plain⟩, ⟨.d 3, .plain⟩, .unused, 0⟩),
    (0x1022C0008080600000000000, .xor ⟨true, 3⟩ ⟨0, .dflt, ⟨.d 1, .plain⟩, ⟨.d 2, .plain⟩, ⟨.d 3, .plain⟩, .unused, 0⟩),
    (0x1026C0008080600000000000, .andn ⟨true, 3⟩ ⟨0, .dflt, ⟨.d 1, .plain⟩, ⟨.d 2, .plain⟩, ⟨.d 3, .plain⟩, .unused, 0⟩),
    (0x102AC0008080600000000000, .shl ⟨true, 3⟩ ⟨0, .dflt, ⟨.d 1, .plain⟩, ⟨.d 2, .plain⟩, ⟨.d 3, .plain⟩, .unused, 0⟩),
    (0x102EC0008080600000000000, .shr ⟨true, 3⟩ ⟨0, .dflt, ⟨.d 1, .plain⟩, ⟨.d 2, .plain⟩, ⟨.d 3, .plain⟩, .unused, 0⟩),
    (0x1032C0008080600000000000, .sar ⟨true, 3⟩ ⟨0, .dflt, ⟨.d 1, .plain⟩, ⟨.d 2, .plain⟩, ⟨.d 3, .plain⟩, .unused, 0⟩),
    (0x1036C0008080600000000000, .rot ⟨true, 3⟩ ⟨0, .dflt, ⟨.d 1, .plain⟩, ⟨.d 2, .plain⟩, ⟨.d 3, .plain⟩, .unused, 0⟩),
    (0x103AC0008080000000000000, .clz ⟨true, 3⟩ ⟨0, .dflt, ⟨.d 1, .plain⟩, ⟨.d 2, .plain⟩, .unused, .unused, 0⟩),
    (0x103EC0008080000000000000, .ctz ⟨true, 3⟩ ⟨0, .dflt, ⟨.d 1, .plain⟩, ⟨.d 2, .plain⟩, .unused, .unused, 0⟩)] : List (Nat × Instr)), decodeWord false e.1 = .ok e.2 := by decide +kernel

/-- Class 0x04, ops in the order of R60: class [95:90], op [89:82], guard [81:78], mod [77:72], dst [71:63], src1 [62:54],
src2 [53:45], src3 [44:36], fmt [35:0] (R44, R46, R49). -/
theorem test_decode_class04_2 : ∀ e ∈ ([
    (0x1042C0008080000000000000, .popc ⟨true, 3⟩ ⟨0, .dflt, ⟨.d 1, .plain⟩, ⟨.d 2, .plain⟩, .unused, .unused, 0⟩),
    (0x1046C0008080600000000000, .min ⟨true, 3⟩ ⟨0, .dflt, ⟨.d 1, .plain⟩, ⟨.d 2, .plain⟩, ⟨.d 3, .plain⟩, .unused, 0⟩),
    (0x104AC0008080600000000000, .max ⟨true, 3⟩ ⟨0, .dflt, ⟨.d 1, .plain⟩, ⟨.d 2, .plain⟩, ⟨.d 3, .plain⟩, .unused, 0⟩),
    (0x104EC0008080784000000000, .sel ⟨true, 3⟩ ⟨0, .dflt, ⟨.d 1, .plain⟩, ⟨.d 2, .plain⟩, ⟨.d 3, .plain⟩, ⟨.p 4, .plain⟩, 0⟩),
    (0x1052C0008080600000000000, .bext ⟨true, 3⟩ ⟨0, .dflt, ⟨.d 1, .plain⟩, ⟨.d 2, .plain⟩, ⟨.d 3, .plain⟩, .unused, 0⟩),
    (0x1056C0008080604000000000, .bins ⟨true, 3⟩ ⟨0, .dflt, ⟨.d 1, .plain⟩, ⟨.d 2, .plain⟩, ⟨.d 3, .plain⟩, ⟨.d 4, .plain⟩, 0⟩)] : List (Nat × Instr)), decodeWord false e.1 = .ok e.2 := by decide +kernel

/-- Class 0x05, ops in the order of R60: class [95:90], op [89:82], guard [81:78], mod [77:72], dst [71:63], src1 [62:54],
src2 [53:45], src3 [44:36], fmt [35:0] (R44, R46, R49). -/
theorem test_decode_class05_1 : ∀ e ∈ ([
    (0x1400000080800000FFFFFFFF, .addImm ⟨false, 0⟩ ⟨0, .dflt, ⟨.d 1, .plain⟩, ⟨.d 2, .plain⟩, .unused, .unused, 4294967295⟩),
    (0x140800008080000000000000, .mulImm ⟨false, 0⟩ ⟨0, .dflt, ⟨.d 1, .plain⟩, ⟨.d 2, .plain⟩, .unused, .unused, 0⟩),
    (0x141800008080000000000000, .andImm ⟨false, 0⟩ ⟨0, .dflt, ⟨.d 1, .plain⟩, ⟨.d 2, .plain⟩, .unused, .unused, 0⟩),
    (0x141C00008080000000000000, .orImm ⟨false, 0⟩ ⟨0, .dflt, ⟨.d 1, .plain⟩, ⟨.d 2, .plain⟩, .unused, .unused, 0⟩),
    (0x142000008080000000000000, .xorImm ⟨false, 0⟩ ⟨0, .dflt, ⟨.d 1, .plain⟩, ⟨.d 2, .plain⟩, .unused, .unused, 0⟩),
    (0x142800008080000000000000, .shlImm ⟨false, 0⟩ ⟨0, .dflt, ⟨.d 1, .plain⟩, ⟨.d 2, .plain⟩, .unused, .unused, 0⟩),
    (0x142C00008080000000000000, .shrImm ⟨false, 0⟩ ⟨0, .dflt, ⟨.d 1, .plain⟩, ⟨.d 2, .plain⟩, .unused, .unused, 0⟩),
    (0x143000008080000000000000, .sarImm ⟨false, 0⟩ ⟨0, .dflt, ⟨.d 1, .plain⟩, ⟨.d 2, .plain⟩, .unused, .unused, 0⟩),
    (0x143400008080000000000000, .rotImm ⟨false, 0⟩ ⟨0, .dflt, ⟨.d 1, .plain⟩, ⟨.d 2, .plain⟩, .unused, .unused, 0⟩),
    (0x144400008080000000000000, .minImm ⟨false, 0⟩ ⟨0, .dflt, ⟨.d 1, .plain⟩, ⟨.d 2, .plain⟩, .unused, .unused, 0⟩),
    (0x144800008080000000000000, .maxImm ⟨false, 0⟩ ⟨0, .dflt, ⟨.d 1, .plain⟩, ⟨.d 2, .plain⟩, .unused, .unused, 0⟩),
    (0x145000008080000000000804, .bextImm ⟨false, 0⟩ ⟨0, .dflt, ⟨.d 1, .plain⟩, ⟨.d 2, .plain⟩, .unused, .unused, 2052⟩),
    (0x145400008080600000000804, .binsImm ⟨false, 0⟩ ⟨0, .dflt, ⟨.d 1, .plain⟩, ⟨.d 2, .plain⟩, ⟨.d 3, .plain⟩, .unused, 2052⟩),
    (0x145800008000000000000000, .leaPc ⟨false, 0⟩ ⟨0, .dflt, ⟨.d 1, .plain⟩, .unused, .unused, .unused, 0⟩),
    (0x145800008080000100000008, .leaBase ⟨false, 0⟩ ⟨0, .dflt, ⟨.d 1, .plain⟩, ⟨.d 2, .plain⟩, .unused, .unused, 4294967304⟩),
    (0x145800008080600200000008, .leaIndex ⟨false, 0⟩ ⟨0, .dflt, ⟨.d 1, .plain⟩, ⟨.d 2, .plain⟩, ⟨.d 3, .plain⟩, .unused, 8589934600⟩)] : List (Nat × Instr)), decodeWord false e.1 = .ok e.2 := by decide +kernel

/-- Class 0x05, ops in the order of R60: class [95:90], op [89:82], guard [81:78], mod [77:72], dst [71:63], src1 [62:54],
src2 [53:45], src3 [44:36], fmt [35:0] (R44, R46, R49). -/
theorem test_decode_class05_2 : ∀ e ∈ ([
    (0x148000008000000000000000, .li ⟨false, 0⟩ ⟨0, .dflt, ⟨.d 1, .plain⟩, .unused, .unused, .unused, 0⟩),
    (0x148400008000000000000000, .lui ⟨false, 0⟩ ⟨0, .dflt, ⟨.d 1, .plain⟩, .unused, .unused, .unused, 0⟩),
    (0x148800008000000000000002, .wid ⟨false, 0⟩ ⟨0, .dflt, ⟨.d 1, .plain⟩, .unused, .unused, .unused, 2⟩)] : List (Nat × Instr)), decodeWord false e.1 = .ok e.2 := by decide +kernel

/-- Class 0x08, ops in the order of R60: class [95:90], op [89:82], guard [81:78], mod [77:72], dst [71:63], src1 [62:54],
src2 [53:45], src3 [44:36], fmt [35:0] (R44, R46, R49). -/
theorem test_decode_class08 : ∀ e ∈ ([
    (0x2002C0209088600000000000, .fadd ⟨true, 3⟩ ⟨0, .dflt, ⟨.v 1, .plain⟩, ⟨.v 2, .plain⟩, ⟨.v 3, .plain⟩, .unused, 0⟩),
    (0x2006C0209088600000000000, .fsub ⟨true, 3⟩ ⟨0, .dflt, ⟨.v 1, .plain⟩, ⟨.v 2, .plain⟩, ⟨.v 3, .plain⟩, .unused, 0⟩),
    (0x200AC0209088600000000000, .fmul ⟨true, 3⟩ ⟨0, .dflt, ⟨.v 1, .plain⟩, ⟨.v 2, .plain⟩, ⟨.v 3, .plain⟩, .unused, 0⟩),
    (0x200EC0209088644000000000, .ffma ⟨true, 3⟩ ⟨0, .dflt, ⟨.v 1, .plain⟩, ⟨.v 2, .plain⟩, ⟨.v 3, .plain⟩, ⟨.v 4, .plain⟩, 0⟩),
    (0x2012C0209088600000000000, .fmin ⟨true, 3⟩ ⟨0, .dflt, ⟨.v 1, .plain⟩, ⟨.v 2, .plain⟩, ⟨.v 3, .plain⟩, .unused, 0⟩),
    (0x2016C0209088600000000000, .fmax ⟨true, 3⟩ ⟨0, .dflt, ⟨.v 1, .plain⟩, ⟨.v 2, .plain⟩, ⟨.v 3, .plain⟩, .unused, 0⟩),
    (0x201AC0209080000000000000, .fneg ⟨true, 3⟩ ⟨0, .dflt, ⟨.v 1, .plain⟩, ⟨.v 2, .plain⟩, .unused, .unused, 0⟩),
    (0x201EC0209080000000000000, .fabs ⟨true, 3⟩ ⟨0, .dflt, ⟨.v 1, .plain⟩, ⟨.v 2, .plain⟩, .unused, .unused, 0⟩),
    (0x2022C0009080000000000000, .fcls ⟨true, 3⟩ ⟨0, .dflt, ⟨.d 1, .plain⟩, ⟨.v 2, .plain⟩, .unused, .unused, 0⟩),
    (0x2026C0209080000000000000, .frnd ⟨true, 3⟩ ⟨0, .dflt, ⟨.v 1, .plain⟩, ⟨.v 2, .plain⟩, .unused, .unused, 0⟩),
    (0x202AC0209080000000000000, .fexf ⟨true, 3⟩ ⟨0, .dflt, ⟨.v 1, .plain⟩, ⟨.v 2, .plain⟩, .unused, .unused, 0⟩),
    (0x202EC0209088600000000000, .fins ⟨true, 3⟩ ⟨0, .dflt, ⟨.v 1, .plain⟩, ⟨.v 2, .plain⟩, ⟨.v 3, .plain⟩, .unused, 0⟩),
    (0x2032C0209088600000000000, .fdiv ⟨true, 3⟩ ⟨0, .dflt, ⟨.v 1, .plain⟩, ⟨.v 2, .plain⟩, ⟨.v 3, .plain⟩, .unused, 0⟩),
    (0x2036C0209080000000000000, .fsqrt ⟨true, 3⟩ ⟨0, .dflt, ⟨.v 1, .plain⟩, ⟨.v 2, .plain⟩, .unused, .unused, 0⟩),
    (0x203AC0209080000000000000, .frsq ⟨true, 3⟩ ⟨0, .dflt, ⟨.v 1, .plain⟩, ⟨.v 2, .plain⟩, .unused, .unused, 0⟩)] : List (Nat × Instr)), decodeWord false e.1 = .ok e.2 := by decide +kernel

/-- Class 0x09, ops in the order of R60: class [95:90], op [89:82], guard [81:78], mod [77:72], dst [71:63], src1 [62:54],
src2 [53:45], src3 [44:36], fmt [35:0] (R44, R46, R49). -/
theorem test_decode_class09 : ∀ e ∈ ([
    (0x240000209088600000000000, .iadd ⟨false, 0⟩ ⟨0, .dflt, ⟨.v 1, .plain⟩, ⟨.v 2, .plain⟩, ⟨.v 3, .plain⟩, .unused, 0⟩),
    (0x240400209088600000000000, .isub ⟨false, 0⟩ ⟨0, .dflt, ⟨.v 1, .plain⟩, ⟨.v 2, .plain⟩, ⟨.v 3, .plain⟩, .unused, 0⟩),
    (0x240800209088600000000000, .imul ⟨false, 0⟩ ⟨0, .dflt, ⟨.v 1, .plain⟩, ⟨.v 2, .plain⟩, ⟨.v 3, .plain⟩, .unused, 0⟩),
    (0x240C01209088644000000000, .idot4 ⟨false, 0⟩ ⟨0, .s8, ⟨.v 1, .plain⟩, ⟨.v 2, .plain⟩, ⟨.v 3, .plain⟩, ⟨.v 4, .plain⟩, 0⟩),
    (0x241000209080000000000000, .iabs ⟨false, 0⟩ ⟨0, .dflt, ⟨.v 1, .plain⟩, ⟨.v 2, .plain⟩, .unused, .unused, 0⟩),
    (0x241400209088600000000000, .imin ⟨false, 0⟩ ⟨0, .dflt, ⟨.v 1, .plain⟩, ⟨.v 2, .plain⟩, ⟨.v 3, .plain⟩, .unused, 0⟩),
    (0x241800209088600000000000, .imax ⟨false, 0⟩ ⟨0, .dflt, ⟨.v 1, .plain⟩, ⟨.v 2, .plain⟩, ⟨.v 3, .plain⟩, .unused, 0⟩)] : List (Nat × Instr)), decodeWord false e.1 = .ok e.2 := by decide +kernel

/-- Class 0x0A, ops in the order of R60: class [95:90], op [89:82], guard [81:78], mod [77:72], dst [71:63], src1 [62:54],
src2 [53:45], src3 [44:36], fmt [35:0] (R44, R46, R49). -/
theorem test_decode_class0A : ∀ e ∈ ([
    (0x280000209088604000000000, .vsel ⟨false, 0⟩ ⟨0, .dflt, ⟨.v 1, .plain⟩, ⟨.v 2, .plain⟩, ⟨.v 3, .plain⟩, ⟨.d 4, .plain⟩, 0⟩),
    (0x280400209088600000000000, .vshf ⟨false, 0⟩ ⟨0, .dflt, ⟨.v 1, .plain⟩, ⟨.v 2, .plain⟩, ⟨.v 3, .plain⟩, .unused, 0⟩),
    (0x280400209080000000000051, .vshfRot ⟨false, 0⟩ ⟨0, .dflt, ⟨.v 1, .plain⟩, ⟨.v 2, .plain⟩, .unused, .unused, 81⟩),
    (0x280400209080000000000032, .vshfXor ⟨false, 0⟩ ⟨0, .dflt, ⟨.v 1, .plain⟩, ⟨.v 2, .plain⟩, .unused, .unused, 50⟩),
    (0x280803009080000000000000, .vredAdd ⟨false, 0⟩ ⟨0, .s32, ⟨.d 1, .plain⟩, ⟨.v 2, .plain⟩, .unused, .unused, 0⟩),
    (0x280803009080000000000001, .vredMin ⟨false, 0⟩ ⟨0, .s32, ⟨.d 1, .plain⟩, ⟨.v 2, .plain⟩, .unused, .unused, 1⟩),
    (0x280803009080000000000002, .vredMax ⟨false, 0⟩ ⟨0, .s32, ⟨.d 1, .plain⟩, ⟨.v 2, .plain⟩, .unused, .unused, 2⟩),
    (0x280C00208080000000000000, .vbc ⟨false, 0⟩ ⟨0, .dflt, ⟨.v 1, .plain⟩, ⟨.d 2, .plain⟩, .unused, .unused, 0⟩),
    (0x280C00209080000000000000, .vbcLane ⟨false, 0⟩ ⟨0, .dflt, ⟨.v 1, .plain⟩, ⟨.v 2, .plain⟩, .unused, .unused, 0⟩),
    (0x281000209080000000000000, .vmov ⟨false, 0⟩ ⟨0, .dflt, ⟨.v 1, .plain⟩, ⟨.v 2, .plain⟩, .unused, .unused, 0⟩),
    (0x281000009080000000000000, .vmovExtract ⟨false, 0⟩ ⟨0, .dflt, ⟨.d 1, .plain⟩, ⟨.v 2, .plain⟩, .unused, .unused, 0⟩),
    (0x281000208080000000000023, .vmovInsert ⟨false, 0⟩ ⟨0, .dflt, ⟨.v 1, .plain⟩, ⟨.d 2, .plain⟩, .unused, .unused, 35⟩)] : List (Nat × Instr)), decodeWord false e.1 = .ok e.2 := by decide +kernel

/-- Class 0x0C, ops in the order of R60: class [95:90], op [89:82], guard [81:78], mod [77:72], dst [71:63], src1 [62:54],
src2 [53:45], src3 [44:36], fmt [35:0] (R44, R46, R49). -/
theorem test_decode_class0C : ∀ e ∈ ([
    (0x300003008080000900000000, .cvt ⟨false, 0⟩ ⟨0, .s32, ⟨.d 1, .plain⟩, ⟨.d 2, .plain⟩, .unused, .unused, 38654705664⟩),
    (0x300009209080000300000000, .cvtVector ⟨false, 0⟩ ⟨0, .f32, ⟨.v 1, .plain⟩, ⟨.v 2, .plain⟩, .unused, .unused, 12884901888⟩),
    (0x300400009088604900000000, .qsc ⟨false, 0⟩ ⟨0, .dflt, ⟨.d 1, .plain⟩, ⟨.v 2, .plain⟩, ⟨.v 3, .plain⟩, ⟨.d 4, .plain⟩, 38654705664⟩),
    (0x300800209088604900000000, .qcb ⟨false, 0⟩ ⟨0, .dflt, ⟨.v 1, .plain⟩, ⟨.v 2, .plain⟩, ⟨.v 3, .plain⟩, ⟨.d 4, .plain⟩, 38654705664⟩),
    (0x300C00209080600E00000000, .dqcb ⟨false, 0⟩ ⟨0, .dflt, ⟨.v 1, .plain⟩, ⟨.v 2, .plain⟩, ⟨.d 3, .plain⟩, .unused, 60129542144⟩),
    (0x301000209080600000000025, .nanm ⟨false, 0⟩ ⟨0, .dflt, ⟨.v 1, .plain⟩, ⟨.v 2, .plain⟩, ⟨.d 3, .plain⟩, .unused, 37⟩),
    (0x301400009080000000000000, .nanx ⟨false, 0⟩ ⟨0, .dflt, ⟨.d 1, .plain⟩, ⟨.v 2, .plain⟩, .unused, .unused, 0⟩)] : List (Nat × Instr)), decodeWord false e.1 = .ok e.2 := by decide +kernel

/-- Class 0x0D, ops in the order of R60: class [95:90], op [89:82], guard [81:78], mod [77:72], dst [71:63], src1 [62:54],
src2 [53:45], src3 [44:36], fmt [35:0] (R44, R46, R49). -/
theorem test_decode_class0D : ∀ e ∈ ([
    (0x34000B209080000000000000, .pspl ⟨false, 0⟩ ⟨0, .g8, ⟨.v 1, .plain⟩, ⟨.v 2, .plain⟩, .unused, .unused, 0⟩),
    (0x34040B209080000000000000, .pjn ⟨false, 0⟩ ⟨0, .g8, ⟨.v 1, .plain⟩, ⟨.v 2, .plain⟩, .unused, .unused, 0⟩),
    (0x34080C000088604800000000, .pupd ⟨false, 0⟩ ⟨0, .g16, .unused, ⟨.d 2, .plain⟩, ⟨.v 3, .plain⟩, ⟨.d 4, .plain⟩, 34359738368⟩),
    (0x340C0C000088604800000000, .pdec ⟨false, 0⟩ ⟨0, .g16, .unused, ⟨.d 2, .plain⟩, ⟨.v 3, .plain⟩, ⟨.d 4, .plain⟩, 34359738368⟩)] : List (Nat × Instr)), decodeWord false e.1 = .ok e.2 := by decide +kernel

/-- Class 0x10, ops in the order of R60: class [95:90], op [89:82], guard [81:78], mod [77:72], dst [71:63], src1 [62:54],
src2 [53:45], src3 [44:36], fmt [35:0] (R44, R46, R49). -/
theorem test_decode_class10 : ∀ e ∈ ([
    (0x400000008080000000000000, .ld ⟨false, 0⟩ ⟨0, .dflt, ⟨.d 1, .plain⟩, ⟨.d 2, .plain⟩, .unused, .unused, 0⟩),
    (0x400400000080600000000000, .st ⟨false, 0⟩ ⟨0, .dflt, .unused, ⟨.d 2, .plain⟩, ⟨.d 3, .plain⟩, .unused, 0⟩),
    (0x400800000080000000000000, .migr ⟨false, 0⟩ ⟨0, .dflt, .unused, ⟨.d 2, .plain⟩, .unused, .unused, 0⟩),
    (0x400C00000000000000000000, .home ⟨false, 0⟩ ⟨0, .dflt, .unused, .unused, .unused, .unused, 0⟩),
    (0x401000000000000B00000000, .fence ⟨false, 0⟩ ⟨0, .dflt, .unused, .unused, .unused, .unused, 47244640256⟩)] : List (Nat × Instr)), decodeWord false e.1 = .ok e.2 := by decide +kernel

/-- Class 0x11, ops in the order of R60: class [95:90], op [89:82], guard [81:78], mod [77:72], dst [71:63], src1 [62:54],
src2 [53:45], src3 [44:36], fmt [35:0] (R44, R46, R49). -/
theorem test_decode_class11 : ∀ e ∈ ([
    (0x440000208080000000000000, .vld ⟨false, 0⟩ ⟨0, .dflt, ⟨.v 1, .plain⟩, ⟨.d 2, .plain⟩, .unused, .unused, 0⟩),
    (0x440400000088604000000000, .vst ⟨false, 0⟩ ⟨0, .dflt, .unused, ⟨.d 2, .plain⟩, ⟨.v 3, .plain⟩, ⟨.d 4, .plain⟩, 0⟩),
    (0x44080B208080600000000000, .vldp ⟨false, 0⟩ ⟨0, .g8, ⟨.v 1, .plain⟩, ⟨.d 2, .plain⟩, ⟨.d 3, .plain⟩, .unused, 0⟩),
    (0x440C0B000088604000000000, .vstp ⟨false, 0⟩ ⟨0, .g8, .unused, ⟨.d 2, .plain⟩, ⟨.v 3, .plain⟩, ⟨.d 4, .plain⟩, 0⟩)] : List (Nat × Instr)), decodeWord false e.1 = .ok e.2 := by decide +kernel

/-- Class 0x12, ops in the order of R60: class [95:90], op [89:82], guard [81:78], mod [77:72], dst [71:63], src1 [62:54],
src2 [53:45], src3 [44:36], fmt [35:0] (R44, R46, R49). -/
theorem test_decode_class12 : ∀ e ∈ ([
    (0x480000008080000000000000, .lds ⟨false, 0⟩ ⟨0, .dflt, ⟨.d 1, .plain⟩, ⟨.d 2, .plain⟩, .unused, .unused, 0⟩),
    (0x480400000080600000000000, .sts ⟨false, 0⟩ ⟨0, .dflt, .unused, ⟨.d 2, .plain⟩, ⟨.d 3, .plain⟩, .unused, 0⟩),
    (0x480800008080000000000008, .tprb ⟨false, 0⟩ ⟨0, .dflt, ⟨.d 1, .plain⟩, ⟨.d 2, .plain⟩, .unused, .unused, 8⟩),
    (0x480C00000080604000000000, .kvfork ⟨false, 0⟩ ⟨0, .dflt, .unused, ⟨.d 2, .plain⟩, ⟨.d 3, .plain⟩, ⟨.d 4, .plain⟩, 0⟩),
    (0x481000000080604000000000, .kvfree ⟨false, 0⟩ ⟨0, .dflt, .unused, ⟨.d 2, .plain⟩, ⟨.d 3, .plain⟩, ⟨.d 4, .plain⟩, 0⟩)] : List (Nat × Instr)), decodeWord false e.1 = .ok e.2 := by decide +kernel

/-- Class 0x14, ops in the order of R60: class [95:90], op [89:82], guard [81:78], mod [77:72], dst [71:63], src1 [62:54],
src2 [53:45], src3 [44:36], fmt [35:0] (R44, R46, R49). -/
theorem test_decode_class14 : ∀ e ∈ ([
    (0x500000008080600800000040, .tld ⟨false, 0⟩ ⟨0, .dflt, ⟨.d 1, .plain⟩, ⟨.d 2, .plain⟩, ⟨.d 3, .plain⟩, .unused, 34359738432⟩),
    (0x500400000080600000000000, .rdmSp ⟨false, 0⟩ ⟨0, .dflt, .unused, ⟨.d 2, .plain⟩, ⟨.d 3, .plain⟩, .unused, 0⟩),
    (0x500800208080000000000003, .rdmV ⟨false, 0⟩ ⟨0, .dflt, ⟨.v 1, .plain⟩, ⟨.d 2, .plain⟩, .unused, .unused, 3⟩),
    (0x500C00000080000000000002, .rdmS ⟨false, 0⟩ ⟨0, .dflt, .unused, ⟨.d 2, .plain⟩, .unused, .unused, 2⟩),
    (0x501000008080000000000000, .tqry ⟨false, 0⟩ ⟨0, .dflt, ⟨.d 1, .plain⟩, ⟨.d 2, .plain⟩, .unused, .unused, 0⟩),
    (0x501400000080000000000000, .tdrop ⟨false, 0⟩ ⟨0, .dflt, .unused, ⟨.d 2, .plain⟩, .unused, .unused, 0⟩)] : List (Nat × Instr)), decodeWord false e.1 = .ok e.2 := by decide +kernel

/-- Class 0x18, ops in the order of R60: class [95:90], op [89:82], guard [81:78], mod [77:72], dst [71:63], src1 [62:54],
src2 [53:45], src3 [44:36], fmt [35:0] (R44, R46, R49). -/
theorem test_decode_class18_1 : ∀ e ∈ ([
    (0x600001E0F180604000000000, .cldX ⟨false, 0⟩ ⟨0, .s8, ⟨.a 1, .plain⟩, ⟨.y 2, .plain⟩, ⟨.d 3, .plain⟩, ⟨.d 4, .plain⟩, 0⟩),
    (0x600401E0F180604000000000, .cldB ⟨false, 0⟩ ⟨0, .s8, ⟨.a 1, .plain⟩, ⟨.y 2, .plain⟩, ⟨.d 3, .plain⟩, ⟨.d 4, .plain⟩, 0⟩),
    (0x600801E0F180604000000000, .cldtX ⟨false, 0⟩ ⟨0, .s8, ⟨.a 1, .plain⟩, ⟨.y 2, .plain⟩, ⟨.d 3, .plain⟩, ⟨.d 4, .plain⟩, 0⟩),
    (0x600C01E0F180604000000000, .cldtB ⟨false, 0⟩ ⟨0, .s8, ⟨.a 1, .plain⟩, ⟨.y 2, .plain⟩, ⟨.d 3, .plain⟩, ⟨.d 4, .plain⟩, 0⟩),
    (0x601001E0F180604000000000, .cldg ⟨false, 0⟩ ⟨0, .s8, ⟨.a 1, .plain⟩, ⟨.y 2, .plain⟩, ⟨.d 3, .plain⟩, ⟨.d 4, .plain⟩, 0⟩),
    (0x601400E28000604000000000, .rld ⟨false, 0⟩ ⟨0, .dflt, ⟨.y 1, .plain⟩, .unused, ⟨.d 3, .plain⟩, ⟨.d 4, .plain⟩, 0⟩),
    (0x601800E28000600000000000, .rldg ⟨false, 0⟩ ⟨0, .dflt, ⟨.y 1, .plain⟩, .unused, ⟨.d 3, .plain⟩, .unused, 0⟩),
    (0x601C00E0F0A0800000000000, .fold ⟨false, 0⟩ ⟨0, .dflt, ⟨.a 1, .plain⟩, ⟨.a 2, .plain⟩, ⟨.n 4, .plain⟩, .unused, 0⟩),
    (0x60200320F080004000000000, .acpV ⟨false, 0⟩ ⟨0, .s32, ⟨.v 1, .plain⟩, ⟨.a 2, .plain⟩, .unused, ⟨.d 4, .plain⟩, 0⟩),
    (0x602003007080604000000000, .acpSp ⟨false, 0⟩ ⟨0, .s32, .unused, ⟨.a 2, .plain⟩, ⟨.d 3, .plain⟩, ⟨.d 4, .plain⟩, 0⟩),
    (0x602403007080604000000000, .acps ⟨false, 0⟩ ⟨0, .s32, .unused, ⟨.a 2, .plain⟩, ⟨.d 3, .plain⟩, ⟨.d 4, .plain⟩, 0⟩),
    (0x602800E08000000000000000, .aclrX ⟨false, 0⟩ ⟨0, .dflt, ⟨.a 1, .plain⟩, .unused, .unused, .unused, 0⟩),
    (0x602800E08000000000800000, .aclrF ⟨false, 0⟩ ⟨0, .dflt, ⟨.a 1, .plain⟩, .unused, .unused, .unused, 8388608⟩),
    (0x602C00000000600000000000, .skeep ⟨false, 0⟩ ⟨0, .dflt, .unused, .unused, ⟨.d 3, .plain⟩, .unused, 0⟩),
    (0x603000005080000000000000, .cres ⟨false, 0⟩ ⟨0, .dflt, .unused, ⟨.w 2, .plain⟩, .unused, .unused, 0⟩),
    (0x603000005080000000000001, .cresD ⟨false, 0⟩ ⟨0, .dflt, .unused, ⟨.w 2, .plain⟩, .unused, .unused, 1⟩)] : List (Nat × Instr)), decodeWord false e.1 = .ok e.2 := by decide +kernel

/-- Class 0x18, ops in the order of R60: class [95:90], op [89:82], guard [81:78], mod [77:72], dst [71:63], src1 [62:54],
src2 [53:45], src3 [44:36], fmt [35:0] (R44, R46, R49). -/
theorem test_decode_class18_2 : ∀ e ∈ ([
    (0x603400005080000000000003, .wlt ⟨false, 0⟩ ⟨0, .dflt, .unused, ⟨.w 2, .plain⟩, .unused, .unused, 3⟩)] : List (Nat × Instr)), decodeWord false e.1 = .ok e.2 := by decide +kernel

/-- Class 0x1A, ops in the order of R60: class [95:90], op [89:82], guard [81:78], mod [77:72], dst [71:63], src1 [62:54],
src2 [53:45], src3 [44:36], fmt [35:0] (R44, R46, R49). -/
theorem test_decode_class1A : ∀ e ∈ ([
    (0x680000008000000000000000, .cgo ⟨false, 0⟩ ⟨0, .dflt, ⟨.d 1, .plain⟩, .unused, .unused, .unused, 0⟩),
    (0x680400000080600000000008, .binit ⟨false, 0⟩ ⟨0, .dflt, .unused, ⟨.d 2, .plain⟩, ⟨.d 3, .plain⟩, .unused, 8⟩),
    (0x680800000080000000000000, .barv ⟨false, 0⟩ ⟨0, .dflt, .unused, ⟨.d 2, .plain⟩, .unused, .unused, 0⟩),
    (0x680C00000080600000000000, .bwait ⟨false, 0⟩ ⟨0, .dflt, .unused, ⟨.d 2, .plain⟩, ⟨.d 3, .plain⟩, .unused, 0⟩),
    (0x68100000A080000000000000, .sbind ⟨false, 0⟩ ⟨0, .dflt, ⟨.d 1, .plain⟩, ⟨.s 2, .plain⟩, .unused, .unused, 0⟩)] : List (Nat × Instr)), decodeWord false e.1 = .ok e.2 := by decide +kernel

/-- Class 0x1B, ops in the order of R60: class [95:90], op [89:82], guard [81:78], mod [77:72], dst [71:63], src1 [62:54],
src2 [53:45], src3 [44:36], fmt [35:0] (R44, R46, R49). -/
theorem test_decode_class1B : ∀ e ∈ ([
    (0x6C0000C08080000000000002, .xreq ⟨false, 0⟩ ⟨0, .dflt, ⟨.p 1, .plain⟩, ⟨.d 2, .plain⟩, .unused, .unused, 2⟩)] : List (Nat × Instr)), decodeWord false e.1 = .ok e.2 := by decide +kernel

/-- Class 0x1C, ops in the order of R60: class [95:90], op [89:82], guard [81:78], mod [77:72], dst [71:63], src1 [62:54],
src2 [53:45], src3 [44:36], fmt [35:0] (R44, R46, R49). -/
theorem test_decode_class1C : ∀ e ∈ ([
    (0x700000008080600800000008, .amoAdd ⟨false, 0⟩ ⟨0, .dflt, ⟨.d 1, .plain⟩, ⟨.d 2, .plain⟩, ⟨.d 3, .plain⟩, .unused, 34359738376⟩),
    (0x700400008080600800000008, .amoMin ⟨false, 0⟩ ⟨0, .dflt, ⟨.d 1, .plain⟩, ⟨.d 2, .plain⟩, ⟨.d 3, .plain⟩, .unused, 34359738376⟩),
    (0x700800008080600800000008, .amoMax ⟨false, 0⟩ ⟨0, .dflt, ⟨.d 1, .plain⟩, ⟨.d 2, .plain⟩, ⟨.d 3, .plain⟩, .unused, 34359738376⟩),
    (0x700C00008080600800000008, .amoAnd ⟨false, 0⟩ ⟨0, .dflt, ⟨.d 1, .plain⟩, ⟨.d 2, .plain⟩, ⟨.d 3, .plain⟩, .unused, 34359738376⟩),
    (0x701000008080600800000008, .amoOr ⟨false, 0⟩ ⟨0, .dflt, ⟨.d 1, .plain⟩, ⟨.d 2, .plain⟩, ⟨.d 3, .plain⟩, .unused, 34359738376⟩),
    (0x701400008080600800000008, .amoXor ⟨false, 0⟩ ⟨0, .dflt, ⟨.d 1, .plain⟩, ⟨.d 2, .plain⟩, ⟨.d 3, .plain⟩, .unused, 34359738376⟩),
    (0x701800008080600800000008, .amoSwap ⟨false, 0⟩ ⟨0, .dflt, ⟨.d 1, .plain⟩, ⟨.d 2, .plain⟩, ⟨.d 3, .plain⟩, .unused, 34359738376⟩),
    (0x701C00008080604800000008, .amoCas ⟨false, 0⟩ ⟨0, .dflt, ⟨.d 1, .plain⟩, ⟨.d 2, .plain⟩, ⟨.d 3, .plain⟩, ⟨.d 4, .plain⟩, 34359738376⟩),
    (0x704000000080600800000008, .redAdd ⟨false, 0⟩ ⟨0, .dflt, .unused, ⟨.d 2, .plain⟩, ⟨.d 3, .plain⟩, .unused, 34359738376⟩),
    (0x704400000080600800000008, .redMin ⟨false, 0⟩ ⟨0, .dflt, .unused, ⟨.d 2, .plain⟩, ⟨.d 3, .plain⟩, .unused, 34359738376⟩),
    (0x704800000080600800000008, .redMax ⟨false, 0⟩ ⟨0, .dflt, .unused, ⟨.d 2, .plain⟩, ⟨.d 3, .plain⟩, .unused, 34359738376⟩),
    (0x704C00000080600800000008, .redAnd ⟨false, 0⟩ ⟨0, .dflt, .unused, ⟨.d 2, .plain⟩, ⟨.d 3, .plain⟩, .unused, 34359738376⟩),
    (0x705000000080600800000008, .redOr ⟨false, 0⟩ ⟨0, .dflt, .unused, ⟨.d 2, .plain⟩, ⟨.d 3, .plain⟩, .unused, 34359738376⟩),
    (0x705400000080600800000008, .redXor ⟨false, 0⟩ ⟨0, .dflt, .unused, ⟨.d 2, .plain⟩, ⟨.d 3, .plain⟩, .unused, 34359738376⟩),
    (0x706000000080600800000008, .redX ⟨false, 0⟩ ⟨0, .dflt, .unused, ⟨.d 2, .plain⟩, ⟨.d 3, .plain⟩, .unused, 34359738376⟩),
    (0x708000008000000000000000, .inbx ⟨false, 0⟩ ⟨0, .dflt, ⟨.d 1, .plain⟩, .unused, .unused, .unused, 0⟩)] : List (Nat × Instr)), decodeWord false e.1 = .ok e.2 := by decide +kernel

/-- Class 0x20, ops in the order of R60: class [95:90], op [89:82], guard [81:78], mod [77:72], dst [71:63], src1 [62:54],
src2 [53:45], src3 [44:36], fmt [35:0] (R44, R46, R49). -/
theorem test_decode_class20 : ∀ e ∈ ([
    (0x800000008080000000000000, .launch ⟨false, 0⟩ ⟨0, .dflt, ⟨.d 1, .plain⟩, ⟨.d 2, .plain⟩, .unused, .unused, 0⟩),
    (0x800400000000000000000000, .texit ⟨false, 0⟩ ⟨0, .dflt, .unused, .unused, .unused, .unused, 0⟩),
    (0x800800000000000000000000, .phase ⟨false, 0⟩ ⟨0, .dflt, .unused, .unused, .unused, .unused, 0⟩),
    (0x800C00000000000000000000, .cpin ⟨false, 0⟩ ⟨0, .dflt, .unused, .unused, .unused, .unused, 0⟩),
    (0x801000000000000000000000, .cunpin ⟨false, 0⟩ ⟨0, .dflt, .unused, .unused, .unused, .unused, 0⟩)] : List (Nat × Instr)), decodeWord false e.1 = .ok e.2 := by decide +kernel

/-- Class 0x24, ops in the order of R60: class [95:90], op [89:82], guard [81:78], mod [77:72], dst [71:63], src1 [62:54],
src2 [53:45], src3 [44:36], fmt [35:0] (R44, R46, R49). -/
theorem test_decode_class24 : ∀ e ∈ ([
    (0x900000000000000000000021, .trap ⟨false, 0⟩ ⟨0, .dflt, .unused, .unused, .unused, .unused, 33⟩),
    (0x900400000000000000000000, .rti ⟨false, 0⟩ ⟨0, .dflt, .unused, .unused, .unused, .unused, 0⟩),
    (0x900800008000000000000012, .gets ⟨false, 0⟩ ⟨0, .dflt, ⟨.d 1, .plain⟩, .unused, .unused, .unused, 18⟩),
    (0x900C00000080000000000016, .sets ⟨false, 0⟩ ⟨0, .dflt, .unused, ⟨.d 2, .plain⟩, .unused, .unused, 22⟩),
    (0x900800008000000000000109, .getsCpGo ⟨false, 0⟩ ⟨0, .dflt, ⟨.d 1, .plain⟩, .unused, .unused, .unused, 265⟩)] : List (Nat × Instr)), decodeWord false e.1 = .ok e.2 := by decide +kernel

/-- Class 0x26, ops in the order of R60: class [95:90], op [89:82], guard [81:78], mod [77:72], dst [71:63], src1 [62:54],
src2 [53:45], src3 [44:36], fmt [35:0] (R44, R46, R49). -/
theorem test_decode_class26 : ∀ e ∈ ([
    (0x980000000000000000000021, .brk ⟨false, 0⟩ ⟨0, .dflt, .unused, .unused, .unused, .unused, 33⟩),
    (0x980400000080000000000009, .trc ⟨false, 0⟩ ⟨0, .dflt, .unused, ⟨.d 2, .plain⟩, .unused, .unused, 9⟩)] : List (Nat × Instr)), decodeWord false e.1 = .ok e.2 := by decide +kernel

end Sys2Proof.Tests
end

section
/-! PROOFS. A thread's system registers read back (R354, R355, R359, R270): what a slot holds after it was given a thread, what a
write of a thread register makes of the thread, and what a read of it takes from the thread. -/
namespace Sys2Proof.Machine
open Sys2Proof

/-! A slot that holds a thread. -/

theorem Core.slot_lt_of_thread {c : Core} {slot : Nat} {t : Thread} (h : c.thread slot = some t) : slot < 16 := by
  by_contra hs
  have hlen : c.threads.toList.length ≤ slot := by simp only [Vector.length_toList]; omega
  rw [Core.thread, List.getD_eq_default _ _ hlen] at h
  cases h

theorem State.slot_lt_of_thread {s : State} {g slot : Nat} {t : Thread} (h : s.thread g slot = some t) : slot < 16 :=
  Core.slot_lt_of_thread h

theorem thread_setThread_self (s : State) (g : Nat) {slot : Nat} (t : Option Thread) (h : slot < 16) :
    (s.setThread g slot t).thread g slot = t := by simp [thread_setThread s g g slot t h]

/-! Fields of a word written under a mask: `old` keeps the bits of `keep`, `new` gives those of `put`. -/

theorem maskedWrite_and (old new keep put field : Word) :
    (old &&& keep ||| new &&& put) &&& field = old &&& (keep &&& field) ||| new &&& (put &&& field) := by
  rw [BitVec.and_comm, BitVec.and_or_distrib_left, BitVec.and_comm field, BitVec.and_comm field, BitVec.and_assoc, BitVec.and_assoc]

/-- A field that is written whole, with no bit kept, reads as written. -/
theorem maskedWrite_and_written (old new : Word) {keep put field : Word} (hkeep : keep &&& field = 0) (hput : put &&& field = field) :
    (old &&& keep ||| new &&& put) &&& field = new &&& field := by
  rw [maskedWrite_and, hkeep, hput]; simp

/-- A field that is kept whole, with no bit written, reads as before. -/
theorem maskedWrite_and_kept (old new : Word) {keep put field : Word} (hkeep : keep &&& field = field) (hput : put &&& field = 0) :
    (old &&& keep ||| new &&& put) &&& field = old &&& field := by
  rw [maskedWrite_and, hkeep, hput]; simp

/-- A kept bit reads as before. -/
theorem maskedWrite_getLsbD (old new keep put : Word) {i : Nat} (hkeep : keep.getLsbD i = true) (hput : put.getLsbD i = false) :
    (old &&& keep ||| new &&& put).getLsbD i = old.getLsbD i := by
  simp [hkeep, hput]

/-! What a write of a register makes of the thread (R354, R359, R407). -/

/-- The thread after tsk.ftrap is written. -/
def Thread.putFtrap (t : Thread) (v : Word) : Thread := { t with flags := t.flags &&& 0xFFFFFFFFFFFFFFFE ||| v &&& 1 }

/-- The thread after tr.vec is written. -/
def Thread.putVec (t : Thread) (v : Word) : Thread := { t with flags := t.flags &&& 0x3F ||| v &&& 0xFFFFFFFFFFFFFFC0 }

section writes
variable (s : State) (g slot : Nat) (t : Thread) (v : Word)

theorem sysPutThread_ftrap : s.sysPutThread g slot t 0x000 v = s.setThread g slot (some (t.putFtrap v)) := rfl
theorem sysPutThread_vec : s.sysPutThread g slot t 0x010 v = s.setThread g slot (some (t.putVec v)) := rfl
theorem sysPutThread_epc :
    s.sysPutThread g slot t 0x011 v = s.setThread g slot (some { t with tr := { t.tr with epc := v } }) := rfl
theorem sysPutThread_save :
    s.sysPutThread g slot t 0x016 v = s.setThread g slot (some { t with tr := { t.tr with save := v } }) := rfl
theorem sysPutThread_copy {n : Nat} (hlo : 0x100 ≤ n) (hhi : n ≤ 0x108) :
    s.sysPutThread g slot t n v = s.setThread g slot (some { t with cp := t.cp.put n v }) := by
  interval_cases n <;> rfl

/-! What a read of a register takes from the thread (R355). -/

theorem sysRead_ftrap : s.sysRead g slot t 0x000 = t.flags &&& 1 := rfl
theorem sysRead_vec : s.sysRead g slot t 0x010 = t.vec := rfl
theorem sysRead_epc : s.sysRead g slot t 0x011 = t.tr.epc := rfl
theorem sysRead_save : s.sysRead g slot t 0x016 = t.tr.save := rfl
theorem sysRead_copy {n : Nat} (hlo : 0x100 ≤ n) (hhi : n ≤ 0x108) : s.sysRead g slot t n = t.cp.get n := by
  interval_cases n <;> rfl

end writes

/-! The fields of the flags word after a write (R354). -/

section flags
variable (t : Thread) (v : Word)

theorem Thread.putFtrap_field : (t.putFtrap v).flags &&& 1 = v &&& 1 := maskedWrite_and_written _ _ (by decide) (by decide)
theorem Thread.putFtrap_vec : (t.putFtrap v).vec = t.vec := maskedWrite_and_kept _ _ (by decide) (by decide)
theorem Thread.putFtrap_inh : (t.putFtrap v).inh = t.inh := maskedWrite_getLsbD _ _ _ _ (by decide) (by decide)
theorem Thread.putFtrap_sup : (t.putFtrap v).sup = t.sup := maskedWrite_getLsbD _ _ _ _ (by decide) (by decide)

theorem Thread.putVec_vec : (t.putVec v).vec = v &&& 0xFFFFFFFFFFFFFFC0 := maskedWrite_and_written _ _ (by decide) (by decide)
theorem Thread.putVec_evt : (t.putVec v).evt = t.evt := maskedWrite_getLsbD _ _ _ _ (by decide) (by decide)
theorem Thread.putVec_inh : (t.putVec v).inh = t.inh := maskedWrite_getLsbD _ _ _ _ (by decide) (by decide)
theorem Thread.putVec_sup : (t.putVec v).sup = t.sup := maskedWrite_getLsbD _ _ _ _ (by decide) (by decide)

end flags

/-! Written, then read. -/

/-- Register n of the thread of a slot reads w after v is written to it. -/
def ReadsBack (s : State) (g slot : Nat) (t : Thread) (n : Nat) (v w : Word) : Prop :=
  ∃ u, (s.sysPutThread g slot t n v).thread g slot = some u ∧ (s.sysPutThread g slot t n v).sysRead g slot u n = w

section readBack
variable {s : State} {g slot : Nat} {t : Thread} {v : Word}

/-- A write that puts the thread `u` in its slot reads back what `u` holds. -/
theorem readsBack_of_setThread {n : Nat} {u : Thread} {w : Word} (hs : slot < 16)
    (hput : s.sysPutThread g slot t n v = s.setThread g slot (some u))
    (hread : (s.setThread g slot (some u)).sysRead g slot u n = w) : ReadsBack s g slot t n v w := by
  refine ⟨u, ?_, ?_⟩ <;> rw [hput]
  · exact thread_setThread_self s g (some u) hs
  · exact hread

theorem readsBack_ftrap (hs : slot < 16) : ReadsBack s g slot t 0x000 v (v &&& 1) :=
  readsBack_of_setThread hs (sysPutThread_ftrap ..) ((sysRead_ftrap ..).trans (t.putFtrap_field v))

theorem readsBack_vec (hs : slot < 16) : ReadsBack s g slot t 0x010 v (v &&& 0xFFFFFFFFFFFFFFC0) :=
  readsBack_of_setThread hs (sysPutThread_vec ..) ((sysRead_vec ..).trans (t.putVec_vec v))

theorem readsBack_epc (hs : slot < 16) : ReadsBack s g slot t 0x011 v v :=
  readsBack_of_setThread hs (sysPutThread_epc ..) (sysRead_epc ..)

theorem readsBack_save (hs : slot < 16) : ReadsBack s g slot t 0x016 v v :=
  readsBack_of_setThread hs (sysPutThread_save ..) (sysRead_save ..)

/-- A copy register reads what the register set holds of the value written to it (R271, R272, R278). -/
theorem readsBack_copy {n : Nat} (hs : slot < 16) (hlo : 0x100 ≤ n) (hhi : n ≤ 0x108) :
    ReadsBack s g slot t n v ((t.cp.put n v).get n) :=
  readsBack_of_setThread hs (sysPutThread_copy s g slot t v hlo hhi) (sysRead_copy _ _ _ _ hlo hhi)

/-- The thread in the slot after tsk.ftrap is written. -/
theorem thread_sysPutThread_ftrap (hs : slot < 16) : (s.sysPutThread g slot t 0x000 v).thread g slot = some (t.putFtrap v) := by
  rw [sysPutThread_ftrap, thread_setThread_self s g _ hs]

/-- The thread in the slot after tr.vec is written. -/
theorem thread_sysPutThread_vec (hs : slot < 16) : (s.sysPutThread g slot t 0x010 v).thread g slot = some (t.putVec v) := by
  rw [sysPutThread_vec, thread_setThread_self s g _ hs]

end readBack

/-- Settles O45: each write puts one thread in the slot, and a read takes from that thread the register's field, which the write's
mask gives; the other fields of the flags word lie outside the mask. -/
theorem threadRegistersReadBack : Obligations.ThreadRegistersReadBack := by
  unfold Obligations.ThreadRegistersReadBack
  intro s g slot t v ht
  have hs : slot < 16 := State.slot_lt_of_thread ht
  -- `put` and `get` of a literal number compute to the value under the register's mask (R271, R272, R278).
  have copy (n : Nat) (hlo : 0x100 ≤ n) (hhi : n ≤ 0x108) : ReadsBack s g slot t n v ((t.cp.put n v).get n) :=
    readsBack_copy hs hlo hhi
  refine ⟨readsBack_ftrap hs, readsBack_vec hs, readsBack_epc hs, readsBack_save hs,
    copy 0x100 (by decide) (by decide), copy 0x101 (by decide) (by decide), copy 0x102 (by decide) (by decide),
    copy 0x103 (by decide) (by decide), copy 0x104 (by decide) (by decide), copy 0x105 (by decide) (by decide),
    copy 0x106 (by decide) (by decide), copy 0x107 (by decide) (by decide), copy 0x108 (by decide) (by decide), ?_, ?_⟩
  · intro u hu
    obtain rfl : t.putVec v = u := Option.some.inj ((thread_sysPutThread_vec hs).symm.trans hu)
    exact ⟨t.putVec_evt v, t.putVec_inh v, t.putVec_sup v⟩
  · intro u hu
    obtain rfl : t.putFtrap v = u := Option.some.inj ((thread_sysPutThread_ftrap hs).symm.trans hu)
    exact ⟨t.putFtrap_vec v, t.putFtrap_inh v, t.putFtrap_sup v⟩

end Sys2Proof.Machine
end

section
/-! PROOFS. Memory stays canonical (R19): what a list of writes leaves at an address. -/
namespace Sys2Proof.Machine
open Sys2Proof

/-! Reset, and a read after writes. -/

/-- Settles O7: reset memory lists no byte. -/
theorem resetMemoryCanonical : Obligations.ResetMemoryCanonical := wf_nil

theorem byteAfter_nil (m : List (Nat × Byte)) (a : Nat) : byteAfter m [] a = memGet m a := rfl

/-- The first of the writes is under the rest: the rest leave what they would leave over it. -/
theorem byteAfter_cons (m : List (Nat × Byte)) (e : Nat × Byte) (rest : List (Nat × Byte)) (a : Nat) (h : Memory.wf m = true) :
    byteAfter m (e :: rest) a = byteAfter (memPut m e.1 e.2) rest a := by
  unfold byteAfter
  rw [List.reverse_cons, List.find?_append, memGet_memPut m e.1 a e.2 h]
  cases rest.reverse.find? fun w => w.1 == a with
  | some w => rfl
  | none =>
    by_cases ha : e.1 = a
    · simp [ha]
    · simp [ha, Ne.symm ha]

/-- Settles O9: by induction on the writes, each of which reads back at its own address and is seen nowhere else. -/
theorem memoryReadsLastWrite : Obligations.MemoryReadsLastWrite := by
  unfold Obligations.MemoryReadsLastWrite
  intro m bytes a h
  induction bytes generalizing m with
  | nil => exact (byteAfter_nil m a).symm
  | cons e rest ih =>
    calc memGet (memPuts m (e :: rest)) a
      _ = memGet (memPuts (memPut m e.1 e.2) rest) a := rfl
      _ = byteAfter (memPut m e.1 e.2) rest a := ih _ (wf_memPut m e.1 e.2 h)
      _ = byteAfter m (e :: rest) a := (byteAfter_cons m e rest a h).symm

end Sys2Proof.Machine
end

section
/-! PROOFS. Memory stays canonical (R19). The plan of this and the following sections: a function of the model that writes no byte has
a lemma `f_mem`, its result has the memory it was given (`f_wait` for a check that makes its thread wait); one that writes has a lemma
`wf_f`, its result has canonical memory where it was given canonical memory; the dispatch and the schedule put them together.

The operations of the state, and the compares, leave memory as it is. -/
namespace Sys2Proof.Machine
open Sys2Proof

theorem orNot_next {n : String} {o : Option State} {t : State} (h : orNot n o = .next t) : o = some t := by
  unfold orNot at h; split at h <;> cases h
  rfl

@[simp] theorem mem_ite (c : Prop) [Decidable c] (a b : State) : (if c then a else b).mem = if c then a.mem else b.mem :=
  apply_ite State.mem c a b

@[simp] theorem onMoving_mem (s : State) (tid : Nat) (f : Thread → Thread) : (s.onMoving tid f).mem = s.mem := rfl
@[simp] theorem writeP_mem (x : Ctx) (c : Core) (t : Thread) (i : Fin 8) (b : Bool) : (x.writeP c t i b).mem = x.s.mem := rfl

/-! The scalar and the vector instructions go through a few shared turns. -/

section
variable {gd : Guard} {f : Fields} {s t : State}

theorem alu1_mem {op : Nat → Int → Int} (h : alu1 gd f s op = .next t) : t.mem = s.mem := scalarTurn_mem h

theorem alu2_mem {op : Nat → Int → Int → Int} (h : alu2 gd f s op = .next t) : t.mem = s.mem := scalarTurn_mem h

theorem aluImm_mem {zext : Bool} {op : Nat → Int → Int → Int} (h : aluImm gd f s zext op = .next t) : t.mem = s.mem :=
  scalarTurn_mem h

theorem shift2_mem {op : Nat → Int → Nat → Int} (h : shift2 gd f s op = .next t) : t.mem = s.mem := scalarTurn_mem h

theorem shiftImm_mem {op : Nat → Int → Nat → Int} (h : shiftImm gd f s op = .next t) : t.mem = s.mem := scalarTurn_mem h

theorem vec1_mem {op : BitVec 16 → Lane → LaneOut} (h : vec1 gd f s op = .next t) : t.mem = s.mem := vectorTurn_mem h

theorem vec2_mem {op : BitVec 16 → Lane → Lane → LaneOut} (h : vec2 gd f s op = .next t) : t.mem = s.mem := vectorTurn_mem h

theorem vec3_mem {op : BitVec 16 → Lane → Lane → Lane → LaneOut} (h : vec3 gd f s op = .next t) : t.mem = s.mem :=
  vectorTurn_mem h

theorem elem2_mem {op : Int → Int → Int} (h : elem2 gd f s op = .next t) : t.mem = s.mem := vectorTurn_mem h

theorem vredExtreme_mem {op : Lane → Lane → LaneOut} {least : Bool} (h : vredExtreme gd f s op least = .next t) : t.mem = s.mem :=
  vectorTurn_mem h

end

theorem cmpReg_mem {gd : Guard} {f : Fields} {cc : Cond} {s t : State} (h : cmpReg gd f s cc = .next t) : t.mem = s.mem :=
  turn_mem h fun x hx => by dsimp only; split <;> simp [hx]

theorem cmpImm_mem {gd : Guard} {f : Fields} {cc : Cond} {s t : State} (h : cmpImm gd f s cc = .next t) : t.mem = s.mem :=
  turn_mem h fun x hx => by dsimp only; split <;> simp [hx]

end Sys2Proof.Machine
end

section
/-! PROOFS. Memory stays canonical (R19). Translation, the tables of the KV window, and the order of accesses leave memory as it is. -/
namespace Sys2Proof.Machine
open Sys2Proof

@[simp] theorem countFixed_mem (s : State) (die n : Nat) : (s.countFixed die n).mem = s.mem := by
  simp [State.countFixed]

@[simp] theorem correct_mem (s : State) (segs : List (Nat × Nat)) : (s.correct segs).mem = s.mem := by
  simp only [State.correct]; split
  · rw [foldl_mem _ fun s e => by simp]
  · rfl

@[simp] theorem portUsed_mem (s : State) (port colour : Nat) : (s.portUsed port colour).mem = s.mem := by
  unfold State.portUsed; split <;> simp

@[simp] theorem leavePorts_mem (s : State) (colour : Nat) : (s.leavePorts colour).mem = s.mem := rfl

@[simp] theorem usePort_mem (s : State) (die pkg colour : Nat) : (s.usePort die pkg colour).mem = s.mem := by
  unfold State.usePort; split <;> simp

@[simp] theorem dropWalk_mem (s : State) (g colour va : Nat) : (s.dropWalk g colour va).mem = s.mem := rfl

theorem leafAccess_wait {s t : State} {die colour : Nat} {u : Use} {big : Bool} {e va : Nat} :
    s.leafAccess die colour u big e va ≠ .wait t := by
  unfold State.leafAccess; repeat' split
  all_goals exact nofun

theorem coreTranslate_wait {s t : State} {g colour : Nat} {u : Use} {va : Nat} (h : s.coreTranslate g colour u va = .wait t) :
    t.mem = s.mem := by
  unfold State.coreTranslate at h; dsimp only at h; split at h
  · cases h
  · split at h
    · exact absurd h leafAccess_wait
    · repeat' split at h
      all_goals (cases h <;> simp)

theorem localPlace_wait {s t : State} {g colour : Nat} {key : TeamKey} {o : Nat} {a : Word} :
    s.localPlace g colour key o a ≠ .wait t := by
  unfold State.localPlace; dsimp only; split <;> exact nofun

theorem unitLeaf_mem {s t : State} {g colour va : Nat} {b : Bool} {e : Nat} (h : s.unitLeaf g colour va = .ok (b, e, t)) :
    t.mem = s.mem := by
  unfold State.unitLeaf at h; repeat' split at h
  all_goals (cases h <;> simp)

theorem unitAccess_mem {s t : State} {g colour : Nat} {u : Use} {va : Nat} {p : Place} (h : s.unitAccess g colour u va = .ok (t, p)) :
    t.mem = s.mem := by
  unfold State.unitAccess at h; repeat' split at h
  all_goals cases h
  exact unitLeaf_mem ‹_›

@[simp] theorem kvTouch_mem (s : State) (g colour va : Nat) : (s.kvTouch g colour va).mem = s.mem := by
  unfold State.kvTouch; split
  · rfl
  · exact unitLeaf_mem ‹_›

@[simp] theorem moveBlock_mem (s : State) (colour sq b a to_ : Nat) : (s.moveBlock colour sq b a to_).mem = s.mem := rfl
@[simp] theorem forgetKv_mem (s : State) (colour sq b : Nat) : (s.forgetKv colour sq b).mem = s.mem := rfl

@[simp] theorem accTrap_mem (x : Ctx) (kind : BitVec 8) (detail : Nat) (addr : Word) :
    (x.accTrap kind detail addr).mem = x.s.mem := by
  simp [Ctx.accTrap]

theorem place_wait {x : Ctx} {u : Use} {a : Word} {t : State} (h : x.place u a = .wait t) : t.mem = x.s.mem := by
  unfold Ctx.place at h; split at h
  case h_3 => exact coreTranslate_wait h
  case h_4 => exact absurd h localPlace_wait
  all_goals repeat' split at h
  all_goals (cases h <;> simp)

@[simp] theorem correctSp_mem (s : State) (g off n : Nat) : (s.correctSp g off n).mem = s.mem := by
  simp only [State.correctSp]; split <;> simp

@[simp] theorem expand_mem (s : State) (clu key : Nat) : (s.expand clu key).mem = s.mem := by
  simp only [State.expand]; split <;> simp

@[simp] theorem takeSlots_mem (s : State) (pa : Nat) : (s.takeSlots pa).mem = s.mem := by
  simp [State.takeSlots]

@[simp] theorem hearClock_mem (s : State) (die : Nat) (v : List Nat) : (s.hearClock die v).mem = s.mem := rfl
@[simp] theorem releasePoint_mem (s : State) (die : Nat) (waiting : List Nat) : (s.releasePoint die waiting).1.mem = s.mem := rfl

@[simp] theorem performed_mem (s : State) (tid id : Nat) : (s.performed tid id).mem = s.mem := by
  simp [State.performed]

@[simp] theorem toHost_mem (s : State) (port : Nat) (m : DevMsg) : (s.toHost port m).mem = s.mem := rfl

@[simp] theorem peerAnswer_mem (s : State) (r : Req) (ok : Bool) (data : List Byte) : (s.peerAnswer r ok data).mem = s.mem := by
  simp [State.peerAnswer]

@[simp] theorem reply_mem (s : State) (r : Req) (m : Msg) (ok : Bool) (data : List Byte) : (s.reply r m ok data).mem = s.mem := by
  simp [State.reply]

@[simp] theorem on_s (x : Ctx) (s : State) : (x.on s).s = s := rfl

@[simp] theorem orderPoint_mem (x : Ctx) (t : Thread) (f : Fields) : (x.orderPoint t f).1.mem = x.s.mem := by
  unfold Ctx.orderPoint; split <;> simp

@[simp] theorem holdMsg_mem (s : State) (keeper : Nat) (m : Msg) : (s.holdMsg keeper m).mem = s.mem := rfl

@[simp] theorem clearPass_mem (s : State) (colour : Nat) (wid : Word) (ks : List Nat) :
    (s.clearPass colour wid ks).mem = s.mem := rfl

theorem storeStrike_mem {s u : State} {t : Thread} {addrs : List Nat} (h : s.storeStrike t addrs = .inl u) : u.mem = s.mem := by
  simp only [State.storeStrike] at h; repeat' split at h
  all_goals (cases h <;> simp)

/-- A store that is not stopped by a watchpoint leaves what its effect leaves. -/
theorem storing_mem {x : Ctx} {addrs : List Nat} {k : Ctx → State} (hk : ∀ y : Ctx, y.s.mem = x.s.mem → (k y).mem = x.s.mem) :
    (x.storing addrs k).mem = x.s.mem := by
  unfold Ctx.storing; split
  · exact hk _ (storeStrike_mem ‹_›)
  · simp

theorem placesIn_wait {x : Ctx} {k : Accepts} {u : Use} {as : List Word} {t : State} (h : x.placesIn k u as = .wait t) :
    t.mem = x.s.mem := by
  induction as with
  | nil => cases h
  | cons a rest ih =>
    simp only [Ctx.placesIn] at h
    repeat' split at h
    all_goals cases h
    · exact ih ‹_›
    · exact place_wait ‹_›

end Sys2Proof.Machine
end

section
/-! PROOFS. Memory stays canonical (R19). Accesses leave memory as it is at their issue, and so do reads, replies and acknowledgements. -/
namespace Sys2Proof.Machine
open Sys2Proof

/-- An access that fails a check or waits leaves memory as it is, and one that proceeds leaves what its effect leaves. -/
theorem access_mem {x : Ctx} {k : Accepts} {u : Use} {a : Word} {aligned : Bool} {bits addrs : List Word} {go : List Place → State}
    (hgo : ∀ ps, (go ps).mem = x.s.mem) : (x.access k u a aligned bits addrs go).mem = x.s.mem := by
  unfold Ctx.access; split
  · simp
  · dsimp only
    generalize (if bits.isEmpty then 0 else regionDetail k _) = d
    split
    · simp
    · split
      · simp
      · split
        · exact hgo _
        · simpa using placesIn_wait ‹_›
        · simp

@[simp] theorem sendReads_mem (x : Ctx) (acq : Bool) (s : State) (c : Core) (t : Thread) (rs : List ReadReq) :
    (x.sendReads acq s c t rs).1.mem = s.mem := by
  induction rs generalizing s c t with
  | nil => rfl
  | cons r rest ih => simp only [Ctx.sendReads]; rw [ih]; simp

@[simp] theorem sendWrite_mem (x : Ctx) (clock : List Nat) (n : Nat) (s : State) (c : Core) (t : Thread) (va : Word)
    (bytes : List (Nat × Byte)) : (x.sendWrite clock n s c t va bytes).1.mem = s.mem := rfl

@[simp] theorem askSlots_mem (s : State) (pa : Nat) : (s.askSlots pa).mem = s.mem := rfl

theorem needSlots_mem {x : Ctx} {pas : List Nat} {go : State} (hgo : go.mem = x.s.mem) : (x.needSlots pas go).mem = x.s.mem := by
  unfold Ctx.needSlots; split
  · exact hgo
  · simp

theorem lacksSlots_mem {pa : Nat} {s t : State} (h : s.lacksSlots pa = some t) : t.mem = s.mem := by
  unfold State.lacksSlots at h; split at h <;> cases h
  simp

theorem execLd_mem {gd : Guard} {f : Fields} {s t : State} (h : execLd gd f s = .next t) : t.mem = s.mem := by
  refine turn_mem h fun x hx => hx ▸ access_mem fun ps => ?_
  split <;> simp

theorem execSt_mem {gd : Guard} {f : Fields} {s t : State} (h : execSt gd f s = .next t) : t.mem = s.mem :=
  turn_mem h fun x hx => hx ▸ access_mem fun ps => needSlots_mem <| storing_mem fun y hy => by simp [hy]

theorem execVld_mem {gd : Guard} {f : Fields} {s t : State} (h : execVld gd f s = .next t) : t.mem = s.mem := by
  refine turn_mem h fun x hx => hx ▸ access_mem fun ps => ?_
  split <;> simp

@[simp] theorem sendSectors_mem (x : Ctx) (clock : List Nat) (s : State) (c : Core) (t : Thread)
    (ws : List (Word × List (Nat × Byte))) : (x.sendSectors clock s c t ws).1.mem = s.mem := by
  induction ws generalizing s c t with
  | nil => rfl
  | cons w rest ih => simp only [Ctx.sendSectors]; rw [ih]; simp

theorem execVst_mem {gd : Guard} {f : Fields} {s t : State} (h : execVst gd f s = .next t) : t.mem = s.mem := by
  refine turn_mem h fun x hx => hx ▸ ?_
  split
  · simp
  · exact access_mem fun ps => needSlots_mem <| storing_mem fun y hy => by simp [hy]

theorem planarAccess_mem {x : Ctx} {u : Use} {a stride : Word} {n : Nat} {go : List Word → List Place → State}
    (hgo : ∀ as ps, (go as ps).mem = x.s.mem) : (x.planarAccess u a stride n go).mem = x.s.mem := by
  refine access_mem fun ps => ?_
  split
  · simp
  · exact hgo _ _

theorem execVldp_mem {gd : Guard} {f : Fields} {s t : State} (h : execVldp gd f s = .next t) : t.mem = s.mem := by
  refine turn_mem h fun x hx => hx ▸ planarAccess_mem fun as ps => ?_
  split <;> simp

theorem execVstp_mem {gd : Guard} {f : Fields} {s t : State} (h : execVstp gd f s = .next t) : t.mem = s.mem := by
  refine turn_mem h fun x hx => hx ▸ ?_
  split
  · simp
  · exact planarAccess_mem fun as ps => storing_mem fun y hy => by simp [hy]

theorem spadAccess_mem {x : Ctx} {a : Word} {align : Nat} {os : List Nat} {go : Ctx → (Nat → Nat) → State}
    (hgo : ∀ (y : Ctx) pos, y.s.mem = x.s.mem → (go y pos).mem = x.s.mem) : (x.spadAccess a align os go).mem = x.s.mem := by
  simp only [Ctx.spadAccess]; split
  · simp
  · refine access_mem fun ps => ?_
    repeat' split
    · simp
    · simp
    · exact hgo _ _ (foldl_mem _ (fun s o => by simp) _ _)

theorem execLds_mem {gd : Guard} {f : Fields} {s t : State} (h : execLds gd f s = .next t) : t.mem = s.mem := by
  refine turn_mem h fun x hx => hx ▸ ?_
  dsimp only; split
  · exact spadAccess_mem fun y pos hy => by simp [hy]
  · exact spadAccess_mem fun y pos hy => by simp [hy]
  · simp

theorem execSts_mem {gd : Guard} {f : Fields} {s t : State} (h : execSts gd f s = .next t) : t.mem = s.mem := by
  refine turn_mem h fun x hx => hx ▸ ?_
  dsimp only; split
  all_goals exact spadAccess_mem fun y pos hy => hy ▸ storing_mem fun z hz => by simp [hz]

theorem execFence_mem {gd : Guard} {f : Fields} {s t : State} (h : execFence gd f s = .next t) : t.mem = s.mem :=
  turn_mem h fun x hx => by simp [hx]

theorem probeOf_wait {x : Ctx} {a : Word} {t : State} (h : probeOf x a = .wait t) : t.mem = x.s.mem := by
  -- Named, so that no proof step evaluates where the window's byte is.
  obtain ⟨place, hplace⟩ : ∃ place, x.s.localPlace x.g x.t.colour x.t.key = place := ⟨_, rfl⟩
  unfold probeOf at h
  simp only [hplace] at h
  repeat' split at h
  all_goals cases h
  · rfl
  · exact coreTranslate_wait ‹_›

theorem execTprb_mem {gd : Guard} {f : Fields} {s t : State} (h : execTprb gd f s = .next t) : t.mem = s.mem := by
  refine turn_mem h fun x hx => hx ▸ ?_
  dsimp only; split
  · simp
  · simpa using probeOf_wait ‹_›
  · simp
  · simp

theorem planarTurn_mem {pdec : Bool} {gd : Guard} {f : Fields} {s t : State} (h : planarTurn pdec gd f s = .next t) :
    t.mem = s.mem := by
  refine turn_mem h fun x hx => hx ▸ ?_
  split
  · simp
  · exact planarAccess_mem fun as ps => by simp

theorem kvTurn_mem {fork : Bool} {gd : Guard} {f : Fields} {s t : State} (h : kvTurn fork gd f s = .next t) : t.mem = s.mem :=
  turn_mem h fun x hx => by simp [hx]

theorem execTableWalkComplete_mem {g colour vpage : Nat} {s t : State} (h : execTableWalkComplete g colour vpage s = .next t) :
    t.mem = s.mem := by
  simp only [execTableWalkComplete] at h; repeat' split at h
  all_goals (cases h <;> simp)

@[simp] theorem failAccess_mem (s : State) (r : Req) (reg : Option Reg) (rep : Report) (die : Nat) :
    (s.failAccess r reg rep die).mem = s.mem := by
  simp [State.failAccess]

@[simp] theorem peerAccess_mem (s : State) (src pa colour : Nat) : (s.peerAccess src pa colour).mem = s.mem := by
  unfold State.peerAccess; split <;> simp

@[simp] theorem touch_mem (s : State) (pa : Nat) : (s.touch pa).mem = s.mem := by
  simp [State.touch]

theorem execReadPerform_mem {k : Nat} {s t : State} (h : execReadPerform k s = .next t) : t.mem = s.mem := by
  simp only [execReadPerform] at h; replace h := orNot_next h; repeat' split at h
  all_goals (cases h <;> simp)

@[simp] theorem writeDone_mem (s : State) (r : Req) : (s.writeDone r).mem = s.mem := by
  simp [State.writeDone]

@[simp] theorem hearReq_mem (s : State) (pa : Nat) (r : Req) : (s.hearReq pa r).mem = s.mem := by
  simp [State.hearReq]

theorem execFrontierUpdate_mem {die : Nat} {s t : State} (h : execFrontierUpdate die s = .next t) : t.mem = s.mem := by
  simp only [execFrontierUpdate] at h; split at h <;> cases h
  exact foldl_mem _ (fun s d => by simp) _ _

@[simp] theorem hearAt_mem (s : State) (tid : Nat) (clock : List Nat) : (s.hearAt tid clock).mem = s.mem := by
  unfold State.hearAt; split <;> simp

theorem answered_mem {k tid : Nat} {clock : List Nat} {own : Label} {f : Thread → Thread} {s t : State}
    (h : s.answered k tid clock own f = some t) : t.mem = s.mem := by
  unfold State.answered at h; repeat' split at h
  all_goals (cases h <;> simp)

theorem execLoadReply_mem {k : Nat} {s t : State} (h : execLoadReply k s = .next t) : t.mem = s.mem := by
  unfold execLoadReply at h; replace h := orNot_next h; split at h
  · exact answered_mem h
  · cases h

@[simp] theorem homeStrike_mem (s : State) (r : Req) (eng : Word) (die : Nat) (w : Option (Nat × Word)) :
    (s.homeStrike r eng die w).mem = s.mem := by
  unfold State.homeStrike; split <;> simp

@[simp] theorem kvDone_mem (s : State) (r : Req) : (s.kvDone r).mem = s.mem := by
  simp [State.kvDone]

theorem execClusterBlockExpand_mem {clu colour blk : Nat} {s t : State} (h : execClusterBlockExpand clu colour blk s = .next t) :
    t.mem = s.mem := by
  simp only [execClusterBlockExpand] at h; repeat' split at h
  all_goals (cases h <;> simp)

end Sys2Proof.Machine
end

section
/-! PROOFS. Memory stays canonical (R19). Messages and atomics leave memory as it is up to the point where they are performed. -/
namespace Sys2Proof.Machine
open Sys2Proof

@[simp] theorem post_mem (s : State) (src : Nat) (team : Option TeamKey) (core : Nat) (e : InboxEntry) :
    (s.post src team core e).mem = s.mem := rfl

theorem execInboxMessageArrival_mem {k : Nat} {s t : State} (h : execInboxMessageArrival k s = .next t) : t.mem = s.mem := by
  simp only [execInboxMessageArrival] at h; replace h := orNot_next h; repeat' split at h
  all_goals (cases h <;> simp)

@[simp] theorem inbxPoint_mem (x : Ctx) : x.inbxPoint.1.mem = x.s.mem := by
  unfold Ctx.inbxPoint; split <;> simp

theorem execInbx_mem {gd : Guard} {f : Fields} {s t : State} (h : execInbx gd f s = .next t) : t.mem = s.mem := by
  refine turn_mem h fun x hx => ?_
  dsimp only; repeat' split
  all_goals simp [hx]

@[simp] theorem teamAtomic_mem (x : Ctx) (op : AtomOp) (ret : Bool) (f : Fields) (c : Core) (t : Thread) (a : Word)
    (off : Nat) (v k : Word) : (x.teamAtomic op ret f c t a off v k).mem = x.s.mem := by
  simp only [Ctx.teamAtomic]; split
  · simp
  · split
    · exact storing_mem fun y hy => by simp [hy]
    · simp

theorem atomTurn_mem {op : AtomOp} {ret : Bool} {gd : Guard} {f : Fields} {s t : State} (h : atomTurn op ret gd f s = .next t) :
    t.mem = s.mem := by
  refine turn_mem h fun x hx => hx ▸ ?_
  dsimp only; split
  · simp
  · split
    · exact spadAccess_mem fun y pos hy => by simp [hy]
    · exact access_mem fun ps => needSlots_mem (by simp)

@[simp] theorem owe_mem (s : State) (cell : Nat) (rs : List Req) : (s.owe cell rs).mem = s.mem := rfl

@[simp] theorem answer_mem (s : State) (a : Atomic) (old : Word) : (s.answer a old).mem = s.mem := by
  simp only [State.answer]; repeat' split
  all_goals simp [foldl_mem]

@[simp] theorem atomReports_mem (s : State) (a : Atomic) (die : Nat) (ev : Option (Req × Nat)) (wrote : Bool) :
    (s.atomReports a die ev wrote).mem = s.mem := by
  unfold State.atomReports; split <;> simp

theorem execAmoReply_mem {k : Nat} {s t : State} (h : execAmoReply k s = .next t) : t.mem = s.mem := by
  unfold execAmoReply at h; replace h := orNot_next h; split at h
  · exact answered_mem h
  · cases h

theorem execRedAck_mem {k : Nat} {s t : State} (h : execRedAck k s = .next t) : t.mem = s.mem := by
  unfold execRedAck at h; replace h := orNot_next h; split at h
  · exact answered_mem h
  · cases h

@[simp] theorem passOn_mem (s : State) (a : Atomic) : (s.passOn a).mem = s.mem := rfl

theorem execGatewayMerge_mem {k die : Nat} {s t : State} (h : execGatewayMerge k die s = .next t) : t.mem = s.mem := by
  simp only [execGatewayMerge] at h; replace h := orNot_next h; repeat' split at h
  all_goals (cases h <;> simp)

theorem execMergeHoldExpiry_mem {die i : Nat} {s t : State} (h : execMergeHoldExpiry die i s = .next t) : t.mem = s.mem := by
  unfold execMergeHoldExpiry at h; replace h := orNot_next h; repeat' split at h
  all_goals (cases h <;> simp)

end Sys2Proof.Machine
end

section
/-! PROOFS. Memory stays canonical (R19). Copies, streams and barriers leave memory as it is but where a sector lands. -/
namespace Sys2Proof.Machine
open Sys2Proof

@[simp] theorem barUpdate_mem (s : State) (c : Copy) (unit : Word) (key : TeamKey) (f : Nat → Nat) :
    (s.barUpdate c unit key f).mem = s.mem := by
  unfold State.barUpdate; split <;> simp

theorem stalled_mem {e : Stop} {s t : State} (h : s.stalled e = some t) : t.mem = s.mem := by
  unfold State.stalled at h; split at h
  · exact lacksSlots_mem h
  · cases h

theorem wayTo_mem {g : Nat} {u : Use} {a : Word} {p q : Place} {s t : State} (h : s.wayTo g u a p = .ok (t, q)) : t = s := by
  unfold State.wayTo at h; split at h <;> cases h
  rfl

@[simp] theorem placeFix_mem (s : State) (p : Place) (n : Nat) : (s.placeFix p n).mem = s.mem := by
  unfold State.placeFix; split <;> simp

@[simp] theorem countUnit_mem (s : State) (g : Nat) (key : TeamKey) (p : Place) : (s.countUnit g key p).mem = s.mem := by
  unfold State.countUnit; repeat' split
  all_goals simp

@[simp] theorem postCopy_mem (s : State) (g : Nat) (c : Copy) (status : Nat) (w1 : Word) :
    (s.postCopy g c status w1).mem = s.mem := rfl

@[simp] theorem putCopy_mem (s : State) (g : Nat) (loc : CopyLoc) (c : Copy) : (s.putCopy g loc c).mem = s.mem := by
  unfold State.putCopy; split <;> simp

@[simp] theorem removeCopy_mem (s : State) (loc : CopyLoc) (c : Copy) : (s.removeCopy loc c).mem = s.mem := by
  unfold State.removeCopy; split <;> simp

@[simp] theorem barGiveUp_mem (s : State) (loc : CopyLoc) (c : Copy) : (s.barGiveUp loc c).mem = s.mem := by
  simp [State.barGiveUp, foldl_mem]

@[simp] theorem endCopy_mem (s : State) (g : Nat) (loc : CopyLoc) (c : Copy) : (s.endCopy g loc c).mem = s.mem := by
  simp [State.endCopy]

@[simp] theorem releaseStream_mem (s : State) (g tid : Nat) (i : Fin 4) : (s.releaseStream g tid i).mem = s.mem := by
  simp only [State.releaseStream]; repeat' split
  all_goals simp

@[simp] theorem bindStream_mem (s : State) (g slot : Nat) (i : Fin 4) (b : Option Stream) :
    (s.bindStream g slot i b).mem = s.mem := by
  unfold State.bindStream; split <;> simp

@[simp] theorem dealBars_mem (s : State) (g : Nat) (c : Copy) : (s.dealBars g c).mem = s.mem := by
  simp [State.dealBars, foldl_mem]

@[simp] theorem emptyCopy_mem (s : State) (g : Nat) (c : Copy) : (s.emptyCopy g c).mem = s.mem := by
  unfold State.emptyCopy; repeat' split
  all_goals simp

theorem copyTurn_mem {stream : Option (Fin 4)} {gd : Guard} {f : Fields} {s t : State} (h : copyTurn stream gd f s = .next t) :
    t.mem = s.mem := by
  refine turn_mem h fun x hx => ?_
  dsimp only; repeat' split
  all_goals simp [hx]

theorem execSbind_mem {gd : Guard} {f : Fields} {s t : State} (h : execSbind gd f s = .next t) : t.mem = s.mem := by
  unfold execSbind at h; split at h <;> exact copyTurn_mem h

theorem barAccess_mem {x : Ctx} {a : Word} {go : Ctx → Nat → State}
    (hgo : ∀ (y : Ctx) off, y.s.mem = x.s.mem → (go y off).mem = x.s.mem) : (x.barAccess a go).mem = x.s.mem := by
  unfold Ctx.barAccess; dsimp only
  rw [mem_ite, spadAccess_mem fun y pos hy => hgo y (pos 0) hy]
  simp

theorem execBinit_mem {gd : Guard} {f : Fields} {s t : State} (h : execBinit gd f s = .next t) : t.mem = s.mem :=
  turn_mem h fun x hx => hx ▸ barAccess_mem fun y off hy => by simp [hy]

theorem execBarv_mem {gd : Guard} {f : Fields} {s t : State} (h : execBarv gd f s = .next t) : t.mem = s.mem :=
  turn_mem h fun x hx => hx ▸ barAccess_mem fun y off hy => by simp [hy]

theorem execBwait_mem {gd : Guard} {f : Fields} {s t : State} (h : execBwait gd f s = .next t) : t.mem = s.mem :=
  turn_mem h fun x hx => hx ▸ barAccess_mem fun y off hy => by simp [hy]

theorem execXreq_mem {gd : Guard} {f : Fields} {s t : State} (h : execXreq gd f s = .next t) : t.mem = s.mem := by
  refine turn_mem h fun x hx => ?_
  dsimp only; repeat' split
  all_goals simp [hx]

@[simp] theorem answerP_mem (s : State) (tid : Nat) (p : Fin 8) (b : Bool) : (s.answerP tid p b).mem = s.mem := by
  unfold State.answerP; repeat' split
  all_goals simp

theorem execXreqAnswer_mem {k : Nat} {s t : State} (h : execXreqAnswer k s = .next t) : t.mem = s.mem := by
  simp only [execXreqAnswer] at h; replace h := orNot_next h; repeat' split at h
  all_goals (cases h <;> simp)

theorem execCopyStart_mem {g : Nat} {s t : State} (h : execCopyStart g s = .next t) : t.mem = s.mem := by
  simp only [execCopyStart] at h; replace h := orNot_next h; repeat' split at h
  all_goals (cases h <;> simp)

@[simp] theorem unitStrike_mem (s : State) (g bslot tid colour : Nat) (wid : Word) (r : Report) :
    (s.unitStrike g bslot tid colour wid r).mem = s.mem := by
  simp [State.unitStrike]

theorem execCopyPark_mem {g id sec : Nat} {s t : State} (h : execCopyPark g id sec s = .next t) : t.mem = s.mem := by
  simp only [execCopyPark] at h; replace h := orNot_next h; repeat' split at h
  case h_2.isFalse.isFalse.isFalse =>
    obtain ⟨e, -, rfl⟩ := Option.map_eq_some_iff.1 h
    simp
  all_goals (cases h <;> simp)

theorem execCopyComplete_mem {g id : Nat} {s t : State} (h : execCopyComplete g id s = .next t) : t.mem = s.mem := by
  unfold execCopyComplete at h; replace h := orNot_next h; repeat' split at h
  all_goals (cases h <;> simp)

theorem execTransformComplete_mem {clu cop : Nat} {s t : State} (h : execTransformComplete clu cop s = .next t) :
    t.mem = s.mem := by
  unfold execTransformComplete at h; replace h := orNot_next h; repeat' split at h
  all_goals (cases h <;> simp)

@[simp] theorem cpRes_mem (s : State) (tid id : Nat) (disc : Bool) : (s.cpRes tid id disc).mem = s.mem := by
  unfold State.cpRes; split <;> simp

theorem execCpResResume_mem {tid id : Nat} {s t : State} (h : execCpResResume tid id s = .next t) : t.mem = s.mem := by
  unfold execCpResResume at h; repeat' split at h
  all_goals (cases h <;> simp)

theorem execCpResDiscard_mem {tid id : Nat} {s t : State} (h : execCpResDiscard tid id s = .next t) : t.mem = s.mem := by
  unfold execCpResDiscard at h; repeat' split at h
  all_goals (cases h <;> simp)

end Sys2Proof.Machine
end

section
/-! PROOFS. Memory stays canonical (R19). Engine commands leave memory as it is but where a row is written. -/
namespace Sys2Proof.Machine
open Sys2Proof

@[simp] theorem rangeFix_mem (s : State) (g : Nat) (tm : Team) (rs : List (Nat × Nat)) : (s.rangeFix g tm rs).mem = s.mem := by
  simp [State.rangeFix, foldl_mem]

@[simp] theorem leaveCmd_mem (s : State) (g : Nat) (c : Cmd) (status : Option Nat) (keep : Bool) :
    (s.leaveCmd g c status keep).mem = s.mem := by
  simp only [State.leaveCmd]; split <;> simp

@[simp] theorem endCmd_mem (s : State) (g : Nat) (c : Cmd) (kind : BitVec 8) (detail : Nat) (addr : Word) :
    (s.endCmd g c kind detail addr).mem = s.mem := by
  simp [State.endCmd]

@[simp] theorem endShape_mem (s : State) (g : Nat) (c : Cmd) (k : BitVec 8 × Nat × Option Word) :
    (s.endShape g c k).mem = s.mem := by
  unfold State.endShape; split <;> simp

/-- A command whose checks fail ends, and one that passes them leaves what its effect leaves. -/
theorem checkedCmd_mem {s : State} {g : Nat} {tm : Team} {e : Cmd} {go : State → State} (hgo : ∀ u : State, (go u).mem = u.mem) :
    (s.checkedCmd g tm e go).mem = s.mem := by
  unfold State.checkedCmd; repeat' split
  all_goals simp [hgo]

@[simp] theorem beginCmd_mem (s : State) (g : Nat) (e : Cmd) : (s.beginCmd g e).mem = s.mem := by
  unfold State.beginCmd; split
  · rfl
  · refine checkedCmd_mem fun u => ?_
    dsimp only; split
    · repeat' split
      all_goals simp
    · split <;> simp

@[simp] theorem discardCmd_mem (s : State) (g : Nat) (e : Cmd) : (s.discardCmd g e).mem = s.mem := by
  simp [State.discardCmd]

@[simp] theorem takePartial_mem (s : State) (g : Nat) (e : Cmd) (part : List (Nat × XLane)) :
    (s.takePartial g e part).mem = s.mem := by
  simp [State.takePartial]

@[simp] theorem parkCmd_mem (s : State) (g : Nat) (e : Cmd) (stop : Stop) : (s.parkCmd g e stop).mem = s.mem := by
  simp [State.parkCmd]

theorem engTurn_mem {k : EngForm} {gd : Guard} {f : Fields} {s t : State} (h : engTurn k gd f s = .next t) : t.mem = s.mem := by
  unfold engTurn at h; split at h
  · cases h
  · next x hx =>
    rw [← (ctxOf_state hx).1]
    dsimp only at h; repeat' split at h
    all_goals (cases h; simp)

@[simp] theorem resumeCmd_mem (s : State) (g uid : Nat) (disc : Bool) : (s.resumeCmd g uid disc).mem = s.mem := by
  simp only [State.resumeCmd]; split <;> simp

@[simp] theorem returnGuest_mem (s : State) (host : Nat) : (s.returnGuest host).mem = s.mem := by
  unfold State.returnGuest; split <;> simp

@[simp] theorem fetchParked_mem (s : State) (g tid : Nat) (k : BitVec 3) : (s.fetchParked g tid k).mem = s.mem := by
  simp [State.fetchParked, foldl_mem]

theorem cresTurn_mem {disc : Bool} {gd : Guard} {f : Fields} {s t : State} (h : cresTurn disc gd f s = .next t) :
    t.mem = s.mem := by
  refine turn_mem h fun x hx => hx ▸ ?_
  split
  · simp
  · dsimp only; split
    · rw [foldl_mem _ fun s u => by simp]; simp
    · simp

theorem execWlt_mem {gd : Guard} {f : Fields} {s t : State} (h : execWlt gd f s = .next t) : t.mem = s.mem := by
  refine turn_mem h fun x hx => hx ▸ ?_
  repeat' split
  all_goals simp

theorem execCommandActivate_mem {g : Nat} {s t : State} (h : execCommandActivate g s = .next t) : t.mem = s.mem := by
  simp only [execCommandActivate] at h; replace h := orNot_next h; repeat' split at h
  all_goals (cases h <;> simp)

@[simp] theorem unitSent_mem (s : State) (g : Nat) (e : Cmd) (ps : List Place) : (s.unitSent g e ps).mem = s.mem := by
  simp [State.unitSent, foldl_mem]

@[simp] theorem accumulate_mem (s : State) (g : Nat) (e : Cmd) (u : Nat) (data : List (List Byte)) :
    (s.accumulate g e u data).mem = s.mem := rfl

@[simp] theorem loadRow_mem (s : State) (g : Nat) (e : Cmd) (u : Nat) (data : List (List Byte)) :
    (s.loadRow g e u data).mem = s.mem := by
  simp [State.loadRow]

theorem takeScale_mem {g : Nat} {e : Cmd} {u : Nat} {s t : State} (h : s.takeScale g e u = some t) : t.mem = s.mem := by
  simp only [State.takeScale] at h; repeat' split at h
  all_goals (cases h <;> simp)

theorem execEngineFaultPark_mem {g c u : Nat} {s t : State} (h : execEngineFaultPark g c u s = .next t) : t.mem = s.mem := by
  simp only [execEngineFaultPark] at h; replace h := orNot_next h; split at h
  · cases h
  · split at h
    · repeat' split at h
      · cases h
      · cases h; simp
      · obtain ⟨st, -, rfl⟩ := Option.map_eq_some_iff.1 h
        simp
    · split at h
      · split at h
        · cases h
        · obtain ⟨st, -, rfl⟩ := Option.map_eq_some_iff.1 h
          simp
      · cases h

@[simp] theorem completeCmd_mem (s : State) (g : Nat) (e : Cmd) : (s.completeCmd g e).mem = s.mem := by
  unfold State.completeCmd; split <;> simp

@[simp] theorem acpWrite_mem (s : State) (g : Nat) (e : Cmd) (i : Fin 8) : (s.acpWrite g e i).mem = s.mem := by
  simp [State.acpWrite]

theorem execCommandComplete_mem {g c : Nat} {s t : State} (h : execCommandComplete g c s = .next t) : t.mem = s.mem := by
  simp only [execCommandComplete] at h; replace h := orNot_next h; split at h
  · cases h
  · split at h
    · cases h
    · split at h
      · repeat' split at h
        all_goals (cases h <;> simp)
      · split at h
        · simp only [Option.ite_none_left_eq_some, Option.some.injEq] at h
          obtain ⟨-, rfl⟩ := h
          simp
        all_goals repeat' split at h
        all_goals (cases h <;> simp)

theorem execEngineMigration_mem {g i host : Nat} {s t : State} (h : execEngineMigration g i host s = .next t) : t.mem = s.mem := by
  simp only [execEngineMigration] at h; replace h := orNot_next h; repeat' split at h
  all_goals (cases h <;> simp)

theorem execPartialReturn_mem {host : Nat} {s t : State} (h : execPartialReturn host s = .next t) : t.mem = s.mem := by
  unfold execPartialReturn at h; replace h := orNot_next h; repeat' split at h
  all_goals (cases h <;> simp)

@[simp] theorem formCast_mem (s : State) (clu i h : Nat) (b : Broadcast) (n : Nat) : (s.formCast clu i h b n).1.mem = s.mem := by
  unfold State.formCast; dsimp only; repeat' split
  all_goals simp only [State.setCluster_mem, endCmd_mem, State.setCore_mem, rangeFix_mem]
  all_goals rw [checkedCmd_mem fun u => by simp]

/-- A broadcast formed leaves memory as it is, whether it goes on or not. -/
theorem formCast_eq_mem {clu i hc n : Nat} {b : Broadcast} {o : Option Broadcast} {s t : State} (h : s.formCast clu i hc b n = (t, o)) :
    t.mem = s.mem := by
  rw [← formCast_mem s clu i hc b n, h]

theorem execSkeepBroadcast_mem {clu g : Nat} {s t : State} (h : execSkeepBroadcast clu g s = .next t) : t.mem = s.mem := by
  simp only [execSkeepBroadcast] at h; replace h := orNot_next h; split at h
  · cases h
  · repeat' split at h
    all_goals cases h
    all_goals
      rename_i hq
      simpa using formCast_eq_mem hq

end Sys2Proof.Machine
end

section
/-! PROOFS. Memory stays canonical (R19). Tickets leave memory as it is. -/
namespace Sys2Proof.Machine
open Sys2Proof

@[simp] theorem setTk_mem (s : State) (g e : Nat) (k : TkEntry) : (s.setTk g e k).mem = s.mem := rfl
@[simp] theorem freeTk_mem (s : State) (g e : Nat) : (s.freeTk g e).mem = s.mem := rfl

theorem execTld_mem {gd : Guard} {f : Fields} {s t : State} (h : execTld gd f s = .next t) : t.mem = s.mem := by
  refine turn_mem h fun x hx => hx ▸ access_mem fun ps => ?_
  dsimp only; split
  · simp
  · split <;> simp

@[simp] theorem tldDone_mem (s : State) (rd : Option (Nat × Nat)) : (s.tldDone rd).mem = s.mem := by
  unfold State.tldDone; split <;> simp

@[simp] theorem ticketReply_mem (s : State) (home : Nat) (r : Req) (dst : Fin 16) (t : Word) (clock : List Nat) :
    (s.ticketReply home r dst t clock).mem = s.mem := rfl

theorem execTldRequest_mem {k : Nat} {s t : State} (h : execTldRequest k s = .next t) : t.mem = s.mem := by
  simp only [execTldRequest] at h; replace h := orNot_next h; repeat' split at h
  all_goals (cases h <;> simp)

theorem execTicketGroupLanded_mem {g e i : Nat} {s t : State} (h : execTicketGroupLanded g e i s = .next t) : t.mem = s.mem := by
  simp only [execTicketGroupLanded] at h; replace h := orNot_next h; repeat' split at h
  all_goals (cases h <;> simp)

@[simp] theorem redeem_mem (x : Ctx) (os : List Opnd) (t : Word) (form : ClaimForm) : (x.redeem os t form).mem = x.s.mem := by
  simp [Ctx.redeem]

theorem execRdmSp_mem {gd : Guard} {f : Fields} {s t : State} (h : execRdmSp gd f s = .next t) : t.mem = s.mem :=
  turn_mem h fun x hx => by simp [hx]

theorem execRdmV_mem {gd : Guard} {f : Fields} {s t : State} (h : execRdmV gd f s = .next t) : t.mem = s.mem :=
  turn_mem h fun x hx => by dsimp only; split <;> simp [hx]

theorem execRdmS_mem {gd : Guard} {f : Fields} {s t : State} (h : execRdmS gd f s = .next t) : t.mem = s.mem :=
  turn_mem h fun x hx => by simp [hx]

@[simp] theorem rdmGranted_mem (s : State) (c : Claim) (bytes : Nat) : (s.rdmGranted c bytes).mem = s.mem := by
  simp only [State.rdmGranted]; repeat' split
  all_goals simp

@[simp] theorem rdmDenied_mem (s : State) (tid : Nat) (d : Nat) (t : Word) : (s.rdmDenied tid d t).mem = s.mem := by
  simp [State.rdmDenied]

theorem execTicketClaim_mem {k : Nat} {s t : State} (h : execTicketClaim k s = .next t) : t.mem = s.mem := by
  simp only [execTicketClaim] at h; replace h := orNot_next h; repeat' split at h
  all_goals (cases h <;> simp)

@[simp] theorem markReport_mem (s : State) (g : Nat) (c : Claim) (k : TkEntry) (i : Nat) (clr : Option Reg) :
    (s.markReport g c k i clr).mem = s.mem := by
  simp [State.markReport]

@[simp] theorem ticketGroup_mem (s : State) (h : Nat) (a : Cmd) (i : Nat) (data : List (List Byte)) :
    (s.ticketGroup h a i data).mem = s.mem := by
  simp [State.ticketGroup]

theorem deliverEngine_mem {uid : Nat} {k : TkEntry} {i : Nat} {whole : Bool} {s t : State}
    (h : s.deliverEngine uid k i whole = some t) : t.mem = s.mem := by
  simp only [State.deliverEngine] at h; repeat' split at h
  all_goals (cases h <;> simp)

theorem execTicketDelivery_mem {g e i : Nat} {s t : State} (h : execTicketDelivery g e i s = .next t) : t.mem = s.mem := by
  simp only [execTicketDelivery] at h; replace h := orNot_next h; split at h
  · cases h
  · split at h
    · cases h
    · split at h
      · cases h; simp
      · split at h
        · cases h; simp
        · obtain ⟨u, hu, rfl⟩ := Option.map_eq_some_iff.1 h
          simp [deliverEngine_mem hu]
        · repeat' split at h
          all_goals (cases h; simp)
        · repeat' split at h
          all_goals (cases h <;> simp)
        · repeat' split at h
          all_goals (cases h; simp)

theorem execTqry_mem {gd : Guard} {f : Fields} {s t : State} (h : execTqry gd f s = .next t) : t.mem = s.mem :=
  turn_mem h fun x hx => by dsimp only; split <;> simp [hx]

theorem execTdrop_mem {gd : Guard} {f : Fields} {s t : State} (h : execTdrop gd f s = .next t) : t.mem = s.mem :=
  turn_mem h fun x hx => by simp [hx]

theorem execTqryAtSlice_mem {k : Nat} {s t : State} (h : execTqryAtSlice k s = .next t) : t.mem = s.mem := by
  simp only [execTqryAtSlice] at h; replace h := orNot_next h; repeat' split at h
  all_goals (cases h <;> simp)

theorem execTdropAtSlice_mem {k : Nat} {s t : State} (h : execTdropAtSlice k s = .next t) : t.mem = s.mem := by
  unfold execTdropAtSlice at h; replace h := orNot_next h; repeat' split at h
  all_goals (cases h <;> simp)

theorem execLeaseExpiry_mem {g e : Nat} {s t : State} (h : execLeaseExpiry g e s = .next t) : t.mem = s.mem := by
  unfold execLeaseExpiry at h; replace h := orNot_next h; repeat' split at h
  all_goals (cases h <;> simp)

end Sys2Proof.Machine
end

section
/-! PROOFS. Memory stays canonical (R19). Branches, gangs and moving threads leave memory as it is. -/
namespace Sys2Proof.Machine
open Sys2Proof

@[simp] theorem traced_mem (x : Ctx) (ty : Nat) (target : Word) : (x.traced ty target).s.mem = x.s.mem := trace_mem ..

theorem execBr_mem {gd : Guard} {f : Fields} {s t : State} (h : execBr gd f s = .next t) : t.mem = s.mem :=
  turn_mem h fun x hx => by simp [hx]

theorem execBrl_mem {gd : Guard} {f : Fields} {s t : State} (h : execBrl gd f s = .next t) : t.mem = s.mem :=
  turn_mem h fun x hx => by simp [hx]

theorem execJr_mem {gd : Guard} {f : Fields} {s t : State} (h : execJr gd f s = .next t) : t.mem = s.mem :=
  turn_mem h fun x hx => by simp [hx]

theorem execJrLink_mem {gd : Guard} {f : Fields} {s t : State} (h : execJrLink gd f s = .next t) : t.mem = s.mem :=
  turn_mem h fun x hx => by simp [hx]

theorem execRet_mem {gd : Guard} {f : Fields} {s t : State} (h : execRet gd f s = .next t) : t.mem = s.mem :=
  turn_mem h fun x hx => by simp [hx]

theorem execNop_mem {gd : Guard} {f : Fields} {s t : State} (h : execNop gd f s = .next t) : t.mem = s.mem :=
  turn_mem h fun x hx => by simp [hx]

theorem guardTurn_mem {gd : Guard} {f : Fields} {srcs : List Opnd} {op : List Val → Bool} {s t : State}
    (h : guardTurn gd f s srcs op = .next t) : t.mem = s.mem :=
  turn_mem h fun x hx => by dsimp only; split <;> simp [hx]

theorem execClrp_mem {gd : Guard} {f : Fields} {s t : State} (h : execClrp gd f s = .next t) : t.mem = s.mem :=
  turn_mem h fun x hx => by dsimp only; split <;> simp [hx]

@[simp] theorem markExit_mem (s : State) (tid : Nat) (e : Option Word) : (s.markExit tid e).mem = s.mem := by
  simp only [State.markExit]; split <;> simp

@[simp] theorem leaveLine_mem (s : State) (leader : Nat) (ms : List GangMember) (e : Option Word) :
    (s.leaveLine leader ms e).mem = s.mem := by
  simp [State.leaveLine, foldl_mem]

@[simp] theorem leaveGang_mem (s : State) (t : Thread) : (s.leaveGang t).mem = s.mem := by
  simp only [State.leaveGang]; repeat' split
  all_goals simp [foldl_mem]

@[simp] theorem gangWait_mem (x : Ctx) (s : State) (gang : Gang) : (x.gangWait s gang).mem = s.mem := by
  simp [Ctx.gangWait]

theorem execGang_mem {gd : Guard} {f : Fields} {s t : State} (h : execGang gd f s = .next t) : t.mem = s.mem :=
  turn_mem h fun x hx => by simp [hx]

theorem execUngang_mem {gd : Guard} {f : Fields} {s t : State} (h : execUngang gd f s = .next t) : t.mem = s.mem :=
  turn_mem h fun x hx => by simp [hx]

@[simp] theorem reattach_mem (s : State) (leader tid : Nat) (lab : Word) : (s.reattach leader tid lab).mem = s.mem := by
  simp [State.reattach]

@[simp] theorem leaderRejoin_mem (x : Ctx) (ms : List GangMember) (last next : Option Word) (lab : Word) :
    (x.leaderRejoin ms last next lab).mem = x.s.mem := by
  simp [Ctx.leaderRejoin, foldl_mem]

theorem execRejoin_mem {gd : Guard} {f : Fields} {s t : State} (h : execRejoin gd f s = .next t) : t.mem = s.mem :=
  turn_mem h fun x hx => by dsimp only; split <;> simp [hx]

theorem execRejoinArrival_mem {k : Nat} {s t : State} (h : execRejoinArrival k s = .next t) : t.mem = s.mem := by
  unfold execRejoinArrival at h; replace h := orNot_next h; repeat' split at h
  all_goals (cases h <;> simp)

theorem execGangForm_mem {g slot : Nat} {s t : State} (h : execGangForm g slot s = .next t) : t.mem = s.mem := by
  simp only [execGangForm] at h; replace h := orNot_next h; split at h
  · cases h
  · split at h
    · simp only [Option.ite_none_left_eq_some, Option.some.injEq] at h
      obtain ⟨-, rfl⟩ := h
      rw [onTid_mem, foldl_mem _ fun s a => by split <;> simp, foldl_mem _ fun s m => by simp]
    · cases h

theorem execForwardedLineArrival_mem {k : Nat} {s t : State} (h : execForwardedLineArrival k s = .next t) : t.mem = s.mem := by
  simp only [execForwardedLineArrival] at h; replace h := orNot_next h; repeat' split at h
  all_goals (cases h <;> simp)

theorem execNWordArrival_mem {k : Nat} {s t : State} (h : execNWordArrival k s = .next t) : t.mem = s.mem := by
  simp only [execNWordArrival] at h; replace h := orNot_next h; repeat' split at h
  all_goals (cases h <;> simp)

@[simp] theorem releaseStreams_mem (s : State) (g tid : Nat) : (s.releaseStreams g tid).mem = s.mem := by
  simp [State.releaseStreams, foldl_mem]

@[simp] theorem forgetV_mem (s : State) (tid : Nat) : (s.forgetV tid).mem = s.mem := rfl

@[simp] theorem countFor_mem (s : State) (key : TeamKey) (dest : Option Nat) : (s.countFor key dest).mem = s.mem := by
  unfold State.countFor; split <;> simp

@[simp] theorem settleAway_mem (s : State) (g : Nat) : (s.settleAway g).mem = s.mem := by
  simp [State.settleAway, foldl_mem]

@[simp] theorem countContext_mem (s : State) (t : Thread) (dest : Option Nat) : (s.countContext t dest).mem = s.mem := by
  simp [State.countContext]

@[simp] theorem depart_mem (x : Ctx) (c : Core) (t : Thread) (target : Nat) : (x.depart c t target).mem = x.s.mem := by
  simp [Ctx.depart]

@[simp] theorem moveTo_mem (x : Ctx) (c : Core) (t : Thread) (target : Nat) : (x.moveTo c t target).mem = x.s.mem := by
  simp [Ctx.moveTo]

theorem execMigr_mem {gd : Guard} {f : Fields} {s t : State} (h : execMigr gd f s = .next t) : t.mem = s.mem := by
  refine turn_mem h fun x hx => hx ▸ ?_
  split
  · simp
  · refine access_mem fun ps => ?_
    dsimp only; split <;> simp

theorem execHome_mem {gd : Guard} {f : Fields} {s t : State} (h : execHome gd f s = .next t) : t.mem = s.mem :=
  turn_mem h fun x hx => by simp [hx]

theorem execMigrArrival_mem {k : Nat} {s t : State} (h : execMigrArrival k s = .next t) : t.mem = s.mem := by
  simp only [execMigrArrival] at h; replace h := orNot_next h; repeat' split at h
  all_goals (cases h <;> simp)

end Sys2Proof.Machine
end

section
/-! PROOFS. Memory stays canonical (R19). Special registers, traps and tasks leave memory as it is. -/
namespace Sys2Proof.Machine
open Sys2Proof

@[simp] theorem discardJob_mem (s : State) (colour : Nat) : (s.discardJob colour).mem = s.mem := by
  unfold State.discardJob; dsimp only
  rw [foldl_mem _ fun s m => by simp, State.setColour_mem, portUsed_mem, foldl_mem _ fun s a => by simp]

theorem execJobDiscard_mem {colour : Nat} {s t : State} (h : execJobDiscard colour s = .next t) : t.mem = s.mem := by
  unfold execJobDiscard at h; replace h := orNot_next h; repeat' split at h
  all_goals (cases h <;> simp)

@[simp] theorem tdiLeave_mem (s : State) (colour : Nat) (to_ : TdiState) : (s.tdiLeave colour to_).mem = s.mem := by
  simp [State.tdiLeave]

@[simp] theorem tdiError_mem (s : State) (colour : Nat) : (s.tdiError colour).mem = s.mem := by
  unfold State.tdiError; split <;> simp

@[simp] theorem watchPut_mem (s : State) (colour : Nat) (wid : Word) (k : Nat) (f : Word × Word → Word × Word) :
    (s.watchPut colour wid k f).mem = s.mem := by
  unfold State.watchPut; split <;> simp

@[simp] theorem tbInval_mem (s : State) (colour : Nat) (va : Nat) : (s.tbInval colour va).mem = s.mem := rfl

@[simp] theorem sysPut_mem (s : State) (g slot colour n : Nat) (v : Word) : (s.sysPut g slot colour n v).mem = s.mem := by
  unfold State.sysPut; split <;> simp

@[simp] theorem sysPutThread_mem (s : State) (g slot : Nat) (t : Thread) (n : Nat) (v : Word) :
    (s.sysPutThread g slot t n v).mem = s.mem := by
  unfold State.sysPutThread; split <;> simp

@[simp] theorem sysWrite_mem (s : State) (g slot colour n : Nat) (v : Word) : (s.sysWrite g slot colour n v).mem = s.mem := by
  unfold State.sysWrite; repeat' split
  all_goals simp

@[simp] theorem trapNext_mem (x : Ctx) (kind : BitVec 8) (code : Nat) : (x.trapNext kind code).mem = x.s.mem := by
  simp [Ctx.trapNext]

theorem execTrap_mem {gd : Guard} {f : Fields} {s t : State} (h : execTrap gd f s = .next t) : t.mem = s.mem :=
  turn_mem h fun x hx => by simp [hx]

theorem execRti_mem {gd : Guard} {f : Fields} {s t : State} (h : execRti gd f s = .next t) : t.mem = s.mem :=
  turn_mem h fun x hx => by simp [hx]

theorem execGets_mem {gd : Guard} {f : Fields} {s t : State} (h : execGets gd f s = .next t) : t.mem = s.mem :=
  turn_mem h fun x hx => by simp [hx]

theorem execSets_mem {gd : Guard} {f : Fields} {s t : State} (h : execSets gd f s = .next t) : t.mem = s.mem :=
  turn_mem h fun x hx => by simp [hx]

@[simp] theorem mgmtWrite_mem (s : State) (p : Option Nat) (v : Word) : (s.mgmtWrite p v).mem = s.mem := by
  unfold State.mgmtWrite; split <;> simp

theorem execServiceRegisterWrite_mem {g slot colour num : Nat} {v : Word} {s t : State}
    (h : execServiceRegisterWrite g slot colour num v s = .next t) : t.mem = s.mem := by
  unfold execServiceRegisterWrite at h; replace h := orNot_next h; repeat' split at h
  · obtain ⟨p, -, rfl⟩ := Option.map_eq_some_iff.1 h
    simp
  all_goals (cases h <;> simp)

theorem execPeCtlWrite_mem {g : Nat} {v : Word} {s t : State} (h : execPeCtlWrite g v s = .next t) : t.mem = s.mem := by
  unfold execPeCtlWrite at h; replace h := orNot_next h; repeat' split at h
  all_goals (cases h <;> simp)

theorem execTbInval_mem {colour : Nat} {va : Word} {s t : State} (h : execTbInval colour va s = .next t) : t.mem = s.mem := by
  unfold execTbInval at h; replace h := orNot_next h; repeat' split at h
  all_goals (cases h <;> simp)

@[simp] theorem settlePhase_mem (s : State) (lk : Nat) : (s.settlePhase lk).mem = s.mem := by
  unfold State.settlePhase; split <;> simp

theorem execLaunch_mem {gd : Guard} {f : Fields} {s t : State} (h : execLaunch gd f s = .next t) : t.mem = s.mem :=
  turn_mem h fun x hx => by dsimp only; split <;> simp [hx]

@[simp] theorem retireTeam_mem (s : State) (key : TeamKey) : (s.retireTeam key).mem = s.mem := by
  simp only [State.retireTeam]; repeat' split
  all_goals simp

@[simp] theorem retire_mem (x : Ctx) : x.retire.mem = x.s.mem := by
  simp [Ctx.retire]

theorem execTexit_mem {gd : Guard} {f : Fields} {s t : State} (h : execTexit gd f s = .next t) : t.mem = s.mem :=
  turn_mem h fun x hx => hx ▸ retire_mem x

theorem execPhase_mem {gd : Guard} {f : Fields} {s t : State} (h : execPhase gd f s = .next t) : t.mem = s.mem := by
  refine turn_mem h fun x hx => ?_
  dsimp only; repeat' split
  all_goals simp [hx]

theorem pinTurn_mem {b : Bool} {gd : Guard} {s t : State} (h : pinTurn b gd s = .next t) : t.mem = s.mem :=
  turn_mem h fun x hx => by simp [hx]

end Sys2Proof.Machine
end

section
/-! PROOFS. Memory stays canonical (R19). Launches, binding, phases and rounds leave memory as it is but at their completion. -/
namespace Sys2Proof.Machine
open Sys2Proof

@[simp] theorem syncHeld_mem (s : State) : s.syncHeld.mem = s.mem := rfl

@[simp] theorem addRecords_mem (s : State) (rs : List (Nat × BindRec)) : (s.addRecords rs).mem = s.mem := by
  unfold State.addRecords
  rw [syncHeld_mem, foldl_mem _ fun s r => by simp]

@[simp] theorem dropLines_mem (s : State) (colour : Nat) : (s.dropLines colour).mem = s.mem := rfl

@[simp] theorem enterLaunch_mem (s : State) (l : Launch) (pk : Nat) (p : Partition) (colour prio : Nat) (port : Option Nat)
    (place : List Nat) : (s.enterLaunch l pk p colour prio port place).1.mem = s.mem := by
  simp [State.enterLaunch]

theorem acceptTask_mem {k : Nat} {place : List Nat} {s t : State} (h : s.acceptTask k place = some t) : t.mem = s.mem := by
  unfold State.acceptTask at h; dsimp only at h; split at h
  · repeat' split at h
    all_goals cases h
    · simp
    · rw [State.send_mem, enterLaunch_mem, foldl_mem _ fun s d => by simp]
      simp
    · simp
  · cases h

theorem acceptFirmware_mem {colour prio : Nat} {hdr : List Word} {place : List Nat} {s t : State}
    (h : s.acceptFirmware colour prio hdr place = some t) : t.mem = s.mem := by
  simp only [State.acceptFirmware] at h; repeat' split at h
  all_goals (cases h <;> simp)

theorem execLaunchAccept_mem {src : LaunchSource} {place : List Nat} {s t : State} (h : execLaunchAccept src place s = .next t) :
    t.mem = s.mem := by
  unfold execLaunchAccept at h; replace h := orNot_next h; split at h
  · exact acceptTask_mem h
  · exact acceptFirmware_mem h

@[simp] theorem startThreads_mem (s : State) (g lk : Nat) (l : Launch) (T : Nat) (ws : List (Nat × Nat)) :
    (s.startThreads g lk l T ws).mem = s.mem := by
  induction ws generalizing s with
  | nil => rfl
  | cons w rest ih => exact ih _

theorem bindTeam_mem {lk : Nat} {l : Launch} {T g : Nat} {s t : State} (h : s.bindTeam lk l T g = some t) : t.mem = s.mem := by
  unfold State.bindTeam at h; dsimp only at h; split at h
  · cases h
  · split at h <;> cases h
    simp

theorem bindOn_mem {lk : Nat} {l : Launch} {T : Nat} {gs : List Nat} {s t : State} (h : s.bindOn lk l T gs = some t) :
    t.mem = s.mem := by
  induction gs with
  | nil => cases h
  | cons g rest ih =>
    unfold State.bindOn at h; split at h
    · cases h; exact bindTeam_mem ‹_›
    · exact ih h

theorem bindFrom_mem {clu lk : Nat} {l : Launch} {e : Nat × BindRec} {first : Bool} {left : Nat} {s t : State}
    (h : s.bindFrom clu lk l e first left = some t) : t.mem = s.mem := by
  obtain ⟨u, hu, rfl⟩ := Option.map_eq_some_iff.1 h
  simpa using bindOn_mem hu

theorem firstSome_some {α β : Type} {f : α → Option β} {as : List α} {b : β} (h : firstSome f as = some b) : ∃ a, f a = some b := by
  induction as with
  | nil => cases h
  | cons a rest ih =>
    unfold firstSome at h; split at h
    · exact ⟨a, h ▸ ‹_›⟩
    · exact ih h

theorem execTeamBind_mem {clu : Nat} {s t : State} (h : execTeamBind clu s = .next t) : t.mem = s.mem := by
  unfold execTeamBind at h; replace h := orNot_next h; dsimp only at h; split at h
  · obtain ⟨e, he⟩ := firstSome_some h
    repeat' split at he
    · exact bindFrom_mem he
    all_goals cases he
  · obtain ⟨e, he⟩ := firstSome_some h
    repeat' split at he
    · exact bindFrom_mem he
    all_goals cases he

theorem execBindRecordAging_mem {die e : Nat} {s t : State} (h : execBindRecordAging die e s = .next t) : t.mem = s.mem := by
  unfold execBindRecordAging at h; replace h := orNot_next h; repeat' split at h
  all_goals (cases h <;> simp)

theorem execStealRequest_mem {thief victim : Nat} {s t : State} (h : execStealRequest thief victim s = .next t) :
    t.mem = s.mem := by
  unfold execStealRequest at h; replace h := orNot_next h; repeat' split at h
  all_goals (cases h <;> simp)

theorem execStealReply_mem {k : Nat} {s t : State} (h : execStealReply k s = .next t) : t.mem = s.mem := by
  unfold execStealReply at h; replace h := orNot_next h; repeat' split at h
  all_goals (cases h <;> simp)

theorem execStealBackoffExpiry_mem {clu : Nat} {s t : State} (h : execStealBackoffExpiry clu s = .next t) : t.mem = s.mem := by
  unfold execStealBackoffExpiry at h; replace h := orNot_next h; repeat' split at h
  all_goals (cases h <;> simp)

@[simp] theorem digestUpdate_mem (s : State) (l : Launch) : (s.digestUpdate l).mem = s.mem := rfl

@[simp] theorem commit_mem (s : State) (lk : Nat) (l : Launch) : (s.commit lk l).mem = s.mem := by
  unfold State.commit; dsimp only; split
  · simp
  · rw [foldl_mem _ fun s d => by simp]; simp

@[simp] theorem saveRound_mem (s : State) (lk : Nat) (l : Launch) (g : Nat) : (s.saveRound lk l g).mem = s.mem := by
  simp [State.saveRound, foldl_mem]

@[simp] theorem loadRound_mem (s : State) (lk : Nat) (l : Launch) (g : Nat) : (s.loadRound lk l g).mem = s.mem := by
  simp [State.loadRound, foldl_mem]

theorem execRoundSwitch_mem {lk clu : Nat} {s t : State} (h : execRoundSwitch lk clu s = .next t) : t.mem = s.mem := by
  simp only [execRoundSwitch] at h; replace h := orNot_next h; repeat' split at h
  all_goals (cases h <;> simp)

@[simp] theorem firstRounds_mem (s : State) (lk : Nat) (l : Launch) (p : Partition) : (s.firstRounds lk l p).mem = s.mem := by
  simp [State.firstRounds, foldl_mem]

@[simp] theorem phaseRelease_mem (s : State) (lk : Nat) (l : Launch) (p : Partition) : (s.phaseRelease lk l p).mem = s.mem := by
  simp [State.phaseRelease, foldl_mem]

theorem execPhaseCommit_mem {lk : Nat} {s t : State} (h : execPhaseCommit lk s = .next t) : t.mem = s.mem := by
  unfold execPhaseCommit at h; replace h := orNot_next h; repeat' split at h
  all_goals (cases h <;> simp)

end Sys2Proof.Machine
end

section
/-! PROOFS. Memory stays canonical (R19). Castling, pre-emption, lost dies and debugging leave memory as it is. -/
namespace Sys2Proof.Machine
open Sys2Proof

theorem execSwapInstant_mem {g : Nat} {s t : State} (h : execSwapInstant g s = .next t) : t.mem = s.mem := by
  simp only [execSwapInstant] at h; replace h := orNot_next h; repeat' split at h
  all_goals (cases h <;> simp)

theorem execCastlingOffer_mem {p q : Nat} {s t : State} (h : execCastlingOffer p q s = .next t) : t.mem = s.mem := by
  simp only [execCastlingOffer] at h; replace h := orNot_next h; repeat' split at h
  all_goals (cases h <;> simp)

theorem execCastlingSwap_mem {p q : Nat} {s t : State} (h : execCastlingSwap p q s = .next t) : t.mem = s.mem := by
  simp only [execCastlingSwap] at h; replace h := orNot_next h; repeat' split at h
  all_goals (cases h <;> simp)

@[simp] theorem tracePreempt_mem (s : State) (p : Partition) (resume leaving entering : Nat) :
    (s.tracePreempt p resume leaving entering).mem = s.mem := by
  simp [State.tracePreempt, foldl_mem]

theorem execPreemptStop_mem {part colour : Nat} {s t : State} (h : execPreemptStop part colour s = .next t) : t.mem = s.mem := by
  unfold execPreemptStop at h; replace h := orNot_next h; dsimp only at h; repeat' split at h
  all_goals cases h
  rw [tracePreempt_mem, foldl_mem _ fun s c => by simp, foldl_mem _ fun s g => by simp]

theorem execPreemptDrainDone_mem {part : Nat} {s t : State} (h : execPreemptDrainDone part s = .next t) : t.mem = s.mem := by
  unfold execPreemptDrainDone at h; replace h := orNot_next h; repeat' split at h
  all_goals (cases h <;> simp)

@[simp] theorem stage_mem (s : State) (b g : Nat) : (s.stage b g).mem = s.mem := rfl
@[simp] theorem exchange_mem (s : State) (a b g : Nat) : (s.exchange a b g).mem = s.mem := rfl

@[simp] theorem mapAway_mem (s : State) (colour g : Nat) : (s.mapAway colour g).mem = s.mem := by
  simp [State.mapAway]

theorem execPreemptExchangeDone_mem {part : Nat} {s t : State} (h : execPreemptExchangeDone part s = .next t) : t.mem = s.mem := by
  unfold execPreemptExchangeDone at h; replace h := orNot_next h; dsimp only at h; repeat' split at h
  all_goals cases h
  rw [tracePreempt_mem, syncHeld_mem, foldl_mem _ fun s g => by simp]
  exact foldl_mem _ (fun s g => by simp) _ _

theorem execArbiterResumeThread_mem {g slot : Nat} {pc : Word} {inh : Bool} {s t : State}
    (h : execArbiterResumeThread g slot pc inh s = .next t) : t.mem = s.mem := by
  unfold execArbiterResumeThread at h; replace h := orNot_next h; repeat' split at h
  all_goals (cases h <;> simp)

@[simp] theorem machineCheck_mem (s : State) (g cause : Nat) : (s.machineCheck g cause).mem = s.mem := by
  simp [State.machineCheck]

theorem execCoreMachineCheck_mem {g cause : Nat} {s t : State} (h : execCoreMachineCheck g cause s = .next t) : t.mem = s.mem := by
  unfold execCoreMachineCheck at h; replace h := orNot_next h; repeat' split at h
  all_goals (cases h <;> simp)

theorem execHeartbeat_mem {die : Nat} {missed : List Nat} {s t : State} (h : execHeartbeat die missed s = .next t) :
    t.mem = s.mem := by
  unfold execHeartbeat at h; replace h := orNot_next h; split at h <;> cases h
  exact foldl_mem _ (fun s d => by simp) _ _

@[simp] theorem reissue_mem (s : State) (lk : Nat) (l : Launch) (p : Partition) (bound unbound : List Nat) :
    (s.reissue lk l p bound unbound).mem = s.mem := by
  simp [State.reissue]

@[simp] theorem cutOff_mem (s : State) (die : Nat) : (s.cutOff die).mem = s.mem := by
  unfold State.cutOff; dsimp only
  rw [foldl_mem _ fun s d => by simp, foldl_mem _ fun s a => by simp, State.setDie_mem]

theorem execDieFence_mem {die : Nat} {dieCheck : Bool} {s t : State} (h : execDieFence die dieCheck s = .next t) :
    t.mem = s.mem := by
  unfold execDieFence at h; replace h := orNot_next h; dsimp only at h; split at h <;> cases h
  rw [foldl_mem _ fun s d => by simp, foldl_mem _ fun s c => by simp, foldl_mem _ fun s w => by split <;> simp, cutOff_mem]

theorem execBrk_mem {gd : Guard} {f : Fields} {s t : State} (h : execBrk gd f s = .next t) : t.mem = s.mem :=
  turn_mem h fun x hx => by simp [hx]

theorem execTrc_mem {gd : Guard} {f : Fields} {s t : State} (h : execTrc gd f s = .next t) : t.mem = s.mem :=
  turn_mem h fun x hx => by simp [hx]

@[simp] theorem mapThreads_mem (s : State) (f : Thread → Thread) : (s.mapThreads f).mem = s.mem := rfl

theorem execBreakpointHalt_mem {g slot entry : Nat} {s t : State} (h : execBreakpointHalt g slot entry s = .next t) :
    t.mem = s.mem := by
  simp only [execBreakpointHalt] at h; replace h := orNot_next h; repeat' split at h
  all_goals (cases h <;> simp)

theorem execDebugResume_mem {g slot count : Nat} {s t : State} (h : execDebugResume g slot count s = .next t) : t.mem = s.mem := by
  unfold execDebugResume at h; replace h := orNot_next h; repeat' split at h
  all_goals (cases h <;> simp)

theorem execDebugTableWrite_mem {w : DebugWrite} {s t : State} (h : execDebugTableWrite w s = .next t) : t.mem = s.mem := by
  unfold execDebugTableWrite at h; replace h := orNot_next h; repeat' split at h
  all_goals (cases h <;> simp)

theorem execTraceSample_mem {g : Nat} {s t : State} (h : execTraceSample g s = .next t) : t.mem = s.mem := by
  simp only [execTraceSample] at h; replace h := orNot_next h; repeat' split at h
  all_goals (cases h <;> simp)

theorem execTcUnfreeze_mem {clu : Nat} {s t : State} (h : execTcUnfreeze clu s = .next t) : t.mem = s.mem := by
  unfold execTcUnfreeze at h; replace h := orNot_next h; repeat' split at h
  all_goals (cases h <;> simp)

theorem execArbiterWatchdogExpiry_mem {die : Nat} {s t : State} (h : execArbiterWatchdogExpiry die s = .next t) :
    t.mem = s.mem := by
  unfold execArbiterWatchdogExpiry at h; replace h := orNot_next h; repeat' split at h
  all_goals (cases h <;> simp)

theorem execClockFreeze_mem {s t : State} (h : execClockFreeze s = .next t) : t.mem = s.mem := by
  cases h; simp

end Sys2Proof.Machine
end

section
/-! PROOFS. Memory stays canonical (R19). Links, sessions and the host leave memory as it is but where the host writes or a colour is cleared. -/
namespace Sys2Proof.Machine
open Sys2Proof

@[simp] theorem endSession_mem (s : State) (port : Nat) : (s.endSession port).mem = s.mem := by
  simp [State.endSession, foldl_mem]

@[simp] theorem peerUsed_mem (s : State) (port : Nat) (m : Msg) : (s.peerUsed port m).mem = s.mem := by
  unfold State.peerUsed; split <;> simp

theorem execLinkMessageReceive_mem {port seq : Nat} {tagOk : Bool} {msg : LinkMsg} {s t : State}
    (h : execLinkMessageReceive port seq tagOk msg s = .next t) : t.mem = s.mem := by
  unfold execLinkMessageReceive at h; replace h := orNot_next h; dsimp only at h; split at h
  · cases h
  · split at h
    · cases h; simp
    · split at h
      · split at h
        · cases h; simp
        · obtain ⟨m, -, rfl⟩ := Option.map_eq_some_iff.1 h
          simp
      · cases h; simp

theorem execLkAckWrite_mem {port ack : Nat} {s t : State} (h : execLkAckWrite port ack s = .next t) : t.mem = s.mem := by
  simp only [execLkAckWrite] at h; replace h := orNot_next h; repeat' split at h
  all_goals (cases h <;> simp)

theorem execLkAckReplay_mem {port : Nat} {s t : State} (h : execLkAckReplay port s = .next t) : t.mem = s.mem := by
  simp only [execLkAckReplay] at h; replace h := orNot_next h; repeat' split at h
  all_goals (cases h <;> simp)

theorem execLinkTrain_mem {port : Nat} {s t : State} (h : execLinkTrain port s = .next t) : t.mem = s.mem := by
  simp only [execLinkTrain] at h; replace h := orNot_next h; repeat' split at h
  all_goals (cases h <;> simp)

theorem execLinkLoss_mem {port : Nat} {s t : State} (h : execLinkLoss port s = .next t) : t.mem = s.mem := by
  simp only [execLinkLoss] at h; replace h := orNot_next h; repeat' split at h
  all_goals (cases h <;> simp)

@[simp] theorem manage_mem (s : State) (code : Nat) : (s.manage code).mem = s.mem := rfl

theorem execPeerHandshake_mem {port : Nat} {chain : Option Nat} {s t : State} (h : execPeerHandshake port chain s = .next t) :
    t.mem = s.mem := by
  simp only [execPeerHandshake] at h; replace h := orNot_next h; repeat' split at h
  all_goals (cases h <;> simp)

theorem execPeerConfigWrite_mem {cfg : PeerConfig} {s t : State} (h : execPeerConfigWrite cfg s = .next t) : t.mem = s.mem := by
  unfold execPeerConfigWrite at h; replace h := orNot_next h; split at h
  · cases h
  · dsimp only at h; repeat' split at h
    all_goals cases h
    · rw [foldl_mem _ fun s d => by simp]
    · simp
    · simp
    · simp

theorem execLinkFlitRetry_mem {die link : Nat} {s t : State} (h : execLinkFlitRetry die link s = .next t) : t.mem = s.mem := by
  unfold execLinkFlitRetry at h; replace h := orNot_next h; repeat' split at h
  all_goals (cases h <;> simp)

theorem takeHost_mem {port : Nat} {m : LinkMsg} {s t : State} (h : s.takeHost port = some (m, t)) : t.mem = s.mem := by
  unfold State.takeHost at h; dsimp only at h; repeat' split at h
  all_goals cases h
  simp

theorem execSpdmRequest_mem {port : Nat} {s t : State} (h : execSpdmRequest port s = .next t) : t.mem = s.mem := by
  unfold execSpdmRequest at h; replace h := orNot_next h; split at h
  · next hq =>
    rw [← takeHost_mem hq]
    cases h
    split
    · simp
    · dsimp only; repeat' split
      all_goals simp
  · cases h

theorem execKeyUpdate_mem {port : Nat} {s t : State} (h : execKeyUpdate port s = .next t) : t.mem = s.mem := by
  simp only [execKeyUpdate] at h; replace h := orNot_next h; repeat' split at h
  all_goals (cases h <;> simp)

theorem tdispPort_mem {colour request p : Nat} {s t : State} (h : s.tdispPort colour request = some (p, t)) : t.mem = s.mem := by
  obtain ⟨q, -, hq⟩ := List.exists_of_findSome?_eq_some h
  split at hq
  · split at hq <;> cases hq
    exact takeHost_mem ‹_›
  · cases hq

theorem tdisp_mem {colour request : Nat} {next : Nat → State → Option State} {s t : State}
    (hnext : ∀ p u v, next p u = some v → v.mem = u.mem) (h : s.tdisp colour request next = some t) : t.mem = s.mem := by
  unfold State.tdisp at h; split at h
  · cases h
  · split at h
    · cases h
    · next hp =>
      rw [← tdispPort_mem hp]
      split at h
      · cases h; simp [hnext _ _ _ ‹_›]
      · cases h; simp

@[simp] theorem freshSpad_mem (s : State) (cores : List Nat) : (s.freshSpad cores).mem = s.mem := by
  simp [State.freshSpad, foldl_mem]

theorem execStartInterfaceRequest_mem {colour : Nat} {s t : State} (h : execStartInterfaceRequest colour s = .next t) :
    t.mem = s.mem := by
  refine tdisp_mem (fun p u v hv => ?_) (orNot_next h)
  dsimp only at hv; split at hv <;> cases hv
  simp

theorem execStopInterfaceRequest_mem {colour : Nat} {s t : State} (h : execStopInterfaceRequest colour s = .next t) :
    t.mem = s.mem := by
  refine tdisp_mem (fun p u v hv => ?_) (orNot_next h)
  split at hv <;> cases hv <;> simp

theorem execArbiterFirmwareReplace_mem {s t : State} (h : execArbiterFirmwareReplace s = .next t) : t.mem = s.mem := by
  simp only [execArbiterFirmwareReplace, Host.Outcome.next.injEq] at h
  rw [← h, foldl_mem _ tdiError_mem]

theorem execHostLaunch_mem {port : Nat} {place : List Nat} {s t : State} (h : execHostLaunch port place s = .next t) :
    t.mem = s.mem := by
  unfold execHostLaunch at h; replace h := orNot_next h; split at h
  · next hq =>
    rw [← takeHost_mem hq]
    dsimp only at h; repeat' split at h
    all_goals (cases h <;> simp)
  · cases h

theorem execDmaComplete_mem {port : Nat} {s t : State} (h : execDmaComplete port s = .next t) : t.mem = s.mem := by
  unfold execDmaComplete at h; replace h := orNot_next h; repeat' split at h
  all_goals (cases h <;> simp)

theorem execPowerUp_mem {status : List Nat} {s t : State} (h : execPowerUp status s = .next t) : t.mem = s.mem := by
  unfold execPowerUp at h; replace h := orNot_next h; dsimp only at h; split at h <;> cases h
  dsimp only
  rw [foldl_mem _ fun s p => by simp, foldl_mem _ fun s d => by simp]

theorem execBootStatusQuery_mem {die : Nat} {s t : State} (h : execBootStatusQuery die s = .next t) : t.mem = s.mem := by
  simp only [execBootStatusQuery] at h; replace h := orNot_next h; repeat' split at h
  all_goals (cases h <;> simp)

theorem execThermalThrottle_mem {die : Nat} {s t : State} (h : execThermalThrottle die s = .next t) : t.mem = s.mem := by
  unfold execThermalThrottle at h; replace h := orNot_next h; repeat' split at h
  all_goals (cases h <;> simp)

end Sys2Proof.Machine
end

section
/-! PROOFS. Memory stays canonical (R19). A cycle of a core, up to the issue of its instructions, leaves memory as it is. -/
namespace Sys2Proof.Machine
open Sys2Proof

@[simp] theorem clockDie_mem (s : State) (die cyc : Nat) : (s.clockDie die cyc).mem = s.mem := by
  unfold State.clockDie; dsimp only; split
  · rw [foldl_mem _ fun s i => by simp]; simp
  · simp

@[simp] theorem endTurn_mem (s0 : State) (ready : Bool) : (s0.endTurn ready).mem = s0.mem := by
  simp [State.endTurn]

theorem execCollectionWindowClose_mem {g : Nat} {s t : State} (h : execCollectionWindowClose g s = .next t) : t.mem = s.mem := by
  unfold execCollectionWindowClose at h; replace h := orNot_next h; repeat' split at h
  all_goals (cases h <;> simp)

theorem reportTurn_mem {g slot : Nat} {t : Thread} {s u : State} (h : s.reportTurn g slot t = some u) : u.mem = s.mem := by
  unfold State.reportTurn at h; repeat' split at h
  all_goals (cases h <;> simp)

theorem execReportDelivery_mem {g slot : Nat} {s t : State} (h : execReportDelivery g slot s = .next t) : t.mem = s.mem := by
  unfold execReportDelivery at h; replace h := orNot_next h; dsimp only at h; repeat' split at h
  case h_2.isFalse =>
    obtain ⟨u, hu, rfl⟩ := Option.map_eq_some_iff.1 h
    simpa using reportTurn_mem hu
  all_goals cases h

theorem execLineFetchReply_mem {g colour : Nat} {line : Word} {s t : State} (h : execLineFetchReply g colour line s = .next t) :
    t.mem = s.mem := by
  simp only [execLineFetchReply] at h; replace h := orNot_next h; repeat' split at h
  all_goals (cases h <;> simp)

@[simp] theorem forward_mem (s : State) (g slot : Nat) (t : Thread) (bits : BitVec 512) :
    (s.forward g slot t bits).mem = s.mem := by
  simp only [State.forward]; repeat' split
  all_goals simp [foldl_mem]

@[simp] theorem entryTrap_mem (s : State) (g slot : Nat) (t : Thread) (r : Report) : (s.entryTrap g slot t r).mem = s.mem := by
  unfold State.entryTrap; split <;> simp

@[simp] theorem toIssue_mem (s : State) (g slot : Nat) (entry : Option Nat) (is : List Instr) :
    (s.toIssue g slot entry is).mem = s.mem := rfl

@[simp] theorem trapOrHalt_mem (s : State) (g slot : Nat) (t : Thread) (pcs : List Word) (r : Report) :
    (s.trapOrHalt g slot t pcs r).mem = s.mem := by
  unfold State.trapOrHalt; split <;> simp

@[simp] theorem decodeTurn_mem (s : State) (g slot : Nat) (t : Thread) (bits : BitVec 512) :
    (s.decodeTurn g slot t bits).mem = s.mem := by
  simp only [State.decodeTurn]; repeat' split
  all_goals simp

theorem fetchLine_wait {g : Nat} {t : Thread} {s u : State} (h : s.fetchLine g t = .wait u) : u.mem = s.mem := by
  unfold State.fetchLine at h; dsimp only at h; split at h
  case h_3 =>
    split at h
    · cases h; exact coreTranslate_wait ‹_›
    · cases h
    · repeat' split at h
      all_goals (cases h <;> simp)
  all_goals cases h

@[simp] theorem fetchTurn_mem (s : State) (g slot : Nat) (t : Thread) : (s.fetchTurn g slot t).mem = s.mem := by
  unfold State.fetchTurn; dsimp only; split
  · simp
  · split
    · simp
    · split
      · next hw => simpa using fetchLine_wait hw
      · simp
      · simp

@[simp] theorem turnOf_mem (s : State) (g slot : Nat) (t : Thread) : (s.turnOf g slot t).mem = s.mem := by
  unfold State.turnOf; dsimp only; split
  · rfl
  · split
    · rfl
    · split
      · split <;> rfl
      · split
        · simp
        · exact reportTurn_mem ‹_›
        · repeat' split
          all_goals simp

@[simp] theorem startCycle_mem (s : State) (g : Nat) : (s.startCycle g).mem = s.mem := rfl

theorem execCoreCycle_mem {g : Nat} {lostBank : Bool} {s t : State} (h : execCoreCycle g lostBank s = .next t) : t.mem = s.mem := by
  simp only [execCoreCycle] at h; replace h := orNot_next h; repeat' split at h
  all_goals (cases h <;> simp)

@[simp] theorem settle_mem (s : State) (t : Thread) (i : Instr) (second : Bool) (p : Word) :
    (s.settle t i second p).mem = s.mem := by
  simp [State.settle]

@[simp] theorem endPair_mem (a : State) (t : Thread) (i : Instr) : (a.endPair t i).mem = a.mem := by
  simp [State.endPair]

@[simp] theorem keepKv_mem (s : State) (t : Thread) : (s.keepKv t).mem = s.mem := by
  simp [State.keepKv]

@[simp] theorem lostTurn_mem (s : State) : s.lostTurn.mem = s.mem := by
  unfold State.lostTurn; split
  · rfl
  · rfl

end Sys2Proof.Machine
end

section
/-! PROOFS. Memory stays canonical (R19). What is performed at a home: writes, planar updates, KV steps and atomics. -/
namespace Sys2Proof.Machine
open Sys2Proof

theorem wf_foldl {α : Type} {f : State → α → State} (hf : ∀ s a, Memory.wf s.mem = true → Memory.wf (f s a).mem = true)
    (l : List α) {s : State} (h : Memory.wf s.mem = true) : Memory.wf (l.foldl f s).mem = true := by
  induction l generalizing s with
  | nil => exact h
  | cons a rest ih => exact ih (hf s a h)

theorem wf_kvWrite {s : State} {g colour va n x : Nat} (hs : Memory.wf s.mem = true) :
    Memory.wf (s.kvWrite g colour va n x).mem = true := by
  unfold State.kvWrite; dsimp only; split
  · simpa using hs
  · exact wf_memStore _ _ _ (by simpa using hs)

theorem wf_kvSetCount {s : State} {g colour j n : Nat} (hs : Memory.wf s.mem = true) :
    Memory.wf (s.kvSetCount g colour j n).mem = true := wf_kvWrite hs

theorem wf_kvPop {s t : State} {g colour j : Nat} (hs : Memory.wf s.mem = true) (h : s.kvPop g colour = some (j, t)) :
    Memory.wf t.mem = true := by
  unfold State.kvPop at h; dsimp only at h; split at h <;> cases h
  exact wf_kvWrite (by simpa using hs)

theorem wf_kvPush {s : State} {g colour j : Nat} (hs : Memory.wf s.mem = true) : Memory.wf (s.kvPush g colour j).mem = true :=
  wf_kvWrite (wf_kvWrite hs)

theorem wf_kvRelease {s : State} {g colour j : Nat} (hs : Memory.wf s.mem = true) : Memory.wf (s.kvRelease g colour j).mem = true := by
  unfold State.kvRelease; dsimp only; split
  · exact wf_kvPush (wf_kvSetCount hs)
  · exact wf_kvSetCount hs

theorem wf_copyBlock {s : State} {colour a to_ : Nat} (hs : Memory.wf s.mem = true) :
    Memory.wf (s.copyBlock colour a to_).mem = true := by
  unfold State.copyBlock; dsimp only
  rw [claim_mem]
  exact wf_memWrite _ _ (by simpa using hs)

theorem wf_kvProc {s : State} {g colour sq b : Nat} {write : Bool} (hs : Memory.wf s.mem = true) :
    Memory.wf (s.kvProc g colour sq b write).1.mem = true := by
  unfold State.kvProc; dsimp only; split
  · exact hs
  · split
    · exact hs
    · next j s1 hfound =>
      have h1 : Memory.wf s1.mem = true := by
        split at hfound
        · cases hfound; simpa using hs
        · split at hfound <;> cases hfound
          exact wf_kvWrite (wf_kvSetCount (wf_kvPop hs ‹_›))
      split
      · split
        · exact hs
        · next j' s2 hpop =>
          split
          · exact hs
          · simpa using wf_kvRelease (wf_kvWrite (wf_kvSetCount (wf_copyBlock (wf_kvPop h1 hpop))))
      · split <;> simpa using h1

theorem wf_kvStep {s : State} {g colour sq b : Nat} {write : Bool} (hs : Memory.wf s.mem = true) :
    Memory.wf (s.kvStep g colour sq b write).1.mem = true := by
  unfold State.kvStep; dsimp only; repeat' split
  · exact hs
  · exact hs
  · exact hs
  · exact wf_kvProc (by simpa using hs)

theorem wf_applyWrite {s : State} {r : Req} {bytes : List (Nat × Byte)} {va : Word} (hs : Memory.wf s.mem = true) :
    Memory.wf (s.applyWrite r bytes va).mem = true := by
  unfold State.applyWrite; dsimp only; repeat' split
  all_goals simp [wf_memPuts, hs]

theorem wf_execWritePerform {s t : State} {k : Nat} (hs : Memory.wf s.mem = true) (h : execWritePerform k s = .next t) :
    Memory.wf t.mem = true := by
  unfold execWritePerform at h; replace h := orNot_next h; split at h
  · dsimp only at h; repeat' split at h
    · cases h
    · rwa [lacksSlots_mem h]
    · cases h; simpa using hs
    · cases h; exact wf_applyWrite (by simpa using hs)
  · cases h

theorem wf_applyPlanar {s : State} {p : Planar} (hs : Memory.wf s.mem = true) : Memory.wf (s.applyPlanar p).mem = true := by
  unfold State.applyPlanar; dsimp only; split
  · simpa using hs
  · rw [homeStrike_mem]; repeat' split
    all_goals simp [wf_memPuts, hs]

theorem wf_execPupdPerform {s t : State} {k : Nat} (hs : Memory.wf s.mem = true) (h : execPupdPerform k s = .next t) :
    Memory.wf t.mem = true := by
  unfold execPupdPerform at h; replace h := orNot_next h; split at h
  · dsimp only at h; repeat' split at h
    · cases h
    · cases h; simpa using hs
    · cases h; exact wf_applyPlanar (by simpa using hs)
  · cases h

theorem wf_execKvStep {s t : State} {k : Nat} (hs : Memory.wf s.mem = true) (h : execKvStep k s = .next t) :
    Memory.wf t.mem = true := by
  unfold execKvStep at h; replace h := orNot_next h; split at h
  · dsimp only at h; split at h
    · cases h
    · obtain rfl := Option.some.inj h
      split
      · simpa using wf_kvStep (by simpa using hs)
      · split
        · simpa using wf_kvStep (by simpa using hs)
        · exact wf_kvStep (by simpa using hs)
  · cases h

theorem wf_kvShare {s : State} {g colour sq tq b : Nat} (hs : Memory.wf s.mem = true) :
    Memory.wf (s.kvShare g colour sq tq b).mem = true := by
  unfold State.kvShare
  extract_lets s0 te s1 se s2
  have h1 : Memory.wf s1.mem = true := by
    unfold s1; split
    · exact wf_kvRelease hs
    · exact hs
  split
  · exact wf_kvSetCount (wf_kvWrite h1)
  · exact wf_kvWrite h1

theorem wf_kvForkStep {s t : State} {g colour sq tq b : Nat} (hs : Memory.wf s.mem = true) (h : s.kvForkStep g colour sq tq b = some t) :
    Memory.wf t.mem = true := by
  have h1 : Memory.wf (s.forgetKv colour sq b).mem = true := by simpa using hs
  unfold State.kvForkStep at h; dsimp only at h; split at h
  · obtain ⟨⟨j, u⟩, hpop, rfl⟩ := Option.map_eq_some_iff.1 h
    simpa using wf_kvRelease (wf_kvWrite (wf_kvSetCount (wf_copyBlock (wf_kvPop (wf_kvShare h1) hpop))))
  · cases h; exact wf_kvShare h1

theorem wf_kvFreeStep {s : State} {g colour sq b : Nat} (hs : Memory.wf s.mem = true) :
    Memory.wf (s.kvFreeStep g colour sq b).mem = true := by
  unfold State.kvFreeStep; dsimp only; split
  · exact wf_kvRelease (wf_kvWrite hs)
  · exact hs

theorem wf_execKvBlockStep {s t : State} {k : Nat} (hs : Memory.wf s.mem = true) (h : execKvBlockStep k s = .next t) :
    Memory.wf t.mem = true := by
  unfold execKvBlockStep at h; replace h := orNot_next h; split at h
  · dsimp only at h; split at h
    · cases h
    · split at h
      · cases h; simpa using hs
      · split at h
        · cases h; simpa using hs
        · obtain ⟨u, hu, rfl⟩ := Option.map_eq_some_iff.1 h
          have hwf : Memory.wf u.mem = true := by
            split at hu
            · exact wf_kvForkStep (by simpa using hs) hu
            · cases hu; exact wf_kvFreeStep (by simpa using hs)
          split <;> simpa using hwf
  · cases h

theorem wf_countCell {s : State} {colour pa n : Nat} (hs : Memory.wf s.mem = true) : Memory.wf (s.countCell colour pa n).mem = true := by
  unfold State.countCell; dsimp only; repeat' split
  all_goals simp [wf_memPuts, hs]

theorem foldl_performed_mem (rs : List Req) (s : State) : (rs.foldl (fun s r => s.performed r.tid r.id) s).mem = s.mem :=
  foldl_mem _ (fun s r => by simp) _ _

theorem foldl_failAccess_mem (rs : List Req) (dst : Option Reg) (report : Req → Report) (die : Nat) (s : State) :
    (rs.foldl (fun s r => s.failAccess r dst (report r) die) s).mem = s.mem :=
  foldl_mem _ (fun s r => by simp) _ _

theorem wf_applyAtomic {s : State} {a : Atomic} (hs : Memory.wf s.mem = true) : Memory.wf (s.applyAtomic a).mem = true := by
  unfold State.applyAtomic; dsimp only; split
  · split
    · rwa [foldl_failAccess_mem]
    · rw [answer_mem, atomReports_mem, foldl_performed_mem]
      simpa using hs
  · split
    · rwa [foldl_failAccess_mem]
    · have h0 : Memory.wf (if a.op = .x then { s with free := s.free + 4 } else s).mem = true := by
        split <;> exact hs
      rw [answer_mem]
      split
      · refine wf_countCell ?_
        rw [owe_mem, atomReports_mem, foldl_performed_mem]
        split
        · refine wf_memStore _ _ _ ?_
          rwa [touch_mem, takeSlots_mem, correct_mem]
        · rwa [touch_mem, correct_mem]
      · rw [atomReports_mem, foldl_performed_mem]
        split
        · refine wf_memStore _ _ _ ?_
          rwa [touch_mem, takeSlots_mem, correct_mem]
        · rwa [touch_mem, correct_mem]

theorem wf_execAtomicPerform {s t : State} {k : Nat} (hs : Memory.wf s.mem = true) (h : execAtomicPerform k s = .next t) :
    Memory.wf t.mem = true := by
  unfold execAtomicPerform at h; replace h := orNot_next h; split at h
  · dsimp only at h; repeat' split at h
    · cases h
    · rwa [lacksSlots_mem h]
    · cases h; simpa using hs
    · cases h; exact wf_applyAtomic (by simpa using hs)
  · cases h

theorem wf_execHeldWriteRelease {s t : State} {g k : Nat} (hs : Memory.wf s.mem = true) (h : execHeldWriteRelease g k s = .next t) :
    Memory.wf t.mem = true := by
  unfold execHeldWriteRelease at h; replace h := orNot_next h; split at h
  · dsimp only at h; split at h
    · repeat' split at h
      · cases h
      · rwa [lacksSlots_mem h]
      · cases h; exact wf_applyWrite hs
    · repeat' split at h
      · cases h
      · rwa [lacksSlots_mem h]
      · cases h; exact wf_applyAtomic hs
    · split at h <;> cases h
      exact wf_applyPlanar hs
    · cases h
  · cases h

end Sys2Proof.Machine
end

section
/-! PROOFS. Memory stays canonical (R19). What an engine writes: the sectors of copies and the rows of commands. -/
namespace Sys2Proof.Machine
open Sys2Proof

theorem wf_enginePlace {s t : State} {g colour : Nat} {key : TeamKey} {u : Use} {spad win : Bool} {a : Word} {p : Place}
    (hs : Memory.wf s.mem = true) (h : s.enginePlace g colour key u spad win a = .ok (t, p)) : Memory.wf t.mem = true := by
  obtain ⟨region, hregion⟩ : ∃ r, s.region g colour key a = r := ⟨_, rfl⟩
  -- The kernel must not compute `localPlace` while it reduces the match on the region.
  obtain ⟨place, hplace⟩ : ∃ f, s.localPlace g colour key = f := ⟨_, rfl⟩
  unfold State.enginePlace at h
  simp only [hregion, hplace] at h
  cases region with
  | high | none => cases h
  | translated =>
    dsimp only at h; split at h
    · next hp =>
      rw [← unitAccess_mem hp] at hs
      repeat' split at h
      all_goals cases h
      · exact hs
      · simpa using hs
    · next hp => rwa [wayTo_mem h, unitAccess_mem hp]
    · cases h
    · cases h
  | vaultLocal o =>
    dsimp only at h; split at h
    · rwa [wayTo_mem h]
    · cases h
    · cases h
  | cluster clu o => rwa [wayTo_mem h]
  | spad o =>
    dsimp only at h; split at h
    · rwa [wayTo_mem h]
    · cases h
  | team t o =>
    dsimp only at h; repeat' split at h
    · cases h
    · cases h
    · rwa [wayTo_mem h]
    · cases h
  | kv sq b o =>
    dsimp only at h; split at h
    · cases h
    · split at h
      · rw [wayTo_mem h]; exact wf_kvStep hs
      · cases h
      · cases h

theorem wf_placeWrite {s : State} {colour : Nat} {p : Place} {bs : List Byte} (hs : Memory.wf s.mem = true) :
    Memory.wf (s.placeWrite colour p bs).mem = true := by
  unfold State.placeWrite; split
  · simp [wf_memPuts, hs]
  · exact hs
  · exact hs

theorem wf_readLines {s t : State} {g colour : Nat} {key : TeamKey} {u : Use} {counted : Bool} {as : List Word}
    {ls : List (Word × List Byte)} (hs : Memory.wf s.mem = true) (h : s.readLines g colour key u counted as = .ok (t, ls)) :
    Memory.wf t.mem = true := by
  induction as generalizing s t ls with
  | nil => cases h; exact hs
  | cons a rest ih =>
    unfold State.readLines at h; dsimp only at h; split at h
    · cases h
    · next hp =>
      have h1 := wf_enginePlace hs hp
      split at h
      · cases h
      · split at h
        · cases h
        · split at h <;> cases h
          refine ih ?_ ‹_›
          split <;> simpa using h1

theorem wf_writeCodes {s t : State} {g : Nat} {c : Copy} {as : List (Word × Byte)} (hs : Memory.wf s.mem = true)
    (h : s.writeCodes g c as = .ok t) : Memory.wf t.mem = true := by
  induction as generalizing s t with
  | nil => cases h; exact hs
  | cons a rest ih =>
    unfold State.writeCodes at h; split at h
    · cases h
    · next hp =>
      split at h
      · cases h
      · split at h
        · cases h
        · exact ih (wf_placeWrite (by simpa using wf_enginePlace hs hp)) h

theorem wf_landRead {s t : State} {g sec : Nat} {c : Copy} {ls : List (Word × List Byte)} (hs : Memory.wf s.mem = true)
    (h : s.landRead g c sec = .ok (t, ls)) : Memory.wf t.mem = true := wf_readLines hs h

theorem wf_landWrite {s t : State} {g sec : Nat} {c : Copy} {ls : List (Word × List Byte)} {bs : List (Nat × Byte)}
    (hs : Memory.wf s.mem = true) (h : s.landWrite g c sec ls = .ok (t, bs)) : Memory.wf t.mem = true := by
  unfold State.landWrite at h; dsimp only at h; split at h
  · cases h; exact hs
  · split at h
    · cases h
    · split at h
      · cases h
      · next hp =>
        have h1 := wf_enginePlace hs hp
        split at h
        · cases h
        · split at h
          · cases h
          · split at h <;> cases h
            refine wf_writeCodes ?_ ‹_›
            split
            · simpa using wf_placeWrite (by simpa using h1)
            · exact wf_placeWrite (by simpa using h1)

theorem wf_landSector {s t : State} {g sec : Nat} {c : Copy} {loc : CopyLoc} {ls : List (Word × List Byte)}
    (hs : Memory.wf s.mem = true) (h : s.landSector g c loc sec ls = .ok t) : Memory.wf t.mem = true := by
  unfold State.landSector at h; dsimp only at h; split at h
  · cases h
  · next hw =>
    have h1 := wf_landWrite hs hw
    cases h
    repeat' split
    all_goals simpa using h1

theorem wf_sectorStep {s t : State} {g sec : Nat} {c : Copy} {loc : CopyLoc} (hs : Memory.wf s.mem = true)
    (h : s.sectorStep g c loc sec = .ok t) : Memory.wf t.mem = true := by
  unfold State.sectorStep at h; split at h
  · exact wf_landSector hs h
  · split at h <;> cases h
    simpa using wf_landRead hs ‹_›

theorem wf_execCopySectorLand {s t : State} {g id sec : Nat} (hs : Memory.wf s.mem = true) (h : execCopySectorLand g id sec s = .next t) :
    Memory.wf t.mem = true := by
  unfold execCopySectorLand at h; replace h := orNot_next h; split at h
  · cases h
  · split at h
    · cases h
    · split at h
      · cases h; exact wf_sectorStep hs ‹_›
      · rwa [stalled_mem h]

theorem wf_unitPlace {s t : State} {g : Nat} {c : Cmd} {a : Word} {p : Place} (hs : Memory.wf s.mem = true)
    (h : s.unitPlace g c a = .ok (t, p)) : Memory.wf t.mem = true := by
  unfold State.unitPlace at h; dsimp only at h; split at h
  · cases h
  · exact wf_enginePlace hs h

theorem wf_unitPlacesOf {s t : State} {g : Nat} {c : Cmd} {as : List Word} {ps : List Place} (hs : Memory.wf s.mem = true)
    (h : s.unitPlacesOf g c as = .ok (t, ps)) : Memory.wf t.mem = true := by
  induction as generalizing s t ps with
  | nil => cases h; exact hs
  | cons a rest ih =>
    unfold State.unitPlacesOf at h; split at h
    · cases h
    · split at h <;> cases h
      exact ih (wf_unitPlace hs ‹_›) ‹_›

theorem wf_unitPlaces {s t : State} {g u : Nat} {c : Cmd} {ps : List Place} (hs : Memory.wf s.mem = true)
    (h : s.unitPlaces g c u = .ok (t, ps)) : Memory.wf t.mem = true := by
  unfold State.unitPlaces at h; split at h
  · cases h
  · split at h <;> cases h
    exact wf_unitPlacesOf hs ‹_›

theorem wf_unitLands {s t : State} {g u : Nat} {e : Cmd} {ps : List Place} (hs : Memory.wf s.mem = true)
    (h : s.unitLands g e u = some (t, ps)) : Memory.wf t.mem = true := by
  unfold State.unitLands at h; split at h
  · cases h
  · split at h
    · cases h
    · next hp =>
      have h1 := wf_unitPlaces hs hp
      repeat' split at h
      all_goals cases h
      all_goals exact h1

theorem wf_writeRow {s : State} {g u : Nat} {e : Cmd} {ps : List Place} (hs : Memory.wf s.mem = true) :
    Memory.wf (s.writeRow g e u ps).mem = true := by
  have h1 : Memory.wf (match ps with
      | p :: _ => s.placeWrite e.colour p (e.rowSector ((s.core g).tile ((s.core g).physical e.team e.slot)) u)
      | [] => s).mem = true := by
    split
    · exact wf_placeWrite hs
    · exact hs
  unfold State.writeRow; dsimp only; split
  · rw [unitStrike_mem]; exact h1
  · exact h1

theorem wf_execUnitArrival {s t : State} {g c u : Nat} (hs : Memory.wf s.mem = true) (h : execUnitArrival g c u s = .next t) :
    Memory.wf t.mem = true := by
  unfold execUnitArrival at h; replace h := orNot_next h; dsimp only at h; split at h
  · cases h
  · split at h
    · split at h
      · rwa [takeScale_mem h]
      · split at h
        · cases h; simpa using hs
        · split at h
          · cases h
          · next hl =>
            have h1 := wf_unitLands hs hl
            split at h
            · cases h; simpa using h1
            · cases h; simpa using h1
            · cases h; exact wf_writeRow (by simpa using h1)
            · cases h
    · split at h
      · split at h
        · cases h
        · split at h
          · cases h
          · next hl =>
            cases h; simpa using wf_unitLands hs hl
      · cases h

end Sys2Proof.Machine
end

section
/-! PROOFS. Memory stays canonical (R19). What arbiters and the host write, and what clears or erases. -/
namespace Sys2Proof.Machine
open Sys2Proof

theorem wf_notifyCell {s t : State} {l : Launch} (hs : Memory.wf s.mem = true) (h : s.notifyCell l = some t) : Memory.wf t.mem = true := by
  unfold State.notifyCell at h; split at h
  · cases h
  · split at h
    · obtain rfl := Option.some.inj h
      exact wf_countCell (wf_memStore _ _ _ hs)
    · cases h

theorem wf_execLaunchComplete {s t : State} {lk : Nat} (hs : Memory.wf s.mem = true) (h : execLaunchComplete lk s = .next t) :
    Memory.wf t.mem = true := by
  unfold execLaunchComplete at h; replace h := orNot_next h; split at h
  · cases h
  · next l hl =>
    split at h
    · cases h
    · extract_lets s1 y c final port s3 at h
      have h1 : Memory.wf s1.mem = true := by simpa [s1] using hs
      have hy : Memory.wf y.1.mem = true := by
        unfold y; split
        · exact h1
        · split
          · exact wf_notifyCell h1 ‹_›
          · exact h1
      obtain rfl := Option.some.inj h
      change Memory.wf s3.mem = true
      rwa [toHost_mem, portUsed_mem]

theorem wf_sinkWrite {s t : State} {clu : Nat} (hs : Memory.wf s.mem = true) (h : s.sinkWrite clu = some t) : Memory.wf t.mem = true := by
  unfold State.sinkWrite at h; dsimp only at h; split at h
  · cases h; simpa using wf_placeWrite hs
  · cases h

theorem wf_execTraceSinkWrite {s t : State} {clu : Nat} (hs : Memory.wf s.mem = true) (h : execTraceSinkWrite clu s = .next t) :
    Memory.wf t.mem = true := wf_sinkWrite hs (orNot_next h)

theorem wf_sinkAll {s : State} {clu n : Nat} (hs : Memory.wf s.mem = true) : Memory.wf (s.sinkAll clu n).mem = true := by
  induction n generalizing s with
  | zero => exact hs
  | succ n ih =>
    unfold State.sinkAll; split
    · exact ih (wf_sinkWrite hs ‹_›)
    · exact hs

theorem wf_execRecorderDrain {s t : State} {clu : Nat} (hs : Memory.wf s.mem = true) (h : execRecorderDrain clu s = .next t) :
    Memory.wf t.mem = true := by
  unfold execRecorderDrain at h; replace h := orNot_next h; split at h <;> cases h
  exact wf_sinkAll hs

theorem execSinkTimeout_mem {s t : State} {clu : Nat} (h : execSinkTimeout clu s = .next t) : t.mem = s.mem := by
  unfold execSinkTimeout at h; replace h := orNot_next h; dsimp only at h; split at h <;> cases h
  simp

theorem wf_giveFrames {s : State} {colour : Nat} {frames : List Nat} (hs : Memory.wf s.mem = true) :
    Memory.wf (s.giveFrames colour frames).mem = true := wf_filter _ _ hs

theorem wf_clearCluster {s : State} {colour clu : Nat} (hs : Memory.wf s.mem = true) :
    Memory.wf (s.clearCluster colour clu).mem = true := wf_filter _ _ hs

theorem wf_tdisp {colour request : Nat} {next : Nat → State → Option State} {s t : State} (hs : Memory.wf s.mem = true)
    (hnext : ∀ p u v, Memory.wf u.mem = true → next p u = some v → Memory.wf v.mem = true) (h : s.tdisp colour request next = some t) :
    Memory.wf t.mem = true := by
  unfold State.tdisp at h; split at h
  · cases h
  · split at h
    · cases h
    · next hp =>
      rw [← tdispPort_mem hp] at hs
      split at h
      · cases h; simpa using hnext _ _ _ hs ‹_›
      · cases h; simpa using hs

theorem wf_execLockInterfaceRequest {s t : State} {lock : InterfaceLock} (hs : Memory.wf s.mem = true)
    (h : execLockInterfaceRequest lock s = .next t) : Memory.wf t.mem = true := by
  refine wf_tdisp hs (fun p u v hu hv => ?_) (orNot_next h)
  dsimp only at hv; split at hv
  · split at hv <;> cases hv
    rw [portUsed_mem, freshSpad_mem]
    exact wf_foldl (fun s k => wf_clearCluster) _ (wf_giveFrames hu)
  · cases hv

theorem wf_execPartitionResize {s t : State} {part : Nat} {clusters : List Nat} (hs : Memory.wf s.mem = true)
    (h : execPartitionResize part clusters s = .next t) : Memory.wf t.mem = true := by
  have hstart (cs : List Nat) (col : BitVec 5) (u : State) : (cs.foldl (fun s c => ((clusterCores c).foldl (fun s g =>
      s.setCore g { s.core g with stop := (s.core g).checked, peCol := col }) s).freshSpad (clusterCores c)) u).mem = u.mem :=
    foldl_mem _ (fun s c => by rw [freshSpad_mem]; exact foldl_mem _ (fun s g => State.setCore_mem ..) _ _) _ _
  unfold execPartitionResize at h; replace h := orNot_next h; dsimp only at h; split at h
  · cases h
  · split at h
    · split at h
      · cases h
      · obtain rfl := Option.some.inj h
        dsimp only
        refine wf_foldl (fun s k hk => wf_foldl (fun s c => wf_clearCluster) _ hk) _ ?_
        rwa [hstart, foldl_mem _ fun s c => foldl_mem _ (fun s g => State.setCore_mem ..) _ _, foldl_mem _ tdiError_mem]
    · split at h
      · split at h <;> cases h
        exact hs
      · split at h <;> cases h
        rwa [hstart]

theorem wf_execDmaDescriptor {s t : State} {port : Nat} (hs : Memory.wf s.mem = true) (h : execDmaDescriptor port s = .next t) :
    Memory.wf t.mem = true := by
  unfold execDmaDescriptor at h; replace h := orNot_next h; dsimp only at h; split at h
  · cases h
  · split at h
    · next hq =>
      rw [← takeHost_mem hq] at hs
      split at h
      · cases h
        exact wf_foldl (fun s e => wf_placeWrite) _ (by simpa using hs)
      · cases h; simpa using hs
    · next hq =>
      rw [← takeHost_mem hq] at hs
      split at h <;> cases h <;> simpa using hs
    · next hq =>
      rw [← takeHost_mem hq] at hs
      cases h; simpa using hs
    · cases h

theorem wf_execReset {s t : State} {keepsPower : Bool} (h : execReset keepsPower s = .next t) : Memory.wf t.mem = true := by
  cases h
  exact wf_nil

end Sys2Proof.Machine
end

section
/-! PROOFS. Memory stays canonical (R19). Every move: the dispatch. -/
namespace Sys2Proof.Machine
open Sys2Proof

/-- The moves that may write a byte of memory: what is performed at a home, what an engine or an arbiter writes, what erases. -/
def writesMemory : Instr → Bool
  | .writePerform _ | .heldWriteRelease _ _ | .pupdPerform _ | .kvStep _ | .kvBlockStep _ | .atomicPerform _
  | .unitArrival _ _ _ | .copySectorLand _ _ _ | .launchComplete _ | .recorderDrain _ | .lockInterfaceRequest _
  | .dmaDescriptor _ | .partitionResize _ _ | .traceSinkWrite _ | .reset _ => true
  | _ => false

/-- No instruction, and no move that `writesMemory` does not name, changes memory. -/
theorem exec_mem {i : Instr} {s t : State} (hi : writesMemory i = false) (h : exec i s = .next t) : t.mem = s.mem := by
  cases i with
  | writePerform | heldWriteRelease | pupdPerform | kvStep | kvBlockStep | atomicPerform | unitArrival | copySectorLand |
    launchComplete | recorderDrain | lockInterfaceRequest | dmaDescriptor | partitionResize | traceSinkWrite | reset => cases hi
  | br => exact execBr_mem h
  | brl => exact execBrl_mem h
  | jr => exact execJr_mem h
  | jrLink => exact execJrLink_mem h
  | ret => exact execRet_mem h
  | setp | setpReg | pand | por | pnot => unfold exec at h; exact guardTurn_mem h
  | clrp => exact execClrp_mem h
  | gang => exact execGang_mem h
  | rejoin => exact execRejoin_mem h
  | ungang gd f => exact execUngang_mem (f := f) h
  | nop gd f => exact execNop_mem (f := f) h
  | cmpEq | cmpNe | cmpLt | cmpLe | cmpGt | cmpGe | cmpUn | cmpTst | cmpNtst => unfold exec at h; exact cmpReg_mem h
  | cmpEqImm | cmpNeImm | cmpLtImm | cmpLeImm | cmpGtImm | cmpGeImm | cmpUnImm | cmpTstImm | cmpNtstImm =>
    unfold exec at h; exact cmpImm_mem h
  | add | sub | mul | mulh | div | rem | and | or | xor | andn | min | max => unfold exec at h; exact alu2_mem h
  | shl | shr | sar | rot => unfold exec at h; exact shift2_mem h
  | clz | ctz | popc => unfold exec at h; exact alu1_mem h
  | sel | bext | bins | bextImm | binsImm | leaPc | leaBase | leaIndex | li | lui | wid | cvt =>
    unfold exec at h; exact scalarTurn_mem h
  | addImm | mulImm | andImm | orImm | xorImm | minImm | maxImm => unfold exec at h; exact aluImm_mem h
  | shlImm | shrImm | sarImm | rotImm => unfold exec at h; exact shiftImm_mem h
  | fadd | fsub | fmul | fmin | fmax | fins | fdiv => unfold exec at h; exact vec2_mem h
  | ffma => unfold exec at h; exact vec3_mem h
  | fneg | fabs | frnd | fexf | fsqrt | frsq => unfold exec at h; exact vec1_mem h
  | fcls | idot4 | iabs | vsel | vshf | vshfRot | vshfXor | vredAdd | vbc | vbcLane | vmov | vmovExtract | vmovInsert | cvtVector |
    qsc | qcb | dqcb | nanm | nanx | pspl | pjn => unfold exec at h; exact vectorTurn_mem h
  | iadd | isub | imul | imin | imax => unfold exec at h; exact elem2_mem h
  | vredMin | vredMax => unfold exec at h; exact vredExtreme_mem h
  | pupd | pdec => unfold exec at h; exact planarTurn_mem h
  | ld => exact execLd_mem h
  | st => exact execSt_mem h
  | migr => exact execMigr_mem h
  | home gd f => exact execHome_mem (f := f) h
  | fence => exact execFence_mem h
  | vld => exact execVld_mem h
  | vst => exact execVst_mem h
  | vldp => exact execVldp_mem h
  | vstp => exact execVstp_mem h
  | lds => exact execLds_mem h
  | sts => exact execSts_mem h
  | tprb => exact execTprb_mem h
  | kvfork | kvfree => unfold exec at h; exact kvTurn_mem h
  | tld => exact execTld_mem h
  | rdmSp => exact execRdmSp_mem h
  | rdmV => exact execRdmV_mem h
  | rdmS => exact execRdmS_mem h
  | tqry => exact execTqry_mem h
  | tdrop => exact execTdrop_mem h
  | cldX | cldB | cldtX | cldtB | cldg | rld | rldg | fold | acpV | acpSp | acps | aclrX | aclrF | skeep =>
    unfold exec at h; exact engTurn_mem h
  | cres | cresD => unfold exec at h; exact cresTurn_mem h
  | wlt => exact execWlt_mem h
  | cgo | getsCpGo => unfold exec at h; exact copyTurn_mem h
  | binit => exact execBinit_mem h
  | barv => exact execBarv_mem h
  | bwait => exact execBwait_mem h
  | sbind => exact execSbind_mem h
  | xreq => exact execXreq_mem h
  | amoAdd | amoMin | amoMax | amoAnd | amoOr | amoXor | amoSwap | amoCas | redAdd | redMin | redMax | redAnd | redOr | redXor |
    redX => unfold exec at h; exact atomTurn_mem h
  | inbx => exact execInbx_mem h
  | launch => exact execLaunch_mem h
  | texit gd f => exact execTexit_mem (f := f) h
  | phase => exact execPhase_mem h
  | cpin | cunpin => unfold exec at h; exact pinTurn_mem h
  | trap => exact execTrap_mem h
  | rti gd f => exact execRti_mem (f := f) h
  | gets => exact execGets_mem h
  | sets => exact execSets_mem h
  | brk => exact execBrk_mem h
  | trc => exact execTrc_mem h
  | lineFetchReply => exact execLineFetchReply_mem h
  | tableWalkComplete => exact execTableWalkComplete_mem h
  | loadReply => exact execLoadReply_mem h
  | readPerform => exact execReadPerform_mem h
  | frontierUpdate => exact execFrontierUpdate_mem h
  | clusterBlockExpand => exact execClusterBlockExpand_mem h
  | amoReply => exact execAmoReply_mem h
  | redAck => exact execRedAck_mem h
  | gatewayMerge => exact execGatewayMerge_mem h
  | mergeHoldExpiry => exact execMergeHoldExpiry_mem h
  | nWordArrival => exact execNWordArrival_mem h
  | migrArrival => exact execMigrArrival_mem h
  | gangForm => exact execGangForm_mem h
  | rejoinArrival => exact execRejoinArrival_mem h
  | xreqAnswer => exact execXreqAnswer_mem h
  | reportDelivery => exact execReportDelivery_mem h
  | collectionWindowClose => exact execCollectionWindowClose_mem h
  | coreMachineCheck => exact execCoreMachineCheck_mem h
  | commandActivate => exact execCommandActivate_mem h
  | commandComplete => exact execCommandComplete_mem h
  | engineFaultPark => exact execEngineFaultPark_mem h
  | engineMigration => exact execEngineMigration_mem h
  | partialReturn => exact execPartialReturn_mem h
  | skeepBroadcast => exact execSkeepBroadcast_mem h
  | inboxMessageArrival => exact execInboxMessageArrival_mem h
  | copyStart => exact execCopyStart_mem h
  | copyPark => exact execCopyPark_mem h
  | copyComplete => exact execCopyComplete_mem h
  | cpResResume => exact execCpResResume_mem h
  | cpResDiscard => exact execCpResDiscard_mem h
  | transformComplete => exact execTransformComplete_mem h
  | tldRequest => exact execTldRequest_mem h
  | ticketGroupLanded => exact execTicketGroupLanded_mem h
  | ticketClaim => exact execTicketClaim_mem h
  | ticketDelivery => exact execTicketDelivery_mem h
  | tdropAtSlice => exact execTdropAtSlice_mem h
  | tqryAtSlice => exact execTqryAtSlice_mem h
  | leaseExpiry => exact execLeaseExpiry_mem h
  | launchAccept => exact execLaunchAccept_mem h
  | teamBind => exact execTeamBind_mem h
  | stealRequest => exact execStealRequest_mem h
  | stealReply => exact execStealReply_mem h
  | stealBackoffExpiry => exact execStealBackoffExpiry_mem h
  | phaseCommit => exact execPhaseCommit_mem h
  | roundSwitch => exact execRoundSwitch_mem h
  | heartbeat => exact execHeartbeat_mem h
  | dieFence => exact execDieFence_mem h
  | swapInstant => exact execSwapInstant_mem h
  | castlingOffer => exact execCastlingOffer_mem h
  | castlingSwap => exact execCastlingSwap_mem h
  | preemptStop => exact execPreemptStop_mem h
  | preemptDrainDone => exact execPreemptDrainDone_mem h
  | preemptExchangeDone => exact execPreemptExchangeDone_mem h
  | peCtlWrite => exact execPeCtlWrite_mem h
  | tbInval => exact execTbInval_mem h
  | serviceRegisterWrite => exact execServiceRegisterWrite_mem h
  | jobDiscard => exact execJobDiscard_mem h
  | arbiterResumeThread => exact execArbiterResumeThread_mem h
  | breakpointHalt => exact execBreakpointHalt_mem h
  | debugResume => exact execDebugResume_mem h
  | debugTableWrite => exact execDebugTableWrite_mem h
  | traceSample => exact execTraceSample_mem h
  | tcUnfreeze => exact execTcUnfreeze_mem h
  | sinkTimeout => exact execSinkTimeout_mem h
  | clockFreeze => exact execClockFreeze_mem h
  | thermalThrottle => exact execThermalThrottle_mem h
  | linkMessageReceive => exact execLinkMessageReceive_mem h
  | lkAckWrite => exact execLkAckWrite_mem h
  | lkAckReplay => exact execLkAckReplay_mem h
  | linkTrain => exact execLinkTrain_mem h
  | peerHandshake => exact execPeerHandshake_mem h
  | peerConfigWrite => exact execPeerConfigWrite_mem h
  | spdmRequest => exact execSpdmRequest_mem h
  | keyUpdate => exact execKeyUpdate_mem h
  | startInterfaceRequest => exact execStartInterfaceRequest_mem h
  | stopInterfaceRequest => exact execStopInterfaceRequest_mem h
  | hostLaunch => exact execHostLaunch_mem h
  | dmaComplete => exact execDmaComplete_mem h
  | powerUp => exact execPowerUp_mem h
  | bootStatusQuery => exact execBootStatusQuery_mem h
  | coreCycle g lost => exact execCoreCycle_mem (lostBank := lost) h
  | bindRecordAging => exact execBindRecordAging_mem h
  | forwardedLineArrival => exact execForwardedLineArrival_mem h
  | linkFlitRetry => exact execLinkFlitRetry_mem h
  | linkLoss => exact execLinkLoss_mem h
  | arbiterFirmwareReplace => exact execArbiterFirmwareReplace_mem h
  | arbiterWatchdogExpiry => exact execArbiterWatchdogExpiry_mem h

theorem wf_exec {i : Instr} {s t : State} (hs : Memory.wf s.mem = true) (h : exec i s = .next t) : Memory.wf t.mem = true := by
  cases i with
  | writePerform => exact wf_execWritePerform hs h
  | heldWriteRelease => exact wf_execHeldWriteRelease hs h
  | pupdPerform => exact wf_execPupdPerform hs h
  | kvStep => exact wf_execKvStep hs h
  | kvBlockStep => exact wf_execKvBlockStep hs h
  | atomicPerform => exact wf_execAtomicPerform hs h
  | unitArrival => exact wf_execUnitArrival hs h
  | copySectorLand => exact wf_execCopySectorLand hs h
  | launchComplete => exact wf_execLaunchComplete hs h
  | recorderDrain => exact wf_execRecorderDrain hs h
  | lockInterfaceRequest => exact wf_execLockInterfaceRequest hs h
  | dmaDescriptor => exact wf_execDmaDescriptor hs h
  | partitionResize => exact wf_execPartitionResize hs h
  | traceSinkWrite => exact wf_execTraceSinkWrite hs h
  | reset => exact wf_execReset h
  | _ => rwa [exec_mem rfl h]

end Sys2Proof.Machine
end

section
/-! PROOFS. Memory stays canonical (R19). Every step: the schedule. -/
namespace Sys2Proof.Machine
open Sys2Proof

theorem wf_issueOne {i : Instr} {th : Thread} {p : Word} {s t : State} (hs : Memory.wf s.mem = true)
    (h : issueOne i th p s = .next t) : Memory.wf t.mem = true := by
  unfold issueOne at h; split at h
  · next a ha =>
    have hwa := wf_exec hs ha
    cases h
    split
    · rw [endPair_mem]; split <;> simpa using hwa
    · split <;> simpa using hwa
  · next hno => exact (hno t h).elim

theorem wf_issuePair {i1 i2 : Instr} {th : Thread} {s t : State} (hs : Memory.wf s.mem = true)
    (h : issuePair i1 i2 th s = .next t) : Memory.wf t.mem = true := by
  unfold issuePair at h; dsimp only at h; split at h
  · next a b ha hb =>
    have hwa := wf_exec hs ha
    have hwb : Memory.wf b.mem = true := wf_exec (by simpa using hs) hb
    split at h
    · cases h
      dsimp only; repeat' split
      all_goals simpa
    · split at h
      · cases h; exact hwa
      · split at h
        · cases h; simpa using hwa
        · split at h
          · next c hc =>
            have hwc : Memory.wf c.mem = true := wf_exec (by simpa using hwa) hc
            split at h <;> cases h
            · exact hs
            · simpa using hwc
          · next hno => exact (hno t h).elim
  · next hno => exact (hno t h).elim
  · next hno _ => exact (hno t h).elim

theorem wf_issueAll {is : List Instr} {s t : State} (hs : Memory.wf s.mem = true) (h : issueAll is s = .next t) :
    Memory.wf t.mem = true := by
  unfold issueAll at h; split at h
  · exact wf_issueOne hs h
  · exact wf_issuePair hs h
  · cases h; exact hs

theorem wf_runIssue {lost : Bool} {s t : State} (hs : Memory.wf s.mem = true) (h : runIssue lost s = .next t) :
    Memory.wf t.mem = true := by
  unfold runIssue at h; dsimp only at h; split at h
  · cases h; exact hs
  · split at h
    · next ha =>
      split at h
      · cases h; simpa using wf_issueAll (by exact hs) ha
      · split at h
        · next hb => cases h; simpa using wf_exec (by exact hs) hb
        · next hno => exact (hno t h).elim
    · next hno => exact (hno t h).elim
  · split at h
    · next ha =>
      split at h <;> cases h
      · simpa using hs
      · simpa using wf_issueAll (by exact hs) ha
    · next hno => exact (hno t h).elim

theorem wf_haltMove {g slot entry : Nat} {s t : State} (hs : Memory.wf s.mem = true) (h : haltMove g slot entry s = .next t) :
    Memory.wf t.mem = true := by
  unfold haltMove at h; replace h := orNot_next h; split at h
  · next ha =>
    split at h
    · cases h
    · split at h
      · next hb =>
        split at h <;> cases h
        exact wf_runIssue (wf_exec hs ha) hb
      · cases h
  · cases h

theorem wf_runMove {m : Instr} {s t : State} (hs : Memory.wf s.mem = true) (h : runMove m s = .next t) : Memory.wf t.mem = true := by
  unfold runMove at h; split at h
  · exact wf_haltMove hs h
  · split at h
    · exact wf_runIssue (wf_exec hs ‹_›) h
    · next hno => exact (hno t h).elim
  · split at h
    · cases h
    · exact wf_exec hs h

theorem wf_firstEnabled {ms : List Instr} {s t : State} (hs : Memory.wf s.mem = true) (h : firstEnabled s ms = some t) :
    Memory.wf t.mem = true := by
  induction ms with
  | nil => cases h
  | cons m rest ih =>
    unfold firstEnabled at h; split at h
    · cases h; exact wf_exec hs ‹_›
    · exact ih h

theorem next_mem_of_firstNext {os : List (Host.Outcome State Fault Refusal)} {t : State} (h : firstNext os = some t) :
    .next t ∈ os := by
  induction os with
  | nil => cases h
  | cons o rest ih =>
    cases o with
    | next a => cases h; exact .head _
    | _ => exact .tail _ (ih h)

theorem parks_mem {s t : State} (h : .next t ∈ s.parks) : t.mem = s.mem := by
  simp only [State.parks, List.mem_append, List.mem_flatMap, List.mem_filterMap, Option.map_eq_some_iff] at h
  obtain ⟨e, -, (⟨c, -, u, -, h⟩ | h) | ⟨x, -, i, -, h⟩⟩ | ⟨e, -, j, -, h⟩ := h
  · exact execEngineFaultPark_mem h
  · split at h
    · obtain ⟨u, -, h⟩ := Option.map_eq_some_iff.1 (Option.mem_toList.1 h)
      exact execEngineFaultPark_mem h
    · cases h
  · exact execCopyPark_mem h
  · split at h
    · obtain ⟨i, -, h⟩ := Option.map_eq_some_iff.1 h
      exact execCopyPark_mem h
    · cases h

theorem wf_defaultMove {s t : State} (hs : Memory.wf s.mem = true) (h : defaultMove s = .next t) : Memory.wf t.mem = true := by
  unfold defaultMove at h; split at h
  · cases h; exact wf_firstEnabled hs ‹_›
  · split at h
    · next hp =>
      cases h
      rwa [parks_mem (next_mem_of_firstNext hp)]
    · exact wf_runMove hs h

theorem wf_step {s t : State} (hs : Memory.wf s.mem = true) (h : step s = .next t) : Memory.wf t.mem = true := by
  unfold step at h; split at h
  · split at h
    · cases h
    · exact wf_defaultMove hs h
  · split at h
    · cases h
    · exact wf_runMove (by exact hs) h

/-- Settles O8: a step is the next move of the agenda or of the default schedule; every move but those that `writesMemory` names leaves
memory as it is, and those change it through `memPut` and `memWrite` alone, or erase it. -/
theorem memoryCanonical : Obligations.MemoryCanonical := fun _ _ hs h => wf_step hs h

end Sys2Proof.Machine
end

section
/-! PROOFS. Encoding and decoding are inverse to one another (R33, R44, R50, R53). A word and its fields are two readings of one number;
an instruction with a word is a form with a guard and fields; the fields of a legal word are the codes of what they decode to. -/
namespace Sys2Proof
open Sys2Proof.Machine

/-! A word and its fields (R44). -/

/-- The fields of a word are in their ranges. -/
structure Machine.RawWord.InRange (r : RawWord) : Prop where
  cls  : r.cls < 2 ^ 6
  op   : r.op < 2 ^ 8
  qual : r.qual < 2 ^ 2
  ty   : r.ty < 2 ^ 4
  dst  : r.dst < 2 ^ 9
  src1 : r.src1 < 2 ^ 9
  src2 : r.src2 < 2 ^ 9
  src3 : r.src3 < 2 ^ 9
  fmt  : r.fmt < 2 ^ 36

theorem field_lt (x lo n : Nat) : field x lo n < 2 ^ n := Nat.mod_lt _ (Nat.two_pow_pos n)

theorem rawOfWord_inRange (w : Nat) : (rawOfWord w).InRange := by
  constructor <;> exact field_lt ..

theorem gneg_eq (b : Bool) : (if b then 2 ^ 81 else 0) = b.toNat * 2 ^ 81 := by cases b <;> rfl

theorem testBit_eq_field (w k : Nat) : (w.testBit k).toNat = field w k 1 := by
  rw [Nat.testBit_eq_decide_div_mod_eq, field, pow_one]
  rcases Nat.mod_two_eq_zero_or_one (w / 2 ^ k) with h | h <;> simp [h]

theorem wordOfRaw_rawOfWord {w : Nat} (h : w < 2 ^ 96) : wordOfRaw (rawOfWord w) = w := by
  rw [wordOfRaw, gneg_eq]
  simp only [rawOfWord, testBit_eq_field, field, Fin.ofNat]
  omega

theorem wordOfRaw_lt {r : RawWord} (h : r.InRange) : wordOfRaw r < 2 ^ 96 := by
  obtain ⟨hc, ho, hq, ht, hd, h1, h2, h3, hf⟩ := h
  have hn := Bool.toNat_lt r.gd.neg
  have hi := r.gd.idx.isLt
  rw [wordOfRaw, gneg_eq]
  omega

theorem rawOfWord_wordOfRaw {r : RawWord} (h : r.InRange) : rawOfWord (wordOfRaw r) = r := by
  obtain ⟨hc, ho, hq, ht, hd, h1, h2, h3, hf⟩ := h
  have hn := Bool.toNat_lt r.gd.neg
  have hi := r.gd.idx.isLt
  obtain ⟨cls, op, ⟨neg, idx⟩, qual, ty, dst, src1, src2, src3, fmt⟩ := r
  have hbit (w : Nat) (b : Bool) (h : field w 81 1 = b.toNat) : w.testBit 81 = b := by
    rw [← testBit_eq_field] at h
    cases b <;> simpa using h
  simp only [rawOfWord, RawWord.mk.injEq, Guard.mk.injEq]
  refine ⟨?_, ?_, ⟨hbit _ _ ?_, Fin.ext ?_⟩, ?_, ?_, ?_, ?_, ?_, ?_, ?_⟩
  all_goals
    rw [wordOfRaw, gneg_eq]
    simp only [field, Fin.ofNat] at *
    omega

/-! The codes of types, registers and modifiers (R47, R49). -/

@[simp] theorem tyOf_tyCode (t : Ty) : tyOf (tyCode t) = t := by cases t <;> rfl

theorem tyCode_lt (t : Ty) : tyCode t < 2 ^ 4 := by cases t <;> decide

theorem tyCode_tyOf {c : Nat} (h : c < 2 ^ 4) : tyCode (tyOf c) = c := by
  interval_cases c <;> rfl

/-- The file and the index of a register's bits, and its modifier's bits between them. -/
theorem opndBits_parts (o : Opnd) : opFile (opndBits o) = regBits o.reg / 64 ∧ opIdx (opndBits o) = regBits o.reg % 64 ∧
    opMod (opndBits o) = modifBits o.m / 16 ∧ opndBits o < 2 ^ 9 := by
  have hr : regBits o.reg < 2 ^ 9 ∧ regBits o.reg % 64 < 16 := by
    cases o.reg <;> simp only [regBits] <;> omega
  have hm : modifBits o.m = 0 ∨ modifBits o.m = 16 ∨ modifBits o.m = 32 := by cases o.m <;> simp [modifBits]
  simp only [opFile, opIdx, opMod, opndBits, field]
  omega

theorem opndBits_lt (o : Opnd) : opndBits o < 2 ^ 9 := (opndBits_parts o).2.2.2

theorem regOf_regBits (r : Reg) : regOf (regBits r / 64) (regBits r % 64) = r := by
  cases r with
  | zero => rfl
  | d i | v i | s i | q i | n i | w i | p i | a i | y i => revert i; decide

theorem modifOf_modifBits (m : Modif) : modifOf (modifBits m / 16) = m := by cases m <;> rfl

@[simp] theorem opndOf_opndBits (o : Opnd) : opndOf (opndBits o) = o := by
  obtain ⟨hfile, hidx, hmod, -⟩ := opndBits_parts o
  rw [opndOf, hfile, hidx, hmod, regOf_regBits, modifOf_modifBits]

/-- A file and index that some position accepts are those of the register they name. -/
theorem regBits_regOf {k : FileK} {isDst : Bool} {file idx : Nat} (h : k.fits isDst file idx = true) (hi : idx < 16) :
    regBits (regOf file idx) = 64 * file + idx := by
  cases k <;> simp only [FileK.fits, Bool.and_eq_true, beq_iff_eq, decide_eq_true_eq] at h
  case d => obtain rfl := h; interval_cases idx <;> rfl
  case v | s | q | w | a => obtain ⟨rfl, hx⟩ := h; interval_cases idx <;> rfl
  case n => obtain ⟨rfl, hx⟩ := h; have : idx < 6 := by { split at hx <;> omega }; interval_cases idx <;> rfl
  case p => obtain ⟨⟨rfl, hx⟩, -⟩ := h; interval_cases idx <;> rfl
  case y => obtain ⟨⟨rfl, hx⟩, hy⟩ := h; interval_cases idx <;> rfl
  case n4 | z | absent => obtain ⟨rfl, rfl⟩ := h; rfl

theorem modifBits_modifOf {m : Nat} (h : m < 3) : modifBits (modifOf m) = 16 * m := by interval_cases m <;> rfl

theorem opMod_lt_of_badModifier {cls x : Nat} {isDst : Bool} (h : badModifier cls isDst x = false) : opMod x < 3 := by
  unfold badModifier at h
  split at h
  case h_4 => cases h
  all_goals omega

/-- Nine bits in a used position that pass the checks of their modifier and their register are the bits of their operand. -/
theorem opndBits_opndOf {ks : List FileK} {isDst : Bool} {cls x : Nat} (hx : x < 2 ^ 9) (hm : badModifier cls isDst x = false)
    (ho : operandOk ks isDst x = true) (hu : ks.isEmpty = true → x = 0) : opndBits (opndOf x) = x := by
  have hmod := modifBits_modifOf (opMod_lt_of_badModifier hm)
  have hidx : opIdx x < 16 := field_lt ..
  rcases Bool.or_eq_true_iff.mp ho with he | hk
  · obtain rfl := hu he; rfl
  · obtain ⟨k, -, hfits⟩ := List.any_eq_true.mp hk
    have hreg := regBits_regOf hfits hidx
    rw [opndBits, opndOf, hreg, hmod]
    simp only [opFile, opMod, opIdx, field]
    omega

/-! Instructions and their forms (R60). -/

theorem opOf_isSome (i : Instr) : (opOf i).isSome = (rawOf i).isSome := by cases i <;> rfl

theorem opOf_build (n : Op) (gd : Guard) (f : Fields) : opOf (n.build gd f) = some n := by cases n <;> rfl

/-- An instruction with a form is that form with a guard and fields. -/
theorem eq_build_of_opOf {i : Instr} {n : Op} (h : opOf i = some n) : ∃ gd f, i = n.build gd f := by
  cases i <;> cases h <;> exact ⟨_, _, rfl⟩

/-- The class and op of a form: those of its instruction without operands. -/
def Machine.Op.code (n : Op) : Option (Nat × Nat) :=
  (rawOf (n.build ⟨false, 0⟩ ⟨0, .dflt, .unused, .unused, .unused, .unused, 0⟩)).map fun w => (w.cls, w.op)

/-- The raw fields of a form's instruction are the codes of its guard and fields under the form's class and op. -/
theorem rawOf_build (n : Op) (gd : Guard) (f : Fields) : rawOf (n.build gd f) = n.code.map fun c => rawWord c.1 c.2 gd f := by
  cases n <;> rfl

theorem exists_form {i : Instr} {w : RawWord} (h : rawOf i = some w) :
    ∃ (n : Op) (cls op : Nat) (gd : Guard) (f : Fields), i = n.build gd f ∧ w = rawWord cls op gd f := by
  have hs := opOf_isSome i
  rw [h, Option.isSome_some, Option.isSome_iff_exists] at hs
  obtain ⟨n, hn⟩ := hs
  obtain ⟨gd, f, rfl⟩ := eq_build_of_opOf hn
  rw [rawOf_build, Option.map_eq_some_iff] at h
  obtain ⟨c, -, rfl⟩ := h
  exact ⟨n, c.1, c.2, gd, f, rfl, rfl⟩

/-- A class that has forms fits its field. -/
theorem cls_lt_of_mem_formsOf {cls : Nat} {f : Form} (h : f ∈ formsOf cls) : cls < 64 := by
  unfold formsOf at h
  split at h
  case h_21 => cases h
  all_goals decide

/-- Every row of the opcode map has the class and op of its form, which fit their fields; no class is 0 or 63. -/
theorem code_of_mem_formsOf {cls : Nat} {f : Form} (h : f ∈ formsOf cls) :
    f.name.code = some (cls, f.op) ∧ 0 < cls ∧ cls < 63 ∧ f.op < 2 ^ 8 := by
  have hrows : ∀ c < 64, ∀ f ∈ formsOf c, f.name.code = some (c, f.op) ∧ 0 < c ∧ c < 63 ∧ f.op < 2 ^ 8 := by decide +kernel
  exact hrows cls (cls_lt_of_mem_formsOf h) f h

/-! What a legal word is (R53). -/

/-- The form a word selects is one of its class and op. -/
theorem pick_mem {w : RawWord} {f : Form} (h : pick w = some f) : f ∈ formsOf w.cls ∧ f.op = w.op := by
  have hc : f ∈ (formsOf w.cls).filter fun f => f.op == w.op := by
    unfold pick at h
    dsimp only at h
    split at h
    · next hf => cases h; exact List.mem_of_find?_eq_some hf
    · exact List.mem_of_mem_head? h
  simpa using hc

/-- The checks of R53 that a word passes as the word of a form, at either level: modifiers, operands, reserved fields. -/
def Machine.Form.Passes (f : Form) (w : RawWord) : Prop :=
  (modifierBad f.dst true w.cls w.dst || modifierBad f.src1 false w.cls w.src1 || modifierBad f.src2 false w.cls w.src2
    || modifierBad f.src3 false w.cls w.src3) = false ∧
  (!(operandOk f.dst true w.dst && operandOk f.src1 false w.src1 && operandOk f.src2 false w.src2 && operandOk f.src3 false w.src3)
    || foldSame f w) = false ∧
  ((f.dst.isEmpty && w.dst != 0) || (f.src1.isEmpty && w.src1 != 0) || (f.src2.isEmpty && w.src2 != 0)
    || (f.src3.isEmpty && w.src3 != 0) || !f.quals.contains w.qual || !f.types.contains (if w.ty == 0 then f.dflt else w.ty)
    || (w.fmt &&& (0xFFFFFFFFF - f.fmask)) != 0 || !f.extra.ok f w.qual (if w.ty == 0 then f.dflt else w.ty) w.fmt) = false

/-- A word is legal at a level when it selects a form that the level may execute and whose checks it passes. -/
theorem illegalDetail_eq_zero {sup : Bool} {w : RawWord} : illegalDetail sup w = 0 ↔
    ∃ f, pick w = some f ∧ (!sup && privileged f.name w.fmt) = false ∧ f.Passes w := by
  have hforms (f : Form) (hf : pick w = some f) : (formsOf w.cls).isEmpty = false := by
    rw [List.isEmpty_eq_false_iff_exists_mem]; exact ⟨f, (pick_mem hf).1⟩
  unfold illegalDetail
  cases hp : pick w with
  | none => by_cases he : (formsOf w.cls).isEmpty = true <;> simp [he]
  | some f =>
    simp only [hforms f hp, Bool.false_eq_true, if_false, Option.some.injEq, exists_eq_left', Form.Passes]
    constructor
    · intro h
      repeat' split at h
      all_goals simp_all
    · rintro ⟨h6, h5, h4, h3⟩
      simp only [h6, h5, h4, h3, Bool.false_eq_true, if_false]

/-- A word that is legal for a task is legal for a supervisor. -/
theorem legal_sup {sup : Bool} {w : RawWord} (h : illegalDetail sup w = 0) : illegalDetail true w = 0 := by
  obtain ⟨f, hf, -, hp⟩ := illegalDetail_eq_zero.mp h
  exact illegalDetail_eq_zero.mpr ⟨f, hf, rfl, hp⟩

/-- The bits of each operand field that passes the checks are those of its operand. -/
theorem Machine.Form.Passes.opnds {f : Form} {w : RawWord} (h : f.Passes w) (hr : w.InRange) :
    opndBits (opndOf w.dst) = w.dst ∧ opndBits (opndOf w.src1) = w.src1 ∧ opndBits (opndOf w.src2) = w.src2 ∧
      opndBits (opndOf w.src3) = w.src3 := by
  obtain ⟨hm, ho, hu⟩ := h
  simp only [modifierBad, Bool.or_eq_false_iff] at hm
  obtain ⟨⟨⟨⟨hm, -⟩, hm1, -⟩, hm2, -⟩, hm3, -⟩ := hm
  simp only [Bool.or_eq_false_iff, Bool.not_eq_eq_eq_not, Bool.not_false, Bool.and_eq_true] at ho
  obtain ⟨⟨⟨⟨ho, ho1⟩, ho2⟩, ho3⟩, -⟩ := ho
  simp only [Bool.or_eq_false_iff, Bool.and_eq_false_imp, bne_eq_false_iff_eq] at hu
  obtain ⟨⟨⟨⟨⟨⟨⟨hu, hu1⟩, hu2⟩, hu3⟩, -⟩, -⟩, -⟩, -⟩ := hu
  exact ⟨opndBits_opndOf hr.dst hm ho hu, opndBits_opndOf hr.src1 hm1 ho1 hu1, opndBits_opndOf hr.src2 hm2 ho2 hu2,
    opndBits_opndOf hr.src3 hm3 ho3 hu3⟩

/-- The codes of the fields of a word that passes the checks are the word's own fields. -/
theorem Machine.Form.Passes.rawWord_fieldsOf {f : Form} {w : RawWord} (h : f.Passes w) (hr : w.InRange) :
    rawWord w.cls w.op w.gd (fieldsOf w) = w := by
  obtain ⟨hd, h1, h2, h3⟩ := h.opnds hr
  obtain ⟨-, -, hq, ht, -, -, -, -, hf⟩ := hr
  simp only [rawWord, fieldsOf, hd, h1, h2, h3, tyCode_tyOf ht, BitVec.toNat_ofNat, Nat.mod_eq_of_lt hq, Nat.mod_eq_of_lt hf]

@[simp] theorem fieldsOf_rawWord (cls op : Nat) (gd : Guard) (f : Fields) : fieldsOf (rawWord cls op gd f) = f := by
  simp [fieldsOf, rawWord]

theorem rawWord_inRange {cls op : Nat} (gd : Guard) (f : Fields) (hc : cls < 2 ^ 6) (ho : op < 2 ^ 8) :
    (rawWord cls op gd f).InRange :=
  ⟨hc, ho, f.qual.isLt, tyCode_lt _, opndBits_lt _, opndBits_lt _, opndBits_lt _, opndBits_lt _, f.fmt.isLt⟩

/-! Decoding. -/

/-- A word decodes when it is legal, to its form with its guard and fields. -/
theorem decodeRaw_eq_ok {sup : Bool} {r : RawWord} {i : Instr} : decodeRaw sup r = .ok i ↔
    illegalDetail sup r = 0 ∧ ∃ f, pick r = some f ∧ i = f.name.build r.gd (fieldsOf r) := by
  unfold decodeRaw
  constructor
  · intro h
    split at h
    · next hd =>
      split at h
      · next f hf => cases h; exact ⟨hd, f, hf, rfl⟩
      · cases h
    · cases h
  · rintro ⟨hd, f, hf, rfl⟩
    rw [hd, hf]

/-- The word of a class of the opcode map is neither all zeros nor all ones (R61). -/
theorem wordOfRaw_assigned {r : RawWord} (hr : r.InRange) (h0 : 0 < r.cls) (h63 : r.cls < 63) :
    ¬(wordOfRaw r % 2 ^ 96 = 0 ∨ wordOfRaw r % 2 ^ 96 = 2 ^ 96 - 1) := by
  have hcls : field (wordOfRaw r) 90 6 = r.cls := congrArg RawWord.cls (rawOfWord_wordOfRaw hr)
  rw [field] at hcls
  omega

/-- Settles O1: an instruction is a form with its fields, whose codes the decoder reads back, and its word selects its own form. -/
theorem encodeThenDecode : Obligations.EncodeThenDecode := by
  unfold Obligations.EncodeThenDecode
  intro i w hwf henc
  obtain ⟨r, hr, rfl⟩ := Option.map_eq_some_iff.mp henc
  obtain ⟨n, cls, op, gd, f, rfl, rfl⟩ := exists_form hr
  simp only [wellFormed, hr, Bool.and_eq_true, beq_iff_eq, opOf_build, Option.map_eq_some_iff] at hwf
  obtain ⟨hlegal, form, hpick, rfl⟩ := hwf
  obtain ⟨hmem, hop⟩ := pick_mem hpick
  obtain ⟨-, h0, h63, h8⟩ := code_of_mem_formsOf hmem
  have hin : (rawWord cls op gd f).InRange := rawWord_inRange gd f (Nat.lt_succ_of_lt h63) (hop.symm.trans_lt h8)
  refine ⟨wordOfRaw_lt hin, ?_⟩
  rw [decodeWord, if_neg (wordOfRaw_assigned hin h0 h63), rawOfWord_wordOfRaw hin, decodeRaw_eq_ok]
  exact ⟨hlegal, form, hpick, by rw [fieldsOf_rawWord]; rfl⟩

/-- Settles O2: a word that decodes has passed the checks, so that the codes of its fields are its own, under its form's class and op. -/
theorem decodeThenEncode : Obligations.DecodeThenEncode := by
  unfold Obligations.DecodeThenEncode
  intro sup w i hw hdec
  unfold decodeWord at hdec
  split at hdec
  · cases hdec
  obtain ⟨hlegal, form, hpick, rfl⟩ := decodeRaw_eq_ok.mp hdec
  obtain ⟨hmem, hop⟩ := pick_mem hpick
  obtain ⟨form', hpick', -, hpasses⟩ := illegalDetail_eq_zero.mp hlegal
  have hraw : rawOf (form.name.build (rawOfWord w).gd (fieldsOf (rawOfWord w))) = some (rawOfWord w) := by
    rw [rawOf_build, (code_of_mem_formsOf hmem).1, hop]
    exact congrArg some (hpasses.rawWord_fieldsOf (rawOfWord_inRange w))
  constructor
  · rw [encode, hraw, Option.map_some, wordOfRaw_rawOfWord hw]
  · simp only [wellFormed, hraw, legal_sup hlegal, hpick, opOf_build, Option.map_some, beq_self_eq_true, Bool.and_self]

end Sys2Proof
end

section
/-! PROOFS. Words that are no instruction (R61), words the spec writes out (R62), and the trap that a refused word raises (R53). -/
namespace Sys2Proof
open Sys2Proof.Machine

/-- A class that R60 does not list has no forms. -/
theorem formsOf_unassigned {cls : Nat} (h : cls ∉ [0x01, 0x02, 0x04, 0x05, 0x08, 0x09, 0x0A, 0x0C, 0x0D, 0x10, 0x11, 0x12, 0x14, 0x18,
    0x1A, 0x1B, 0x1C, 0x20, 0x24, 0x26]) : formsOf cls = [] := by
  unfold formsOf
  split
  case h_21 => rfl
  all_goals exact absurd (by decide) h

theorem illegalDetail_unassigned {sup : Bool} {r : RawWord} (h : formsOf r.cls = []) : illegalDetail sup r = 1 := by
  simp [illegalDetail, h]

/-- A word whose op no form of its class has selects no form. -/
theorem pick_unlisted {r : RawWord} (h : ∀ f ∈ formsOf r.cls, f.op ≠ r.op) : pick r = none := by
  cases hp : pick r with
  | none => rfl
  | some f => obtain ⟨hmem, hop⟩ := pick_mem hp; exact absurd hop (h f hmem)

theorem illegalDetail_unlisted {sup : Bool} {r : RawWord} (hc : formsOf r.cls ≠ []) (h : ∀ f ∈ formsOf r.cls, f.op ≠ r.op) :
    illegalDetail sup r = 2 := by
  simp [illegalDetail, hc, pick_unlisted h]

theorem decodeRaw_refused {sup : Bool} {r : RawWord} {d : Nat} (h : illegalDetail sup r = d + 1) : decodeRaw sup r = .error (d + 1) := by
  simp [decodeRaw, h]

/-- A word that is neither all zeros nor all ones is judged by its fields. -/
theorem decodeWord_eq_decodeRaw {sup : Bool} {w : Nat} (hw : w < 2 ^ 96) (h0 : w ≠ 0) (h1 : w ≠ 2 ^ 96 - 1) :
    decodeWord sup w = decodeRaw sup (rawOfWord w) := by
  rw [decodeWord, if_neg]
  rw [Nat.mod_eq_of_lt hw]
  exact not_or.mpr ⟨h0, h1⟩

theorem rawOfWord_cls {w : Nat} (hw : w < 2 ^ 96) : (rawOfWord w).cls = w / 2 ^ 90 := by
  simp only [rawOfWord, field]
  omega

theorem decodeWord_blank {sup : Bool} {w : Nat} (hw : w < 2 ^ 96) (h : w = 0 ∨ w = 2 ^ 96 - 1) : decodeWord sup w = .error 7 := by
  rw [decodeWord, if_pos]
  rwa [Nat.mod_eq_of_lt hw]

theorem decodeWord_unassigned {sup : Bool} {w : Nat} (hw : w < 2 ^ 96) (h0 : w ≠ 0) (h1 : w ≠ 2 ^ 96 - 1)
    (hc : formsOf (w / 2 ^ 90) = []) : decodeWord sup w = .error 1 := by
  rw [decodeWord_eq_decodeRaw hw h0 h1]
  exact decodeRaw_refused (illegalDetail_unassigned (by rwa [rawOfWord_cls hw]))

theorem decodeWord_unlisted {sup : Bool} {w : Nat} (hw : w < 2 ^ 96) (hc : formsOf (w / 2 ^ 90) ≠ [])
    (h : ∀ f ∈ formsOf (w / 2 ^ 90), f.op ≠ w / 2 ^ 82 % 2 ^ 8) : decodeWord sup w = .error 2 := by
  have h0 : w ≠ 0 := by rintro rfl; exact hc rfl
  have h1 : w ≠ 2 ^ 96 - 1 := by rintro rfl; exact hc rfl
  rw [decodeWord_eq_decodeRaw hw h0 h1]
  rw [← rawOfWord_cls hw] at hc h
  exact decodeRaw_refused (illegalDetail_unlisted hc h)

/-- A trap of an issue attempt that no breakpoint halts and that is not at a handler's entry is raised. -/
theorem trapOrHalt_raises {s : State} {g slot : Nat} {t : Thread} {pcs : List Word} {r : Report} (hb : s.breakFor t pcs = none)
    (hv : t.vector = none) : s.trapOrHalt g slot t pcs r = s.raise g slot t r := by
  have hstop : s.stopsAt t pcs = none := by rw [State.stopsAt, hb, ite_self]
  simp only [State.trapOrHalt, hstop, State.entryTrap, hv]

/-- A word that is refused traps at its turn, unless the line is refused before it or a breakpoint halts the thread (R53). -/
theorem decodeTurn_refused {s : State} {g slot : Nat} {t : Thread} {bits : BitVec 512} {d : Nat}
    (he : t.entry = none ∨ lineTgt bits (t.pc.toNat % 8) = true) (hv : t.vector = none) (hb : ∀ pcs, s.breakFor t pcs = none)
    (hr : lineReserved bits = 0) (hd : decodeWord t.sup (lineSlot bits (t.pc.toNat % 8)) = .error d) :
    s.decodeTurn g slot t bits = s.raise g slot t (preciseReport kindIllegal d t.pc 0) := by
  have hentry : (t.entry.isSome && !lineTgt bits (t.pc.toNat % 8)) = false := by
    rcases he with he | he <;> simp [he]
  simp only [State.decodeTurn, hentry, hr, hd, Bool.false_eq_true, if_false, ne_eq, not_true_eq_false]
  exact trapOrHalt_raises (hb _) hv

/-- Settles O4: each refusal is the first check of R53 that the word fails, and the refused word traps at its turn. -/
theorem unassignedWords : Obligations.UnassignedWords := by
  unfold Obligations.UnassignedWords
  refine ⟨fun sup w hw => ⟨decodeWord_blank hw, ?_, decodeWord_unlisted hw⟩, ?_⟩
  · intro h0 h1 hc
    exact decodeWord_unassigned hw h0 h1 (formsOf_unassigned hc)
  · intro s g slot t bits d he hv hb hr hd
    exact decodeTurn_refused he hv hb hr hd

/-- Settles O3: the decoder evaluates each word. -/
theorem decodeWords : Obligations.DecodeWords := by
  unfold Obligations.DecodeWords
  decide +kernel

/-- An instruction with a word is no move that writes memory. -/
theorem writesMemory_of_rawOf {i : Instr} {w : RawWord} (h : rawOf i = some w) : writesMemory i = false := by
  obtain ⟨n, -, -, gd, f, rfl, -⟩ := exists_form h
  cases n <;> rfl

/-- Settles O10: only the moves that perform an access at its home write memory, and an instruction is none of them. -/
theorem issueStoresNothing : Obligations.IssueStoresNothing := by
  unfold Obligations.IssueStoresNothing
  intro i w s t hi h a
  rw [exec_mem (writesMemory_of_rawOf hi) h]

end Sys2Proof
end

section
/-! PROOFS. Sequential order (R38, R41): the slots of a line are numbered through, five to a line of 64 bytes. -/
namespace Sys2Proof.Machine
open Sys2Proof

/-- The number of a pc's slot among all slots, five to a line (R41). -/
def slotNumber (pc : Word) : Nat := 5 * (pc.toNat / 64) + pc.toNat % 8

/-- The pc of a slot number. -/
def pcOfSlot (n : Nat) : Word := BitVec.ofNat 64 (n / 5 * 64 + n % 5)

/-- A pc: bits [5:3] zero, a slot of 0 to 4. -/
def IsPc (pc : Word) : Prop := pc.toNat / 8 % 8 = 0 ∧ pc.toNat % 8 < 5

theorem branchTarget_eq (pc : Word) (off : BitVec 32) :
    branchTarget pc off = pcOfSlot (((slotNumber pc : Int) + off.toInt) % (5 * 2 ^ 58)).toNat := by
  simp only [branchTarget, pcOfSlot, slotNumber]
  push_cast
  rfl

theorem pcOfSlot_toNat {n : Nat} (h : n < 5 * 2 ^ 58) : (pcOfSlot n).toNat = n / 5 * 64 + n % 5 := by
  rw [pcOfSlot, BitVec.toNat_ofNat]
  omega

theorem isPc_pcOfSlot {n : Nat} (h : n < 5 * 2 ^ 58) : IsPc (pcOfSlot n) := by
  rw [IsPc, pcOfSlot_toNat h]
  omega

theorem slotNumber_pcOfSlot {n : Nat} (h : n < 5 * 2 ^ 58) : slotNumber (pcOfSlot n) = n := by
  rw [slotNumber, pcOfSlot_toNat h]
  omega

theorem pcOfSlot_slotNumber {pc : Word} (h : IsPc pc) : pcOfSlot (slotNumber pc) = pc := by
  obtain ⟨hbits, hslot⟩ := h
  have hlt := pc.isLt
  apply BitVec.eq_of_toNat_eq
  rw [pcOfSlot_toNat (by unfold slotNumber; omega), slotNumber]
  omega

/-- The target of an offset that does not leave the address space is that many slots on. -/
theorem branchTarget_slot {pc : Word} {off : BitVec 32} {m : Nat} (hm : m < 5 * 2 ^ 58)
    (h : (slotNumber pc : Int) + off.toInt = m) : branchTarget pc off = pcOfSlot m := by
  rw [branchTarget_eq, h]
  congr 1
  omega

theorem isPc_branchTarget (pc : Word) (off : BitVec 32) : IsPc (branchTarget pc off) := by
  rw [branchTarget_eq]
  exact isPc_pcOfSlot (by omega)

/-- The line address of a pc is its own without the low six bits. -/
theorem lineMask_toNat (pc : Word) : (pc &&& 0xFFFFFFFFFFFFFFC0).toNat = pc.toNat / 64 * 64 := by
  have hmask : pc &&& (0xFFFFFFFFFFFFFFC0 : Word) = (pc >>> 6) <<< 6 := by
    have hbit : ∀ i < 64, (0xFFFFFFFFFFFFFFC0 : Word).getLsbD i = decide (6 ≤ i) := by decide
    apply BitVec.eq_of_getLsbD_eq
    intro i hi
    rw [BitVec.getLsbD_and, hbit i hi, BitVec.getLsbD_shiftLeft, BitVec.getLsbD_ushiftRight]
    by_cases h : 6 ≤ i
    · simp [h, hi, Nat.not_lt.mpr h, Nat.add_sub_cancel' h]
    · simp [h, Nat.lt_of_not_le h]
  have hlt := pc.isLt
  rw [hmask, BitVec.toNat_shiftLeft, BitVec.toNat_ushiftRight, Nat.shiftLeft_eq, Nat.shiftRight_eq_div_pow]
  omega

/-- The sequential successor of a pc is the next slot (R38). -/
theorem succPc_eq {pc : Word} (h : IsPc pc) (hlt : pc.toNat < 2 ^ 64 - 64) : succPc pc = pcOfSlot (slotNumber pc + 1) := by
  obtain ⟨hbits, hslot⟩ := h
  apply BitVec.eq_of_toNat_eq
  rw [pcOfSlot_toNat (by unfold slotNumber; omega), slotNumber, succPc]
  split
  · rw [BitVec.toNat_add, lineMask_toNat, show (64 : Word).toNat = 64 from rfl]; omega
  · rw [BitVec.toNat_add, show (1 : Word).toNat = 1 from rfl]; omega

/-- Settles O25: a pc is the place of its slot number, from which sequential order and branch offsets count. -/
theorem sequentialOrder : Obligations.SequentialOrder := by
  unfold Obligations.SequentialOrder
  constructor
  · intro line slot hl hs
    have hn : BitVec.ofNat 64 (64 * line + slot) = pcOfSlot (5 * line + slot) := by rw [pcOfSlot]; congr 1; omega
    have hlt : 5 * line + slot < 5 * 2 ^ 58 := by omega
    rw [hn, succPc_eq (isPc_pcOfSlot hlt) (by rw [pcOfSlot_toNat hlt]; omega), slotNumber_pcOfSlot hlt, pcOfSlot]
    split <;> (congr 1; omega)
  · intro pc hbits hslot hlt
    have hpc : IsPc pc := ⟨hbits, hslot⟩
    have hn : slotNumber pc + 1 < 5 * 2 ^ 58 := by unfold slotNumber; omega
    have hone : branchTarget pc 1 = pcOfSlot (slotNumber pc + 1) := branchTarget_slot hn rfl
    refine ⟨?_, ?_, ?_, isPc_branchTarget pc⟩
    · rw [branchTarget_slot (m := slotNumber pc) (by omega) (Int.add_zero _), pcOfSlot_slotNumber hpc]
    · rw [hone, succPc_eq hpc hlt]
    · rw [hone, branchTarget_slot (m := slotNumber pc) (by omega), pcOfSlot_slotNumber hpc]
      rw [slotNumber_pcOfSlot hn, show (-1 : BitVec 32).toInt = -1 from rfl]
      omega

end Sys2Proof.Machine
end

section
/-! PROOFS. What a source gives and takes (R106–R111, R287), one lemma per file; one source and two sources read in order (R51). -/
namespace Sys2Proof.Machine
open Sys2Proof

/-! One source, and two. -/

theorem take_one (x : Ctx) (o : Opnd) : x.take [o] =
    ([(takeSrc x.s x.g x.c x.t o).1], (takeSrc x.s x.g x.c x.t o).2.1, clearSyncs (takeSrc x.s x.g x.c x.t o).2.2 [o]) := rfl

@[simp] theorem clearSyncs_plain (t : Thread) (r : Reg) (rest : List Opnd) :
    clearSyncs t (⟨r, .plain⟩ :: rest) = clearSyncs t rest := rfl

theorem clearSyncs_notSync (t : Thread) (r : Reg) {m : Modif} (h : m ≠ .sync) (rest : List Opnd) :
    clearSyncs t (⟨r, m⟩ :: rest) = clearSyncs t rest := by
  cases m with
  | plain | neg => rfl
  | sync => exact absurd rfl h

theorem clearSyncs_zero (t : Thread) (m : Modif) (rest : List Opnd) : clearSyncs t (⟨.zero, m⟩ :: rest) = clearSyncs t rest := by
  cases m <;> rfl

/-! What the source of each file gives. -/

section
variable (s : State) (g : Nat) (c : Core) (t : Thread) (m : Modif)

theorem takeSrc_q {i : Fin 4} {a : Word} {rest : List Word} (h : c.q[i] = a :: rest) :
    takeSrc s g c t ⟨.q i, m⟩ = (.w a, { c with q := c.q.set i rest }, t) := by
  simp only [takeSrc, h, List.headD_cons, List.drop_one, List.tail_cons]

/-- The first entry under a tag is taken, those before it under other tags stay. -/
theorem takeTagged_append (tag : Nat × Nat) {before : List (Nat × Nat × Word)} (w : Word) (after : List (Nat × Nat × Word))
    (h : ∀ e ∈ before, e.1 = tag.1 → e.2.1 ≠ tag.2) :
    takeTagged tag (before ++ (tag.1, tag.2, w) :: after) = (w, before ++ after) := by
  induction before with
  | nil => simp [takeTagged]
  | cons e rest ih =>
    have he : ¬(e.1 = tag.1 ∧ e.2.1 = tag.2) := fun hc => h e List.mem_cons_self hc.1 hc.2
    simp only [List.cons_append, takeTagged, if_neg he, ih fun e' hm => h e' (List.mem_cons_of_mem _ hm)]

/-- The words of the link register n0–n3 numbered i, as the list that a read looks through. -/
theorem nin_getD (c : Core) (i : Fin 4) : c.nin.toList.getD i.val [] = c.nin[i] := by
  simp [List.getD_eq_getElem?_getD]

theorem takeSrc_link {i : Fin 4} {before after : List (Nat × Nat × Word)} {w : Word}
    (h : c.nin[i] = before ++ ((s.linkTag g t).1, (s.linkTag g t).2, w) :: after)
    (hb : ∀ e ∈ before, e.1 = (s.linkTag g t).1 → e.2.1 ≠ (s.linkTag g t).2) :
    takeSrc s g c t ⟨.n (i.castLE (by decide)), m⟩ = (.w w, { c with nin := c.nin.set i (before ++ after) }, t) := by
  have hset : c.nin.setIfInBounds i.val (before ++ after) = c.nin.set i (before ++ after) := by
    simp [Vector.setIfInBounds, Vector.set, Array.setIfInBounds]
  simp only [takeSrc, Fin.val_castLE, i.isLt, if_true, nin_getD, h, takeTagged_append _ w after hb, hset]

theorem takeSrc_n4 {a : Word} {rest : List Word} (h : c.n4 = a :: rest) :
    takeSrc s g c t ⟨.n 4, m⟩ = (.w a, { c with n4 := rest }, t) := by
  simp [takeSrc, h]

/-- The entry that `inbx` would take is the head message of its colour. -/
theorem find?_of_takeInbox {colour : Nat} {inbox : List InboxEntry} {e : InboxEntry} {rest : List InboxEntry}
    (h : takeInbox colour inbox = some (e, rest)) : inbox.find? (fun e => e.colour == colour) = some e := by
  induction inbox generalizing rest with
  | nil => cases h
  | cons a l ih =>
    rw [takeInbox] at h
    split at h
    · next ha => cases h; simp [ha]
    · next ha =>
      obtain ⟨r, hr, he⟩ := Option.map_eq_some_iff.mp h
      obtain ⟨rfl, -⟩ := Prod.mk.inj he
      simp [ha, ih hr]

theorem takeSrc_n5 {e : InboxEntry} {rest : List InboxEntry} (h : takeInbox t.colour c.inbox = some (e, rest)) :
    takeSrc s g c t ⟨.n 5, m⟩ = (.w e.w0, c, t) := by
  simp [takeSrc, find?_of_takeInbox h]

theorem takeSrc_s {i : Fin 4} {st : Stream} (h : t.streams[i] = some st) : takeSrc s g c t ⟨.s i, m⟩ =
    (.v (lanesOf (st.buf.take 128)), c, { t with
      streams := t.streams.set i (if st.buf.drop 128 = [] ∧ st.left = 0 then none else some { st with buf := st.buf.drop 128 }) }) := by
  simp only [takeSrc, h, Bool.and_eq_true, List.isEmpty_iff, beq_iff_eq]

end

/-- Settles O16: a source read alone gives and takes what its file says; of two in order the second finds what the first has left. -/
theorem sourcesRead : Obligations.SourcesRead := by
  unfold Obligations.SourcesRead
  intro x
  refine ⟨?_, fun _ => rfl, fun _ _ => rfl, fun _ => rfl, ?_, ?_, ?_, ?_, ?_, ?_, ?_⟩
  · intro i m hm
    rw [take_one, clearSyncs_notSync _ _ hm]; rfl
  · intro m
    rw [take_one, clearSyncs_zero]; rfl
  · intro i a rest h
    rw [take_one, takeSrc_q _ _ _ _ _ h]; rfl
  · intro i a b rest h
    have h2 : (x.c.q.set i (b :: rest))[i] = b :: rest := by simp
    simp only [Ctx.take, takeSrcs, takeSrc_q x.s x.g x.c x.t .plain h, takeSrc_q x.s x.g { x.c with q := x.c.q.set i (b :: rest) } x.t .plain h2]
    rfl
  · intro i before after w tag h hb
    rw [take_one, takeSrc_link _ _ _ _ _ h hb]; rfl
  · intro a rest h
    rw [take_one, takeSrc_n4 _ _ _ _ _ h]; rfl
  · intro e rest h
    rw [take_one, takeSrc_n5 _ _ _ _ _ h]; rfl
  · intro i st h
    rw [take_one, takeSrc_s _ _ _ _ _ h]; rfl

end Sys2Proof.Machine
end

section
/-! PROOFS. What a turn leaves: a precise trap parks its thread (R54, R364); a guard, or an operand that is not ready, decides a turn
before the instruction takes effect (R44, R49, R51, R53). -/
namespace Sys2Proof.Machine
open Sys2Proof

/-! The alarm of a report reaches the recorders of a die alone (R374, R385). -/

@[simp] theorem freezeDie_core (s : State) (die cause g : Nat) : (s.freezeDie die cause).core g = s.core g := by
  simp only [State.freezeDie]; split <;> rfl

@[simp] theorem trigger_core (s : State) (die bit g : Nat) : (s.trigger die bit).core g = s.core g := by
  unfold State.trigger; split <;> simp

@[simp] theorem alarm_core (s : State) (die : Nat) (kind : BitVec 8) (g : Nat) : (s.alarm die kind).core g = s.core g := by
  unfold State.alarm; repeat' split
  all_goals simp

@[simp] theorem alarm_thread (s : State) (die : Nat) (kind : BitVec 8) (g k : Nat) : (s.alarm die kind).thread g k = s.thread g k := by
  simp [State.thread]

/-! A thread parked for its trap (R364). -/

section
variable {s : State} {g slot : Nat} {t : Thread} {p : Park}

theorem park_core_other {h : Nat} (hg : h ≠ g) : (s.park g slot t p).core h = s.core h := core_setCore_other s _ hg

/-- The slots of the core after one of its threads was parked. -/
theorem park_thread (hs : slot < 16) (k : Nat) : (s.park g slot t p).thread g k =
    if k = slot then some { t with park := p, retry := false, kv := [] } else s.thread g k := by
  simp only [State.park, State.thread, core_setCore_self, coreThread_setThread _ _ _ hs]
  split
  · rfl
  · split <;> rfl

/-- A window is open on the core, or a winner's handler runs, once a thread is parked. -/
theorem park_held : ((s.park g slot t p).core g).window.isSome = true ∨ ((s.park g slot t p).core g).winner = true := by
  simp only [State.park, core_setCore_self]
  by_cases h : ((s.core g).winner || (s.core g).window.isSome) = true
  · rw [if_pos h]
    exact (Bool.or_eq_true_iff.mp h).symm
  · rw [if_neg h]; exact .inl rfl

end

/-- A precise trap outside a handler parks the thread (R54, R364). -/
theorem trap_parks {x : Ctx} (h : x.t.inh = false) (kind : BitVec 8) (detail : Nat) (addr : Word) : x.trap kind detail addr =
    { (x.s.alarm (dieOf x.g) kind).park x.g x.slot x.t (.precise (preciseReport kind detail x.t.pc addr)) with cls := .vacant } := by
  simp [Ctx.trap, State.raise, h, preciseReport]

/-- Settles O46: the trap is an alarm, which changes no core, and a park. -/
theorem preciseTrapParks : Obligations.PreciseTrapParks := by
  unfold Obligations.PreciseTrapParks
  intro s x kind detail addr hx hinh
  obtain ⟨rfl, hg, hk, -, ht⟩ := ctxOf_state hx
  rw [← hg, ← hk] at ht
  have hs : x.slot < 16 := State.slot_lt_of_thread ht
  rw [trap_parks hinh]
  refine ⟨rfl, fun a => by simp, ?_, ?_, ?_, park_held⟩
  · exact (park_thread hs _).trans (if_pos rfl)
  · intro k hk
    exact ((park_thread hs _).trans (if_neg hk)).trans (alarm_thread ..)
  · intro h hne
    exact (park_core_other hne).trans (alarm_core ..)

/-! Every instruction but an engine command is a turn under its guard. -/

theorem exec_eq_turn {n : Op} {gd : Guard} {f : Fields} (h : engineForm (n.build gd f) = none) :
    ∃ waits body, ∀ s, exec (n.build gd f) s = turn gd s waits body := by
  cases n with
  | cldX | cldB | cldtX | cldtB | cldg | rld | rldg | fold | acpV | acpSp | acps | aclrX | aclrF | skeep => cases h
  | sbind =>
    obtain ⟨qual, ty, dst, ⟨reg, m⟩, src2, src3, fmt⟩ := f
    cases reg <;> exact ⟨_, _, fun _ => rfl⟩
  | _ => exact ⟨_, _, fun _ => rfl⟩

theorem exec_eq_engTurn {n : Op} {gd : Guard} {f : Fields} (h : engineForm (n.build gd f) ≠ none) :
    ∃ k, ∀ s, exec (n.build gd f) s = engTurn k gd f s := by
  cases n with
  | cldX | cldB | cldtX | cldtB | cldg | rld | rldg | fold | acpV | acpSp | acps | aclrX | aclrF | skeep => exact ⟨_, fun _ => rfl⟩
  | _ => exact absurd rfl h

theorem turn_passes {gd : Guard} {s : State} {x : Ctx} {waits : Ctx → List SlotClass} {body : Ctx → State}
    (hx : ctxOf s = some x) (hr : x.t.guardRes gd = true) (hv : x.t.guardVal gd = false) :
    turn gd s waits body = .next (x.finish x.c x.t) := by
  simp [turn, hx, hr, hv]

theorem engTurn_passes {k : EngForm} {gd : Guard} {f : Fields} {s : State} {x : Ctx}
    (hx : ctxOf s = some x) (hr : x.t.guardRes gd = true) (hv : x.t.guardVal gd = false) :
    engTurn k gd f s = .next (x.finish x.c x.t) := by
  simp [engTurn, hx, hr, hv]

/-- What a thread waits for is memory or a message. -/
theorem worst_cases {ks : List SlotClass} {k : SlotClass} (h : worst ks = some k) : k = .mem ∨ k = .msg := by
  unfold worst at h
  split at h
  · cases h; exact .inl rfl
  · split at h <;> cases h
    exact .inr rfl

theorem wait_eq {s : State} {x : Ctx} (hx : ctxOf s = some x) (k : SlotClass) : x.wait k = { s with cls := k } := by
  rw [Ctx.wait, (ctxOf_state hx).1]

theorem turn_unresolved {gd : Guard} {s : State} {x : Ctx} {waits : Ctx → List SlotClass} {body : Ctx → State}
    (hx : ctxOf s = some x) (hr : x.t.guardRes gd = false) :
    ∃ k, (k = .mem ∨ k = .msg) ∧ turn gd s waits body = .next { s with cls := k } := by
  obtain ⟨k, hk⟩ := Option.ne_none_iff_exists'.mp (fun h => List.cons_ne_nil SlotClass.msg (waits x) (worst_none.mp h))
  exact ⟨k, worst_cases hk, by simp [turn, hx, hr, hk, wait_eq hx]⟩

theorem turn_notReady {gd : Guard} {s : State} {x : Ctx} {waits : Ctx → List SlotClass} {body : Ctx → State}
    (he : Executes gd s x) (hw : waits x ≠ []) : ∃ k, (k = .mem ∨ k = .msg) ∧ turn gd s waits body = .next { s with cls := k } := by
  obtain ⟨hx, hr, hv⟩ := he
  obtain ⟨k, hk⟩ := Option.ne_none_iff_exists'.mp (mt worst_none.mp hw)
  exact ⟨k, worst_cases hk, by simp [turn, hx, hr, hv, hk, wait_eq hx]⟩

theorem turn_ready {gd : Guard} {s : State} {x : Ctx} {waits : Ctx → List SlotClass} {body : Ctx → State}
    (he : Executes gd s x) (hw : waits x = []) : turn gd s waits body = .next (body x) := by
  obtain ⟨hx, hr, hv⟩ := he
  exact turn_executes hx hr hv (worst_none.mpr hw)

/-- Settles O13: an instruction is a turn, or for an engine command a turn of the engine, and either asks its guard first. -/
theorem guardDecides : Obligations.GuardDecides := by
  unfold Obligations.GuardDecides
  intro i w s x hi hx
  obtain ⟨n, cls, op, gd, f, rfl, rfl⟩ := exists_form hi
  by_cases he : engineForm (n.build gd f) = none
  · obtain ⟨waits, body, hexec⟩ := exec_eq_turn he
    rw [hexec]
    exact ⟨turn_passes hx, fun _ => turn_unresolved hx⟩
  · obtain ⟨k, hexec⟩ := exec_eq_engTurn he
    rw [hexec]
    exact ⟨engTurn_passes hx, fun h => absurd h he⟩

/-! The register instructions are the turns of their forms. -/

theorem exec_scalarForm {i : Instr} {k : ScalarForm} (h : scalarForm i = some k) (s : State) :
    exec i s = scalarTurn k.gd s k.dst k.srcs k.op := by
  cases i <;> cases h <;> rfl

/-- The turn of a compare or guard instruction: sources read, one guard written (R114–R118). -/
def GuardForm.turn (k : GuardForm) (s : State) : Host.Outcome State Fault Refusal :=
  Machine.turn k.gd s (fun x => srcWaits x [] k.srcs ++ dstWait x k.srcs k.dst) fun x =>
    match k.dst.reg with
    | .p i => x.writeP (x.take k.srcs).2.1 (x.take k.srcs).2.2 i (k.op (x.take k.srcs).1)
    | _ => x.finish (x.take k.srcs).2.1 (x.take k.srcs).2.2

theorem exec_guardForm {i : Instr} {k : GuardForm} (h : guardForm i = some k) (s : State) : exec i s = k.turn s := by
  cases i with
  | cmpEq | cmpNe | cmpLt | cmpLe | cmpGt | cmpGe | cmpUn | cmpTst | cmpNtst | cmpEqImm | cmpNeImm | cmpLtImm | cmpLeImm | cmpGtImm |
    cmpGeImm | cmpUnImm | cmpTstImm | cmpNtstImm | setp | setpReg | pand | por | pnot => cases h; rfl
  | _ => cases h

theorem exec_vectorForm {i : Instr} {k : VectorForm} (h : vectorForm i = some k) (s : State) :
    exec i s = vectorTurn k.gd s k.dst k.srcs k.reads k.op k.addr := by
  cases i
  case nanx gd f =>
    cases h
    -- The form counts the rest of the NaNs found and the first one; the instruction counts them together.
    change execNanx gd f s = _
    unfold execNanx
    refine congrArg (fun op => vectorTurn gd s f.dst [f.src1] [] op fun _ => 0) (funext fun _ => funext fun vs => ?_)
    dsimp only
    cases ((numbered (valAt vs 0).lanes).drop (Fields.bits f 0 5)).filterMap fun p =>
      (nanxLane f.ty p.2).map fun e => (p.1, e) <;> rfl
  all_goals cases h <;> rfl

/-- Settles O14: a register instruction is a turn that waits for its sources and its destination. -/
theorem notReadyWaits : Obligations.NotReadyWaits := by
  unfold Obligations.NotReadyWaits
  refine ⟨?_, ?_, ?_⟩
  · intro i k s x hi he hw
    rw [exec_scalarForm hi]
    exact turn_notReady he hw
  · intro i k s x hi he hw
    rw [exec_guardForm hi]
    exact turn_notReady he hw
  · intro i k s x hi he hw
    rw [exec_vectorForm hi]
    exact turn_notReady he hw

/-- Settles O18: a scalar instruction that is ready takes the effect of its turn. -/
theorem scalarCompletes : Obligations.ScalarCompletes := by
  unfold Obligations.ScalarCompletes
  intro i k s x hi he hsrc hdst
  rw [exec_scalarForm hi, scalarTurn, turn_ready he (List.append_eq_nil_iff.mpr ⟨hsrc, hdst⟩)]
  constructor <;> intro hl <;> simp [hl]

end Sys2Proof.Machine
end

section
/-! PROOFS. A cycle of a core (R36, R40, R53, R99): the offered thread fetches its line, decodes the instruction at its pc and issues
it; and a pair issues as its first and then its second instruction (R42, R51). -/
namespace Sys2Proof.Machine
open Sys2Proof

@[simp] theorem onMoving_cls (s : State) (tid : Nat) (f : Thread → Thread) : (s.onMoving tid f).cls = s.cls := rfl

@[simp] theorem onTid_cls (s : State) (tid : Nat) (f : Thread → Thread) : (s.onTid tid f).cls = s.cls := by
  unfold State.onTid
  split
  · rfl
  · split <;> rfl

@[simp] theorem settle_cls (s : State) (t : Thread) (i : Instr) (second : Bool) (p : Word) : (s.settle t i second p).cls = s.cls :=
  onTid_cls ..

@[simp] theorem endPair_cls (s : State) (t : Thread) (i : Instr) : (s.endPair t i).cls = s.cls := onTid_cls ..

theorem waits_of_issued {s : State} (h : s.cls = .issued) : s.waits = false := by
  simp [State.waits, h]

/-- Settles O12: neither instruction waits, and the first leaves its thread in the slot with nothing to wait for. -/
theorem pairIssuesBoth : Obligations.PairIssuesBoth := by
  unfold Obligations.PairIssuesBoth
  intro i1 i2 t s a b c ha hb hc ha1 hb1 hc1 hr hg
  simp only [issuePair, ha, hb, hc, waits_of_issued ha1, waits_of_issued hb1, waits_of_issued hc1, ha1, hc1, hr, hg, Bool.false_eq_true,
    Bool.or_self, or_self, if_false, ne_eq, not_true_eq_false, if_true]

/-! The turn, from the offered slot to the instruction. -/

section
variable {s : State} {g slot : Nat} {t : Thread}

/-- A thread with nothing to report and no gang, neither stopped nor parked, fetches at its turn (R100, R363). -/
theorem turnOf_fetches (hhalt : t.halted = false) (hhand : t.handed = none) (hans : t.waitAns = false) (hreq : t.haltReq = false)
    (hden : t.denied = none) (hpark : t.park = .none) (hrep : t.reports = [] ∨ t.inh = true) (hgang : t.gang = .none) :
    s.turnOf g slot t = s.fetchTurn g slot t := by
  have hreport : s.reportTurn g slot t = none := by
    simp only [State.reportTurn, hpark]
    exact if_pos (hrep.imp (by simp [·]) id)
  have hfull : s.gangFull t = false := by simp [State.gangFull, hgang]
  simp [State.turnOf, hhalt, hhand, hans, hreq, hden, hpark, hreport, hfull, hgang]

/-- A pc that passes its checks and whose line is there is decoded (R40). -/
theorem fetchTurn_decodes {bits : BitVec 512} (hentry : t.entry = none ∨ t.pc.toNat < 2 ^ 55) (hbits : t.pc.toNat / 8 % 8 = 0)
    (hslot : t.pc.toNat % 8 < 5) (hline : (s.setThread g slot (some t)).fetchLine g t = .line bits) :
    s.fetchTurn g slot t = (s.setThread g slot (some t)).decodeTurn g slot t bits := by
  have h1 : ¬(t.entry.isSome = true ∧ 2 ^ 55 ≤ t.pc.toNat) := by
    rintro ⟨he, hp⟩
    rcases hentry with h | h
    · rw [h] at he; cases he
    · omega
  have h2 : ¬(t.pc.toNat / 8 % 8 ≠ 0 ∨ 5 ≤ t.pc.toNat % 8) := by omega
  simp only [State.fetchTurn, if_neg h1, if_neg h2, hline]

/-- A word that decodes and is issued alone is what its turn is to issue (R53). -/
theorem decodeTurn_issues {bits : BitVec 512} {i : Instr} (hgang : t.gang = .none)
    (hentry : t.entry = none ∨ lineTgt bits (t.pc.toNat % 8) = true)
    (hbreak : t.pass = true ∨ t.second = true ∨ s.breakFor t [t.pc] = none)
    (hpair : linePair bits (t.pc.toNat % 8) = false ∨ t.second = true) (hres : lineReserved bits = 0)
    (hword : decodeWord t.sup (lineSlot bits (t.pc.toNat % 8)) = .ok i) : s.decodeTurn g slot t bits = { s with issue := [i] } := by
  have htgt : (t.entry.isSome && !lineTgt bits (t.pc.toNat % 8)) = false := by rcases hentry with h | h <;> simp [h]
  have halone : (linePair bits (t.pc.toNat % 8) && !t.second) = false := by rcases hpair with h | h <;> simp [h]
  have hstop : s.stopsAt t [t.pc] = none := by rcases hbreak with h | h | h <;> simp [State.stopsAt, h]
  have hfwd : s.forward g slot t bits = s := by simp [State.forward, hgang]
  simp [State.decodeTurn, htgt, halone, hstop, hres, hword, hfwd, State.toIssue]

/-- The package with a slot of a core offered for issue (R99). -/
def State.offers (s : State) (g slot : Nat) : State := { s with cur := ⟨g, slot⟩, issue := [], cls := .vacant }

/-- The core offers the slot of its cycle; the thread there has its turn, which is over unless it is to issue instructions. -/
theorem execCoreCycle_issues {lost : Bool} {u : State} (hg : g < 2048) (hp : s.powered = true)
    (hissues : (s.startCycle g).issues g = true) (ht : (s.startCycle g).thread g slot = some t)
    (hslot : ((s.startCycle g).core g).cyc % 16 = slot) (hturn : ((s.startCycle g).offers g slot).turnOf g slot t = u)
    (hissue : u.issue ≠ []) : execCoreCycle g lost s = .next u := by
  subst hslot hturn
  have hrun : ¬(2048 ≤ g ∨ s.powered = false) := by simp [hg, hp]
  have hissues' : ((s.startCycle g).offers g (((s.startCycle g).core g).cyc % 16)).issues g = true := hissues
  have ht' : ((s.startCycle g).offers g (((s.startCycle g).core g).cyc % 16)).thread g (((s.startCycle g).core g).cyc % 16) = some t := ht
  unfold execCoreCycle
  rw [if_neg hrun]
  change orNot _ (some (let s1 := (s.startCycle g).offers g (((s.startCycle g).core g).cyc % 16)
    let s2 := if s1.issues g then (match s1.thread g (((s.startCycle g).core g).cyc % 16) with
      | some t => s1.turnOf g (((s.startCycle g).core g).cyc % 16) t
      | none => s1) else s1
    if s2.issue.isEmpty then s2.endTurn false else s2)) = _
  simp only [hissues', ht', if_true, List.isEmpty_iff, if_neg hissue]
  rfl

end

theorem issueAll_one {s : State} {t : Thread} (i : Instr) (ht : s.thread s.cur.g s.cur.slot = some t) :
    issueAll [i] s = issueOne i t t.pc s := by
  simp only [issueAll, ht]

/-- An outcome whose next state is changed by a function of it. -/
def onNext (f : State → State) : Host.Outcome State Fault Refusal → Host.Outcome State Fault Refusal
  | .next a => .next (f a)
  | .fault r => .fault r
  | .refused r => .refused r

/-- What is counted of an instruction issued alone: the issue, and the end of the pair whose second it is (R378, R42). -/
def State.counted (t : Thread) (i : Instr) (p : Word) (a : State) : State :=
  let a1 := if a.cls == .issued then a.settle t i false p else a
  if t.second && !a.waits then a1.endPair t i else a1

theorem issueOne_eq (i : Instr) (t : Thread) (p : Word) (s : State) : issueOne i t p s = onNext (State.counted t i p) (exec i s) := by
  unfold issueOne
  cases exec i s <;> rfl

@[simp] theorem counted_cls (t : Thread) (i : Instr) (p : Word) (a : State) : (State.counted t i p a).cls = a.cls := by
  have h : (if a.cls == .issued then a.settle t i false p else a).cls = a.cls := by split <;> simp
  unfold State.counted
  dsimp only
  split
  · rw [endPair_cls, h]
  · exact h

/-- The turn of one instruction ends, or its thread retries where it lost a bank (R99, R103). -/
def State.endOne (s : State) (lost : Bool) (i : Instr) (a : State) : State :=
  if lost = true ∧ a.cls = .issued ∧ s.losesBank [i] = true then s.lostTurn.endTurn true else a.endTurn (a.cls == .issued)

/-- A thread's one instruction is carried out, and its turn ends. -/
theorem runIssue_one {lost : Bool} {s : State} {t : Thread} {i : Instr} (hi : (rawOf i).isSome = true)
    (ht : s.thread s.cur.g s.cur.slot = some t) (hissue : s.issue = []) :
    runIssue lost { s with issue := [i] } = onNext (s.endOne lost i) (issueOne i t t.pc s) := by
  have hs : { s with issue := [] } = s := by rw [← hissue]
  unfold runIssue
  dsimp only
  split
  · next h => cases h
  · next h => cases h; cases hi
  · rw [hs, issueAll_one i ht]
    cases issueOne i t t.pc s with
    | next a => simp only [onNext, State.endOne, apply_ite Host.Outcome.next]
    | fault r => rfl
    | refused r => rfl

/-- The move that the agenda names comes next, unless the clocks are frozen (R390). -/
theorem step_of_agenda {s : State} {m : Instr} {rest : List Instr} (h : s.agenda = m :: rest) (hf : s.frozen = false) :
    step s = runMove m { s with agenda := rest } := by
  rw [step, h]
  exact if_neg (by simp [hf])

theorem runMove_coreCycle {g : Nat} {lost : Bool} {s a : State} (h : exec (.coreCycle g lost) s = .next a) :
    runMove (.coreCycle g lost) s = runIssue lost a := by
  rw [runMove, h]

/-- A decoded word's instruction has a word. -/
theorem isSome_rawOf_of_decodeWord {sup : Bool} {w : Nat} {i : Instr} (h : decodeWord sup w = .ok i) : (rawOf i).isSome = true := by
  unfold decodeWord at h
  split at h
  · cases h
  · obtain ⟨-, f, -, rfl⟩ := decodeRaw_eq_ok.mp h
    rw [← opOf_isSome, opOf_build]; rfl

/-- Settles O11: the cycle leaves the decoded instruction in `issue`, and the step carries it out. -/
theorem stepRunsDecoded : Obligations.StepRunsDecoded := by
  unfold Obligations.StepRunsDecoded
  intro s g lost rest t bits i hagenda hfrozen hpow hg s0 slot s1 hissues ht hhalt hhand hans hreq hden hpark hrep hgang hentry hbits
    hslot hline hbreak hpair hres hword settled done
  have hturn : (s0.offers g slot).turnOf g slot t = { s1 with issue := [i] } := by
    rw [turnOf_fetches hhalt hhand hans hreq hden hpark hrep hgang,
      fetchTurn_decodes (s := s0.offers g slot) (hentry.imp id And.left) hbits hslot hline]
    exact decodeTurn_issues hgang (hentry.imp id And.right) hbreak hpair hres hword
  have hcycle : exec (.coreCycle g lost) { s with agenda := rest } = .next { s1 with issue := [i] } :=
    execCoreCycle_issues (lost := lost) hg hpow hissues ht rfl hturn (List.cons_ne_nil i [])
  have ht1 : s1.thread s1.cur.g s1.cur.slot = some t := thread_setThread_self _ _ _ (Nat.mod_lt _ (by decide))
  rw [step_of_agenda hagenda hfrozen, runMove_coreCycle hcycle, runIssue_one (isSome_rawOf_of_decodeWord hword) ht1 rfl, issueOne_eq]
  cases exec i s1 with
  | next a =>
    have hdone : done a = State.counted t i t.pc a := by simp [done, settled, State.counted]
    simp only [onNext, State.endOne, counted_cls, hdone, and_left_comm]
  | fault r => rfl
  | refused r => rfl

end Sys2Proof.Machine
end

section
/-! PROOFS. The frame of register instructions fails for a scalar instruction whose destination is a guard: it writes none, and a command
queued under that guard stays as it was queued. -/
namespace Sys2Proof.Machine
open Sys2Proof

/-- `li` toward p1, which no word of `li` names (R141): the instruction is not well formed, and the frame is stated of it too. -/
def liToGuard : Fields := ⟨0, .dflt, ⟨.p 1, .plain⟩, .unused, .unused, .unused, 0⟩

/-- A thread with every guard resolved. -/
def resolvedThread : Thread := Thread.start 1 1 0 0 0 0 0 false 0

/-- A command of that thread, queued under p1 while p1 was unresolved (R115). -/
def unresolvedCmd : Cmd :=
  { engCmd ⟨State.reset, 0, 0, Core.reset, resolvedThread⟩ ⟨11, true, false⟩ liToGuard ⟨false, 1⟩ [] with gres := false }

/-- The thread in slot 0 of core 0, with the command in the queue of the core's engine. -/
def guardedQueue : State :=
  { State.reset with cores := [(0, { Core.reset.setThread 0 (some resolvedThread) with queue := [unresolvedCmd] })] }

/-- The context of its turn. -/
def guardedTurn : Ctx := ⟨guardedQueue, 0, 0, guardedQueue.core 0, resolvedThread⟩

theorem ctxOf_guardedQueue : ctxOf guardedQueue = some guardedTurn := rfl

/-- Refutes O15: `li` toward p1 issues and leaves the queue as it was; the frame asks that the queued command take p1's value. -/
theorem not_registerFrames : ¬ Obligations.RegisterFrames := by
  unfold Obligations.RegisterFrames
  intro h
  have hexec : Executes ⟨false, 0⟩ guardedQueue guardedTurn := ⟨ctxOf_guardedQueue, rfl, rfl⟩
  have hissue : exec (.li ⟨false, 0⟩ liToGuard) guardedQueue = .next (guardedTurn.finish guardedTurn.c resolvedThread) :=
    (scalarCompletes (.li ⟨false, 0⟩ liToGuard) _ guardedQueue guardedTurn rfl hexec rfl rfl).1 rfl
  have hframe := h (.li ⟨false, 0⟩ liToGuard) _ _ _ _ _ rfl hexec hissue rfl
  have hthread : (guardedTurn.finish guardedTurn.c resolvedThread).thread 0 0 = some (issuedAs resolvedThread) := rfl
  have hqueue := congrArg (List.map Cmd.gres) (hframe.guarded 1 _ rfl (by decide) hthread)
  exact absurd hqueue (by decide)

end Sys2Proof.Machine
end

section
/-! PROOFS. Branches transfer, `nop` and `clrp` complete (R38, R39, R114, R119, R120). -/
namespace Sys2Proof.Machine
open Sys2Proof

theorem slot_lt_of_ctxOf {s : State} {x : Ctx} (h : ctxOf s = some x) : x.slot < 16 := by
  obtain ⟨-, -, hk, -, ht⟩ := ctxOf_state h
  exact hk ▸ State.slot_lt_of_thread ht

/-! An instruction that finishes, and one that transfers. -/

/-- An instruction finishes in a package whose messages, names and free values, dies and watch sets it has changed. -/
theorem issuesAs_on_finish (x : Ctx) (c : Core) (u : Thread) (msgs : List Msg) (uid free : Nat) (dies : List (Nat × Die))
    (watches : List WatchSet) :
    IssuesAs x ((x.on { x.s with net := x.s.net ++ msgs, uid := uid, free := free, dies := dies, watches := watches }).finish c u)
      c u msgs dies watches where
  cls := rfl
  core := ⟨c.traffic, c.sent, c.away, c.swapDue, core_setCore_self ..⟩
  cores _ h := core_setCore_other _ _ h
  net := rfl
  rest := rfl

theorem issuesAs_finish {s : State} {x : Ctx} (h : ctxOf s = some x) (c : Core) (u : Thread) :
    IssuesAs x (x.finish c u) c u [] s.dies s.watches := by
  obtain ⟨rfl, -⟩ := ctxOf_state h
  have hs : { x.s with net := x.s.net ++ [] } = x.s := by rw [List.append_nil]
  have hon : x.on { x.s with net := x.s.net ++ [] } = x := by rw [hs]; rfl
  have hissues := issuesAs_on_finish x c u [] x.s.uid x.s.free x.s.dies x.s.watches
  rwa [hon] at hissues

theorem issuesAs_bumpFree_finish {s : State} {x : Ctx} (h : ctxOf s = some x) (c : Core) (u : Thread) :
    IssuesAs x ((x.on x.s.bumpFree).finish c u) c u [] s.dies s.watches := by
  obtain ⟨rfl, -⟩ := ctxOf_state h
  have hs : { x.s with net := x.s.net ++ [], free := x.s.free + 1 } = x.s.bumpFree := by rw [List.append_nil]; rfl
  exact hs ▸ issuesAs_on_finish x c u [] x.s.uid (x.s.free + 1) x.s.dies x.s.watches

/-- What is asked of a turn that transfers its thread: it has issued, memory is unchanged, and the thread in the slot is `u`. -/
def Transfers (o : Host.Outcome State Fault Refusal) (s : State) (x : Ctx) (u : Thread) : Prop :=
  ∃ t, o = .next t ∧ t.cls = .issued ∧ SameMemory s t ∧ t.thread x.g x.slot = some u

theorem transfer_transfers {s : State} {x y : Ctx} (h : ctxOf s = some x) (hmem : y.s.mem = s.mem) (hg : y.g = x.g) (hk : y.slot = x.slot)
    (c : Core) (u : Thread) (pc : Word) : Transfers (.next (y.transfer c u pc)) s x (transferredTo u pc) := by
  refine ⟨_, rfl, rfl, fun a => by rw [transfer_mem, hmem], ?_⟩
  rw [← hg, ← hk]
  simp only [Ctx.transfer, State.thread]
  exact (congrArg (Core.thread · y.slot) (core_setCore_self ..)).trans
    ((coreThread_setThread _ _ _ (hk ▸ slot_lt_of_ctxOf h)).trans (if_pos rfl))

theorem transfer_self_transfers {s : State} {x : Ctx} (h : ctxOf s = some x) (c : Core) (u : Thread) (pc : Word) :
    Transfers (.next (x.transfer c u pc)) s x (transferredTo u pc) :=
  transfer_transfers h (by rw [(ctxOf_state h).1]) rfl rfl c u pc

theorem traced_transfers {s : State} {x : Ctx} (h : ctxOf s = some x) (ty : Nat) (target : Word) (c : Core) (u : Thread) (pc : Word) :
    Transfers (.next ((x.traced ty target).transfer c u pc)) s x (transferredTo u pc) :=
  transfer_transfers (y := x.traced ty target) h (by simp [Ctx.traced, (ctxOf_state h).1]) rfl rfl c u pc

/-! A d register read alone, and a d register as a link. -/

theorem srcWaits_d {x : Ctx} {i : Fin 16} {m : Modif} (h : x.t.dfull[i] = true) : srcWaits x [] [⟨.d i, m⟩] = [] := by
  simp [srcWaits, srcWait, h]

theorem dstWait_d {x : Ctx} {srcs : List Opnd} {o : Opnd} {j : Fin 16} (ho : o.reg = .d j) (h : x.t.dpend[j] = false) :
    dstWait x srcs o = [] := by
  simp [dstWait, ho, h]

theorem take_d_val (x : Ctx) (i : Fin 16) (m : Modif) : val (x.take [⟨.d i, m⟩]).1 0 = x.t.d[i] := rfl

theorem take_d_pc (x : Ctx) (i : Fin 16) (m : Modif) : (x.take [⟨.d i, m⟩]).2.2.pc = x.t.pc := by cases m <;> rfl

theorem linked_d {t : Thread} {o : Opnd} {j : Fin 16} (ho : o.reg = .d j) : linked t o = t.putD j (succPc t.pc) := by
  simp [linked, ho]

/-! The branches (R119, R120). -/

section
variable {gd : Guard} {f : Fields} {s : State} {x : Ctx}

theorem br_transfers (he : Executes gd s x) :
    Transfers (exec (.br gd f) s) s x (transferredTo x.t (branchTarget x.t.pc (Fields.imm f))) := by
  have hexec : exec (.br gd f) s = .next (x.transfer x.c x.t (branchTarget x.t.pc (Fields.imm f))) := turn_ready he rfl
  exact hexec ▸ transfer_self_transfers he.1 ..

theorem brl_transfers (he : Executes gd s x) {j : Fin 16} (hd : f.dst.reg = .d j) (hp : x.t.dpend[j] = false) :
    Transfers (exec (.brl gd f) s) s x
      { transferredTo x.t (branchTarget x.t.pc (Fields.imm f)) with d := x.t.d.set j (succPc x.t.pc), dfull := x.t.dfull.set j true } := by
  have hexec : exec (.brl gd f) s = .next ((x.traced 0x09 (branchTarget x.t.pc (Fields.imm f))).transfer x.c (linked x.t f.dst)
      (branchTarget x.t.pc (Fields.imm f))) := turn_ready he (dstWait_d hd hp)
  rw [hexec, linked_d hd]
  exact traced_transfers he.1 ..

variable {i : Fin 16} {m : Modif}

theorem jr_transfers (he : Executes gd s x) (hs : f.src1 = ⟨.d i, m⟩) (hf : x.t.dfull[i] = true) :
    Transfers (exec (.jr gd f) s) s x (transferredTo (x.take [f.src1]).2.2 x.t.d[i]) := by
  have hexec : exec (.jr gd f) s = .next (x.transfer (x.take [f.src1]).2.1 (x.take [f.src1]).2.2 (val (x.take [f.src1]).1 0)) :=
    turn_ready he (hs ▸ srcWaits_d hf)
  rw [hexec, hs, take_d_val]
  exact transfer_self_transfers he.1 ..

theorem ret_transfers (he : Executes gd s x) (hs : f.src1 = ⟨.d i, m⟩) (hf : x.t.dfull[i] = true) :
    Transfers (exec (.ret gd f) s) s x (transferredTo (x.take [f.src1]).2.2 x.t.d[i]) := by
  have hexec : exec (.ret gd f) s = .next ((x.traced 0x0A (val (x.take [f.src1]).1 0)).transfer (x.take [f.src1]).2.1
      (x.take [f.src1]).2.2 (val (x.take [f.src1]).1 0)) := turn_ready he (hs ▸ srcWaits_d hf)
  rw [hexec, hs, take_d_val]
  exact traced_transfers he.1 ..

theorem jrLink_transfers (he : Executes gd s x) (hs : f.src1 = ⟨.d i, m⟩) (hf : x.t.dfull[i] = true) {j : Fin 16}
    (hd : f.dst.reg = .d j) (hp : x.t.dpend[j] = false) :
    Transfers (exec (.jrLink gd f) s) s x (transferredTo ((x.take [f.src1]).2.2.putD j (succPc x.t.pc)) x.t.d[i]) := by
  have hwait : srcWaits x [] [f.src1] ++ dstWait x [f.src1] f.dst = [] := by rw [dstWait_d hd hp, hs, srcWaits_d hf]; rfl
  have hexec : exec (.jrLink gd f) s = .next ((x.traced 0x09 (val (x.take [f.src1]).1 0)).transfer (x.take [f.src1]).2.1
      (linked (x.take [f.src1]).2.2 f.dst) (val (x.take [f.src1]).1 0)) := turn_ready he hwait
  rw [hexec, linked_d hd, hs, take_d_val, take_d_pc]
  exact traced_transfers he.1 ..

/-- Guard j resolved no more, its value undefined (R114). -/
theorem clrp_issues (he : Executes gd s x) {j : Fin 8} (hd : f.dst.reg = .p j) (hp : x.t.pans[j] = false) :
    ∃ t v, exec (.clrp gd f) s = .next t ∧
      IssuesAs x t x.c { x.t with pval := x.t.pval.set j v, pres := x.t.pres.set j false } [] s.dies s.watches := by
  have hexec : exec (.clrp gd f) s = .next ((x.on x.s.bumpFree).finish x.c
      { x.t with pval := x.t.pval.set j (Config.freeBool x.s.free), pres := x.t.pres.set j false }) := by
    refine (turn_ready he (by simp [dstWait, hd, hp])).trans ?_
    simp only [hd]
  exact ⟨_, _, hexec, issuesAs_bumpFree_finish he.1 ..⟩

end

/-- Settles O24. -/
theorem branchesTransfer : Obligations.BranchesTransfer := by
  unfold Obligations.BranchesTransfer
  intro gd f s x he
  refine ⟨⟨_, turn_ready he rfl, issuesAs_finish he.1 ..⟩, fun j hd hp => clrp_issues he hd hp, br_transfers he,
    fun j hd hp => brl_transfers he hd hp, fun i m hs hf => ⟨jr_transfers he hs hf, ret_transfers he hs hf, fun j hd hp =>
      jrLink_transfers he hs hf hd hp⟩⟩

end Sys2Proof.Machine
end

section
/-! PROOFS. Scratchpad stores (R50, R199, R201, R379): what a list of writes leaves in a scratchpad, when the checks of a scratchpad
access pass, and what the scalar and the vector form write. -/
namespace Sys2Proof.Machine
open Sys2Proof

/-! Bytes of a scratchpad after a list of writes. -/

section
variable {α : Type} {l : List (Nat × α)} {m : List (Nat × α)} {b : Nat}

theorem smapFind_foldl_put_other (h : ∀ e ∈ l, e.1 ≠ b) : smapFind (l.foldl (fun m e => smapPut m e.1 e.2) m) b = smapFind m b := by
  induction l generalizing m with
  | nil => rfl
  | cons e rest ih =>
    rw [List.foldl_cons, ih fun e' he => h e' (List.mem_cons_of_mem _ he), smapFind_put_other _ _ (h e List.mem_cons_self).symm]

/-- Where all writes to a key agree, it holds what they write. -/
theorem smapFind_foldl_put {v : α} (hm : ∃ e ∈ l, e.1 = b) (hv : ∀ e ∈ l, e.1 = b → e.2 = v) :
    smapFind (l.foldl (fun m e => smapPut m e.1 e.2) m) b = some v := by
  induction l generalizing m with
  | nil => obtain ⟨e, he, -⟩ := hm; cases he
  | cons e rest ih =>
    rw [List.foldl_cons]
    by_cases hrest : ∃ e ∈ rest, e.1 = b
    · exact ih hrest fun e' he => hv e' (List.mem_cons_of_mem _ he)
    · push Not at hrest
      have he : e.1 = b := by
        obtain ⟨e', he', hb⟩ := hm
        rcases List.mem_cons.mp he' with rfl | h
        · exact hb
        · exact absurd hb (hrest e' h)
      rw [smapFind_foldl_put_other hrest, he, smapFind_put_self, hv e List.mem_cons_self he]

end

section
variable {c c' : Core} {l : List (Nat × Byte)} {b : Nat}

/-- The scratchpad of c' is that of c after a list of writes. -/
def SpadWrites (c c' : Core) (l : List (Nat × Byte)) : Prop :=
  c'.teams = c.teams ∧ c'.spad = l.foldl (fun m e => smapPut m e.1 e.2) c.spad

theorem SpadWrites.kept (h : SpadWrites c c' l) (hb : ∀ e ∈ l, e.1 ≠ b) : c'.spadByte b = c.spadByte b := by
  simp only [Core.spadByte, h.1, h.2, smapFind_foldl_put_other hb]

theorem SpadWrites.written {v : Byte} (h : SpadWrites c c' l) (hm : ∃ e ∈ l, e.1 = b) (hv : ∀ e ∈ l, e.1 = b → e.2 = v) :
    c'.spadByte b = v := by
  simp only [Core.spadByte, h.2, smapFind_foldl_put hm hv]

theorem spadWrites_spadPut (c : Core) (off : Nat) (bs : List Byte) : SpadWrites c (c.spadPut off bs) (enumFrom off bs) := ⟨rfl, rfl⟩

theorem spadWrites_foldl (c : Core) (l : List (Nat × Byte)) : SpadWrites c (l.foldl (fun c e => c.spadPut e.1 [e.2]) c) l := by
  induction l generalizing c with
  | nil => exact ⟨rfl, rfl⟩
  | cons e rest ih => exact ih (c.spadPut e.1 [e.2])

/-- Sources read and a thread put in a slot leave the scratchpad. -/
theorem SpadWrites.of_eq {d d' : Core} (h : SpadWrites c c' l) (ht : c.teams = d.teams) (hs : c.spad = d.spad) (ht' : d'.teams = c'.teams)
    (hs' : d'.spad = c'.spad) : SpadWrites d d' l :=
  ⟨ht'.trans (h.1.trans ht), hs'.trans (hs ▸ h.2)⟩

end

theorem mem_enumFrom {α : Type} {a : Nat} {bs : List α} {e : Nat × α} :
    e ∈ enumFrom a bs ↔ ∃ (i : Nat) (h : i < bs.length), e = (a + i, bs[i]) := by
  induction bs generalizing a with
  | nil => simp [enumFrom]
  | cons b rest ih =>
    simp only [enumFrom, List.mem_cons, ih]
    constructor
    · rintro (rfl | ⟨i, hi, rfl⟩)
      · exact ⟨0, Nat.succ_pos _, rfl⟩
      · exact ⟨i + 1, Nat.succ_lt_succ hi, by simp [Nat.add_assoc, Nat.add_comm 1 i]⟩
    · rintro ⟨i, hi, rfl⟩
      cases i with
      | zero => exact .inl rfl
      | succ i => exact .inr ⟨i, Nat.lt_of_succ_lt_succ hi, by simp [Nat.add_assoc, Nat.add_comm 1 i]⟩

/-- A byte of the scratchpad after bytes were written to it from an offset on. -/
theorem SpadWrites.byte {c c' : Core} {off : Nat} {bs : List Byte} (h : SpadWrites c c' (enumFrom off bs)) {i : Nat}
    (hi : i < bs.length) : c'.spadByte (off + i) = bs[i] := by
  refine h.written ⟨_, mem_enumFrom.mpr ⟨i, hi, rfl⟩, rfl⟩ fun e he hb => ?_
  obtain ⟨j, hj, rfl⟩ := mem_enumFrom.mp he
  obtain rfl : j = i := Nat.add_left_cancel hb
  rfl

theorem SpadWrites.bytes {c c' : Core} {off n : Nat} {bs : List Byte} (h : SpadWrites c c' (enumFrom off bs)) (hn : bs.length = n) :
    c'.spadBytes off n = bs := by
  refine List.ext_getElem (by simp [Core.spadBytes, hn]) fun i h1 h2 => ?_
  simp only [Core.spadBytes, List.getElem_map, List.getElem_range, h.byte h2]

theorem SpadWrites.outside {c c' : Core} {off b : Nat} {bs : List Byte} (h : SpadWrites c c' (enumFrom off bs))
    (hb : b < off ∨ off + bs.length ≤ b) : c'.spadByte b = c.spadByte b := by
  refine h.kept fun e he heq => ?_
  obtain ⟨i, hi, rfl⟩ := mem_enumFrom.mp he
  simp only at heq
  omega

/-! The lanes that a mask enables (R199). -/

/-- The writes of the enabled lanes of a v register to a scratchpad, the first half before the second. -/
def laneWrites (m : BitVec 32) (pos : Nat → Nat) (v : VReg) : List (Nat × Byte) :=
  let bytes (h : Nat) : List (Nat × Byte) := (maskHalf m h).flatMap fun i => enumFrom (pos (4 * i)) (planes 4 (v.toList.getD i 0))
  bytes 0 ++ bytes 1

theorem mem_maskHalf {m : BitVec 32} {h i : Nat} : i ∈ maskHalf m h ↔ (16 * h ≤ i ∧ i < 16 * h + 16) ∧ m.getLsbD i = true := by
  simp only [maskHalf, List.mem_filter, List.mem_map, List.mem_range]
  constructor
  · rintro ⟨⟨j, hj, rfl⟩, hm⟩
    exact ⟨by omega, hm⟩
  · rintro ⟨hi, hm⟩
    exact ⟨⟨i - 16 * h, by omega, by omega⟩, hm⟩

theorem planes_length (p : Nat) (x : Lane) : (planes p x).length = p := by simp [planes]

theorem mem_laneWrites {m : BitVec 32} {off : Nat} {v : VReg} {e : Nat × Byte} : e ∈ laneWrites m (off + ·) v ↔
    ∃ (i : Fin 32) (j : Nat) (h : j < (planes 4 v[i]).length), m.getLsbD i = true ∧ e = (off + 4 * i + j, (planes 4 v[i])[j]) := by
  have hlane (i : Nat) (hi : i < 32) : v.toList.getD i 0 = v[i] := by simp [List.getD_eq_getElem?_getD, hi]
  have hhalf (h : Nat) (hh : h < 2) : (∃ i ∈ maskHalf m h, e ∈ enumFrom (off + 4 * i) (planes 4 (v.toList.getD i 0))) ↔
      ∃ (i : Fin 32) (j : Nat) (hj : j < (planes 4 v[i]).length), i.val / 16 = h ∧ m.getLsbD i = true ∧
        e = (off + 4 * i + j, (planes 4 v[i])[j]) := by
    constructor
    · rintro ⟨i, hi, he⟩
      obtain ⟨hr, hm⟩ := mem_maskHalf.mp hi
      have hlt : i < 32 := by omega
      rw [hlane i hlt] at he
      obtain ⟨j, hj, rfl⟩ := mem_enumFrom.mp he
      exact ⟨⟨i, hlt⟩, j, hj, by simp only; omega, hm, rfl⟩
    · rintro ⟨i, j, hj, hr, hm, rfl⟩
      refine ⟨i, mem_maskHalf.mpr ⟨by omega, hm⟩, ?_⟩
      rw [hlane i i.isLt]
      exact mem_enumFrom.mpr ⟨j, hj, rfl⟩
  simp only [laneWrites, List.mem_append, List.mem_flatMap, hhalf 0 (by decide), hhalf 1 (by decide)]
  constructor
  · rintro (⟨i, j, hj, -, h⟩ | ⟨i, j, hj, -, h⟩) <;> exact ⟨i, j, hj, h⟩
  · rintro ⟨i, j, hj, h⟩
    have hi : i.val / 16 = 0 ∨ i.val / 16 = 1 := by omega
    exact hi.imp (⟨i, j, hj, ·, h⟩) (⟨i, j, hj, ·, h⟩)

/-- The four bytes of a lane are written if the mask enables it, and are as before if not. -/
theorem SpadWrites.lane {c c' : Core} {m : BitVec 32} {off : Nat} {v : VReg} (h : SpadWrites c c' (laneWrites m (off + ·) v)) (k : Fin 32) :
    c'.spadBytes (off + 4 * k.val) 4 = if m.getLsbD k.val then planes 4 v[k] else c.spadBytes (off + 4 * k.val) 4 := by
  split
  · next hm =>
    refine List.ext_getElem (by simp [Core.spadBytes, planes_length]) fun j h1 h2 => ?_
    simp only [Core.spadBytes, List.getElem_map, List.getElem_range]
    refine h.written ⟨_, mem_laneWrites.mpr ⟨k, j, h2, hm, rfl⟩, rfl⟩ fun e he hb => ?_
    obtain ⟨i, j', hj', -, rfl⟩ := mem_laneWrites.mp he
    rw [planes_length] at hj' h2
    obtain ⟨rfl, rfl⟩ : i = k ∧ j' = j := by simp only [Fin.ext_iff] at *; omega
    rfl
  · next hm =>
    refine List.map_congr_left fun j hj => h.kept fun e he hb => ?_
    obtain ⟨i, j', hj', hi, rfl⟩ := mem_laneWrites.mp he
    rw [planes_length] at hj'
    rw [List.mem_range] at hj
    obtain rfl : i = k := by simp only [Fin.ext_iff] at *; omega
    exact hm hi

theorem SpadWrites.outside_lanes {c c' : Core} {m : BitVec 32} {off b : Nat} {v : VReg} (h : SpadWrites c c' (laneWrites m (off + ·) v))
    (hb : b < off ∨ off + 128 ≤ b) : c'.spadByte b = c.spadByte b := by
  refine h.kept fun e he heq => ?_
  obtain ⟨i, j, hj, -, rfl⟩ := mem_laneWrites.mp he
  rw [planes_length] at hj
  simp only at heq
  omega

end Sys2Proof.Machine
end

section
/-! PROOFS. Scratchpad stores (R50, R199, R201, R379): the checks of a scratchpad access pass, and the store takes effect. -/
namespace Sys2Proof.Machine
open Sys2Proof

/-! The checks of an access (R196, R201, R212). -/

/-- An aligned access whose addresses are in the space, in a region that accepts it and at their places proceeds. -/
theorem access_proceeds {x : Ctx} {k : Accepts} {u : Use} {a b : Word} {bits addrs : List Word} {ps : List Place}
    (go : List Place → State) (hbits : ∀ c ∈ b :: bits, c.toNat < 2 ^ 55)
    (hreg : regionDetail k (x.s.region x.g x.t.colour x.t.key b) = 0) (hps : x.placesIn k u addrs = .ok ps) :
    x.access k u a true (b :: bits) addrs go = go ps := by
  have hfind : (b :: bits).find? (fun c => decide (2 ^ 55 ≤ c.toNat)) = none := by
    simpa [List.find?_eq_none] using hbits
  simp only [Ctx.access, hfind, List.isEmpty_cons, List.headD_cons, Bool.false_eq_true, if_false, hreg, hps, ne_eq, not_true_eq_false,
    Bool.true_eq_false]

/-- The sectors of 64 bytes that a list of offsets touches, the lowest first. -/
theorem touched_sectors {os : List Nat} (hne : os ≠ []) (hle : ∀ o ∈ os, os.headD 0 ≤ o) (hlt : os.headD 0 < 128) :
    ([0, 1].filter fun h => os.any fun o => o / 64 == h).take 1 = [os.headD 0 / 64] := by
  obtain ⟨o, rest, rfl⟩ := List.exists_cons_of_ne_nil hne
  simp only [List.headD_cons] at hle hlt ⊢
  have hsect : o / 64 = 0 ∨ o / 64 = 1 := by omega
  rcases hsect with h | h
  · have h0 : ((o :: rest).any fun p => p / 64 == 0) = true := List.any_eq_true.mpr ⟨o, List.mem_cons_self, by simp [h]⟩
    simp only [List.filter_cons, h0, if_true, List.take_succ_cons, List.take_zero, h]
  · have h0 : ¬((o :: rest).any fun p => p / 64 == 0) = true := by
      rw [List.any_eq_true]
      rintro ⟨p, hp, he⟩
      have := hle p hp
      simp only [beq_iff_eq] at he
      omega
    have h1 : ((o :: rest).any fun p => p / 64 == 1) = true := List.any_eq_true.mpr ⟨o, List.mem_cons_self, by simp [h]⟩
    simp only [List.filter_cons, h0, h1, if_true, Bool.false_eq_true, if_false, List.take_succ_cons, List.take_zero, h]

/-- No error of either kind lies in a byte of the scratchpad (R212). -/
theorem sound_byte {s : State} {g pos : Nat} (h : ∀ e ∈ s.badSpad, g * 2 ^ 19 + pos < e.1 * 8 ∨ e.1 * 8 + 8 ≤ g * 2 ^ 19 + pos) :
    s.badSp g pos 1 = false ∧ s.correctSp g pos 1 = s := by
  have hhit (e : Nat × Bool) (he : e ∈ s.badSpad) : ¬(e.1 * 8 < g * 2 ^ 19 + pos + 1 ∧ g * 2 ^ 19 + pos < e.1 * 8 + 8) := by
    have := h e he
    omega
  constructor
  · rw [State.badSp, List.any_eq_false]
    intro e he
    rw [Bool.and_eq_true, decide_eq_true_eq]
    exact fun h => hhit e he h.2
  · rw [State.correctSp]
    refine if_neg ?_
    rw [List.any_eq_true]
    rintro ⟨e, he, hh⟩
    rw [Bool.and_eq_true, decide_eq_true_eq] at hh
    exact hhit e he hh.2

theorem foldl_fixed {α β : Type} {f : β → α → β} {b : β} {l : List α} (h : ∀ a ∈ l, f b a = b) : l.foldl f b = b := by
  induction l with
  | nil => rfl
  | cons a rest ih => rw [List.foldl_cons, h a List.mem_cons_self, ih fun a' ha => h a' (List.mem_cons_of_mem _ ha)]

/-- A scratchpad access whose bytes pass every check proceeds, each at its offset (R186, R201, R212). -/
theorem spadAccess_proceeds {x : Ctx} {a : Word} {align off : Nat} {os : List Nat} (go : Ctx → (Nat → Nat) → State)
    (halign : a.toNat % align = 0) (hle : ∀ o ∈ os, os.headD 0 ≤ o) (hlt : os.headD 0 < 128) (h : InScratchpad x a os off) :
    x.spadAccess a align os go = go x (off + ·) := by
  obtain ⟨hne, hhome, ⟨hbits, hreg, hps⟩, hregion, hsound⟩ := h
  have hhs := touched_sectors hne hle hlt
  have hhead : ([0, 1].filter fun h => os.any fun o => o / 64 == h).headD 0 = os.headD 0 / 64 := by
    cases hl : [0, 1].filter fun h => os.any fun o => o / 64 == h with
    | nil => rw [hl] at hhs; cases hhs
    | cons h t => rw [hl] at hhs; exact (List.cons.inj hhs).1
  have hpos (o : Nat) : ([Place.spad x.g (off + 64 * (os.headD 0 / 64))].map Place.addr).headD 0 + o - 64 * (os.headD 0 / 64) = off + o := by
    simp only [List.map_cons, Place.addr, List.headD_cons]
    omega
  have hbyte (o : Nat) (ho : o ∈ os) : x.s.badSp x.g (off + o) 1 = false ∧ x.s.correctSp x.g (off + o) 1 = x.s :=
    sound_byte fun e he => by rw [← Nat.add_assoc]; exact hsound o ho e he
  unfold Ctx.spadAccess
  simp only [hhome, halign, hhs, hhead, List.map_cons, List.map_nil, beq_self_eq_true, Bool.true_eq_false, if_false]
  rw [access_proceeds _ (fun c hc => hbits c (List.mem_cons_of_mem _ (by simpa using hc))) hreg hps]
  simp only [hpos]
  have hin : ([0, 1].filter fun h => os.any fun o => o / 64 == h).find? (fun h => beyondRegion x a (os.filter fun o => o / 64 == h)) = none := by
    refine List.find?_eq_none.mpr fun h hh => ?_
    have hlt : h < 2 := by
      have := (List.mem_filter.mp hh).1
      simp only [List.mem_cons, List.not_mem_nil, or_false] at this
      omega
    rw [hregion h hlt]
    decide
  rw [hin]
  dsimp only
  split
  · next h hbad =>
    have := List.find?_some hbad
    split at this
    · cases this
    · next o rest hpart =>
      obtain ⟨p, hp, hb⟩ := List.any_eq_true.mp this
      have hos : p ∈ os := (List.mem_filter.mp (hpart ▸ hp)).1
      rw [(hbyte p hos).1] at hb
      cases hb
  · rw [foldl_fixed fun o ho => (hbyte o ho).2]
    rfl

/-- A scratchpad access of no byte proceeds when it is aligned and its thread is on its team's core (R199). -/
theorem spadAccess_none {x : Ctx} {a : Word} {align : Nat} (go : Ctx → (Nat → Nat) → State) (halign : a.toNat % align = 0)
    (hhome : x.c.atHome x.t = true) : ∃ pos, x.spadAccess a align [] go = go x pos := by
  refine ⟨fun o => ([] : List Nat).headD 0 + o - 64 * ([] : List Nat).headD 0, ?_⟩
  simp [Ctx.spadAccess, Ctx.access, hhome, halign, Ctx.placesIn, Ctx.on]

/-! The sources of a store leave the scratchpad (R51). -/

theorem takeSrc_core (s : State) (g : Nat) (c : Core) (t : Thread) (o : Opnd) :
    ∃ q nin n4, (takeSrc s g c t o).2.1 = { c with q := q, nin := nin, n4 := n4 } := by
  unfold takeSrc
  repeat' split
  all_goals exact ⟨_, _, _, rfl⟩

theorem takeSrcs_core (s : State) (g : Nat) (c : Core) (t : Thread) (os : List Opnd) :
    ∃ q nin n4, (takeSrcs s g c t os).2.1 = { c with q := q, nin := nin, n4 := n4 } := by
  induction os generalizing c t with
  | nil => exact ⟨_, _, _, rfl⟩
  | cons o rest ih =>
    obtain ⟨q, nin, n4, h⟩ := takeSrc_core s g c t o
    obtain ⟨q', nin', n4', h'⟩ := ih (takeSrc s g c t o).2.1 (takeSrc s g c t o).2.2
    exact ⟨q', nin', n4', h'.trans (by rw [h])⟩

/-- Sources read leave every part of the core but its queues and links. -/
theorem take_core (x : Ctx) (os : List Opnd) : ∃ q nin n4, (x.take os).2.1 = { x.c with q := q, nin := nin, n4 := n4 } :=
  takeSrcs_core x.s x.g x.c x.t os

theorem take_spad (x : Ctx) (os : List Opnd) : (x.take os).2.1.teams = x.c.teams ∧ (x.take os).2.1.spad = x.c.spad := by
  obtain ⟨q, nin, n4, h⟩ := take_core x os
  rw [h]
  exact ⟨rfl, rfl⟩

/-! A store that no watchpoint stops (R380). -/

/-- A store's strike clears pass bits alone. -/
theorem storeStrike_watches {s u : State} {t : Thread} {addrs : List Nat} (h : s.storeStrike t addrs = .inl u) :
    u = { s with watches := u.watches } := by
  simp only [State.storeStrike] at h
  split at h
  · cases h
  · cases h
    split <;> rfl

theorem storing_proceeds {x : Ctx} {addrs : List Nat} {s1 : State} (k : Ctx → State) (h : x.s.storeStrike x.t addrs = .inl s1) :
    x.storing addrs k = k (x.on s1) := by
  rw [Ctx.storing, h]

/-- Bytes in no watchpoint strike none. -/
theorem storeStrike_nil (s : State) (t : Thread) : s.storeStrike t [] = .inl s := by
  have h : s.struck t.colour t.wid [] = [] := by
    unfold State.struck
    split
    · rfl
    · simp
  simp [State.storeStrike, h]

theorem finish_core_self (x : Ctx) (c : Core) (u : Thread) : (x.finish c u).core x.g = c.setThread x.slot (some (issuedAs u)) :=
  core_setCore_self ..

theorem finish_thread_self {x : Ctx} (h : x.slot < 16) (c : Core) (u : Thread) : (x.finish c u).thread x.g x.slot = some (issuedAs u) := by
  rw [State.thread, finish_core_self, coreThread_setThread _ _ _ h, if_pos rfl]

/-- What a scratchpad store leaves: it has issued, memory is as it was, the slot holds the thread, and the scratchpad is what
the writes leave of it. -/
structure SpadStored (s : State) (x : Ctx) (u : Thread) (l : List (Nat × Byte)) (t : State) : Prop where
  cls    : t.cls = .issued
  memory : SameMemory s t
  thread : t.thread x.g x.slot = some (issuedAs u)
  spad   : SpadWrites x.c (t.core x.g) l

theorem spadStored_finish {s s1 : State} {x : Ctx} (hx : ctxOf s = some x) {t : Thread} {addrs : List Nat}
    (hstrike : s.storeStrike t addrs = .inl s1) {c : Core} {u : Thread} {l : List (Nat × Byte)} (hw : SpadWrites x.c c l) :
    SpadStored s x u l ((x.on s1).finish c u) where
  cls := rfl
  memory a := by rw [finish_mem, on_s, storeStrike_mem hstrike]
  thread := finish_thread_self (x := x.on s1) (show x.slot < 16 from slot_lt_of_ctxOf hx) c u
  spad := by
    rw [show ((x.on s1).finish c u).core x.g = _ from finish_core_self (x.on s1) c u]
    exact hw

/-! The two forms of `sts` (R199, R201). -/

section
variable {gd : Guard} {f : Fields} {s s1 : State} {x : Ctx}

theorem ready_turn {srcs : List Opnd} {n : Nat} {body : Ctx → State} (h : Ready gd s x srcs [] n) :
    turn gd s (fun x => srcWaits x [] srcs ++ memWait x n) body = .next (body x) := by
  obtain ⟨he, hsrc, -, hmem⟩ := h
  exact turn_ready he (List.append_eq_nil_iff.mpr ⟨hsrc, hmem⟩)

/-- The address of the store. -/
def stsAddr (x : Ctx) (f : Fields) : Word := Fields.addr f (val (x.take (Fields.stsSrcs f)).1 0)

/-- The low bytes of the source are written from the address's place on. -/
theorem sts_scalar (h : Ready gd s x (Fields.stsSrcs f) [] 0) (hv : ∀ i : Fin 8, f.src2.reg ≠ .v i) {off : Nat}
    (halign : (stsAddr x f).toNat % accessBytes f.ty = 0) (hin : InScratchpad x (stsAddr x f) (List.range (accessBytes f.ty)) off)
    (hstrike : s.storeStrike x.t (addrRange (stsAddr x f).toNat (accessBytes f.ty)) = .inl s1) :
    ∃ t, exec (.sts gd f) s = .next t ∧ SpadStored s x (x.take (Fields.stsSrcs f)).2.2
      (enumFrom off (wordBytes (accessBytes f.ty) (val (x.take (Fields.stsSrcs f)).1 1))) t := by
  have hexec : exec (.sts gd f) s = .next (x.spadAccess (stsAddr x f) (accessBytes f.ty) (List.range (accessBytes f.ty)) fun y pos =>
      y.storing (addrRange (stsAddr x f).toNat (accessBytes f.ty)) fun y => y.finish ((x.take (Fields.stsSrcs f)).2.1.spadPut (pos 0)
        (wordBytes (accessBytes f.ty) (val (x.take (Fields.stsSrcs f)).1 1))) (x.take (Fields.stsSrcs f)).2.2) := by
    refine (ready_turn h).trans ?_
    dsimp only
    split
    · next i hi => exact absurd hi (hv i)
    · rfl
  obtain ⟨rfl, -⟩ := ctxOf_state h.1.1
  have hhead : (List.range (accessBytes f.ty)).headD 0 = 0 := by cases accessBytes f.ty <;> simp [List.range_succ_eq_map]
  rw [hexec, spadAccess_proceeds _ halign (fun o _ => by rw [hhead]; exact Nat.zero_le o)
    (by rw [hhead]; decide) hin, storing_proceeds _ hstrike]
  exact ⟨_, rfl, spadStored_finish h.1.1 hstrike
    ((spadWrites_spadPut _ _ _).of_eq (take_spad x _).1 (take_spad x _).2 rfl rfl)⟩

/-- The first offset of the enabled lanes is the least, and lies in the 128 bytes of a v register. -/
theorem maskOffsets_head (m : BitVec 32) : (∀ o ∈ maskOffsets m, (maskOffsets m).headD 0 ≤ o) ∧ (maskOffsets m).headD 0 < 128 := by
  have hmem (i o : Nat) (h : o ∈ if m.getLsbD i then addrRange (4 * i) 4 else []) : 4 * i ≤ o ∧ o < 4 * i + 4 := by
    split at h
    · simp only [addrRange, List.mem_map, List.mem_range] at h
      omega
    · cases h
  have hsorted : (maskOffsets m).Pairwise (· ≤ ·) := by
    refine List.pairwise_flatMap.mpr ⟨fun i _ => ?_, List.pairwise_lt_range.imp fun hij o ho p hp => ?_⟩
    · split
      · exact List.pairwise_map.mpr (List.pairwise_lt_range.imp fun h => by omega)
      · exact .nil
    · have := hmem _ o ho
      have := hmem _ p hp
      omega
  have hlt : ∀ o ∈ maskOffsets m, o < 128 := by
    intro o ho
    obtain ⟨i, hi, ho⟩ := List.mem_flatMap.mp ho
    have := hmem i o ho
    have := List.mem_range.mp hi
    omega
  cases hm : maskOffsets m with
  | nil => simp
  | cons o rest =>
    rw [hm] at hsorted hlt
    exact ⟨List.forall_mem_cons.mpr ⟨Nat.le_refl o, (List.pairwise_cons.mp hsorted).1⟩, hlt o List.mem_cons_self⟩

variable {i : Fin 8}

/-- The mask of the lanes that the vector form writes. -/
def stsMask (x : Ctx) (f : Fields) : BitVec 32 := maskOf f.src3 (val (x.take (Fields.stsSrcs f)).1 2)

theorem exec_sts_vector (h : Ready gd s x (Fields.stsSrcs f) [] 0) (hv : f.src2.reg = .v i) :
    exec (.sts gd f) s = .next (x.spadAccess (stsAddr x f) 8 (maskOffsets (stsMask x f)) fun y pos =>
      y.storing (maskAddrs (stsMask x f) (stsAddr x f)) fun y => y.finish
        ((laneWrites (stsMask x f) pos (valAt (x.take (Fields.stsSrcs f)).1 1).lanes).foldl (fun c e => c.spadPut e.1 [e.2])
          (x.take (Fields.stsSrcs f)).2.1) (x.take (Fields.stsSrcs f)).2.2) := by
  refine (ready_turn h).trans ?_
  dsimp only
  split
  · rfl
  · next hne => exact absurd hv (hne i)

/-- The enabled lanes of the source are written, each at its place. -/
theorem sts_vector (h : Ready gd s x (Fields.stsSrcs f) [] 0) (hv : f.src2.reg = .v i) {off : Nat} (halign : (stsAddr x f).toNat % 8 = 0)
    (hin : InScratchpad x (stsAddr x f) (maskOffsets (stsMask x f)) off)
    (hstrike : s.storeStrike x.t (maskAddrs (stsMask x f) (stsAddr x f)) = .inl s1) :
    ∃ t, exec (.sts gd f) s = .next t ∧ SpadStored s x (x.take (Fields.stsSrcs f)).2.2
      (laneWrites (stsMask x f) (off + ·) (valAt (x.take (Fields.stsSrcs f)).1 1).lanes) t := by
  obtain ⟨rfl, -⟩ := ctxOf_state h.1.1
  obtain ⟨hle, hlt⟩ := maskOffsets_head (stsMask x f)
  rw [exec_sts_vector h hv, spadAccess_proceeds _ halign hle hlt hin, storing_proceeds _ hstrike]
  exact ⟨_, rfl, spadStored_finish h.1.1 hstrike
    ((spadWrites_foldl _ _).of_eq (take_spad x _).1 (take_spad x _).2 rfl rfl)⟩

/-- With no lane enabled the store is over at once. -/
theorem sts_none (h : Ready gd s x (Fields.stsSrcs f) [] 0) (hv : f.src2.reg = .v i) (hm : stsMask x f = 0)
    (halign : (stsAddr x f).toNat % 8 = 0) (hhome : x.c.atHome x.t = true) :
    exec (.sts gd f) s = .next (x.finish (x.take (Fields.stsSrcs f)).2.1 (x.take (Fields.stsSrcs f)).2.2) := by
  obtain ⟨pos, hpos⟩ := spadAccess_none (fun y pos =>
      y.storing (maskAddrs 0 (stsAddr x f)) fun y => y.finish
        ((laneWrites 0 pos (valAt (x.take (Fields.stsSrcs f)).1 1).lanes).foldl (fun c e => c.spadPut e.1 [e.2])
          (x.take (Fields.stsSrcs f)).2.1) (x.take (Fields.stsSrcs f)).2.2) halign hhome
  have hoff : maskOffsets 0 = [] := by decide
  have haddr : maskAddrs 0 (stsAddr x f) = [] := by simp [maskAddrs]
  rw [exec_sts_vector h hv, hm, hoff, hpos, haddr, storing_proceeds _ (storeStrike_nil x.s x.t)]
  rfl

end

/-- Settles O30: the checks pass, no watchpoint stops the store, and its writes are those of its source's bytes. -/
theorem scratchpadStoreCompletes : Obligations.ScratchpadStoreCompletes := by
  unfold Obligations.ScratchpadStoreCompletes
  intro gd f s s1 x h r a n m
  refine ⟨?_, ?_, ?_⟩
  · intro off hv halign hin hstrike
    obtain ⟨t, ht, hcls, hmem, hthread, hspad⟩ := sts_scalar h hv halign hin hstrike
    have hlen : (wordBytes n (val r.1 1)).length = n := by simp [wordBytes]
    exact ⟨t, ht, hcls, hmem, hthread, hspad.bytes hlen, fun b hb => hspad.outside (hlen.symm ▸ hb)⟩
  · intro i off hv halign hin hstrike
    obtain ⟨t, ht, hcls, hmem, hthread, hspad⟩ := sts_vector h hv halign hin hstrike
    exact ⟨t, ht, hcls, hmem, hthread, hspad.lane, fun b hb => hspad.outside_lanes hb⟩
  · intro i hv hm halign hhome
    exact ⟨_, sts_none h hv hm halign hhome, issuesAs_finish h.1.1 ..⟩

end Sys2Proof.Machine
end

section
/-! PROOFS. Memory accesses finish at their homes (R36, R193, R200, R204, R211, R312, R323). -/
namespace Sys2Proof.Machine
open Sys2Proof

/-! The cores after what changes other parts of the state. -/

@[simp] theorem freezeDie_cores (s : State) (die cause : Nat) : (s.freezeDie die cause).cores = s.cores := by
  simp only [State.freezeDie]; split <;> rfl

@[simp] theorem trigger_cores (s : State) (die bit : Nat) : (s.trigger die bit).cores = s.cores := by
  unfold State.trigger; split <;> simp

@[simp] theorem countFixed_cores (s : State) (die n : Nat) : (s.countFixed die n).cores = s.cores := by
  unfold State.countFixed; split <;> simp

theorem foldl_cores {α : Type} (f : State → α → State) (h : ∀ s a, (f s a).cores = s.cores) (l : List α) (s : State) :
    (l.foldl f s).cores = s.cores := by
  induction l generalizing s with
  | nil => rfl
  | cons a l ih => exact (ih _).trans (h s a)

@[simp] theorem correct_cores (s : State) (segs : List (Nat × Nat)) : (s.correct segs).cores = s.cores := by
  simp only [State.correct]; split
  · exact foldl_cores _ (fun s e => countFixed_cores s _ _) _ _
  · rfl

@[simp] theorem trace_cores (s : State) (g slot ty colour : Nat) (wid pc payload : Word) :
    (s.trace g slot ty colour wid pc payload).cores = s.cores := by
  simp only [State.trace]; repeat' split
  all_goals rfl

@[simp] theorem expand_cores (s : State) (clu key : Nat) : (s.expand clu key).cores = s.cores := by
  simp only [State.expand]; split <;> rfl

@[simp] theorem touch_cores (s : State) (pa : Nat) : (s.touch pa).cores = s.cores := by
  unfold State.touch; split <;> simp

@[simp] theorem takeSlots_cores (s : State) (pa : Nat) : (s.takeSlots pa).cores = s.cores := by
  unfold State.takeSlots; split <;> rfl

@[simp] theorem memStore_cores (s : State) (colour : Nat) (bytes : List (Nat × Byte)) : (s.memStore colour bytes).cores = s.cores := rfl

@[simp] theorem hearClock_cores (s : State) (die : Nat) (v : List Nat) : (s.hearClock die v).cores = s.cores := rfl

@[simp] theorem hearReq_cores (s : State) (pa : Nat) (r : Req) : (s.hearReq pa r).cores = s.cores := by
  unfold State.hearReq; split <;> rfl

@[simp] theorem hearAt_cores (s : State) (tid : Nat) (clock : List Nat) : (s.hearAt tid clock).cores = s.cores := by
  unfold State.hearAt; split <;> rfl

@[simp] theorem hearAt_net (s : State) (tid : Nat) (clock : List Nat) : (s.hearAt tid clock).net = s.net := by
  unfold State.hearAt; split <;> rfl

theorem core_of_cores {s t : State} (h : t.cores = s.cores) (g : Nat) : t.core g = s.core g := by rw [State.core, h]; rfl

/-- A thread is named where it was while the cores are as before. -/
theorem Named.of_cores {s t : State} {r : SlotRef} {th : Thread} (hn : Named s r th) (h : t.cores = s.cores) : Named t r th := by
  obtain ⟨hth, hid⟩ := hn
  exact ⟨by rw [State.thread, core_of_cores h]; exact hth, by rw [State.findTid, h]; exact hid⟩

/-! A thread changed where it stands. -/

theorem onTid_of_named {s : State} {r : SlotRef} {th : Thread} (hn : Named s r th) (f : Thread → Thread) :
    s.onTid th.tid f = s.setThread r.g r.slot (some (f th)) := by
  obtain ⟨hth, hid⟩ := hn
  simp only [State.onTid, hid, hth]

theorem onTid_thread_of_named {s : State} {r : SlotRef} {th : Thread} (hn : Named s r th) (f : Thread → Thread) :
    (s.onTid th.tid f).thread r.g r.slot = some (f th) := by
  rw [onTid_of_named hn, thread_setThread_self _ _ _ (State.slot_lt_of_thread hn.1)]

theorem performed_thread_of_named {s : State} {r : SlotRef} {th : Thread} (hn : Named s r th) (id : Nat) :
    (s.performed th.tid id).thread r.g r.slot = some { th with outst := th.outst.filter fun i => i != id } :=
  onTid_thread_of_named hn _

theorem smapFind_map_snd {α β : Type} (f : α → β) (m : List (Nat × α)) (k : Nat) :
    smapFind (m.map fun e => (e.1, f e.2)) k = (smapFind m k).map f := by
  induction m with
  | nil => rfl
  | cons e m ih =>
    simp only [List.map_cons, smapFind]
    split
    · rfl
    · split
      · rfl
      · exact ih

/-- A core whose arriving threads are changed by a function of each. -/
def Core.onArrivals (f : Thread → Thread) (c : Core) : Core := { c with arrivals := c.arrivals.map f }

theorem onMoving_core_held (s : State) (tid : Nat) (f : Thread → Thread) (g : Nat) : ((s.onMoving tid f).core g).held = (s.core g).held := by
  have hcores : (s.onMoving tid f).cores = s.cores.map fun e => (e.1, e.2.onArrivals fun t => if t.tid = tid then f t else t) := rfl
  rw [State.core, hcores, smapGet, smapFind_map_snd, State.core, smapGet]
  cases smapFind s.cores g <;> rfl

/-- What a home keeps is no thread's. -/
theorem onTid_held (s : State) (tid : Nat) (f : Thread → Thread) (g : Nat) : ((s.onTid tid f).core g).held = (s.core g).held := by
  unfold State.onTid
  split
  · exact onMoving_core_held s tid f g
  · next r _ =>
    split
    · rfl
    · by_cases hg : g = r.g
      · subst hg; simp [State.setThread, Core.setThread]
      · rw [State.setThread, core_setCore_other _ _ hg]

theorem performed_held (s : State) (tid id g : Nat) : ((s.performed tid id).core g).held = (s.core g).held := onTid_held s tid _ g

theorem peerAnswer_cores (s : State) (r : Req) (ok : Bool) (data : List Byte) : (s.peerAnswer r ok data).cores = s.cores := by
  simp only [State.peerAnswer, State.toHost, State.portUsed]; split <;> rfl

theorem writeDone_held (s : State) (r : Req) (g : Nat) : ((s.writeDone r).core g).held = (s.core g).held := by
  unfold State.writeDone; split
  · rw [core_of_cores (peerAnswer_cores s r _ _)]
  · exact performed_held ..

/-! A step that does not write leaves memory. -/

theorem exists_next_of_exec {i : Instr} {s : State} {P : State → Prop} (t : State) (hi : writesMemory i = false) (h : exec i s = .next t)
    (hP : P t) : ∃ t, exec i s = .next t ∧ SameMemory s t ∧ P t :=
  ⟨t, h, fun a => congrArg (memGet · a) (exec_mem hi h), hP⟩

/-! Walks and lines (R36, R193). -/

/-- A walk that has not ended ends as the tables have it: its leaf is cached, or its fault kept. -/
theorem tableWalkComplete_next {s : State} {g colour vpage : Nat} (hw : (⟨colour, vpage, none⟩ : Walk) ∈ (s.core g).walks)
    (ho : s.walkOpen colour (dieOf g) (vpage * 2 ^ 16) = true) :
    ∃ t, exec (.tableWalkComplete g colour vpage) s = .next t ∧ SameMemory s t ∧
      match s.walk colour (dieOf g) (vpage * 2 ^ 16) with
      | .ok (big, e) => leafEntry colour (vpage * 2 ^ 16) big e ∈ (t.core g).tlb
      | .error d => (⟨colour, vpage, some (BitVec.ofNat 8 d)⟩ : Walk) ∈ (t.core g).walks ∧ (t.core g).tlb = (s.core g).tlb := by
  have hany : (s.core g).walks.any (fun w => w.colour == colour && w.page == vpage && w.res.isNone) = true :=
    List.any_eq_true.mpr ⟨_, hw, by simp⟩
  cases hres : s.walk colour (dieOf g) (vpage * 2 ^ 16) with
  | ok p =>
    refine exists_next_of_exec ((s.correct (s.walkWords colour (dieOf g) (vpage * 2 ^ 16))).setCore g { s.core g with
      walks := (s.core g).walks.filter fun w => !(w.colour == colour && w.page == vpage)
      tlb := (s.core g).tlb ++ [leafEntry colour (vpage * 2 ^ 16) p.1 p.2] }) rfl
      ((show _ = execTableWalkComplete g colour vpage s from rfl).trans ?_) (by simp)
    simp only [execTableWalkComplete, hany, ho, hres, Bool.true_eq_false, if_false]
  | error d =>
    refine exists_next_of_exec ((s.correct (s.walkWords colour (dieOf g) (vpage * 2 ^ 16))).setCore g { s.core g with
      walks := ((s.core g).walks.filter fun w => !(w.colour == colour && w.page == vpage))
        ++ [⟨colour, vpage, some (BitVec.ofNat 8 d)⟩] }) rfl
      ((show _ = execTableWalkComplete g colour vpage s from rfl).trans ?_) (by simp)
    simp only [execTableWalkComplete, hany, ho, hres, Bool.true_eq_false, if_false]

/-- A machine check stops its core and says why; the lines it holds stay. -/
theorem machineCheck_core (s : State) (g cause : Nat) : (s.machineCheck g cause).core g = { s.core g with
    stop := true, checked := true, mcCause := BitVec.ofNat 4 cause, mcSlot := BitVec.ofNat 4 ((s.core g).cyc % 16), swapDue := false } := by
  simp only [State.machineCheck, freezeDie_core, core_setCore_self]

/-- A line that its core still translates, of memory within reach and without error, is held or is a machine check, as its parity is. -/
theorem lineFetchReply_next {s : State} {g colour : Nat} {line : Word} {e : Tlb} {pa : Nat}
    (hf : (s.core g).fetches.contains (colour, line.toNat) = true) (he : (s.core g).tlbFind colour line.toNat = some e)
    (ha : s.leafAccess (dieOf g) colour Use.fetch e.big e.leaf.toNat line.toNat = .ok (.mem pa)) (hway : s.twoWay (dieOf g) pa = true)
    (hbad : s.bad pa 64 = false) :
    ∃ t, exec (.lineFetchReply g colour line) s = .next t ∧ SameMemory s t ∧
      let bits := BitVec.ofNat 512 (leBytes (memGets s.mem pa 64))
      if parityOk bits then (colour, line.toNat, bits) ∈ (t.core g).lines ∧ (t.core g).checked = (s.core g).checked
      else (t.core g).checked = true ∧ (t.core g).stop = true ∧ (t.core g).mcCause = 1 ∧ (t.core g).lines = (s.core g).lines := by
  let s1 := (s.setCore g { s.core g with fetches := (s.core g).fetches.filter fun (e : Nat × Nat) => e != (colour, line.toNat) }).correct
    [(pa, 64)]
  have hcore : s1.core g = { s.core g with fetches := (s.core g).fetches.filter fun (e : Nat × Nat) => e != (colour, line.toNat) } := by
    simp [s1, core_of_cores (correct_cores _ _)]
  have hexec : exec (.lineFetchReply g colour line) s = .next (
      if parityOk (BitVec.ofNat 512 (leBytes (memGets s.mem pa 64))) then s1.setCore g { s1.core g with
        lines := (s1.core g).lines ++ [(colour, line.toNat, BitVec.ofNat 512 (leBytes (memGets s.mem pa 64)))] }
      else s1.machineCheck g 1) := by
    refine (show _ = execLineFetchReply g colour line s from rfl).trans ?_
    simp only [execLineFetchReply, hf, he, ha, hway, hbad, Bool.true_eq_false, Bool.false_eq_true, if_false]
    split <;> rfl
  refine exists_next_of_exec _ rfl hexec ?_
  dsimp only
  split
  · simp [hcore]
  · simp [machineCheck_core, hcore]

/-! Answers and reads (R104, R200, R312). -/

/-- A reply that has arrived on an open way reaches its thread. -/
theorem loadReply_next {s : State} {k id : Nat} {dst : Dest} {data : List Byte} {clock : List Nat} {own : Label} {r : SlotRef} {th : Thread}
    (hn : Named s r th) (hm : s.net[k]? = some (.reply th.tid id dst data clock own)) (harr : s.arrived k = true)
    (hway : s.wayBack own = true) :
    ∃ t, exec (.loadReply k) s = .next t ∧ SameMemory s t ∧
      t.thread r.g r.slot = some ((th.receive dst data).replied id) ∧ t.net = s.net.eraseIdx k := by
  have hnamed : Named ((s.takeMsg k).hearAt th.tid clock) r th := hn.of_cores (by simp)
  refine exists_next_of_exec (((s.takeMsg k).hearAt th.tid clock).onTid th.tid fun t => (t.receive dst data).replied id) rfl
    ((show _ = execLoadReply k s from rfl).trans ?_) ⟨?_, ?_⟩
  · simp only [execLoadReply, hm, State.answered, harr, hway, Bool.true_eq_false, if_false, orNot]
  · exact onTid_thread_of_named hnamed _
  · rw [onTid_of_named hnamed]
    simp [State.takeMsg]

/-- No access of this package waits at a port, or has lost its session. -/
theorem peerWaits_of_home (s : State) (src : Nat) {pa : Nat} (h : isPeer pa = false) : s.peerWaits src pa = false := by
  simp [State.peerWaits, h]

theorem peerLost_of_home (s : State) (src : Nat) {pa : Nat} (h : isPeer pa = false) : s.peerLost src pa = false := by
  simp [State.peerLost, h]

/-- The bytes of this package are those of memory. -/
theorem readBytes_of_home (s : State) {segs : List (Nat × Nat)} (h : ∀ e ∈ segs, isPeer e.1 = false) :
    s.readBytes segs = segs.flatMap fun e => memGets s.mem e.1 e.2 :=
  List.flatMap_congr fun e he => by simp [h e he]

/-- A read of this package that its slice does not refuse replies the bytes of its home. -/
theorem readPerform_next {s : State} {k : Nat} {r : Req} {segs : List (Nat × Nat)} {dst : Dest} {va : Word}
    (hm : s.net[k]? = some (.read r segs dst va)) (harr : s.arrived k = true) (hexp : s.expanded (segs.headD (0, 0)).1 = true)
    (hown : s.ownWaits (homeKeeper (segs.headD (0, 0)).1) r segs = false) (hhome : isPeer (segs.headD (0, 0)).1 = false)
    (hhomes : ∀ e ∈ segs, isPeer e.1 = false) (href : s.refuses r.colour segs = none) (hpeer : r.fromPeer = false) :
    ∃ t, exec (.readPerform k) s = .next t ∧ SameMemory s t ∧
      .reply r.tid r.id dst (segs.flatMap fun e => memGets s.mem e.1 e.2) (s.die (homeDie (segs.headD (0, 0)).1)).k
        (r.label (homeOf (segs.headD (0, 0)).1)) ∈ t.net := by
  have hrefused : s.readRefused r segs dst = none := by simp [State.readRefused, href]
  let s1 := (((s.takeMsg k).touch (segs.headD (0, 0)).1).correct segs).performed r.tid r.id
  let s2 := if dst = .failed ∧ s.badSegs segs then s1.freezeDie (homeDie (segs.headD (0, 0)).1) 4 else s1
  have hexec : exec (.readPerform k) s = .next (s2.send (.reply r.tid r.id dst (segs.flatMap fun e => memGets s.mem e.1 e.2)
      (s.die (homeDie (segs.headD (0, 0)).1)).k (r.label (homeOf (segs.headD (0, 0)).1)))) := by
    refine (show _ = execReadPerform k s from rfl).trans ?_
    simp only [execReadPerform, hm, harr, hexp, hown, hhome, peerWaits_of_home s r.src hhome, peerLost_of_home s r.src hhome, hrefused,
      readBytes_of_home s hhomes, State.reply, hpeer, Bool.true_eq_false, Bool.false_eq_true, Bool.and_false, or_self, if_false, orNot, s2, s1]
  exact exists_next_of_exec _ rfl hexec (List.mem_append_right _ (List.mem_singleton_self _))

/-! Writes (R211, R312, R323). -/

/-- What a slice refuses depends on the frames, keys and errors alone. -/
theorem refuses_of_parts {s t : State} (ho : t.owners = s.owners) (hc : t.colours = s.colours) (hb : t.badMem = s.badMem) (colour : Nat)
    (segs : List (Nat × Nat)) : t.refuses colour segs = s.refuses colour segs := by
  have hforeign : t.foreign colour = s.foreign colour := funext fun pa => by
    simp only [State.foreign, State.keyless, State.colour, ho, hc]
  have hany : t.foreignAny colour (segs.map Prod.fst) = s.foreignAny colour (segs.map Prod.fst) := congrArg _ hforeign
  have hbad : t.badSegs segs = s.badSegs segs := by simp only [State.badSegs, State.bad, hb]
  rw [State.refuses, hany, hbad]
  rfl

theorem mustHold_of_home (s : State) (r : Req) {pa : Nat} (segs : List (Nat × Nat)) (h : isPeer pa = false) :
    s.mustHold [r] pa segs = (!s.covers (homeDie pa) r.clock || s.ownWaits (homeKeeper pa) r segs) := by
  simp [State.mustHold, h]

/-- A write that its slice does not refuse is in memory. -/
theorem applyWrite_of_home (s : State) {r : Req} {bytes : List (Nat × Byte)} (va : Word) (hhome : isPeer (bytes.headD (0, 0)).1 = false)
    (href : s.refuses r.colour (bytes.map fun b => (b.1, 1)) = none) :
    s.applyWrite r bytes va = ((((s.correct (bytes.map fun b => (b.1, 1))).takeSlots (bytes.headD (0, 0)).1).touch
      (bytes.headD (0, 0)).1).memStore r.colour bytes).writeDone r := by
  simp only [State.applyWrite, hhome, href, Bool.false_eq_true, if_false]

@[simp] theorem hearReq_owners (s : State) (pa : Nat) (r : Req) : (s.hearReq pa r).owners = s.owners := by
  unfold State.hearReq; split <;> rfl

@[simp] theorem hearReq_colours (s : State) (pa : Nat) (r : Req) : (s.hearReq pa r).colours = s.colours := by
  unfold State.hearReq; split <;> rfl

@[simp] theorem hearReq_badMem (s : State) (pa : Nat) (r : Req) : (s.hearReq pa r).badMem = s.badMem := by
  unfold State.hearReq; split <;> rfl

section
variable {s : State} {k : Nat} {r : Req} {bytes : List (Nat × Byte)} {va : Word}

/-- A write that has arrived, with the slots it needs, is performed or held. -/
theorem writePerform_next (hm : s.net[k]? = some (.write r bytes va)) (harr : s.arrived k = true)
    (hslots : s.slotsOk (bytes.headD (0, 0)).1 = true) (hhome : isPeer (bytes.headD (0, 0)).1 = false) :
    exec (.writePerform k) s = .next (
      if s.mustHold [r] (bytes.headD (0, 0)).1 (bytes.map fun b => (b.1, 1)) then
        ((s.takeMsg k).hearReq (bytes.headD (0, 0)).1 r).holdMsg (homeKeeper (bytes.headD (0, 0)).1) (.write r bytes va)
      else ((s.takeMsg k).hearReq (bytes.headD (0, 0)).1 r).applyWrite r bytes va) := by
  have hexec : exec (.writePerform k) s = execWritePerform k s := rfl
  rw [hexec]
  simp only [execWritePerform, hm, harr, hslots, peerWaits_of_home s r.src hhome, Bool.true_eq_false, Bool.false_eq_true, or_self, if_false,
    orNot]

/-- A write that the frontier covers, and that no earlier access of its own must go before, is in memory. -/
theorem writePerform_covered (hm : s.net[k]? = some (.write r bytes va)) (harr : s.arrived k = true)
    (hslots : s.slotsOk (bytes.headD (0, 0)).1 = true) (hhome : isPeer (bytes.headD (0, 0)).1 = false)
    (hcov : s.covers (homeDie (bytes.headD (0, 0)).1) r.clock = true)
    (hown : s.ownWaits (homeKeeper (bytes.headD (0, 0)).1) r (bytes.map fun b => (b.1, 1)) = false)
    (href : s.refuses r.colour (bytes.map fun b => (b.1, 1)) = none) (hpeer : r.fromPeer = false) :
    ∃ t, exec (.writePerform k) s = .next t ∧ t.mem = memPuts s.mem bytes ∧
      ∀ (q : SlotRef) (th : Thread), Named s q th → th.tid = r.tid →
        t.thread q.g q.slot = some { th with outst := th.outst.filter fun i => i != r.id } := by
  have hnot : ¬ s.mustHold [r] (bytes.headD (0, 0)).1 (bytes.map fun b => (b.1, 1)) = true := by
    rw [mustHold_of_home s r _ hhome, hcov, hown]
    decide
  rw [writePerform_next hm harr hslots hhome, if_neg hnot,
    applyWrite_of_home _ va hhome ((refuses_of_parts (by simp) (by simp) (by simp) _ _).trans href)]
  refine ⟨_, rfl, by simp, fun q th hn htid => ?_⟩
  rw [State.writeDone, hpeer, ← htid]
  exact performed_thread_of_named (hn.of_cores (by simp)) _

/-- A write that the frontier does not cover, or that an earlier access of its own must go before, is held. -/
theorem writePerform_held (hm : s.net[k]? = some (.write r bytes va)) (harr : s.arrived k = true)
    (hslots : s.slotsOk (bytes.headD (0, 0)).1 = true) (hhome : isPeer (bytes.headD (0, 0)).1 = false)
    (hwait : s.covers (homeDie (bytes.headD (0, 0)).1) r.clock = false ∨
      s.ownWaits (homeKeeper (bytes.headD (0, 0)).1) r (bytes.map fun b => (b.1, 1)) = true) :
    ∃ t, exec (.writePerform k) s = .next t ∧ SameMemory s t ∧
      (t.core (homeKeeper (bytes.headD (0, 0)).1)).held = (s.core (homeKeeper (bytes.headD (0, 0)).1)).held ++ [.write r bytes va] := by
  have hhold : s.mustHold [r] (bytes.headD (0, 0)).1 (bytes.map fun b => (b.1, 1)) = true := by
    rw [mustHold_of_home s r _ hhome]
    rcases hwait with h | h <;> rw [h]
    · rfl
    · exact Bool.or_true _
  rw [writePerform_next hm harr hslots hhome, if_pos hhold]
  have hcore := core_of_cores (s := s) (t := (s.takeMsg k).hearReq (bytes.headD (0, 0)).1 r) (by simp)
  exact ⟨_, rfl, fun a => by simp [State.holdMsg], by simp only [State.holdMsg, core_setCore_self, hcore]⟩

/-- A held write is in memory once neither the frontier nor an earlier access of its own holds it. -/
theorem heldWriteRelease_next {g : Nat} (hm : (s.core g).held[k]? = some (.write r bytes va))
    (hcov : s.covers (homeDie (bytes.headD (0, 0)).1) r.clock = true) (hslots : s.slotsOk (bytes.headD (0, 0)).1 = true)
    (hhome : isPeer (bytes.headD (0, 0)).1 = false)
    (hown : (s.setCore g { s.core g with held := (s.core g).held.take k }).ownWaits g r (bytes.map fun b => (b.1, 1)) = false)
    (href : s.refuses r.colour (bytes.map fun b => (b.1, 1)) = none) :
    ∃ t, exec (.heldWriteRelease g k) s = .next t ∧ t.mem = memPuts s.mem bytes ∧ (t.core g).held = (s.core g).held.eraseIdx k := by
  have hexec : exec (.heldWriteRelease g k) s = .next ((s.setCore g { s.core g with held := (s.core g).held.eraseIdx k }).applyWrite
      r bytes va) := by
    refine (show _ = execHeldWriteRelease g k s from rfl).trans ?_
    simp only [execHeldWriteRelease, hm, hcov, hown, hslots, List.any_cons, List.any_nil, Bool.not_true, Bool.or_false, Bool.true_eq_false,
      Bool.false_eq_true, if_false, orNot]
  rw [hexec, applyWrite_of_home _ va hhome ((refuses_of_parts (by simp) (by simp) (by simp) _ _).trans href)]
  refine ⟨_, rfl, by simp, ?_⟩
  rw [writeDone_held, core_of_cores (s := s.setCore g { s.core g with held := (s.core g).held.eraseIdx k }) (by simp), core_setCore_self]

end

/-! Frontiers and blocks (R211, R323). -/

/-- Each die of a list changed by a function of it. -/
theorem die_foldl_setDie (f : Die → Die) (ds : List Nat) (h : ds.Nodup) (s : State) (d : Nat) :
    (ds.foldl (fun s h => s.setDie h (f (s.die h))) s).die d = if d ∈ ds then f (s.die d) else s.die d := by
  induction ds generalizing s with
  | nil => simp
  | cons a ds ih =>
    obtain ⟨ha, hds⟩ := List.nodup_cons.mp h
    rw [List.foldl_cons, ih hds, die_setDie]
    by_cases hda : d = a
    · subst hda; simp [ha]
    · simp [hda]

/-- An entry that a die hears of. -/
def Die.hear (die n : Nat) (d : Die) : Die := { d with front := d.front.set die n }

theorem Die.hear_front (d : Die) {die n : Nat} (h : die < d.front.length) : (d.hear die n).front.getD die 0 = n := by
  simp [Die.hear, List.getD_eq_getElem?_getD, h]

/-- A frontier entry that some die does not know of yet reaches every die. -/
theorem frontierUpdate_next {s : State} {die h : Nat} (hdie : die < 8) (hh : h < 8) (hlen : ∀ d, d < 8 → (s.die d).front.length = 8)
    (hlt : (s.die h).front.getD die 0 < (s.die die).front.getD die 0) :
    ∃ t, exec (.frontierUpdate die) s = .next t ∧ SameMemory s t ∧
      ∀ d, d < 8 → (t.die d).front.getD die 0 = max ((s.die d).front.getD die 0) ((s.die die).front.getD die 0) := by
  let ds := (List.range 8).filter fun d => decide ((s.die d).front.getD die 0 < (s.die die).front.getD die 0)
  have hne : ds.isEmpty = false := by
    rw [List.isEmpty_eq_false_iff_exists_mem]
    exact ⟨h, List.mem_filter.mpr ⟨List.mem_range.mpr hh, decide_eq_true hlt⟩⟩
  have hexec : exec (.frontierUpdate die) s =
      .next (ds.foldl (fun u d => u.setDie d ((u.die d).hear die ((s.die die).front.getD die 0))) s) := by
    refine (show _ = execFrontierUpdate die s from rfl).trans ?_
    simp only [execFrontierUpdate]
    rw [if_neg (by rw [hne]; decide)]
    rfl
  refine exists_next_of_exec _ rfl hexec fun d hd => ?_
  rw [die_foldl_setDie (Die.hear die _) ds (List.nodup_range.filter _) s d]
  split
  case isTrue hin =>
    obtain ⟨-, hless⟩ := List.mem_filter.mp hin
    rw [Die.hear_front _ (by rw [hlen d hd]; exact hdie), Nat.max_eq_right (of_decide_eq_true hless).le]
  case isFalse hout =>
    have hle : ¬ (s.die d).front.getD die 0 < (s.die die).front.getD die 0 := fun hless =>
      hout (List.mem_filter.mpr ⟨List.mem_range.mpr hd, decide_eq_true hless⟩)
    exact (Nat.max_eq_left (Nat.not_lt.mp hle)).symm

/-- A block that is expanded is the most recently used of the store. -/
theorem expand_head (s : State) (clu key : Nat) : ((s.expand clu key).cluster clu).expander.head? = some key := by
  simp only [State.expand]
  split <;> simp [cluster_setCluster]

theorem clusterBlockExpand_next {s : State} {clu colour blk : Nat} (hclu : clu < 128) (hblk : blk < 2 ^ 15)
    (hout : (s.cluster clu).expander.contains (colour * 2 ^ 15 + blk) = false) :
    ∃ t, exec (.clusterBlockExpand clu colour blk) s = .next t ∧ SameMemory s t ∧
      (t.cluster clu).expander.head? = some (colour * 2 ^ 15 + blk) := by
  refine exists_next_of_exec (s.expand clu (colour * 2 ^ 15 + blk)) rfl
    ((show _ = execClusterBlockExpand clu colour blk s from rfl).trans ?_) (expand_head _ _ _)
  simp only [execClusterBlockExpand, hclu, hblk, hout, and_self, if_true]

/-- Settles O49: each step that finishes an access is enabled by the conditions named, and leaves what R36, R193, R204, R211, R312 and R323 say. -/
theorem memoryEventsComplete : Obligations.MemoryEventsComplete := by
  unfold Obligations.MemoryEventsComplete
  exact ⟨fun _ _ _ _ hw ho => tableWalkComplete_next hw ho,
    fun _ _ _ _ _ _ hf he ha hway hbad => lineFetchReply_next hf he ha hway hbad,
    fun _ _ _ _ _ _ _ _ _ hn hm harr hway => loadReply_next hn hm harr hway,
    fun _ _ _ _ _ _ hm harr hexp hown hhome hhomes href hpeer => readPerform_next hm harr hexp hown hhome hhomes href hpeer,
    fun _ _ _ _ _ hm harr hslots hhome => ⟨fun hcov hown href hpeer => writePerform_covered hm harr hslots hhome hcov hown href hpeer,
      fun hwait => writePerform_held hm harr hslots hhome hwait⟩,
    fun _ _ _ _ _ _ hm hcov hslots hhome hown href => heldWriteRelease_next hm hcov hslots hhome hown href,
    fun _ _ _ hdie hh hlen hlt => frontierUpdate_next hdie hh hlen hlt,
    fun _ _ _ _ hclu hblk hout => clusterBlockExpand_next hclu hblk hout⟩

end Sys2Proof.Machine
end

section
/-! PROOFS. What a destination receives (R104, R108, R110), and the guard that a compare writes (R114–R118). -/
namespace Sys2Proof.Machine
open Sys2Proof

/-! What an instruction leaves, its packets counted or not. -/

/-- The counts of a core's packets are no part of what an instruction leaves (R345). -/
theorem IssuesAs.of_counted {x : Ctx} {t : State} {c : Core} {u : Thread} {msgs : List Msg} {dies : List (Nat × Die)}
    {watches : List WatchSet} {traffic : List (Nat × Nat)} {sent : Nat} {away : List (TeamKey × Option Nat)} {due : Bool}
    (h : IssuesAs x t { c with traffic := traffic, sent := sent, away := away, swapDue := due } u msgs dies watches) :
    IssuesAs x t c u msgs dies watches where
  cls := h.cls
  core := h.core
  cores := h.cores
  net := h.net
  rest := h.rest

/-- A packet sent changes the counts of its core alone. -/
theorem sentBy_eq (c : Core) (u : Thread) (dest : Option Nat) :
    ∃ traffic sent away due, c.sentBy u dest = { c with traffic := traffic, sent := sent, away := away, swapDue := due } := by
  unfold Core.sentBy
  split
  · exact ⟨_, _, c.away, _, rfl⟩
  · exact ⟨c.traffic, c.sent, _, c.swapDue, rfl⟩

/-- An instruction sends one message, counts it, and finishes. -/
theorem issuesAs_send_finish {s : State} {x : Ctx} (h : ctxOf s = some x) (m : Msg) (c : Core) (v u : Thread) (dest : Option Nat) :
    IssuesAs x ((x.on (x.s.send m)).finish (c.sentBy v dest) u) c u [m] s.dies s.watches := by
  obtain ⟨rfl, -⟩ := ctxOf_state h
  obtain ⟨traffic, sent, away, due, hc⟩ := sentBy_eq c v dest
  rw [hc]
  exact (issuesAs_on_finish x _ u [m] x.s.uid x.s.free x.s.dies x.s.watches).of_counted

/-- Settles O17: a word to a link is a message sent, one to another file a core or thread changed, as the instruction finishes. -/
theorem destinationsWritten : Obligations.DestinationsWritten := by
  unfold Obligations.DestinationsWritten
  intro s x c u m w hx
  refine ⟨fun i => issuesAs_finish hx .., fun i => issuesAs_finish hx .., fun i _ => ?_⟩
  obtain ⟨rfl, -⟩ := ctxOf_state hx
  exact issuesAs_send_finish hx ..

/-! Compares of integers (R117, R118). -/

/-- A word read as a signed or an unsigned integer of 64 bits. -/
theorem intVal_signed (a : Word) : intVal 64 true a.toNat = a.toInt := by
  have hlt := a.isLt
  simp only [intVal, wrapTo, BitVec.toInt_eq_toNat_cond, Bool.true_and, decide_eq_true_eq]
  split <;> split <;> omega

theorem intVal_unsigned (a : Word) : intVal 64 false a.toNat = a.toNat := by
  have hlt := a.isLt
  simp only [intVal, wrapTo, Bool.false_and, Bool.false_eq_true, if_false]
  omega

/-- The order that a type of integers gives to words. -/
def wordLt (ty : Ty) (a b : Word) : Bool := if ty = .z64 then decide (a < b) else a.slt b

theorem intVal_lt (ty : Ty) (a b : Word) :
    decide (intVal 64 (ty != .z64) a.toNat < intVal 64 (ty != .z64) b.toNat) = wordLt ty a b := by
  unfold wordLt
  by_cases h : ty = .z64
  · simp [h, intVal_unsigned, BitVec.lt_def]
  · simp [bne_iff_ne.mpr h, h, intVal_signed, BitVec.slt]

theorem intVal_le (ty : Ty) (a b : Word) :
    decide (intVal 64 (ty != .z64) a.toNat ≤ intVal 64 (ty != .z64) b.toNat) = !wordLt ty b a := by
  rw [← intVal_lt, ← decide_not, decide_eq_decide]
  exact Int.not_lt.symm

theorem intVal_inj (sg : Bool) (a b : Word) : intVal 64 sg a.toNat = intVal 64 sg b.toNat ↔ a = b := by
  cases sg
  · simp only [intVal_unsigned, Int.natCast_inj, BitVec.toNat_inj]
  · simp only [intVal_signed, BitVec.toInt_inj]

/-- Settles O22: a compare of integers compares the values of its words, which a type orders as it orders the words. -/
theorem integerCompares : Obligations.IntegerCompares := by
  unfold Obligations.IntegerCompares
  intro gd f a b hty
  have hint (cc : Cond) : condResult cc f.ty a b = condInt cc (f.ty != .z64) a b :=
    if_neg (by rcases hty with h | h | h <;> rw [h] <;> decide)
  have op (cc : Cond) {r : Bool} (h : condInt cc (f.ty != .z64) a b = r) : some (condResult cc f.ty a b) = some r :=
    congrArg some ((hint cc).trans h)
  exact ⟨op .eq (decide_eq_decide.mpr (intVal_inj ..)), op .ne (decide_eq_decide.mpr (not_congr (intVal_inj ..))),
    op .lt (intVal_lt ..), op .le (intVal_le ..), op .gt (intVal_lt ..), op .ge (intVal_le ..), op .tst rfl, op .ntst rfl⟩

/-! Guards written (R114–R116). -/

theorem putP_of_ne {t : Thread} {j : Fin 8} (h : j ≠ 0) (b : Bool) :
    t.putP j b = { t with pval := t.pval.set j b, pres := t.pres.set j true } := if_neg h

/-- Settles O21: the turn of a guard instruction that is ready writes its guard, and the commands queued under it take its value. -/
theorem guardsWritten : Obligations.GuardsWritten := by
  unfold Obligations.GuardsWritten
  intro i k s x j hi he hdst hj hsrc hwait
  have hexec : exec i s = .next (x.writeP (x.take k.srcs).2.1 (x.take k.srcs).2.2 j (k.op (x.take k.srcs).1)) := by
    rw [exec_guardForm hi, GuardForm.turn, turn_ready he (List.append_eq_nil_iff.mpr ⟨hsrc, hwait⟩)]
    simp only [hdst]
  refine ⟨_, hexec, ?_⟩
  simp only [Ctx.writeP, putP_of_ne hj]
  exact issuesAs_finish he.1 ..

end Sys2Proof.Machine
end

section
/-! PROOFS. Engine commands at issue (R115, R236, R239, R252, R269): what a command's turn answers once its operands are ready. -/
namespace Sys2Proof.Machine
open Sys2Proof

theorem exec_engineForm {i : Instr} {k : EngForm} {gd : Guard} {f : Fields} (h : engineForm i = some (k, gd, f)) (s : State) :
    exec i s = engTurn k gd f s := by
  cases i with
  | cldX | cldB | cldtX | cldtB | cldg | rld | rldg | fold | acpV | acpSp | acps | aclrX | aclrF | skeep => cases h; rfl
  | _ => cases h

theorem issuesAs_bumpUid_finish {s : State} {x : Ctx} (h : ctxOf s = some x) (c : Core) (u : Thread) :
    IssuesAs x ((x.on x.s.bumpUid).finish c u) c u [] s.dies s.watches := by
  obtain ⟨rfl, -⟩ := ctxOf_state h
  have hs : { x.s with net := x.s.net ++ [], uid := x.s.uid + 1 } = x.s.bumpUid := by rw [List.append_nil]; rfl
  exact hs ▸ issuesAs_on_finish x c u [] (x.s.uid + 1) x.s.free x.s.dies x.s.watches

section
variable (k : EngForm) (gd : Guard) (f : Fields) (x : Ctx)

/-- A thread whose command has been queued: its counter is one higher, and a v destination has a reply to come (R239). -/
def engIssued : Thread :=
  let r := x.take (k.srcs f)
  let e := engCmd x k f gd r.1
  let u : Thread := { r.2.2 with w := r.2.2.w.set e.ctr.toFin (r.2.2.w[e.ctr.toFin] + 1) }
  match e.vdst with
  | some j => u.pendV j 1
  | none => u

/-- The state in which the command has been queued last. -/
def engQueued : State :=
  let r := x.take (k.srcs f)
  (x.on x.s.bumpUid).finish { r.2.1 with queue := r.2.1.queue ++ [engCmd x k f gd r.1] } (engIssued k gd f x)

/-- What a command answers at its turn once its guard and operands let it: the checks of R239, R269 and the team's core, in this order. -/
def engAnswer : State :=
  if beyondTiles x f then x.trap kindIllegal 4 0
  else if (k.op = 1 ∨ k.op = 3) ∧ x.s.det x.t then x.trap kindDet 1 0
  else if x.c.atHome x.t = false then x.trap kindAddress 4 0
  else engQueued k gd f x

variable {k gd f x}

theorem engTurn_ready {s : State} (hx : ctxOf s = some x) (hg : x.t.guardRes gd = false ∨ x.t.guardVal gd = true)
    (hsrc : srcWaits x [] (k.srcs f) = []) (hdst : engDstWait x f.dst = []) (hroom : x.c.atHome x.t = true → x.c.queue.length < 16) :
    engTurn k gd f s = .next (engAnswer k gd f x) := by
  have hguard : (x.t.guardRes gd && !x.t.guardVal gd) = false := by rcases hg with h | h <;> simp [h]
  have hfull : (x.c.atHome x.t && decide (16 ≤ x.c.queue.length)) = false := by
    cases hh : x.c.atHome x.t
    · rfl
    · simpa using hroom hh
  simp only [engTurn, hx, hguard, hsrc, hdst, hfull, engAnswer, List.append_nil, worst_none.mpr, Bool.false_eq_true, if_false,
    apply_ite Host.Outcome.next]
  rfl

end

/-- Settles O36: the turn of an engine command makes its checks in order, and then the command is queued. -/
theorem commandsQueue : Obligations.CommandsQueue := by
  unfold Obligations.CommandsQueue
  intro i k gd f s x hi hx hg hsrc hdst hroom det r e u
  have hdet : det ↔ (k.op = 1 ∨ k.op = 3) ∧ x.s.det x.t = true := by rw [(ctxOf_state hx).1]
  rw [exec_engineForm hi, engTurn_ready hx hg hsrc hdst hroom, engAnswer]
  refine ⟨fun hhome htile hnot => ?_, fun htile => ?_, fun htile hd => ?_, fun htile hnot hhome => ?_⟩
  · rw [if_neg (by simp [htile]), if_neg (mt hdet.mpr hnot), if_neg (by simp [hhome])]
    exact ⟨_, rfl, issuesAs_bumpUid_finish hx ..⟩
  · rw [if_pos htile]
  · rw [if_neg (by simp [htile]), if_pos (hdet.mp hd)]
  · rw [if_neg (by simp [htile]), if_neg (mt hdet.mpr hnot), if_pos hhome]

end Sys2Proof.Machine
end

section
/-! PROOFS. Loads (R104, R196–R201, R204): what sources leave of their thread, the requests of a load, and the checks that it passes. -/
namespace Sys2Proof.Machine
open Sys2Proof

/-! A request bears the name of its thread, which its sources leave (R312). -/

/-- A thread whose requests bear the name of another. -/
structure AsksAs (u t : Thread) : Prop where
  tid    : u.tid = t.tid
  colour : u.colour = t.colour
  wid    : u.wid = t.wid
  pc     : u.pc = t.pc
  flags  : u.flags = t.flags

theorem takeSrc_streams (s : State) (g : Nat) (c : Core) (t : Thread) (o : Opnd) :
    ∃ ss, (takeSrc s g c t o).2.2 = { t with streams := ss } := by
  unfold takeSrc
  repeat' split
  all_goals exact ⟨_, rfl⟩

theorem takeSrcs_streams (s : State) (g : Nat) (c : Core) (t : Thread) (os : List Opnd) :
    ∃ ss, (takeSrcs s g c t os).2.2 = { t with streams := ss } := by
  induction os generalizing c t with
  | nil => exact ⟨_, rfl⟩
  | cons o rest ih =>
    obtain ⟨ss, h⟩ := takeSrc_streams s g c t o
    obtain ⟨ss', h'⟩ := ih (takeSrc s g c t o).2.1 (takeSrc s g c t o).2.2
    exact ⟨ss', h'.trans (by rw [h])⟩

theorem clearSyncs_dfull (t : Thread) (os : List Opnd) : ∃ df, clearSyncs t os = { t with dfull := df } := by
  induction os generalizing t with
  | nil => exact ⟨_, rfl⟩
  | cons o rest ih =>
    rw [clearSyncs]
    split
    · next i _ _ =>
      obtain ⟨df, h⟩ := ih { t with dfull := t.dfull.set i false }
      exact ⟨df, h⟩
    · exact ih t

/-- Sources read change the streams and full bits of their thread alone. -/
theorem take_thread (x : Ctx) (os : List Opnd) : ∃ ss df, (x.take os).2.2 = { x.t with streams := ss, dfull := df } := by
  obtain ⟨ss, h⟩ := takeSrcs_streams x.s x.g x.c x.t os
  obtain ⟨df, h'⟩ := clearSyncs_dfull (takeSrcs x.s x.g x.c x.t os).2.2 os
  exact ⟨ss, df, h'.trans (by rw [h])⟩

theorem take_asksAs (x : Ctx) (os : List Opnd) : AsksAs (x.take os).2.2 x.t := by
  obtain ⟨ss, df, h⟩ := take_thread x os
  rw [h]
  exact ⟨rfl, rfl, rfl, rfl, rfl⟩

section
variable {x : Ctx} {u : Thread}

theorem AsksAs.req (h : AsksAs u x.t) (s : State) (clock : List Nat) : x.req s u clock = { requestOf x clock with id := s.uid } := by
  simp only [Ctx.req, requestOf, Thread.evt, h.tid, h.colour, h.wid, h.pc, h.flags]

theorem AsksAs.pendD (h : AsksAs u x.t) (i : Fin 16) : AsksAs (u.pendD i) x.t := ⟨h.tid, h.colour, h.wid, h.pc, h.flags⟩

theorem AsksAs.pendV (h : AsksAs u x.t) (i : Fin 8) (n : Nat) : AsksAs (u.pendV i n) x.t := ⟨h.tid, h.colour, h.wid, h.pc, h.flags⟩

theorem AsksAs.loadOut (h : AsksAs u x.t) (n uid : Nat) (acq : Bool) : AsksAs (loadOut u n uid acq) x.t :=
  ⟨h.tid, h.colour, h.wid, h.pc, h.flags⟩

end

/-! The requests of a load (R196, R204, R345). -/

/-- Packets sent to one vault change the counts of their core alone. -/
theorem sentPas_eq (c : Core) (u : Thread) (pa n : Nat) : ∃ traffic sent away due,
    (List.range n).foldl (fun c _ => c.sentPa u pa) c = { c with traffic := traffic, sent := sent, away := away, swapDue := due } := by
  generalize List.range n = l
  induction l generalizing c with
  | nil => exact ⟨c.traffic, c.sent, c.away, c.swapDue, rfl⟩
  | cons a l ih =>
    obtain ⟨_, _, _, _, h⟩ := sentBy_eq c u (if isCluster pa ∨ isPeer pa then none else some (trafficVault (homeCore pa)))
    obtain ⟨traffic, sent, away, due, h'⟩ := ih (c.sentPa u pa)
    exact ⟨traffic, sent, away, due, h'.trans (by rw [Core.sentPa, h])⟩

section
variable {gd : Guard} {f : Fields} {s : State} {x : Ctx} {u : Thread}

/-- The messages of the requests of a load, named one after another from `uid` on. -/
def readMsgs (x : Ctx) : Nat → List ReadReq → List Msg
  | _, [] => []
  | uid, r :: rest => .read { requestOf x [] with id := uid } r.segs r.dst r.va :: readMsgs x (uid + 1) rest

/-- The thread whose load has sent these requests. -/
def readsOut (acq : Bool) : Nat → Thread → List ReadReq → Thread
  | _, u, [] => u
  | uid, u, r :: rest => readsOut acq (uid + 1) (loadOut u r.n uid acq) rest

theorem sendReads_eq (hu : AsksAs u x.t) (acq : Bool) (s : State) (c : Core) (rs : List ReadReq) : ∃ traffic sent away due,
    x.sendReads acq s c u rs = ({ s with net := s.net ++ readMsgs x s.uid rs, uid := s.uid + rs.length },
      { c with traffic := traffic, sent := sent, away := away, swapDue := due }, readsOut acq s.uid u rs) := by
  induction rs generalizing s c u with
  | nil => exact ⟨c.traffic, c.sent, c.away, c.swapDue, by simp [Ctx.sendReads, readMsgs, readsOut]⟩
  | cons r rest ih =>
    obtain ⟨_, _, _, _, hc⟩ := sentPas_eq c u (r.segs.headD (0, 0)).1 r.n
    obtain ⟨traffic, sent, away, due, h⟩ := ih (hu.loadOut r.n s.uid acq)
      (s.send (.read { requestOf x [] with id := s.uid } r.segs r.dst r.va)).bumpUid
      ((List.range r.n).foldl (fun c _ => c.sentPa u (r.segs.headD (0, 0)).1) c)
    refine ⟨traffic, sent, away, due, ?_⟩
    rw [Ctx.sendReads, hu.req]
    refine h.trans ?_
    rw [hc]
    simp only [State.send, State.bumpUid, readMsgs, readsOut, List.length_cons, List.append_assoc, List.singleton_append,
      Nat.add_right_comm, Nat.add_assoc]

/-- An instruction finishes that has sent the requests of a load. -/
theorem issuesAs_sendReads (hx : ctxOf s = some x) (hu : AsksAs u x.t) (acq : Bool) (c : Core) (rs : List ReadReq) :
    let y := x.sendReads acq x.s c u rs
    IssuesAs x ((x.on y.1).finish y.2.1 y.2.2) c (readsOut acq s.uid u rs) (readMsgs x s.uid rs) s.dies s.watches := by
  obtain ⟨rfl, -⟩ := ctxOf_state hx
  obtain ⟨traffic, sent, away, due, h⟩ := sendReads_eq hu acq x.s c rs
  simp only [h]
  exact (issuesAs_on_finish x _ _ _ (x.s.uid + rs.length) x.s.free x.s.dies x.s.watches).of_counted

/-- A request under the name of the next access. -/
theorem requestOf_id (hx : ctxOf s = some x) : { requestOf x [] with id := s.uid } = requestOf x [] := by
  rw [← (ctxOf_state hx).1]
  rfl

/-! The turns of loads. -/

theorem ready_waits {srcs : List Opnd} {dst : Opnd} {n : Nat} (h : Ready gd s x srcs [dst] n) :
    srcWaits x [] srcs ++ dstWait x srcs dst ++ memWait x n = [] := by
  obtain ⟨-, hsrc, hdst, hmem⟩ := h
  rw [hsrc, hdst dst (List.mem_singleton_self dst), hmem]
  rfl

/-- The address of a load. -/
def loadAddr (x : Ctx) (f : Fields) : Word := Fields.addr f (val (x.take [f.src1]).1 0)

theorem ld_issues {i : Fin 16} {p : Place} (hd : f.dst.reg = .d i) (h : Ready gd s x [f.src1] [f.dst] 1)
    (halign : (loadAddr x f).toNat % accessBytes f.ty = 0) (hreach : Reaches x .loads .read (loadAddr x f) [loadAddr x f] [p]) :
    ∃ t, exec (.ld gd f) s = .next t ∧
      IssuesAs x t (x.take [f.src1]).2.1 (loadOut ((x.take [f.src1]).2.2.pendD i) 1 s.uid (acqBits f))
        [.read (requestOf x []) [(p.addr, accessBytes f.ty)] (.d i f.ty) (loadAddr x f)] s.dies s.watches := by
  obtain ⟨hbits, hreg, hps⟩ := hreach
  have hexec : exec (.ld gd f) s = .next (x.access .loads .read (loadAddr x f)
      ((loadAddr x f).toNat % accessBytes f.ty == 0) [loadAddr x f] [loadAddr x f] fun ps =>
      let y := x.sendReads (acqBits f) x.s (x.take [f.src1]).2.1 ((x.take [f.src1]).2.2.pendD i)
        (ps.map fun p => ⟨[(p.addr, accessBytes f.ty)], .d i f.ty, loadAddr x f, 1⟩)
      (x.on y.1).finish y.2.1 y.2.2) := by
    refine (turn_ready h.1 (ready_waits h)).trans ?_
    simp only [hd]
    rfl
  rw [hexec, halign, beq_self_eq_true, access_proceeds _ (List.forall_mem_of_forall_mem_cons hbits) hreg hps, ← requestOf_id h.1.1]
  exact ⟨_, rfl, issuesAs_sendReads h.1.1 ((take_asksAs x _).pendD i) ..⟩

theorem vld_issues {i : Fin 8} {p q : Place} (hd : f.dst.reg = .v i) (h : Ready gd s x [f.src1] [f.dst] 2)
    (halign : (loadAddr x f).toNat % 64 = 0)
    (hreach : Reaches x .loads .read (loadAddr x f) [loadAddr x f, loadAddr x f + 64] [p, q]) :
    ∃ t, exec (.vld gd f) s = .next t ∧
      IssuesAs x t (x.take [f.src1]).2.1
        (loadOut (loadOut ((x.take [f.src1]).2.2.pendV i 2) 1 s.uid (acqBits f)) 1 (s.uid + 1) (acqBits f))
        [.read (requestOf x []) [(p.addr, 64)] (.vsec i false) (loadAddr x f),
         .read { requestOf x [] with id := s.uid + 1 } [(q.addr, 64)] (.vsec i true) (loadAddr x f + 64)] s.dies s.watches := by
  obtain ⟨hbits, hreg, hps⟩ := hreach
  have hexec : exec (.vld gd f) s = .next (x.access .loads .read (loadAddr x f)
      ((loadAddr x f).toNat % 64 == 0) [loadAddr x f] [loadAddr x f, loadAddr x f + 64] fun ps =>
      let y := x.sendReads (acqBits f) x.s (x.take [f.src1]).2.1 ((x.take [f.src1]).2.2.pendV i 2)
        ((enumFrom 0 ps).map fun e => ⟨[(e.2.addr, 64)], .vsec i (e.1 == 1), loadAddr x f + BitVec.ofNat 64 (64 * e.1), 1⟩)
      (x.on y.1).finish y.2.1 y.2.2) := by
    refine (turn_ready h.1 (ready_waits h)).trans ?_
    simp only [hd]
    rfl
  have hfirst : loadAddr x f + BitVec.ofNat 64 (64 * 0) = loadAddr x f := BitVec.add_zero _
  rw [hexec, halign, beq_self_eq_true, access_proceeds _ (fun c hc => hbits c (List.mem_cons_of_mem _ (List.mem_cons.mpr
    (.inl (List.mem_singleton.mp hc))))) hreg hps, ← requestOf_id h.1.1]
  refine ⟨_, rfl, ?_⟩
  simp only [enumFrom, List.map_cons, List.map_nil, hfirst]
  exact issuesAs_sendReads h.1.1 ((take_asksAs x _).pendV i 2) ..

/-- The planes of an access begin at its address. -/
theorem planeAddrs_cons (a stride : Word) {n : Nat} (h : n ≠ 0) : ∃ rest, planeAddrs a stride n = a :: rest := by
  obtain ⟨m, rfl⟩ := Nat.exists_eq_succ_of_ne_zero h
  have hzero : a + BitVec.ofNat 64 (64 * 0) * (stride >>> 32) = a := by simp
  exact ⟨_, by rw [planeAddrs, List.range_succ_eq_map, List.map_cons, hzero]⟩

theorem fetched_ne_zero (f : Fields) : Fields.fetched f ≠ 0 := by
  have hplanes : gPlanes f.ty ≠ 0 := by cases f.ty <;> decide
  unfold Fields.fetched
  omega

theorem vldp_issues {i : Fin 8} {ps : List Place} (hd : f.dst.reg = .v i)
    (h : Ready gd s x [f.src1, f.src2] [f.dst] (Fields.fetched f)) :
    let r := x.take [f.src1, f.src2]
    let b := val r.1 0 + Fields.simm f
    let addrs := planeAddrs b (val r.1 1) (Fields.fetched f)
    b.toNat % 32 = 0 → (val r.1 1) >>> 32 ≠ 0 → Reaches x .planar .read b addrs ps → planeSplit addrs ps = none →
    ∃ t, exec (.vldp gd f) s = .next t ∧ IssuesAs x t r.2.1 (loadOut (r.2.2.pendV i 1) (Fields.fetched f) s.uid (acqBits f))
      [.read (requestOf x []) (ps.map fun p => (p.addr, 32)) (.vplanes i f.ty (f.qual = 1)) b] s.dies s.watches := by
  intro r b addrs halign hstride hreach hsplit
  obtain ⟨hbits, hreg, hps⟩ := hreach
  obtain ⟨rest, haddrs⟩ := planeAddrs_cons b (val r.1 1) (fetched_ne_zero f)
  have hchecks : (b.toNat % 32 == 0 && (val r.1 1) >>> 32 != 0) = true := by rw [halign, bne_iff_ne.mpr hstride]; rfl
  have hexec : exec (.vldp gd f) s = .next (x.planarAccess .read b (val r.1 1) (Fields.fetched f) fun _ ps =>
      let y := x.sendReads (acqBits f) x.s r.2.1 (r.2.2.pendV i 1)
        [⟨ps.map fun p => (p.addr, 32), .vplanes i f.ty (f.qual = 1), b, Fields.fetched f⟩]
      (x.on y.1).finish y.2.1 y.2.2) := by
    refine (turn_ready h.1 (ready_waits h)).trans ?_
    simp only [hd]
    rfl
  have haccess (go : List Place → State) : x.access .planar .read b true addrs addrs go = go ps := by
    have hspace : ∀ c ∈ b :: rest, c.toNat < 2 ^ 55 := by
      rw [← haddrs]
      exact List.forall_mem_of_forall_mem_cons hbits
    refine Eq.trans ?_ (access_proceeds (a := b) go hspace hreg hps)
    rw [← haddrs]
  rw [hexec, Ctx.planarAccess, hchecks]
  refine ⟨_, congrArg _ (haccess _), ?_⟩
  rw [hsplit, ← requestOf_id h.1.1]
  exact issuesAs_sendReads h.1.1 ((take_asksAs x _).pendV i 1) ..

/-! Scratchpad loads (R201). -/

/-- The checks of a scratchpad access to bytes in a row, from the first on. -/
theorem spadAccess_row {a : Word} {align n off : Nat} (go : Ctx → (Nat → Nat) → State) (halign : a.toNat % align = 0)
    (h : InScratchpad x a (List.range n) off) : x.spadAccess a align (List.range n) go = go x (off + ·) := by
  have hhead : (List.range n).headD 0 = 0 := by cases n <;> simp [List.range_succ_eq_map]
  exact spadAccess_proceeds go halign (fun o _ => by rw [hhead]; exact Nat.zero_le o) (by rw [hhead]; decide) h

theorem lds_scalar {i : Fin 16} {off : Nat} (hd : f.dst.reg = .d i) (h : Ready gd s x [f.src1] [f.dst] 0)
    (halign : (loadAddr x f).toNat % accessBytes f.ty = 0) (hin : InScratchpad x (loadAddr x f) (List.range (accessBytes f.ty)) off) :
    exec (.lds gd f) s = .next (x.finish (x.take [f.src1]).2.1
      ((x.take [f.src1]).2.2.putD i (extendTo f.ty (x.c.spadBytes off (accessBytes f.ty))))) := by
  refine (turn_ready h.1 (ready_waits h)).trans ?_
  simp only [hd]
  rw [show Fields.addr f (val (x.take [f.src1]).1 0) = loadAddr x f from rfl, spadAccess_row _ halign hin]
  rfl

theorem lds_vector {i : Fin 8} {off : Nat} (hd : f.dst.reg = .v i) (h : Ready gd s x [f.src1] [f.dst] 0)
    (halign : (loadAddr x f).toNat % 8 = 0) (hin : InScratchpad x (loadAddr x f) (List.range 128) off) :
    exec (.lds gd f) s = .next (x.finish (x.take [f.src1]).2.1 ((x.take [f.src1]).2.2.putV i (lanesOf (x.c.spadBytes off 128)))) := by
  refine (turn_ready h.1 (ready_waits h)).trans ?_
  simp only [hd]
  rw [show Fields.addr f (val (x.take [f.src1]).1 0) = loadAddr x f from rfl, spadAccess_row _ halign hin]
  rfl

end

/-- Settles O27: a load whose checks pass sends its requests, or reads the scratchpad at once. -/
theorem loadsComplete : Obligations.LoadsComplete := by
  unfold Obligations.LoadsComplete
  rintro gd f s x _ rfl
  exact ⟨fun _ _ hd h halign hreach => ld_issues hd h halign hreach,
    fun _ _ _ hd h halign hreach => vld_issues hd h halign hreach,
    fun _ hd h halign _ hin => ⟨_, lds_scalar hd h halign hin, issuesAs_finish h.1.1 ..⟩,
    fun _ hd h halign _ hin => ⟨_, lds_vector hd h halign hin, issuesAs_finish h.1.1 ..⟩,
    fun _ _ hd h => vldp_issues hd h⟩

end Sys2Proof.Machine
end

section
/-! PROOFS. Words, contexts, lines and messages arrive (R110, R121–R125, R202, R306, R308, R313). -/
namespace Sys2Proof.Machine
open Sys2Proof

/-- No message before the k-th passes a test that none of them passes by its place. -/
theorem none_earlier {net : List Msg} {k : Nat} {p : Msg → Bool} (h : ∀ j m, j < k → net[j]? = some m → p m = false) :
    (net.take k).any p = false := by
  rw [List.any_eq_false]
  intro m hm
  obtain ⟨j, hj, rfl⟩ := List.mem_take_iff_getElem.mp hm
  rw [h j _ (by omega) (List.getElem?_eq_getElem (by omega))]
  decide

/-! A word (R110, R313). -/

theorem nWordArrival_next {s : State} {k launch lcore core : Nat} {dir : Fin 4} {w : Word} {clock : List Nat}
    (hm : s.net[k]? = some (.nword launch lcore core dir w clock))
    (hfirst : ∀ j, j < k → ∀ w' c', s.net[j]? ≠ some (.nword launch lcore core dir w' c'))
    (hway : s.reaches (((s.launch? launch).map fun l => l.linkSource lcore core dir.val).getD core) core = true) :
    ∃ t, exec (.nWordArrival k) s = .next t ∧ SameMemory s t ∧
      (t.core core).nin[dir] = (s.core core).nin[dir] ++ [(launch, lcore, w)] := by
  let s1 := (s.takeMsg k).hearClock (dieOf core) clock
  have hcore : s1.core core = s.core core := core_of_cores (by simp [s1]) core
  refine exists_next_of_exec (s1.setCore core { s1.core core with
    nin := (s1.core core).nin.set dir ((s1.core core).nin[dir] ++ [(launch, lcore, w)]) }) rfl
    ((show _ = execNWordArrival k s from rfl).trans ?_) (by simp [hcore])
  simp only [execNWordArrival, hm, hway, Bool.true_eq_false, or_false]
  rw [if_neg (Bool.eq_false_iff.mp (none_earlier fun j m hj hjm => ?_))]
  · rfl
  · split
    · next a b c d w' c' =>
      refine eq_false_of_ne_true fun h => ?_
      simp only [Bool.and_eq_true, beq_iff_eq] at h
      obtain ⟨⟨⟨rfl, rfl⟩, rfl⟩, rfl⟩ := h
      exact hfirst j hj w' c' hjm
    · rfl

/-! A context (R202, R313). -/

@[simp] theorem trace_net (s : State) (g slot ty colour : Nat) (wid pc payload : Word) :
    (s.trace g slot ty colour wid pc payload).net = s.net := by
  simp only [State.trace]; repeat' split
  all_goals rfl

theorem vacant_lt {c : Core} {i : Nat} (h : c.vacant = some i) : i < 16 := by
  obtain ⟨hi, -⟩ := List.findIdx?_eq_some_iff_getElem.mp h
  simpa using hi

/-- The one context that waits at a core with a vacant slot enters it. -/
theorem seat_one {c : Core} {u : Thread} {i : Nat} (ha : c.arrivals = [u]) (hv : c.vacant = some i) :
    c.seat 16 = { c with arrivals := [] }.setThread i (some u) := by
  have hdone (m : Nat) (c : Core) (h : c.arrivals = []) : c.seat m = c := by
    cases m with
    | zero => rfl
    | succ m => simp only [Core.seat, h]
  simp only [Core.seat, ha, hv]
  exact hdone 15 ({ c with arrivals := [] }.setThread i (some u)) rfl

/-- A core with one more context that waits for a slot. -/
def Core.awaiting (c : Core) (u : Thread) : Core := { c with arrivals := c.arrivals ++ [u] }

/-- The core that a context has reached: it waits there, and has entered a slot where one is vacant. -/
def arrivedAt (c : Core) (u : Thread) : Core := if c.stop then c.awaiting u else (c.awaiting u).seat 16

theorem arrivedAt_thread {c : Core} {u : Thread} {i : Nat} (hstop : c.stop = false) (ha : c.arrivals = []) (hv : c.vacant = some i) :
    (arrivedAt c u).thread i = some u := by
  have hwait : (c.awaiting u).arrivals = [u] := by rw [Core.awaiting, ha, List.nil_append]
  rw [arrivedAt, if_neg (by simp [hstop]), seat_one hwait hv, coreThread_setThread _ _ _ (vacant_lt hv), if_pos rfl]

theorem migrArrival_next {s : State} {k source target cyc : Nat} {th : Thread} {clock : List Nat}
    (hm : s.net[k]? = some (.context th source target cyc clock)) (hroom : (s.core target).arrivals.length < 16)
    (hway : s.reaches source target = true) (hfirst : ∀ j, j < k → ∀ u' cyc' clock', s.net[j]? ≠ some (.context u' source target cyc' clock')) :
    ∃ t, exec (.migrArrival k) s = .next t ∧ SameMemory s t ∧ t.net = s.net.eraseIdx k ∧
      ∀ i, (s.core target).stop = false → (s.core target).arrivals = [] → (s.core target).vacant = some i →
        t.thread target i = some (th.arriveAs s.free (dieOf source != dieOf target)) ∧
        ∀ u, t.thread target i = some u → u.d = th.d ∧ u.dfull = th.dfull ∧ u.pc = th.pc ∧ u.tid = th.tid ∧ u.wid = th.wid := by
  let u := th.arriveAs s.free (dieOf source != dieOf target)
  let c := arrivedAt (s.core target) u
  let s1 : State := { (s.takeMsg k).hearClock (dieOf target) clock with free := s.free + 8 }
  have hexec : exec (.migrArrival k) s = .next ((s1.setCore target c).trace target (c.slotOf u.tid) 0x05 u.colour u.wid u.pc
      (BitVec.ofNat 64 (dieOf source + 8 * (cyc % 2 ^ 40)))) := by
    refine (show _ = execMigrArrival k s from rfl).trans ?_
    simp only [execMigrArrival, hm, hway, Nat.not_le.mpr hroom, Bool.true_eq_false, false_or]
    rw [if_neg (Bool.eq_false_iff.mp (none_earlier fun j m hj hjm => ?_))]
    · rfl
    · split
      · next u' a b cyc' clock' =>
        refine eq_false_of_ne_true fun h => ?_
        simp only [Bool.and_eq_true, beq_iff_eq] at h
        obtain ⟨rfl, rfl⟩ := h
        exact hfirst j hj u' cyc' clock' hjm
      · rfl
  refine exists_next_of_exec _ rfl hexec ⟨trace_net .., fun i hstop ha hv => ?_⟩
  have hthread : State.thread ((s1.setCore target c).trace target (c.slotOf u.tid) 0x05 u.colour u.wid u.pc
      (BitVec.ofNat 64 (dieOf source + 8 * (cyc % 2 ^ 40)))) target i = some u := by
    rw [State.thread, core_of_cores (trace_cores ..), core_setCore_self]
    exact arrivedAt_thread hstop ha hv
  refine ⟨hthread, fun v hv => ?_⟩
  obtain rfl := Option.some.inj (hthread.symm.trans hv)
  exact ⟨rfl, rfl, rfl, rfl, rfl⟩

/-! The arrival of a member, and a forwarded line (R123–R125). -/

theorem Named.takeMsg {s : State} {r : SlotRef} {th : Thread} (hn : Named s r th) (k : Nat) : Named (s.takeMsg k) r th := hn.of_cores rfl

theorem gangOf_of_named {s : State} {r : SlotRef} {th : Thread} (hn : Named s r th) : s.gangOf th.tid = th.gang := by
  obtain ⟨hth, hid⟩ := hn
  simp only [State.gangOf, hid, hth, Option.map_some, Option.getD_some]

theorem rejoinArrival_next {s : State} {k follower : Nat} {lab : Word} {own : Label} {r : SlotRef} {th : Thread} {ms : List GangMember}
    {rj last next : Option Word} (hn : Named s r th) (hgang : th.gang = .leader ms rj last next) (hrj : rj = none ∨ rj = some lab)
    (hm : s.net[k]? = some (.rejoin th.tid follower lab own)) (hwaits : s.waitsAt th.tid follower lab = true) :
    ∃ t, exec (.rejoinArrival k) s = .next t ∧ SameMemory s t ∧ t.thread r.g r.slot = some { th with
      gang := .leader (ms.map fun m => if m.tid = follower then { m with arrived := some lab } else m) rj last next } := by
  refine exists_next_of_exec ((s.takeMsg k).onTid th.tid fun t => { t with
      gang := .leader (ms.map fun m => if m.tid = follower then { m with arrived := some lab } else m) rj last next }) rfl
    ((show _ = execRejoinArrival k s from rfl).trans ?_) (onTid_thread_of_named (hn.takeMsg k) _)
  simp only [execRejoinArrival, hm, hwaits, gangOf_of_named hn, hgang, Bool.true_eq_false, if_false]
  rcases hrj with rfl | rfl
  · rfl
  · simp only [bne_self_eq_false, Bool.false_eq_true, if_false, orNot]

theorem forwardedLineArrival_next {s : State} {k leader : Nat} {l : FwdLine} {own : Label} {r : SlotRef} {th : Thread} {inl : Bool}
    {ls : List FwdLine} {last : Option (Word × Bool)} {rj : Option Word} (hn : Named s r th)
    (hgang : th.gang = .follower leader true inl ls last rj) (hm : s.net[k]? = some (.fwdLine leader th.tid l own))
    (hfirst : ∀ j, j < k → ∀ x y own', s.net[j]? ≠ some (.fwdLine x th.tid y own')) :
    ∃ t, exec (.forwardedLineArrival k) s = .next t ∧ SameMemory s t ∧
      t.thread r.g r.slot = some { th with gang := .follower leader true inl (ls ++ [l]) last rj } := by
  let receive (t : Thread) : Thread := match t.gang with
    | .follower ld true inl ls last rj => if ld = leader then { t with gang := .follower ld true inl (ls ++ [l]) last rj } else t
    | _ => t
  have hexec : exec (.forwardedLineArrival k) s = .next ((s.takeMsg k).onTid th.tid receive) := by
    refine (show _ = execForwardedLineArrival k s from rfl).trans ?_
    simp only [execForwardedLineArrival, hm]
    rw [if_neg (Bool.eq_false_iff.mp (none_earlier fun j m hj hjm => ?_))]
    · rfl
    · split
      · next x f y own' =>
        refine eq_false_of_ne_true fun h => ?_
        obtain rfl := beq_iff_eq.mp h
        exact hfirst j hj x y own' hjm
      · rfl
  refine exists_next_of_exec _ rfl hexec ?_
  rw [onTid_thread_of_named (hn.takeMsg k)]
  simp only [receive, hgang, if_true]

/-! A message for an inbox (R306, R308, R318). -/

section
variable {s : State} {k core src : Nat} {team : Option TeamKey} {e : InboxEntry} {clock : List Nat}

theorem inboxMessageArrival_next (hm : s.net[k]? = some (.inbox team core e src clock))
    (hin : team.isSome = true ∨ s.clusterOk e.colour (clusterOf core) = true) (hres : s.resident e.colour = true)
    (hway : s.reaches src (((team.bind s.findTeam).map Prod.fst).getD core) = true) (hsaved : team.bind s.savedHome = none)
    (howed : team.isSome = true ∨ s.noticeOwed e = false) :
    ∃ t, exec (.inboxMessageArrival k) s = .next t ∧ SameMemory s t ∧
      (t.core (((team.bind s.findTeam).map Prod.fst).getD core)).inbox =
        (s.core (((team.bind s.findTeam).map Prod.fst).getD core)).inbox ++ [e] := by
  have houtside : (team.isNone && !s.clusterOk e.colour (clusterOf core)) = false := by
    rcases hin with h | h
    · simp [Option.isNone_eq_false_iff.mpr h]
    · simp [h]
  have hheld : (team.isNone && s.noticeOwed e) = false := by
    rcases howed with h | h
    · simp [Option.isNone_eq_false_iff.mpr h]
    · simp [h]
  generalize hg : ((team.bind s.findTeam).map Prod.fst).getD core = g at hway ⊢
  let s1 := (s.takeMsg k).hearClock (dieOf g) clock
  let s2 := s1.setCore g { s1.core g with inbox := (s1.core g).inbox ++ [e] }
  have hinbox : (s2.core g).inbox = (s.core g).inbox ++ [e] := by
    rw [core_setCore_self, core_of_cores (show s1.cores = s.cores by simp [s1])]
  have hexec : exec (.inboxMessageArrival k) s = .next (if (s1.core g).inbox.length < 64 + 992 then s2
      else s2.setDie (dieOf g) { s2.die (dieOf g) with notices := (s2.die (dieOf g)).notices + 1 }) := by
    refine (show _ = execInboxMessageArrival k s from rfl).trans ?_
    simp only [execInboxMessageArrival, hm, hg, houtside, hres, hway, hheld, hsaved, Bool.false_eq_true, Bool.true_eq_false, or_self, if_false,
      orNot, s1, s2]
  refine exists_next_of_exec _ rfl hexec ?_
  split <;> exact hinbox

/-- A notice for a core outside its colour's partition is counted on the die (R308). -/
theorem inboxMessageArrival_dropped (hm : s.net[k]? = some (.inbox none core e src clock))
    (hout : s.clusterOk e.colour (clusterOf core) = false) :
    ∃ t, exec (.inboxMessageArrival k) s = .next t ∧ t.cores = s.cores ∧
      (t.die (dieOf core)).notices = (s.die (dieOf core)).notices + 1 := by
  refine ⟨(s.takeMsg k).setDie (dieOf core) { s.die (dieOf core) with notices := (s.die (dieOf core)).notices + 1 },
    (show _ = execInboxMessageArrival k s from rfl).trans ?_, rfl, by rw [die_setDie, if_pos rfl]⟩
  simp only [execInboxMessageArrival, hm, hout, Option.isNone_none, Bool.not_false, Bool.and_self, if_true, orNot]

end

/-- Settles O51: each arrival is enabled by the conditions named, and leaves what it brings where it is for. -/
theorem arrivalsComplete : Obligations.ArrivalsComplete := by
  unfold Obligations.ArrivalsComplete
  refine ⟨fun _ _ _ _ _ _ _ _ hm hfirst hway => nWordArrival_next hm hfirst hway,
    fun _ _ _ _ _ _ _ hm hroom hway hfirst => migrArrival_next hm hroom hway hfirst,
    fun _ _ _ _ _ _ _ _ _ _ _ hn hgang hrj hm hwaits => rejoinArrival_next hn hgang hrj hm hwaits,
    fun _ _ _ _ _ _ _ _ _ _ _ hn hgang hm hfirst => forwardedLineArrival_next hn hgang hm hfirst,
    fun _ _ _ _ _ _ _ hm => ⟨fun hin hres hway hsaved howed => inboxMessageArrival_next hm hin hres hway hsaved howed, ?_⟩⟩
  rintro rfl hout
  exact inboxMessageArrival_dropped hm hout

end Sys2Proof.Machine
end

section
/-! PROOFS. Gangs form (R121–R126): the statement fails in a package whose list of cores names one core twice, for there a member is
found in the leader's slot. -/
namespace Sys2Proof.Machine
open Sys2Proof

/-- A launch of one row of two columns (R326, R328), on the physical cores 0 and 1. -/
def gangLaunch : Launch := ⟨0, 1, 0, [0, 0, 0, 0, 0, 0, 16], 0, false, 0, 0, [0, 1], 0, 0, 0, [], false, none⟩

/-- A thread of it that waits at `gang 2`, of the team numbered as its column. -/
def gangThread (tid team : Nat) : Thread := { Thread.start tid 1 0 0 team 0 0 false 0 with gang := .forming 2 }

/-- Core 0 with the leader in slot 0, core 0 listed again with the member there, and core 1 with the member in its slot 0. -/
def gangTwice : State :=
  { State.reset with
    launches := [(0, gangLaunch)]
    cores := [(0, Core.reset.setThread 0 (some (gangThread 1 0))), (0, Core.reset.setThread 0 (some (gangThread 2 1))),
      (1, Core.reset.setThread 0 (some (gangThread 2 1)))] }

/-- The package after the gang has formed. -/
def gangTwiceFormed : State :=
  (gangTwice.onTid 2 fun u => u.formed (.follower 1 true false [] none none)).onTid 1 fun u =>
    u.formed (.leader [⟨2, none⟩] none none none)

theorem exec_gangTwice : exec (.gangForm 0 0) gangTwice = .next gangTwiceFormed := rfl

/-- The leader has gone on twice. -/
theorem gangTwiceFormed_pc : (gangTwiceFormed.thread 0 0).map Thread.pc = some 2 := by decide

/-- Refutes O26: the member is found where the other entry of core 0 has it, so that the thread in the leader's slot goes on as a
follower and then as the leader, to pc 2 for 1. -/
theorem not_gangsForm : ¬ Obligations.GangsForm := by
  unfold Obligations.GangsForm
  rintro ⟨-, hforms⟩
  have hnamed : Named gangTwice ⟨0, 0⟩ (gangThread 1 0) := ⟨rfl, rfl⟩
  obtain ⟨t, ht, -, hthread, -⟩ := hforms gangTwice 0 0 2 0 (gangThread 1 0) gangLaunch hnamed rfl rfl rfl rfl rfl
    (fun a ha => .inr ⟨2, by decide, List.mem_singleton.mp ha⟩) (List.nodup_singleton 2)
  rw [exec_gangTwice] at ht
  cases ht
  have hpc := congrArg (Option.map Thread.pc) hthread
  rw [gangTwiceFormed_pc] at hpc
  exact absurd hpc (by decide)

end Sys2Proof.Machine
end


section
/-! PROOFS. The offered slot (R99): the turn of a core's cycle, and its end, leave the slot that the core has offered. The plan is that of the
sections on memory: a function of the model that offers no slot has a lemma that it leaves `cur`, from the lemmas of the functions it calls. -/
namespace Sys2Proof.Machine
open Sys2Proof

theorem foldl_cur {α : Type} (f : State → α → State) (h : ∀ s a, (f s a).cur = s.cur) (l : List α) (s : State) :
    (l.foldl f s).cur = s.cur := by
  induction l generalizing s with
  | nil => rfl
  | cons a rest ih => exact (ih _).trans (h s a)

/-! Threads passed on, records, and traps. -/

@[simp] theorem onTid_cur (s : State) (tid : Nat) (f : Thread → Thread) : (s.onTid tid f).cur = s.cur := by
  unfold State.onTid; split
  · rfl
  · split <;> rfl

@[simp] theorem trace_cur (s : State) (g slot ty colour : Nat) (wid pc payload : Word) :
    (s.trace g slot ty colour wid pc payload).cur = s.cur := by
  simp only [State.trace]; repeat' split
  all_goals rfl

@[simp] theorem freezeDie_cur (s : State) (die cause : Nat) : (s.freezeDie die cause).cur = s.cur := by
  simp only [State.freezeDie]; split <;> rfl

@[simp] theorem alarm_cur (s : State) (die : Nat) (kind : BitVec 8) : (s.alarm die kind).cur = s.cur := by
  unfold State.alarm State.trigger; repeat' split
  all_goals simp

@[simp] theorem handOver_cur (s : State) (g slot : Nat) (t : Thread) (r : Report) : (s.handOver g slot t r).cur = s.cur := by
  simp only [State.handOver]; split <;> rfl

@[simp] theorem deliver_cur (s : State) (g slot : Nat) (t : Thread) (r : Report) (others : Nat) :
    (s.deliver g slot t r others).cur = s.cur := by
  simp only [State.deliver]; split <;> simp

@[simp] theorem park_cur (s : State) (g slot : Nat) (t : Thread) (p : Park) : (s.park g slot t p).cur = s.cur := rfl

@[simp] theorem raise_cur (s : State) (g slot : Nat) (t : Thread) (r : Report) : (s.raise g slot t r).cur = s.cur := by
  simp only [State.raise]; split <;> simp

theorem reportTurn_cur {g slot : Nat} {t : Thread} {s u : State} (h : s.reportTurn g slot t = some u) : u.cur = s.cur := by
  unfold State.reportTurn at h; repeat' split at h
  all_goals (cases h <;> simp)

/-! The line of a turn (R40, R123, R193). -/

@[simp] theorem markExit_cur (s : State) (tid : Nat) (e : Option Word) : (s.markExit tid e).cur = s.cur := by
  simp only [State.markExit]; split <;> simp

@[simp] theorem leaveLine_cur (s : State) (leader : Nat) (ms : List GangMember) (e : Option Word) :
    (s.leaveLine leader ms e).cur = s.cur :=
  foldl_cur _ (fun s m => by split <;> simp) ms s

@[simp] theorem forward_cur (s : State) (g slot : Nat) (t : Thread) (bits : BitVec 512) : (s.forward g slot t bits).cur = s.cur := by
  simp only [State.forward]; split
  · split
    · rfl
    · rw [State.setThread_cur, foldl_cur _ (fun s m => by split <;> rfl), leaveLine_cur]
  · rfl

@[simp] theorem trapOrHalt_cur (s : State) (g slot : Nat) (t : Thread) (pcs : List Word) (r : Report) :
    (s.trapOrHalt g slot t pcs r).cur = s.cur := by
  unfold State.trapOrHalt State.entryTrap; repeat' split
  · rfl
  · simp
  · simp

@[simp] theorem decodeTurn_cur (s : State) (g slot : Nat) (t : Thread) (bits : BitVec 512) :
    (s.decodeTurn g slot t bits).cur = s.cur := by
  simp only [State.decodeTurn]; repeat' split
  all_goals simp [State.toIssue]

theorem coreTranslate_cur {s t : State} {g colour : Nat} {u : Use} {va : Nat} (h : s.coreTranslate g colour u va = .wait t) :
    t.cur = s.cur := by
  unfold State.coreTranslate at h; dsimp only at h; split at h
  · cases h
  · split at h
    · exact absurd h leafAccess_wait
    · repeat' split at h
      all_goals (cases h <;> simp)

theorem fetchLine_cur {g : Nat} {t : Thread} {s u : State} (h : s.fetchLine g t = .wait u) : u.cur = s.cur := by
  unfold State.fetchLine at h; dsimp only at h; split at h
  case h_3 =>
    split at h
    · cases h; exact coreTranslate_cur ‹_›
    · cases h
    · repeat' split at h
      all_goals (cases h <;> simp)
  all_goals cases h

@[simp] theorem fetchTurn_cur (s : State) (g slot : Nat) (t : Thread) : (s.fetchTurn g slot t).cur = s.cur := by
  unfold State.fetchTurn; dsimp only; split
  · simp
  · split
    · simp
    · split
      · next hw => simpa using fetchLine_cur hw
      · simp [State.dropWalk]
      · simp

@[simp] theorem turnOf_cur (s : State) (g slot : Nat) (t : Thread) : (s.turnOf g slot t).cur = s.cur := by
  unfold State.turnOf; dsimp only; split
  · rfl
  · split
    · rfl
    · split
      · split <;> rfl
      · split
        · simp
        · exact reportTurn_cur ‹_›
        · repeat' split
          all_goals simp

/-! The end of a turn (R99, R385, R386). -/

@[simp] theorem countFor_cur (s : State) (key : TeamKey) (dest : Option Nat) : (s.countFor key dest).cur = s.cur := by
  unfold State.countFor; repeat' split
  all_goals rfl

@[simp] theorem settleAway_cur (s : State) (g : Nat) : (s.settleAway g).cur = s.cur := by
  refine (foldl_cur _ (fun s _ => countFor_cur s _ _) _ _).trans ?_
  split <;> rfl

@[simp] theorem settleFreeze_cur (s : State) (die : Nat) : (s.settleFreeze die).cur = s.cur := by
  unfold State.settleFreeze; split
  · rfl
  · rw [State.setDie_cur]
    refine foldl_cur _ (fun s i => ?_) _ _
    dsimp only
    split
    · rfl
    · rw [State.setCluster_cur, trace_cur]

@[simp] theorem clockDie_cur (s : State) (die cyc : Nat) : (s.clockDie die cyc).cur = s.cur := by
  unfold State.clockDie; dsimp only; split
  · refine (foldl_cur _ (fun s _ => State.setCluster_cur s _ _) _ _).trans ?_
    rw [State.setDie_cur]; split <;> simp
  · rw [State.setDie_cur]; split <;> simp

@[simp] theorem endTurn_cur (s : State) (ready : Bool) : (s.endTurn ready).cur = s.cur := by
  simp only [State.endTurn]; split <;> simp

end Sys2Proof.Machine
end

section
/-! PROOFS. What the end of a turn leaves of its core, and the cycle of a core (R99, R345, R364, R369). -/
namespace Sys2Proof.Machine
open Sys2Proof

/-! The end of a turn (R99). -/

/-- A core whose packets have been counted: it differs in its counts alone (R345). -/
def CountsOnly (c c' : Core) : Prop := c' = { c with traffic := c'.traffic, sent := c'.sent, away := c'.away, swapDue := c'.swapDue }

theorem CountsOnly.refl (c : Core) : CountsOnly c c := rfl

theorem CountsOnly.trans {a b c : Core} (h : CountsOnly a b) (h' : CountsOnly b c) : CountsOnly a c := by
  unfold CountsOnly at h h' ⊢
  rw [h'.trans (by rw [h])]

theorem countFor_core (s : State) (key : TeamKey) (dest : Option Nat) (h : Nat) : CountsOnly (s.core h) ((s.countFor key dest).core h) := by
  unfold State.countFor
  split
  · next q _ _ =>
    split
    · exact .refl _
    · by_cases hq : h = q
      · subst hq; rw [core_setCore_self]; rfl
      · rw [core_setCore_other _ _ hq]; exact .refl _
  · exact .refl _

theorem settleAway_core (s : State) (g h : Nat) : CountsOnly (s.core h) ((s.settleAway g).core h) := by
  have hfold (l : List (TeamKey × Option Nat)) (s : State) : CountsOnly (s.core h) ((l.foldl (fun s e => s.countFor e.1 e.2) s).core h) := by
    induction l generalizing s with
    | nil => exact .refl _
    | cons e l ih => exact (countFor_core s e.1 e.2 h).trans (ih _)
  refine CountsOnly.trans ?_ (hfold _ _)
  split
  · exact .refl _
  · by_cases hg : h = g
    · subst hg; rw [core_setCore_self]; rfl
    · rw [core_setCore_other _ _ hg]; exact .refl _

@[simp] theorem settleFreeze_cores (s : State) (die : Nat) : (s.settleFreeze die).cores = s.cores := by
  unfold State.settleFreeze; split
  · rfl
  · rw [State.setDie_cores]
    refine foldl_cores _ (fun s i => ?_) _ _
    dsimp only
    split
    · rfl
    · rw [State.setCluster_cores, trace_cores]

@[simp] theorem clockDie_cores (s : State) (die cyc : Nat) : (s.clockDie die cyc).cores = s.cores := by
  unfold State.clockDie; dsimp only; split
  · refine (foldl_cores _ (fun s _ => State.setCluster_cores s _ _) _ _).trans ?_
    rw [State.setDie_cores]; split <;> simp
  · rw [State.setDie_cores]; split <;> simp

theorem counted_core (c : Core) (cls : SlotClass) (ready : Bool) : (c.counted cls ready).cyc = c.cyc + 1 ∧
    (c.counted cls ready).threads = c.threads ∧ (c.counted cls ready).window = c.window ∧ (c.counted cls ready).winner = c.winner := by
  unfold Core.counted; dsimp only; split <;> exact ⟨rfl, rfl, rfl, rfl⟩

/-- A turn ends: its core's cycle is over, and its threads and collection window stand as they did. -/
theorem endTurn_core {s : State} {g : Nat} (hg : s.cur.g = g) (ready : Bool) :
    ((s.endTurn ready).core g).cyc = (s.core g).cyc + 1 ∧
    ((s.endTurn ready).core g).threads = (s.core g).threads ∧
    ((s.endTurn ready).core g).window = (s.core g).window ∧
    ((s.endTurn ready).core g).winner = (s.core g).winner := by
  subst hg
  let u := s.settleAway s.cur.g
  let c := (u.core s.cur.g).counted u.cls ready
  have hcores : (s.endTurn ready).cores =
      (u.setCore s.cur.g { c with tickets := c.tickets.map fun (e : Nat × TkEntry) => (e.1, u.leaseTick s.cur.g e.2) }).cores := by
    simp only [State.endTurn]
    split <;> exact clockDie_cores ..
  have hcount : u.core s.cur.g = _ := settleAway_core s s.cur.g s.cur.g
  obtain ⟨hcyc, hthreads, hwindow, hwinner⟩ := counted_core (u.core s.cur.g) u.cls ready
  rw [core_of_cores hcores, core_setCore_self]
  exact ⟨hcyc.trans (by rw [hcount]), hthreads.trans (by rw [hcount]), hwindow.trans (by rw [hcount]), hwinner.trans (by rw [hcount])⟩

theorem thread_of_threads {s t : State} {g : Nat} (h : (t.core g).threads = (s.core g).threads) (k : Nat) : t.thread g k = s.thread g k := by
  rw [State.thread, Core.thread, h]; rfl

/-! The cycle of a core (R99, R369). -/

/-- The turn of a slot, where its core issues and a thread is there. -/
def State.turnAt (s : State) (g slot : Nat) : State :=
  if s.issues g then (match s.thread g slot with
    | some t => s.turnOf g slot t
    | none => s)
  else s

theorem turnAt_cur (s : State) (g slot : Nat) : (s.turnAt g slot).cur = s.cur := by
  unfold State.turnAt; repeat' split
  · exact turnOf_cur ..
  · rfl
  · rfl

/-- A cycle of a core: what it starts with, the turn of the slot it offers, and the turn's end unless there is something to issue. -/
def State.cycled (s : State) (g : Nat) : State :=
  let slot := ((s.startCycle g).core g).cyc % 16
  let u := ((s.startCycle g).offers g slot).turnAt g slot
  if u.issue.isEmpty then u.endTurn false else u

theorem exec_coreCycle {g : Nat} (b : Bool) {s : State} (hg : g < 2048) (hp : s.powered = true) :
    exec (.coreCycle g b) s = .next (s.cycled g) := by
  have hrun : ¬(2048 ≤ g ∨ s.powered = false) := by simp [hg, hp]
  refine (show _ = execCoreCycle g b s from rfl).trans ?_
  rw [execCoreCycle, if_neg hrun]
  rfl

theorem cycled_cur (s : State) (g : Nat) : (s.cycled g).cur.g = g := by
  unfold State.cycled; dsimp only; split
  · rw [endTurn_cur, turnAt_cur]; rfl
  · rw [turnAt_cur]; rfl

/-- Whether a core issues is a matter of the stops and offers of the cores, and of its die. -/
theorem issues_of_parts {s t : State} (hd : t.dies = s.dies)
    (hc : ∀ h, (t.core h).stop = (s.core h).stop ∧ (t.core h).offer = (s.core h).offer ∧ (t.core h).offerIn = (s.core h).offerIn) (g : Nat) :
    t.issues g = s.issues g := by
  obtain ⟨hstop, hoffer, hin⟩ := hc g
  have hswap : t.swapping g = s.swapping g := by
    unfold State.swapping
    rw [hin, hoffer]
    cases (s.core g).offer with
    | none => rfl
    | some q => simp only [(hc q).2.2]
  simp only [State.issues, hstop, hswap, State.die, hd]

/-- A window that closes changes the threads of its core, the window and whether there is a winner. -/
theorem closeWindow_eq (c : Core) : ∃ threads winner, c.closeWindow = { c with window := none, threads := threads, winner := winner } := by
  unfold Core.closeWindow; dsimp only
  repeat' split
  all_goals exact ⟨_, _, rfl⟩

/-- A core that does not issue starts its cycle with its threads and window, or with the window closed. -/
theorem startCycle_core {s : State} {g : Nat} (h : s.issues g = false) :
    (s.startCycle g).core g = if (s.core g).windowDue then (s.core g).closeWindow else s.core g := by
  simp only [State.startCycle, h, Bool.false_eq_true, if_false, core_setCore_self]

theorem startCycle_parts {s : State} {g : Nat} (h : s.issues g = false) : ∃ threads window winner,
    (s.startCycle g).core g = { s.core g with threads := threads, window := window, winner := winner } := by
  rw [startCycle_core h]
  split
  · obtain ⟨threads, winner, hw⟩ := closeWindow_eq (s.core g)
    exact ⟨threads, none, winner, hw⟩
  · exact ⟨_, _, _, rfl⟩

theorem startCycle_issues {s : State} {g : Nat} (h : s.issues g = false) : (s.startCycle g).issues g = false := by
  obtain ⟨threads, window, winner, hcore⟩ := startCycle_parts h
  refine (issues_of_parts (s := s) (t := s.startCycle g) rfl (fun q => ?_) g).trans h
  by_cases hq : q = g
  · subst hq; rw [hcore]; exact ⟨rfl, rfl, rfl⟩
  · rw [State.startCycle, core_setCore_other _ _ hq]; exact ⟨rfl, rfl, rfl⟩

/-- The cycle of a core that does not issue is its start and the end of a turn. -/
theorem cycled_of_stopped {s : State} {g : Nat} (h : s.issues g = false) :
    s.cycled g = ((s.startCycle g).offers g (((s.startCycle g).core g).cyc % 16)).endTurn false := by
  have hturn (slot : Nat) : ((s.startCycle g).offers g slot).turnAt g slot = (s.startCycle g).offers g slot :=
    if_neg (show ¬ (s.startCycle g).issues g = true from Bool.eq_false_iff.mp (startCycle_issues h))
  rw [State.cycled, hturn]
  rfl

theorem coreCycle_next {s : State} {g : Nat} (b : Bool) (hg : g < 2048) (hp : s.powered = true) :
    ∃ t, exec (.coreCycle g b) s = .next t ∧ SameMemory s t ∧
      t.cur.g = g ∧ (s.issues g = false → (t.core g).cyc = (s.core g).cyc + 1) ∧
      (s.issues g = false → (s.core g).windowDue = false → (t.core g).threads = (s.core g).threads) := by
  refine exists_next_of_exec _ rfl (exec_coreCycle b hg hp) ⟨cycled_cur s g, fun h => ?_, fun h hdue => ?_⟩
  · obtain ⟨threads, window, winner, hcore⟩ := startCycle_parts h
    rw [cycled_of_stopped h]
    refine (endTurn_core (s := (s.startCycle g).offers g _) rfl false).1.trans ?_
    exact congrArg (·.cyc + 1) hcore
  · rw [cycled_of_stopped h]
    refine (endTurn_core (s := (s.startCycle g).offers g _) rfl false).2.1.trans ?_
    refine congrArg Core.threads ((startCycle_core h).trans ?_)
    rw [hdue]
    rfl

/-! Reports and the collection window (R360, R363, R364). -/

theorem reportDelivery_next {s : State} {g slot : Nat} {th : Thread} (hth : s.thread g slot = some th) (hstop : (s.core g).stop = false)
    (hslot : (s.core g).cyc % 16 = slot) (hturn : th.hasTurn = true) (hrep : th.reports ≠ []) (hpark : th.park = .none)
    (hinh : th.inh = false) :
    ∃ t, exec (.reportDelivery g slot) s = .next t ∧ SameMemory s t ∧
      t.thread g slot = some { th with park := .imprecise, retry := false, kv := [] } ∧
      ((t.core g).window.isSome = true ∨ (t.core g).winner = true) := by
  let u : State := { State.park { s with cur := ⟨g, slot⟩ } g slot th .imprecise with cls := .vacant }
  have hturn' : State.reportTurn { s with cur := ⟨g, slot⟩ } g slot th = some u := by
    simp only [State.reportTurn, hpark, List.isEmpty_iff, hrep, hinh, Bool.false_eq_true, or_self, if_false]
    rfl
  have hexec : exec (.reportDelivery g slot) s = .next (u.endTurn false) := by
    refine (show _ = execReportDelivery g slot s from rfl).trans ?_
    simp only [execReportDelivery, hth, hstop, hslot, hturn, List.isEmpty_iff, hrep, hturn', Bool.false_eq_true, Bool.true_eq_false, ne_eq,
      not_true_eq_false, or_self, if_false, Option.map_some, orNot]
  obtain ⟨-, hthreads, hwindow, hwinner⟩ := endTurn_core (s := u) (g := g) rfl false
  refine exists_next_of_exec _ rfl hexec ⟨?_, ?_⟩
  · refine (thread_of_threads (s := u) hthreads slot).trans ?_
    exact (park_thread (s := { s with cur := ⟨g, slot⟩ }) (State.slot_lt_of_thread hth) slot).trans (if_pos rfl)
  · rw [hwindow, hwinner]
    exact park_held (s := { s with cur := ⟨g, slot⟩ })

/-- The parked thread of the lowest slot is the winner. -/
theorem closeWindow_winner {c : Core} {i : Nat} {rest : List Nat} {th : Thread} {r : Report} (hp : c.parked = i :: rest)
    (hth : c.thread i = some th) (hpark : th.park = .precise r) :
    c.closeWindow.thread i = some { th with park := .winner r rest.length } ∧ c.closeWindow.winner = true := by
  simp only [Core.closeWindow, hp, hth, hpark]
  exact ⟨(coreThread_setThread _ _ _ (Core.slot_lt_of_thread hth)).trans (if_pos rfl), rfl⟩

theorem collectionWindowClose_next {s : State} {g : Nat} (hdue : (s.core g).windowDue = true) :
    ∃ t, exec (.collectionWindowClose g) s = .next t ∧ SameMemory s t ∧ (t.core g).window = none ∧
      ∀ i rest th r, (s.core g).parked = i :: rest → s.thread g i = some th → th.park = .precise r →
        t.thread g i = some { th with park := .winner r rest.length } ∧ (t.core g).winner = true := by
  have hexec : exec (.collectionWindowClose g) s = .next (s.setCore g (s.core g).closeWindow) := by
    refine (show _ = execCollectionWindowClose g s from rfl).trans ?_
    simp only [execCollectionWindowClose, hdue, if_true, orNot]
  obtain ⟨threads, winner, hw⟩ := closeWindow_eq (s.core g)
  refine exists_next_of_exec _ rfl hexec ⟨by rw [core_setCore_self, hw], fun i rest th r hp hth hpark => ?_⟩
  rw [State.thread, core_setCore_self]
  exact closeWindow_winner hp hth hpark

end Sys2Proof.Machine
end

section
/-! PROOFS. Machine checks, the arbiter's resume, service writes and breakpoints (R362, R364, R369–R371, R376–R379, R193). -/
namespace Sys2Proof.Machine
open Sys2Proof

/-! Machine checks and resumes (R362, R364, R370). -/

theorem coreMachineCheck_next {s : State} {g cause : Nat} (hg : g < 2048) (hlo : 1 ≤ cause) (hhi : cause ≤ 5) :
    ∃ t, exec (.coreMachineCheck g cause) s = .next t ∧ SameMemory s t ∧
      (t.core g).stop = true ∧ (t.core g).checked = true ∧ (t.core g).mcCause = BitVec.ofNat 4 cause ∧
      (t.core g).mcSlot = BitVec.ofNat 4 ((s.core g).cyc % 16) ∧ (t.core g).threads = (s.core g).threads := by
  have hok : ¬(2048 ≤ g ∨ cause = 0 ∨ 5 < cause) := by omega
  refine exists_next_of_exec (s.machineCheck g cause) rfl ((show _ = execCoreMachineCheck g cause s from rfl).trans ?_) ?_
  · simp only [execCoreMachineCheck, hok, if_false, orNot]
  · rw [machineCheck_core]
    exact ⟨rfl, rfl, rfl, rfl, rfl⟩

/-- A thread of a core after a function on each is the function's of it. -/
theorem thread_of_map {c d : Core} {f : Thread → Thread} (h : d.threads = c.threads.map (Option.map f)) (slot : Nat) :
    d.thread slot = (c.thread slot).map f := by
  simp only [Core.thread, h, Vector.toList_map, List.getD_eq_getElem?_getD, List.getElem?_map]
  cases c.threads.toList[slot]? <;> rfl

/-- A released core has its threads, of which at most the wait for a window is over. -/
theorem release_thread {c : Core} {slot : Nat} {u : Thread} (h : c.thread slot = some u) :
    ∃ p, c.release.thread slot = some { u with park := p } := by
  rw [thread_of_map (c := c) (d := c.release) rfl, h]
  cases hp : u.park <;> exact ⟨_, congrArg some (by simp only [hp]; rfl)⟩

theorem setInh_inh (t : Thread) (b : Bool) : (t.setInh b).inh = b := by
  cases b <;> simp [Thread.setInh, Thread.inh]

/-- Going back to a pc is a matter of the gang. -/
theorem sentBack_eq (t : Thread) : ∃ gang, t.sentBack = { t with gang := gang, trapped := none } := by
  unfold Thread.sentBack; dsimp only
  repeat' split
  all_goals exact ⟨_, rfl⟩

/-- A thread as the arbiter resumes it at a pc. -/
def Thread.resumedAt (t : Thread) (pc : Word) (inh : Bool) : Thread :=
  { t.setInh inh with handed := none, pc := pc, entry := none, vector := none, retry := false, kv := [], fromWin := false }

/-- What the arbiter's resume makes certain of a thread. -/
def Thread.RunsAt (th : Thread) (pc : Word) (inh : Bool) (u : Thread) : Prop :=
  u.pc = pc ∧ u.inh = inh ∧ u.handed = none ∧ u.d = th.d ∧ u.tr = th.tr

theorem runsAt_resumed (th : Thread) (pc : Word) (inh : Bool) :
    th.RunsAt pc inh (if inh then th.resumedAt pc inh else (th.resumedAt pc inh).sentBack) := by
  have hinh : (th.resumedAt pc inh).inh = inh := setInh_inh th inh
  split
  · exact ⟨rfl, hinh, rfl, rfl, rfl⟩
  · obtain ⟨gang, hgang⟩ := sentBack_eq (th.resumedAt pc inh)
    rw [hgang]
    exact ⟨rfl, hinh, rfl, rfl, rfl⟩

theorem arbiterResumeThread_next {s : State} {g slot : Nat} {th : Thread} (pc : Word) (inh : Bool) (hth : s.thread g slot = some th)
    (hhanded : th.handed.isSome = true) :
    ∃ t u, exec (.arbiterResumeThread g slot pc inh) s = .next t ∧ SameMemory s t ∧ t.thread g slot = some u ∧ u.pc = pc ∧
      u.inh = inh ∧ u.handed = none ∧ u.d = th.d ∧ u.tr = th.tr := by
  let u := if inh then th.resumedAt pc inh else (th.resumedAt pc inh).sentBack
  let c := (s.core g).setThread slot (some u)
  have hexec : exec (.arbiterResumeThread g slot pc inh) s = .next (s.setCore g (if th.fromWin then c.release else c)) := by
    refine (show _ = execArbiterResumeThread g slot pc inh s from rfl).trans ?_
    have hnone : ¬ th.handed.isNone = true := by rw [Option.isNone_eq_false_iff.mpr hhanded]; decide
    simp only [execArbiterResumeThread, hth, if_neg hnone, orNot]
    rfl
  have hc : c.thread slot = some u := (coreThread_setThread _ _ _ (State.slot_lt_of_thread hth)).trans (if_pos rfl)
  have hmem {t : State} (h : exec (.arbiterResumeThread g slot pc inh) s = .next t) : SameMemory s t :=
    fun a => congrArg (memGet · a) (exec_mem rfl h)
  have hu : th.RunsAt pc inh u := runsAt_resumed th pc inh
  by_cases hwin : th.fromWin = true
  · obtain ⟨p, hp⟩ := release_thread hc
    rw [if_pos hwin] at hexec
    exact ⟨_, { u with park := p }, hexec, hmem hexec, by rw [State.thread, core_setCore_self]; exact hp, hu⟩
  · rw [if_neg hwin] at hexec
    exact ⟨_, u, hexec, hmem hexec, by rw [State.thread, core_setCore_self]; exact hc, hu⟩

/-! Writes over the service network (R193, R352, R369). -/

theorem peCtlWrite_next {s : State} {g : Nat} (v : Word) (hg : g < 2048) : ∃ t, exec (.peCtlWrite g v) s = .next t ∧ SameMemory s t ∧
    (t.core g).stop = (v.getLsbD 0 || (s.core g).checked) ∧ (t.core g).peCol = (v >>> 1).setWidth 5 ∧
    (t.core g).threads = (s.core g).threads := by
  refine exists_next_of_exec (s.setCore g ((s.core g).peWrite v)) rfl ((show _ = execPeCtlWrite g v s from rfl).trans ?_) ?_
  · simp only [execPeCtlWrite, hg, if_true, orNot]
  · rw [core_setCore_self]
    exact ⟨rfl, rfl, rfl⟩

/-- The cores under a function that leaves a reset core as it is are the function's of the cores. -/
theorem core_of_map {s t : State} {f : Core → Core} (hcores : t.cores = s.cores.map fun e => (e.1, f e.2)) (hreset : f Core.reset = Core.reset)
    (g : Nat) : t.core g = f (s.core g) := by
  simp only [State.core, smapGet, hcores, smapFind_map_snd]
  cases smapFind s.cores g with
  | none => exact hreset.symm
  | some c => rfl

/-- A core that has discarded what it held of a page. -/
def Core.tbInval (colour va : Nat) (c : Core) : Core :=
  { c with
    tlb := c.tlb.filter fun x => !(x.colour == colour && x.page == (if x.big then va / 2 ^ 29 else va / 2 ^ 16))
    walks := c.walks.filter fun w => !(w.colour == colour && w.res.isSome && w.page / 2 ^ 13 == va / 2 ^ 29) }

theorem tbInval_core (s : State) (colour va g : Nat) : (s.tbInval colour va).core g = (s.core g).tbInval colour va :=
  core_of_map (f := Core.tbInval colour va) rfl rfl g

theorem tbInval_next {s : State} {colour : Nat} (va : Word) (hcolour : colour < 32) :
    ∃ t, exec (.tbInval colour va) s = .next t ∧ SameMemory s t ∧ ∀ g, (t.core g).tlbFind colour va.toNat = none := by
  refine exists_next_of_exec (s.tbInval colour va.toNat) rfl ((show _ = execTbInval colour va s from rfl).trans ?_) fun g => ?_
  · simp only [execTbInval, hcolour, if_true, orNot]
  · rw [tbInval_core, Core.tlbFind, List.find?_eq_none]
    intro e he
    simpa only [Bool.not_eq_true', Bool.not_eq_true] using (List.mem_filter.mp he).2

theorem sysNumber_lt {num : Nat} (h : sysNumber num = true) : num < 0x10000 := by
  simp only [sysNumber, Bool.or_eq_true, Bool.and_eq_true, decide_eq_true_eq, beq_iff_eq] at h
  omega

theorem exec_serviceRegisterWrite {s : State} {g slot colour num : Nat} (v : Word) (hnum : sysNumber num = true) (hg : g < 2048)
    (hcolour : colour < 32) (hthread : sysOfThread num = true → (s.thread g slot).isSome = true) :
    exec (.serviceRegisterWrite g slot colour num v) s = .next (s.sysWrite g slot colour num v) := by
  have hsmall : ¬0x10000 ≤ num := Nat.not_le.mpr (sysNumber_lt hnum)
  have hok : ¬(sysNumber num = false ∨ 2048 ≤ g ∨ 32 ≤ colour) := by
    rintro (h | h | h)
    · exact absurd hnum (by simp [h])
    · omega
    · omega
  have hthere : ¬(sysOfThread num && (s.thread g slot).isNone) = true := by
    rw [Bool.and_eq_true]
    rintro ⟨hof, hnone⟩
    have hsome := hthread hof
    rw [Option.isNone_iff_eq_none.mp hnone] at hsome
    exact absurd hsome (by decide)
  refine (show _ = execServiceRegisterWrite g slot colour num v s from rfl).trans ?_
  rw [execServiceRegisterWrite, if_neg hsmall, if_neg hok, if_neg hthere]
  rfl

/-! Breakpoints (R376–R378). -/

/-- A core whose threads are changed by a function of each. -/
def Core.onThreads (f : Thread → Thread) (c : Core) : Core :=
  { c with threads := c.threads.map (Option.map f), arrivals := c.arrivals.map f }

theorem onThreads_reset (f : Thread → Thread) : Core.reset.onThreads f = Core.reset := by simp [Core.onThreads, Core.reset]

theorem slotOfTid_map {f : Thread → Thread} (hf : ∀ u, (f u).tid = u.tid) (tid : Nat) (l : List (Option Thread)) (k : Nat) :
    slotOfTid tid (l.map (Option.map f)) k = slotOfTid tid l k := by
  induction l generalizing k with
  | nil => rfl
  | cons o l ih =>
    cases o with
    | none => exact ih (k + 1)
    | some u =>
      refine (show _ = if (f u).tid = tid then some k else slotOfTid tid (l.map (Option.map f)) (k + 1) from rfl).trans ?_
      rw [hf, ih]
      rfl

theorem findTid_map {f : Thread → Thread} (hf : ∀ u, (f u).tid = u.tid) (tid : Nat) (m : List (Nat × Core)) :
    findTid tid (m.map fun e => (e.1, e.2.onThreads f)) = findTid tid m := by
  induction m with
  | nil => rfl
  | cons e m ih =>
    have hslot : slotOfTid tid (e.2.onThreads f).threads.toList 0 = slotOfTid tid e.2.threads.toList 0 := by
      rw [Core.onThreads, Vector.toList_map, slotOfTid_map hf]
    simp only [List.map_cons, findTid, hslot, ih]

/-- A function on every thread that keeps their names leaves a thread where it was found. -/
theorem Named.mapThreads {s : State} {r : SlotRef} {th : Thread} {f : Thread → Thread} (hn : Named s r th) (hf : ∀ u, (f u).tid = u.tid) :
    Named (s.mapThreads f) r (f th) := by
  obtain ⟨hth, hid⟩ := hn
  have hcores : (s.mapThreads f).cores = s.cores.map fun e => (e.1, e.2.onThreads f) := rfl
  have hcore : (s.mapThreads f).core r.g = (s.core r.g).onThreads f := core_of_map hcores (onThreads_reset f) r.g
  refine ⟨?_, ?_⟩
  · rw [State.thread, hcore, thread_of_map (c := s.core r.g) rfl]
    exact congrArg (Option.map f) hth
  · rw [State.findTid, hcores, findTid_map hf, hf]
    exact hid

/-- What a halt of a thread asks of each thread (R377). -/
def Breakpoint.ask (b : Breakpoint) (t u : Thread) : Thread := if b.asks t u then { u with haltReq := true } else u

theorem ask_tid (b : Breakpoint) (t u : Thread) : (b.ask t u).tid = u.tid := by
  unfold Breakpoint.ask; split <;> rfl

theorem ask_self (b : Breakpoint) (t : Thread) : b.ask t t = t := by simp [Breakpoint.ask, Breakpoint.asks]

theorem breakpointHalt_next {s : State} {r : SlotRef} {entry : Nat} {th : Thread} {b : Breakpoint} (hn : Named s r th)
    (hissues : s.issues r.g = true) (hslot : (s.core r.g).cyc % 16 = r.slot) (hhalted : th.halted = false) (hhanded : th.handed = none)
    (hwait : th.waitAns = false) (hdenied : th.denied = none) (hpark : th.park = .none) (hreports : th.reports = [] ∨ th.inh = true)
    (hpass : th.pass = false) (hsecond : th.second = false) (hb : smapFind s.breaks entry = some b) (hnames : b.names th = true)
    (hpc : b.pc = th.pc ∨ b.pc = succPc th.pc) :
    ∃ t, exec (.breakpointHalt r.g r.slot entry) s = .next t ∧ SameMemory s t ∧ t.cls = .vacant ∧
      t.thread r.g r.slot = some { th with halted := true, steps := none, retry := false } := by
  let s1 := s.mapThreads (b.ask th)
  let s2 := s1.onTid th.tid fun u => { u with halted := true, steps := none, retry := false }
  let t : State := { s2.trace r.g r.slot 0x02 th.colour th.wid th.pc (BitVec.ofNat 64 entry) with cls := .vacant }
  have hnamed : Named s1 r th := by
    have h := hn.mapThreads (ask_tid b th)
    rwa [ask_self] at h
  have hrep : ¬(th.reports ≠ [] ∧ th.inh = false) := by
    rintro ⟨hne, hinh⟩
    exact hreports.elim hne fun h => Bool.false_ne_true (hinh.symm.trans h)
  have hat : ¬(b.pc ≠ th.pc ∧ b.pc ≠ succPc th.pc) := fun ⟨hne, hne'⟩ => hpc.elim hne hne'
  have hexec : exec (.breakpointHalt r.g r.slot entry) s = .next t := by
    refine (show _ = execBreakpointHalt r.g r.slot entry s from rfl).trans ?_
    simp only [execBreakpointHalt, hn.1, hb, hissues, hslot, hhalted, hhanded, hwait, hdenied, hpark, hrep, hpass, hsecond, hnames, hat,
      Option.isSome_none, Bool.false_eq_true, Bool.true_eq_false, ne_eq, not_true_eq_false, or_self, if_false, orNot]
    rfl
  refine exists_next_of_exec t rfl hexec ⟨rfl, ?_⟩
  have hcores : t.cores = s2.cores := trace_cores ..
  rw [State.thread, core_of_cores hcores]
  exact onTid_thread_of_named hnamed _

theorem debugResume_next {s : State} {g slot : Nat} {th : Thread} (count : Nat) (hth : s.thread g slot = some th) (hhalted : th.halted = true) :
    ∃ t, exec (.debugResume g slot count) s = .next t ∧ SameMemory s t ∧ t.thread g slot = some { th with
      halted := false, haltReq := false, pass := true, steps := if count = 0 then none else some count } := by
  refine exists_next_of_exec (s.setThread g slot (some { th with
    halted := false, haltReq := false, pass := true, steps := if count = 0 then none else some count })) rfl
    ((show _ = execDebugResume g slot count s from rfl).trans ?_) (thread_setThread_self _ _ _ (State.slot_lt_of_thread hth))
  simp only [execDebugResume, hth, hhalted, if_true, orNot]

theorem debugTableWrite_breakpoint_next {s : State} {i : Nat} (w0 wval wmask pc : Word) (hi : i < 64) :
    ∃ t b, exec (.debugTableWrite (.breakpoint i w0 wval wmask pc)) s = .next t ∧
      SameMemory s t ∧ smapFind t.breaks i = some b ∧ b.v = w0.getLsbD 0 ∧ b.wval = wval ∧ b.wmask = wmask ∧
      b.pc = pc &&& 0xFFFFFFFFFFFFFFC7 := by
  let b : Breakpoint := ⟨w0.getLsbD 0, wbits w0 1 5, BitVec.ofNat 2 (wbits w0 6 2), wval, wmask, pc &&& 0xFFFFFFFFFFFFFFC7⟩
  refine ⟨{ s with breaks := smapPut s.breaks i b }, b, (show _ = execDebugTableWrite (.breakpoint i w0 wval wmask pc) s from rfl).trans ?_,
    fun _ => rfl, smapFind_put_self s.breaks i b, rfl, rfl, rfl, rfl⟩
  simp only [execDebugTableWrite, Nat.not_le.mpr hi, if_false, orNot]
  rfl

/-- Settles O56: a lemma for each agent's step, on the lemmas that a turn's end and a function on threads leave them where they are. -/
theorem coreEventsComplete : Obligations.CoreEventsComplete := by
  refine ⟨fun s g b hg hp => coreCycle_next b hg hp,
    fun s g slot th hth hstop hslot hturn hrep hpark hinh => reportDelivery_next hth hstop hslot hturn hrep hpark hinh,
    fun s g hdue => collectionWindowClose_next hdue,
    fun s g cause hg hlo hhi => coreMachineCheck_next hg hlo hhi,
    fun s g slot pc inh th hth hhanded => arbiterResumeThread_next pc inh hth hhanded,
    fun s g v hg => peCtlWrite_next v hg,
    fun s colour va hcolour => tbInval_next va hcolour,
    fun s g slot colour num v hnum hg hcolour hthread => exec_serviceRegisterWrite v hnum hg hcolour hthread,
    ?_,
    fun s g slot count th hth hhalted => debugResume_next count hth hhalted,
    fun s i w0 wval wmask pc hi => debugTableWrite_breakpoint_next w0 wval wmask pc hi,
    fun s colour wid k base ctl => rfl⟩
  intro s a r entry th b is hn _ hissues hslot hhalted hhanded hwait _ hdenied hpark hreports hpass hsecond hb hnames _ _ _ hpc
  exact breakpointHalt_next hn hissues hslot hhalted hhanded hwait hdenied hpark hreports hpass hsecond hb hnames
    (hpc.imp_right And.right)

end Sys2Proof.Machine
end

section
/-! PROOFS. What the engines' steps leave of the cores (R236–R240): a thread is named where it was after a core is replaced by one with its threads, and
after a change that keeps its name; a change of threads leaves what the engines hold. -/
namespace Sys2Proof.Machine
open Sys2Proof

/-! Named threads after a change of a core or a thread. -/

/-- The place of a thread is the same after a core is replaced by one that has it at the same slot. -/
theorem findTid_smapPut {tid g : Nat} {c : Core} (m : List (Nat × Core))
    (h : slotOfTid tid c.threads.toList 0 = slotOfTid tid (smapGet Core.reset m g).threads.toList 0) :
    findTid tid (smapPut m g c) = findTid tid m := by
  have hreset : slotOfTid tid Core.reset.threads.toList 0 = none := rfl
  induction m with
  | nil =>
    have hnone : slotOfTid tid c.threads.toList 0 = none := h.trans hreset
    simp only [smapPut, findTid, hnone]
  | cons e m ih =>
    obtain ⟨j, d⟩ := e
    by_cases hj : j = g
    · subst hj
      have hd : slotOfTid tid c.threads.toList 0 = slotOfTid tid d.threads.toList 0 := by simpa [smapGet, smapFind] using h
      simp only [smapPut, if_true, findTid, hd]
    · by_cases hlt : g < j
      · have hnone : slotOfTid tid c.threads.toList 0 = none := by
          rw [h, smapGet, smapFind, if_neg hj, if_pos hlt]
          exact hreset
        simp only [smapPut, if_neg hj, if_pos hlt, findTid, hnone]
      · have hrest := ih (by rw [h, smapGet, smapFind, if_neg hj, if_neg hlt]; rfl)
        simp only [smapPut, if_neg hj, if_neg hlt, findTid, hrest]

/-- A thread is named where it was after a core is replaced by one with its threads. -/
theorem Named.setCore {s : State} {r : SlotRef} {th : Thread} (hn : Named s r th) {g : Nat} {c : Core} (hc : c.threads = (s.core g).threads) :
    Named (s.setCore g c) r th := by
  obtain ⟨hth, hid⟩ := hn
  refine ⟨?_, (findTid_smapPut s.cores (by rw [hc]; rfl)).trans hid⟩
  by_cases hr : r.g = g
  · rw [hr] at hth ⊢
    rw [State.thread, core_setCore_self, Core.thread, hc]
    exact hth
  · rw [State.thread, core_setCore_other _ _ hr]
    exact hth

theorem slotOfTid_set {tid : Nat} {th u : Thread} (hu : u.tid = th.tid) {l : List (Option Thread)} {k : Nat} (hk : l[k]? = some (some th)) (j : Nat) :
    slotOfTid tid (l.set k (some u)) j = slotOfTid tid l j := by
  induction l generalizing k j with
  | nil => rfl
  | cons o l ih =>
    cases k with
    | zero =>
      obtain rfl : o = some th := Option.some.inj hk
      simp only [List.set_cons_zero, slotOfTid, hu]
    | succ k =>
      have hrest := ih hk
      cases o with
      | none => exact hrest (j + 1)
      | some t => simp only [List.set_cons_succ, slotOfTid, hrest]

/-- A thread changed where it stands is named there, its name unchanged. -/
theorem Named.onTid {s : State} {r : SlotRef} {th : Thread} (hn : Named s r th) {f : Thread → Thread} (hf : (f th).tid = th.tid) :
    Named (s.onTid th.tid f) r (f th) := by
  refine ⟨onTid_thread_of_named hn f, ?_⟩
  obtain ⟨hth, hid⟩ := hn
  have hk : (s.core r.g).threads.toList[r.slot]? = some (some th) := by
    have hget : ((s.core r.g).threads.toList[r.slot]?).getD none = some th := hth
    cases h : (s.core r.g).threads.toList[r.slot]? with
    | none => rw [h] at hget; cases hget
    | some o => rw [h] at hget; exact congrArg some hget
  rw [onTid_of_named ⟨hth, hid⟩, hf]
  refine (findTid_smapPut s.cores ?_).trans hid
  rw [Core.setThread, Vector.toList_setIfInBounds]
  exact slotOfTid_set hf hk 0

/-! What a change of threads leaves. -/

/-- A core whose threads alone have changed. -/
def ThreadsOnly (c c' : Core) : Prop := ∃ threads arrivals, c' = { c with threads := threads, arrivals := arrivals }

theorem ThreadsOnly.refl (c : Core) : ThreadsOnly c c := ⟨_, _, rfl⟩

theorem ThreadsOnly.trans {a b c : Core} (h : ThreadsOnly a b) (h' : ThreadsOnly b c) : ThreadsOnly a c := by
  obtain ⟨_, _, rfl⟩ := h
  obtain ⟨_, _, rfl⟩ := h'
  exact ⟨_, _, rfl⟩

theorem ThreadsOnly.active {c c' : Core} (h : ThreadsOnly c c') : c'.active = c.active := by obtain ⟨_, _, rfl⟩ := h; rfl
theorem ThreadsOnly.queue {c c' : Core} (h : ThreadsOnly c c') : c'.queue = c.queue := by obtain ⟨_, _, rfl⟩ := h; rfl
theorem ThreadsOnly.tile {c c' : Core} (h : ThreadsOnly c c') (i : Nat) : c'.tile i = c.tile i := by obtain ⟨_, _, rfl⟩ := h; rfl

theorem onTid_core (s : State) (tid : Nat) (f : Thread → Thread) (h : Nat) : ThreadsOnly (s.core h) ((s.onTid tid f).core h) := by
  unfold State.onTid
  split
  · have hcores : (s.onMoving tid f).cores = s.cores.map fun e => (e.1, e.2.onArrivals fun t => if t.tid = tid then f t else t) := rfl
    rw [core_of_map hcores rfl]
    exact ⟨_, _, rfl⟩
  · next r _ =>
    split
    · exact .refl _
    · by_cases hg : h = r.g
      · subst hg; rw [State.setThread, core_setCore_self]; exact ⟨_, _, rfl⟩
      · rw [State.setThread, core_setCore_other _ _ hg]; exact .refl _

theorem mem_net_onTid {s : State} {team : Option TeamKey} {core src : Nat} {e : InboxEntry} {clock : List Nat} (tid : Nat) (f : Thread → Thread)
    (h : .inbox team core e src clock ∈ s.net) : .inbox team core e src clock ∈ (s.onTid tid f).net := by
  unfold State.onTid
  split
  · exact List.mem_map.mpr ⟨_, h, rfl⟩
  · split
    · exact h
    · exact h

theorem freezeDie_net (s : State) (die cause : Nat) : (s.freezeDie die cause).net = s.net := by
  simp only [State.freezeDie]; split <;> rfl

theorem trigger_net (s : State) (die bit : Nat) : (s.trigger die bit).net = s.net := by
  unfold State.trigger; split
  · exact freezeDie_net ..
  · rfl

theorem alarm_net (s : State) (die : Nat) (kind : BitVec 8) : (s.alarm die kind).net = s.net := by
  unfold State.alarm; repeat' split
  · exact trigger_net ..
  · exact freezeDie_net ..
  · rfl

@[simp] theorem alarm_cores (s : State) (die : Nat) (kind : BitVec 8) : (s.alarm die kind).cores = s.cores := by
  unfold State.alarm; repeat' split
  all_goals simp

/-! Reports of the engines (R240, R363). -/

theorem clearPending_keeps (t : Thread) (o : Option Reg) :
    (t.clearPending o).tid = t.tid ∧ (t.clearPending o).w = t.w ∧ (t.clearPending o).d = t.d ∧ (t.clearPending o).pc = t.pc := by
  unfold Thread.clearPending; split <;> exact ⟨rfl, rfl, rfl, rfl⟩

theorem report_keeps (t : Thread) (rep : Report) :
    (t.report rep).tid = t.tid ∧ (t.report rep).w = t.w ∧ (t.report rep).d = t.d ∧ (t.report rep).pc = t.pc := by
  unfold Thread.report; split
  · exact ⟨rfl, rfl, rfl, rfl⟩
  · exact clearPending_keeps t rep.clr

theorem Named.trapEngine {s : State} {r : SlotRef} {th : Thread} (hn : Named s r th) (die : Nat) (rep : Report) :
    Named (s.trapEngine th.tid die rep) r (th.report rep) :=
  (hn.of_cores (alarm_cores s die rep.kind)).onTid (report_keeps th rep).1

theorem trapEngine_core (s : State) (tid die : Nat) (rep : Report) (h : Nat) : ThreadsOnly (s.core h) ((s.trapEngine tid die rep).core h) := by
  have hc := onTid_core (s.alarm die rep.kind) tid (fun t => t.report rep) h
  rwa [alarm_core] at hc

theorem mem_net_trapEngine {s : State} {team : Option TeamKey} {core src : Nat} {e : InboxEntry} {clock : List Nat} (tid die : Nat) (rep : Report)
    (h : .inbox team core e src clock ∈ s.net) : .inbox team core e src clock ∈ (s.trapEngine tid die rep).net :=
  mem_net_onTid tid _ (by rw [alarm_net]; exact h)

/-! A command found by its name. -/

theorem cmdFind_cmdDrop (uid : Nat) (cs : List Cmd) : cmdFind uid (cmdDrop uid cs) = none := by
  rw [cmdFind, List.find?_eq_none]
  intro e he
  simpa using (List.mem_filter.mp he).2

/-- A command put in its place is the one found by its name. -/
theorem cmdFind_putActive {c : Core} {a e : Cmd} (h : cmdFind e.uid c.active = some a) : cmdFind e.uid (c.putActive e).active = some e := by
  unfold Core.putActive
  generalize c.active = cs at h ⊢
  induction cs with
  | nil => cases h
  | cons x cs ih =>
    by_cases hx : x.uid = e.uid
    · simp [cmdFind, hx]
    · have hrest : cmdFind e.uid cs = some a := by simpa [cmdFind, hx] using h
      simpa [cmdFind, hx] using ih hrest

/-! A command leaves its engine (R237, R267). -/

theorem keepV_keeps (t : Thread) (e : Cmd) : (t.keepV e).tid = t.tid ∧ (t.keepV e).w = t.w := by
  unfold Thread.keepV; split <;> exact ⟨rfl, rfl⟩

/-- A thread as a command of it leaves, its counter one lower. -/
def Thread.leftBy (t : Thread) (e : Cmd) (keep : Bool) : Thread := (if keep then t.keepV e else t).uncount e.ctr

theorem leftBy_tid (t : Thread) (e : Cmd) (keep : Bool) : (t.leftBy e keep).tid = t.tid := by
  unfold Thread.leftBy; split
  · exact (keepV_keeps t e).1
  · rfl

theorem leftBy_w (t : Thread) (e : Cmd) (keep : Bool) : (t.leftBy e keep).w = (t.uncount e.ctr).w := by
  unfold Thread.leftBy; split
  · simp only [Thread.uncount, (keepV_keeps t e).2]
  · rfl

/-- The state without a command, before its thread and its team hear of it. -/
def State.dropCmd (s : State) (g : Nat) (e : Cmd) : State :=
  s.setCore g { s.core g with active := cmdDrop e.uid (s.core g).active, queue := cmdDrop e.uid (s.core g).queue }

theorem leaveCmd_cores (s : State) (g : Nat) (e : Cmd) (status : Option Nat) (keep : Bool) :
    (s.leaveCmd g e status keep).cores = ((s.dropCmd g e).onTid e.tid fun t => t.leftBy e keep).cores := by
  cases status with
  | none => rfl
  | some st => cases hp : e.posts <;> (simp only [State.leaveCmd, hp]; rfl)

theorem leaveCmd_named {s : State} {g : Nat} {e : Cmd} {r : SlotRef} {th : Thread} (hn : Named s r th) (htid : th.tid = e.tid)
    (status : Option Nat) (keep : Bool) : Named (s.leaveCmd g e status keep) r (th.leftBy e keep) := by
  have hdrop : Named (s.dropCmd g e) r th := hn.setCore rfl
  refine Named.of_cores ?_ (leaveCmd_cores s g e status keep)
  rw [← htid]
  exact hdrop.onTid (f := fun t => t.leftBy e keep) (leftBy_tid th e keep)

theorem leaveCmd_core (s : State) (g : Nat) (e : Cmd) (status : Option Nat) (keep : Bool) :
    ThreadsOnly { s.core g with active := cmdDrop e.uid (s.core g).active, queue := cmdDrop e.uid (s.core g).queue }
      ((s.leaveCmd g e status keep).core g) := by
  have h := onTid_core (s.dropCmd g e) e.tid (fun t => t.leftBy e keep) g
  rw [State.dropCmd, core_setCore_self] at h
  rw [core_of_cores (leaveCmd_cores s g e status keep)]
  exact h

end Sys2Proof.Machine
end

section
/-! PROOFS. The matrix engines: commands become active, complete, park and run as guests (R115, R246–R251, R262–R266). -/
namespace Sys2Proof.Machine
open Sys2Proof

/-! Activation (R115, R262). -/

theorem exec_commandActivate {s : State} {g : Nat} {e : Cmd} {rest : List Cmd} (hq : (s.core g).queue = e :: rest)
    (hstop : (s.core g).stop = false) (hres : e.gres = true) (hst : e.state ≠ 3) (hdec : e.decided = true)
    (hroom : (s.core g).active.length + (s.core g).guest.toList.length < 4) (hfree : (s.core g).conflict e = false) (hpart : e.partial_ = none) :
    exec (.commandActivate g) s =
      .next ((s.setCore g { s.core g with queue := rest, active := (s.core g).active ++ [e] }).beginCmd g e) := by
  have hroom' : ¬4 ≤ (s.core g).active.length + (s.core g).guest.toList.length := by omega
  refine (show _ = execCommandActivate g s from rfl).trans ?_
  simp only [execCommandActivate, hq, hstop, hres, hst, hdec, hroom', hfree, hpart, Bool.false_eq_true, Bool.true_eq_false, or_self, if_false, orNot]

theorem commandActivate_skipped {s : State} {g : Nat} {e : Cmd} {rest : List Cmd} (hq : (s.core g).queue = e :: rest)
    (hstop : (s.core g).stop = false) (hres : e.gres = true) (hst : e.state ≠ 3) (hdec : e.decided = false) :
    ∃ t, exec (.commandActivate g) s = .next t ∧ SameMemory s t ∧ (t.core g).queue = cmdDrop e.uid (s.core g).queue ∧
      ∀ (r : SlotRef) (th : Thread), Named s r th → th.tid = e.tid →
        ∃ u, t.thread r.g r.slot = some u ∧ u.w = (th.uncount e.ctr).w := by
  refine exists_next_of_exec (s.leaveCmd g e none true) rfl ((show _ = execCommandActivate g s from rfl).trans ?_)
    ⟨(leaveCmd_core s g e none true).queue, fun r th hn htid => ⟨_, (leaveCmd_named hn htid none true).1, leftBy_w th e true⟩⟩
  simp only [execCommandActivate, hq, hstop, hres, hst, hdec, Bool.false_eq_true, Bool.true_eq_false, or_self, if_false, if_true, orNot]

/-! What a command reads again (R423) is its descriptor and its list. -/

/-- A command with another descriptor and list. -/
def Cmd.Rereads (e e' : Cmd) : Prop := ∃ desc rows, e' = { e with desc := desc, rows := rows }

theorem Cmd.Rereads.refl (e : Cmd) : e.Rereads e := ⟨_, _, rfl⟩

theorem Cmd.Rereads.trans {a b c : Cmd} (h : a.Rereads b) (h' : b.Rereads c) : a.Rereads c := by
  obtain ⟨_, _, rfl⟩ := h
  obtain ⟨_, _, rfl⟩ := h'
  exact ⟨_, _, rfl⟩

theorem readList_rereads (c : Core) (free : Nat) (tm : Team) (e : Cmd) : e.Rereads (c.readList free tm e) := by
  unfold Core.readList; split <;> exact ⟨_, _, rfl⟩

theorem readDesc_rereads (c : Core) (free : Nat) (tm : Team) (e : Cmd) : e.Rereads (c.readDesc free tm e) := by
  unfold Core.readDesc; split
  · exact Cmd.Rereads.trans ⟨_, _, rfl⟩ (readList_rereads ..)
  · exact readList_rereads ..

theorem rereadDesc_rereads (s : State) (g : Nat) (tm : Team) (e : Cmd) : e.Rereads (s.rereadDesc g tm e) := by
  unfold State.rereadDesc; split
  · dsimp only; split
    · exact ⟨_, _, rfl⟩
    · exact .refl e
  · exact .refl e

theorem rereadCmd_rereads (s : State) (g : Nat) (e : Cmd) : e.Rereads (s.rereadCmd g e) := by
  unfold State.rereadCmd; repeat' split
  · exact .refl e
  · exact .refl e
  · exact .refl e
  · exact rereadDesc_rereads ..
  · exact readDesc_rereads ..
  · exact (rereadDesc_rereads ..).trans (readList_rereads ..)

theorem rereadCmd_uid (s : State) (g : Nat) (e : Cmd) : (s.rereadCmd g e).uid = e.uid := by
  obtain ⟨_, _, h⟩ := rereadCmd_rereads s g e; rw [h]

theorem rereadCmd_op (s : State) (g : Nat) (e : Cmd) : (s.rereadCmd g e).op = e.op := by
  obtain ⟨_, _, h⟩ := rereadCmd_rereads s g e; rw [h]

/-- A fold reads nothing of the scratchpad. -/
theorem rereadCmd_fold {s : State} {g : Nat} {e : Cmd} (hop : e.op = 7) : s.rereadCmd g e = e := by
  unfold State.rereadCmd; split
  · rfl
  · rw [if_pos (.inr (.inr (.inr (by rw [hop]; rfl))))]

/-! Units (R246, R250, R256). -/

section
variable {s : State} {g u : Nat} {e0 : Cmd} (hstop : (s.core g).stop = false) (hf : cmdFind e0.uid (s.core g).active = some e0)
include hstop hf

theorem exec_unitArrival_failed (hop : e0.op ≠ 7) {k : BitVec 8 × Nat × Option Word} (hk : s.rereadFault g e0 (s.rereadCmd g e0) = some k) :
    exec (.unitArrival g e0.uid u) s = .next ({ s with free := s.free + 4 }.endShape g (s.rereadCmd g e0) k) := by
  have hop' : ¬(s.rereadCmd g e0).op = 7 := by rw [rereadCmd_op]; exact hop
  refine (show _ = execUnitArrival g e0.uid u s from rfl).trans ?_
  simp only [execUnitArrival, hstop, hf, hop', hk, Bool.false_eq_true, if_false, orNot]

/-- A unit that lands goes where its command's work puts it. -/
theorem exec_unitArrival_landed (hop : e0.op ≠ 7) (hk : s.rereadFault g e0 (s.rereadCmd g e0) = none) {s1 : State} {ps : List Place}
    (hl : s.unitLands g (s.rereadCmd g e0) u = some (s1, ps)) :
    let e := s.rereadCmd g e0
    let s2 := s1.unitSent g e ps
    let s3 : State := { s2 with free := s2.free + 8 }
    (e.work = .stream → exec (.unitArrival g e0.uid u) s = .next (s3.accumulate g e u (s1.unitData e ps))) ∧
    (e.work = .gather → exec (.unitArrival g e0.uid u) s = .next (s3.loadRow g e u (s1.unitData e ps))) ∧
    (e.work = .rows → exec (.unitArrival g e0.uid u) s = .next (s3.writeRow g e u ps)) := by
  have hop' : ¬(s.rereadCmd g e0).op = 7 := by rw [rereadCmd_op]; exact hop
  refine ⟨fun hw => ?_, fun hw => ?_, fun hw => ?_⟩ <;> refine (show _ = execUnitArrival g e0.uid u s from rfl).trans ?_ <;>
    simp only [execUnitArrival, hstop, hf, hop', hk, hl, hw, Bool.false_eq_true, if_false, orNot]

theorem unitArrival_scales (hop : e0.op = 7) (hst : e0.state = 1) (hu : 2 * u = e0.wide.length) (hlt : u < 64) {a b : Word} {rest : List Word}
    (hn4 : (s.core g).n4 = a :: b :: rest) :
    ∃ t, exec (.unitArrival g e0.uid u) s = .next t ∧ SameMemory s t ∧ (t.core g).n4 = rest ∧
      cmdFind e0.uid (t.core g).active = some { e0 with wide := e0.wide ++ [a, b] } := by
  refine ⟨s.setCore g ({ s.core g with n4 := rest }.putActive { e0 with wide := e0.wide ++ [a, b] }),
    (show _ = execUnitArrival g e0.uid u s from rfl).trans ?_, fun _ => rfl, ?_, ?_⟩
  · simp only [execUnitArrival, hstop, hf, rereadCmd_fold hop, hop, State.takeScale, hn4, hst, hu, hlt, and_self, Bool.false_eq_true, if_false,
      if_true, orNot]
  · rw [core_setCore_self]; rfl
  · rw [core_setCore_self]
    exact cmdFind_putActive (c := { s.core g with n4 := rest }) (e := { e0 with wide := e0.wide ++ [a, b] }) hf

/-! Parking (R250). -/

theorem engineFaultPark_next (hst : (s.rereadCmd g e0).state = 1) (hk : s.rereadFault g e0 (s.rereadCmd g e0) = none)
    (hnext : (s.rereadCmd g e0).nextUnit = some u) (hskid : (s.rereadCmd g e0).skid = none) {st : Stop}
    (hstp : s.unitStop g (s.rereadCmd g e0) u = some st) :
    let e := s.rereadCmd g e0
    ∃ t, exec (.engineFaultPark g e0.uid u) s = .next t ∧ SameMemory s t ∧
      (∃ a, cmdFind e.uid (t.core g).active = some a ∧ a.state = 2 ∧ a.kind = st.kind ∧ a.faddr = st.addr) ∧
      ∀ (r : SlotRef) (th : Thread), Named s r th → th.tid = e.tid →
        t.thread r.g r.slot = some (th.report (e.report g st.kind st.detail st.addr)) := by
  intro e
  have hexec : exec (.engineFaultPark g e0.uid u) s = .next (s.parkCmd g e st) := by
    refine (show _ = execEngineFaultPark g e0.uid u s from rfl).trans ?_
    simp only [execEngineFaultPark, hstop, hf, hst, hnext, hk, hskid, hstp, Option.isSome_none, Bool.false_eq_true, ne_eq, not_true_eq_false,
      or_self, if_false, Option.map_some, orNot]
    rfl
  have hf' : cmdFind e.uid (s.core g).active = some e0 := by rw [rereadCmd_uid]; exact hf
  let a : Cmd := { e with
    state := 2, kind := st.kind, detail := BitVec.ofNat 8 st.detail, faddr := st.addr, bm := if e.work = .gather ∨ e.op = 9 then 0 else e.bm }
  let c1 := (s.core g).putActive a
  let i := (s.core g).physical e.team e.slot
  let c2 := if e.work = .gather then c1.setRslot i { c1.rslot i with vals := [], junk := some s.free } else c1
  let s2 := s.bumpFree.setCore g c2
  have hpark : s.parkCmd g e st = s2.trapEngine e.tid (dieOf g) (e.report g st.kind st.detail st.addr) := rfl
  have hactive : c2.active = c1.active := by simp only [c2]; split <;> rfl
  have hthreads : c2.threads = (s.core g).threads := by simp only [c2]; split <;> rfl
  refine exists_next_of_exec _ rfl hexec ⟨⟨a, ?_, rfl, rfl, rfl⟩, fun r th hn htid => ?_⟩
  · rw [hpark, (trapEngine_core s2 ..).active, core_setCore_self, hactive]
    exact cmdFind_putActive (e := a) hf'
  · have hs2 : Named s2 r th := Named.setCore (s := s.bumpFree) (hn.of_cores rfl) hthreads
    rw [hpark, ← htid]
    exact (hs2.trapEngine ..).1
end

/-! Completion (R247, R256, R259, R263). -/

@[simp] theorem onTid_dies (s : State) (tid : Nat) (f : Thread → Thread) : (s.onTid tid f).dies = s.dies := by
  unfold State.onTid; repeat' split
  all_goals rfl

theorem completeCmd_core (s : State) (g : Nat) (e : Cmd) :
    ThreadsOnly { s.core g with active := cmdDrop e.uid (s.core g).active, queue := cmdDrop e.uid (s.core g).queue }
      ((s.completeCmd g e).core g) := by
  have hleave := leaveCmd_core s g e (some 0) false
  unfold State.completeCmd; dsimp only; split
  · exact hleave
  · exact hleave.trans (trapEngine_core (s.leaveCmd g e (some 0) false).bumpFree ..)

theorem completeCmd_thread {s : State} {g : Nat} {e : Cmd} {r : SlotRef} {th : Thread} (hn : Named s r th) (htid : th.tid = e.tid) :
    ∃ u, (s.completeCmd g e).thread r.g r.slot = some u ∧ u.w = (th.uncount e.ctr).w ∧ u.d = th.d ∧ u.pc = th.pc := by
  have hleave := leaveCmd_named (g := g) hn htid (some 0) false
  unfold State.completeCmd; dsimp only; split
  · exact ⟨_, hleave.1, rfl, rfl, rfl⟩
  · next key code _ =>
    have hbump : Named (s.leaveCmd g e (some 0) false).bumpFree r (th.leftBy e false) := hleave.of_cores rfl
    have hrep := hbump.trapEngine (dieOf g) (e.report g kindEvent code (e.eventAddr (s.leaveCmd g e (some 0) false).free key))
    rw [leftBy_tid, htid] at hrep
    obtain ⟨-, hw, hd, hpc⟩ := report_keeps (th.leftBy e false) (e.report g kindEvent code (e.eventAddr (s.leaveCmd g e (some 0) false).free key))
    exact ⟨_, hrep.1, hw, hd, hpc⟩

theorem completeCmd_posts {s : State} {g : Nat} {e : Cmd} (hp : e.posts = true) :
    .inbox (some e.team) g ⟨e.message 0, e.pc, 0, e.colour⟩ g (s.die (dieOf g)).k ∈ (s.completeCmd g e).net := by
  have hleave : .inbox (some e.team) g ⟨e.message 0, e.pc, 0, e.colour⟩ g (s.die (dieOf g)).k ∈ (s.leaveCmd g e (some 0) false).net := by
    simp [State.leaveCmd, hp, State.post, State.send, State.die]
  unfold State.completeCmd; dsimp only; split
  · exact hleave
  · exact mem_net_trapEngine (s := (s.leaveCmd g e (some 0) false).bumpFree) _ _ _ hleave

/-- A state that a command's last effect has made: the command's thread stands where it did, with its words, registers and pc. -/
def Readied (s : State) (e : Cmd) (s' : State) : Prop :=
  s'.dies = s.dies ∧ ∀ r th, Named s r th → th.tid = e.tid → ∃ v, Named s' r v ∧ v.tid = th.tid ∧ v.w = th.w ∧ v.d = th.d ∧ v.pc = th.pc

theorem Readied.refl (s : State) (e : Cmd) : Readied s e s := ⟨rfl, fun _ th hn _ => ⟨th, hn, rfl, rfl, rfl, rfl⟩⟩

theorem Readied.setCore (s : State) (e : Cmd) {g : Nat} {c : Core} (hc : c.threads = (s.core g).threads) : Readied s e (s.setCore g c) :=
  ⟨rfl, fun _ th hn _ => ⟨th, hn.setCore hc, rfl, rfl, rfl, rfl⟩⟩

theorem Readied.acpWrite (s : State) (g : Nat) (e : Cmd) (i : Fin 8) : Readied s e (s.acpWrite g e i) := by
  refine ⟨onTid_dies .., fun r th hn htid => ?_⟩
  unfold State.acpWrite
  rw [← htid]
  exact ⟨_, hn.onTid rfl, rfl, rfl, rfl, rfl⟩

/-- A command that its unit has completed: it is gone, its counter is one lower, and its message is on its way. -/
def Completed (s : State) (g : Nat) (e : Cmd) (t : State) : Prop :=
  cmdFind e.uid (t.core g).active = none ∧
  (∀ (r : SlotRef) (th : Thread), Named s r th → th.tid = e.tid →
    ∃ u, t.thread r.g r.slot = some u ∧ u.w = (th.uncount e.ctr).w ∧ u.d = th.d ∧ u.pc = th.pc) ∧
  (e.posts = true → .inbox (some e.team) g ⟨e.message 0, e.pc, 0, e.colour⟩ g (s.die (dieOf g)).k ∈ t.net)

theorem Readied.completed {s s' : State} {e : Cmd} (h : Readied s e s') (g : Nat) (event : Option (Nat × Nat)) :
    Completed s g e (s'.completeCmd g { e with event := event }) := by
  obtain ⟨hdies, hthread⟩ := h
  refine ⟨?_, fun r th hn htid => ?_, fun hp => ?_⟩
  · rw [(completeCmd_core s' g { e with event := event }).active]
    exact cmdFind_cmdDrop e.uid _
  · obtain ⟨v, hv, hvtid, hw, hd, hpc⟩ := hthread r th hn htid
    obtain ⟨u, hu, huw, hud, hupc⟩ := completeCmd_thread (g := g) (e := { e with event := event }) hv (hvtid.trans htid)
    exact ⟨u, hu, huw.trans (by simp only [Thread.uncount, hw]), hud.trans hd, hupc.trans hpc⟩
  · have hdie : s.die (dieOf g) = s'.die (dieOf g) := by rw [State.die, State.die, hdies]
    rw [hdie]
    exact completeCmd_posts (e := { e with event := event }) hp

theorem tile_setTile_self (c : Core) {i : Nat} (t : Tile) (h : i < 4) : (c.setTile i t).tile i = t :=
  (getD_setIfInBounds c.tiles i i t _ h).trans (if_pos rfl)

theorem tile_setTile_other (c : Core) {i j : Nat} (t : Tile) (h : j ≠ i) : (c.setTile i t).tile j = c.tile j := by
  by_cases hi : i < 4
  · exact (getD_setIfInBounds c.tiles i j t _ hi).trans (if_neg h)
  · have hsame : c.tiles.setIfInBounds i t = c.tiles := Vector.setIfInBounds_eq_of_size_le (by omega)
    simp only [Core.setTile, Core.tile, hsame]

/-- The units that a command has to have marked, or the words taken, before it completes (R263). -/
def Cmd.Done (e : Cmd) : Prop :=
  (e.op.toNat ≤ 4 ∧ (e.op = 4 → e.gathered = true) ∧ e.allMarked = true) ∨ (e.op = 7 ∧ 128 ≤ e.wide.length) ∨
    (e.op = 8 ∧ (e.vdst.isSome = true ∨ e.allMarked = true)) ∨ (e.op = 9 ∧ e.allMarked = true) ∨ e.op = 10

/-- The tiles that a completing `aclr` and `fold` empty (R256, R257). -/
def Emptied (c : Core) (e : Cmd) (c' : Core) : Prop :=
  (e.op = 10 → c.physical e.team e.tile < 4 → c'.tile (c.physical e.team e.tile) = ⟨e.shape.getLsbD 0, []⟩) ∧
  (e.op = 7 → c.physical e.team e.slot < 4 → c.physical e.team e.tile ≠ c.physical e.team e.slot →
    c'.tile (c.physical e.team e.slot) = ⟨false, []⟩)

theorem emptied_of_op {c c' : Core} {e : Cmd} (h10 : e.op ≠ 10) (h7 : e.op ≠ 7) : Emptied c e c' :=
  ⟨fun h => absurd h h10, fun h => absurd h h7⟩

theorem completes_if {s : State} {g : Nat} {e : Cmd} (hstop : (s.core g).stop = false) (hst : e.state = 1) :
    ¬((s.core g).stop = true ∨ e.state ≠ 1) := by simp [hstop, hst]

/-- The fold of a command (R256), and the tiles after it: the source is empty. -/
def Core.foldOf (c : Core) (e : Cmd) : Acc1 :=
  foldTile (rndOf e.qual) (e.shape.getLsbD 0) e.origin (c.tile (c.physical e.team e.slot)).lanes (c.tile (c.physical e.team e.tile)).lanes e.wide
def Core.folded (c : Core) (e : Cmd) : Core :=
  (c.setTile (c.physical e.team e.slot) ⟨false, []⟩).setTile (c.physical e.team e.tile) ⟨true, (c.foldOf e).lanes⟩

section
variable {s : State} {g : Nat} {e : Cmd} (hstop : (s.core g).stop = false) (hf : cmdFind e.uid (s.core g).active = some e) (hst : e.state = 1)
include hstop hf hst

/-- A load whose units are all marked completes, the lanes of an exact one checked for their range (R94). -/
theorem exec_commandComplete_load (hop : e.op.toNat ≤ 4) (hgath : e.op = 4 → e.gathered = true) (hall : e.allMarked = true) :
    ∃ s', exec (.commandComplete g e.uid) s = .next (s'.completeCmd g e) ∧ Readied s e s' := by
  have hact := completes_if hstop hst
  have hrun : ¬((e.op = 4 ∧ e.gathered = false) ∨ e.allMarked = false) := by
    rintro (⟨h4, h⟩ | h)
    · rw [hgath h4] at h; cases h
    · rw [hall] at h; cases h
  cases hb : e.blitz with
  | true =>
    refine ⟨s, (show _ = execCommandComplete g e.uid s from rfl).trans ?_, .refl s e⟩
    simp only [execCommandComplete, hf, hact, hop, hrun, hb, if_false, if_true, orNot]
  | false =>
    let t := (s.core g).tile ((s.core g).physical e.team e.tile)
    let t' : Tile := { t with
      lanes := rangeCheck e.origin ((s.core g).rslot ((s.core g).physical e.team e.slot)).mr e.nc t.lanes }
    refine ⟨s.setCore g ((s.core g).setTile ((s.core g).physical e.team e.tile) t'),
      (show _ = execCommandComplete g e.uid s from rfl).trans ?_, .setCore s e rfl⟩
    simp only [execCommandComplete, hf, hact, hop, hrun, hb, Bool.false_eq_true, if_false, if_true, orNot]
    rfl

theorem exec_commandComplete_fold (hop : e.op = 7) (hlen : 128 ≤ e.wide.length) :
    exec (.commandComplete g e.uid) s = .next ((s.setCore g ((s.core g).folded e)).completeCmd g
      { e with event := if s.evtOf e.tid then ((s.core g).foldOf e).event else none }) := by
  have hact := completes_if hstop hst
  have hnat : e.op.toNat = 7 := by rw [hop]; rfl
  refine (show _ = execCommandComplete g e.uid s from rfl).trans ?_
  simp only [execCommandComplete, hf, hact, hnat, Nat.not_lt.mpr hlen, show ¬7 ≤ 4 by decide, if_false, orNot]
  rfl

theorem exec_commandComplete_acp (hop : e.op = 8) (hv : e.vdst.isSome = true ∨ e.allMarked = true) :
    ∃ s', exec (.commandComplete g e.uid) s = .next (s'.completeCmd g e) ∧ Readied s e s' := by
  have hact := completes_if hstop hst
  have hnat : e.op.toNat = 8 := by rw [hop]; rfl
  cases hdst : e.vdst with
  | some i =>
    refine ⟨s.acpWrite g e i, (show _ = execCommandComplete g e.uid s from rfl).trans ?_, .acpWrite s g e i⟩
    simp only [execCommandComplete, hf, hact, hnat, hdst, show ¬8 ≤ 4 by decide, if_false, orNot]
  | none =>
    have hall : e.allMarked = true := hv.resolve_left (by rw [hdst]; decide)
    refine ⟨s, (show _ = execCommandComplete g e.uid s from rfl).trans ?_, .refl s e⟩
    simp only [execCommandComplete, hf, hact, hnat, hdst, hall, show ¬8 ≤ 4 by decide, if_false, if_true, orNot]

theorem exec_commandComplete_acps (hop : e.op = 9) (hall : e.allMarked = true) :
    exec (.commandComplete g e.uid) s = .next (s.completeCmd g e) := by
  have hact := completes_if hstop hst
  have hnat : e.op.toNat = 9 := by rw [hop]; rfl
  refine (show _ = execCommandComplete g e.uid s from rfl).trans ?_
  simp only [execCommandComplete, hf, hact, hnat, hall, show ¬9 ≤ 4 by decide, if_false, if_true, orNot]

theorem exec_commandComplete_clear (hop : e.op = 10) :
    exec (.commandComplete g e.uid) s =
      .next ((s.setCore g ((s.core g).setTile ((s.core g).physical e.team e.tile) ⟨e.shape.getLsbD 0, []⟩)).completeCmd g e) := by
  have hact := completes_if hstop hst
  have hnat : e.op.toNat = 10 := by rw [hop]; rfl
  refine (show _ = execCommandComplete g e.uid s from rfl).trans ?_
  simp only [execCommandComplete, hf, hact, hnat, show ¬10 ≤ 4 by decide, if_false, orNot]

/-- A command whose units are done has its last effect and completes. -/
theorem exec_commandComplete (hdone : e.Done) :
    ∃ s' event, exec (.commandComplete g e.uid) s = .next (s'.completeCmd g { e with event := event }) ∧ Readied s e s' ∧
      Emptied (s.core g) e (s'.core g) := by
  rcases hdone with ⟨hop, hgath, hall⟩ | ⟨hop, hlen⟩ | ⟨hop, hv⟩ | ⟨hop, hall⟩ | hop
  · obtain ⟨s', hexec, hready⟩ := exec_commandComplete_load hstop hf hst hop hgath hall
    refine ⟨s', e.event, hexec, hready, emptied_of_op (fun h => ?_) (fun h => ?_)⟩ <;> exact absurd hop (by rw [h]; decide)
  · refine ⟨_, _, exec_commandComplete_fold hstop hf hst hop hlen, .setCore s e rfl, fun h => absurd (hop.symm.trans h) (by decide), fun _ hlt hne => ?_⟩
    rw [core_setCore_self, Core.folded, tile_setTile_other _ _ hne.symm, tile_setTile_self _ _ hlt]
  · obtain ⟨s', hexec, hready⟩ := exec_commandComplete_acp hstop hf hst hop hv
    exact ⟨s', e.event, hexec, hready, emptied_of_op (by rw [hop]; decide) (by rw [hop]; decide)⟩
  · exact ⟨s, e.event, exec_commandComplete_acps hstop hf hst hop hall, .refl s e, emptied_of_op (by rw [hop]; decide) (by rw [hop]; decide)⟩
  · refine ⟨_, e.event, exec_commandComplete_clear hstop hf hst hop, .setCore s e rfl, fun _ hlt => ?_,
      fun h => absurd (hop.symm.trans h) (by decide)⟩
    rw [core_setCore_self, tile_setTile_self _ _ hlt]

theorem commandComplete_next (hdone : e.Done) :
    ∃ t, exec (.commandComplete g e.uid) s = .next t ∧ SameMemory s t ∧ Completed s g e t ∧ Emptied (s.core g) e (t.core g) := by
  obtain ⟨s', event, hexec, hready, hempty, hempty'⟩ := exec_commandComplete hstop hf hst hdone
  refine exists_next_of_exec _ rfl hexec ⟨hready.completed g event, fun hop hlt => ?_, fun hop hlt hne => ?_⟩
  · exact ((completeCmd_core s' g _).tile _).trans (hempty hop hlt)
  · exact ((completeCmd_core s' g _).tile _).trans (hempty' hop hlt hne)
end

/-! Guests (R265, R266). -/

theorem engineMigration_next {s : State} {g i host idx : Nat} {rest : List Nat} {e : Cmd} {y : RSlot}
    (hy : (s.core g).rslot ((s.core g).physical e.team e.slot) = y) (hq : (s.core g).queue[i]? = some e) (hi : 8 ≤ i) (hop : e.op = 0)
    (hst : e.state = 0) (hdisc : e.disc = false) (hres : e.gres = true) (hdec : e.decided = true)
    (hahead : ((s.core g).active ++ (s.core g).queue.take i).any
      (fun a => ((s.core g).cmdWrites a).contains (4 + (s.core g).physical e.team e.slot)) = false)
    (hne : host ≠ g) (hrow : sameRow g host = true) (hstay : (s.core g).leaving = false)
    (hidle : (s.core host).leaving = false ∧ (s.core host).checked = false ∧ (s.core host).anyHalted = false ∧ (s.core host).queue = [] ∧
      (∀ a ∈ (s.core host).active, a.state = 2) ∧ (s.core host).guest = none)
    (hshape : e.failed ((((s.core g).teamOf e.team).map Team.size).getD 0) y ⟨false, []⟩ ⟨false, []⟩ = none)
    (hspare : (s.core host).spareTiles.reverse = idx :: rest) :
    ∃ t, exec (.engineMigration g i host) s = .next t ∧ SameMemory s t ∧
      (t.core host).guest = some ⟨g, { e with state := 1, partial_ := none }, y, idx, []⟩ ∧
      (t.core g).queue[i]? = some { e with state := 3 } := by
  obtain ⟨hleave, hchecked, hhalted, hqueue, hactive, hguest⟩ := hidle
  have hparked : (s.core host).active.any (fun a => a.state != 2) = false := by simpa using hactive
  have hmay : ¬(i < 8 ∨ e.op ≠ 0 ∨ e.state ≠ 0 ∨ e.disc = true ∨ e.gres = false ∨ e.decided = false) := by
    simp [Nat.not_lt.mpr hi, hop, hst, hdisc, hres, hdec]
  have hhost : ¬(host = g ∨ sameRow g host = false ∨ (s.core g).leaving = true ∨ (s.core host).leaving = true ∨ (s.core host).checked = true ∨
      (s.core host).anyHalted = true ∨ (s.core host).queue ≠ [] ∨ (s.core host).active.any (fun a => a.state != 2) = true ∨
      (s.core host).guest.isSome = true) := by
    simp only [hne, hrow, hstay, hleave, hchecked, hhalted, hqueue, hparked, hguest, Option.isSome_none, ne_eq, not_true_eq_false,
      Bool.false_eq_true, Bool.true_eq_false, or_self, not_false_eq_true]
  let marked (a : Cmd) : Cmd := if a.uid = e.uid then { a with state := 3 } else a
  let s1 := s.setCore g { s.core g with queue := (s.core g).queue.map marked }
  let t := s1.setCore host { s.core host with guest := some ⟨g, { e with state := 1, partial_ := none }, y, idx, []⟩ }
  have hexec : exec (.engineMigration g i host) s = .next t := by
    refine (show _ = execEngineMigration g i host s from rfl).trans ?_
    simp only [execEngineMigration, hq, hmay, hahead, hhost, hy, hshape, hspare, Option.isSome_none, Bool.false_eq_true, if_false, orNot]
    rfl
  refine exists_next_of_exec t rfl hexec ⟨by rw [core_setCore_self], ?_⟩
  have hcore : t.core g = { s.core g with queue := (s.core g).queue.map marked } := by
    rw [core_setCore_other _ _ hne.symm, core_setCore_self]
  rw [hcore]
  simp [marked, hq]

/-- A placeholder that takes back what its guest has done (R266). -/
def Cmd.takesBack (s : State) (q : Guest) (a : Cmd) : Cmd :=
  let r := addPartial a.origin (a.partial_.getD []) q.tile
  { a with
    state := if q.cmd.state = 2 then 2 else if !q.cmd.allMarked then 4 else 0, bm := q.cmd.bm
    event := s.firstOf a.tid q.cmd.event r.event, kind := q.cmd.kind, detail := q.cmd.detail, faddr := q.cmd.faddr, partial_ := some r.lanes }

theorem partialReturn_next {s : State} {host : Nat} {q : Guest} (hq : (s.core host).guest = some q) (hne : q.home ≠ host)
    (hdue : q.cmd.allMarked = true ∨ q.cmd.state = 2 ∨ (s.core host).leaving = true ∨ (s.core q.home).leaving = true) :
    ∃ t, exec (.partialReturn host) s = .next t ∧ SameMemory s t ∧ (t.core host).guest = none ∧
      ∀ (i : Nat) (a : Cmd), (s.core q.home).queue[i]? = some a → a.uid = q.cmd.uid →
        ∃ b, (t.core q.home).queue[i]? = some b ∧ b.bm = q.cmd.bm ∧
          b.state = (if q.cmd.state = 2 then 2 else if q.cmd.allMarked = true then 0 else 4) ∧
          b.partial_ = some (addPartial a.origin (a.partial_.getD []) q.tile).lanes := by
  let s1 := s.setCore host { s.core host with guest := none }
  let back (a : Cmd) : Cmd := if a.uid = q.cmd.uid then a.takesBack s q else a
  let t := s1.setCore q.home { s1.core q.home with queue := (s1.core q.home).queue.map back }
  have hexec : exec (.partialReturn host) s = .next t := by
    refine (show _ = execPartialReturn host s from rfl).trans ?_
    simp only [execPartialReturn, hq, hdue, if_true, State.returnGuest, orNot]
    rfl
  have hhome : s1.core q.home = s.core q.home := core_setCore_other _ _ hne
  refine exists_next_of_exec t rfl hexec ⟨by rw [core_setCore_other _ _ hne.symm, core_setCore_self], fun i a ha huid => ?_⟩
  refine ⟨a.takesBack s q, ?_, rfl, ?_, rfl⟩
  · rw [core_setCore_self, hhome]
    simp [back, ha, huid]
  · cases hm : q.cmd.allMarked <;> simp [Cmd.takesBack, hm]

/-! Broadcasts (R254, R255). -/

/-- A broadcast that goes on has been taken as far as before. -/
theorem formCast_taken {s : State} {clu i h n : Nat} {b b' : Broadcast} : (s.formCast clu i h b n).2 = some b' → b'.taken = b.taken := by
  unfold State.formCast; dsimp only; repeat' split
  all_goals (intro hform; cases hform <;> rfl)

/-- A cluster after core g has taken n words in all of its first broadcast. -/
def State.castTaken (s : State) (clu g : Nat) (b : Broadcast) (n : Nat) : State :=
  s.setCluster clu (Cluster.settleCasts { s.cluster clu with
    casts := (s.cluster clu).casts.set 0 { b with taken := smapPut b.taken g n } } (clusterCores clu))

/-- The words of a broadcast that a core asks for: those that every core has room for, and two where it takes none. -/
def State.castDue (s : State) (clu g : Nat) (b : Broadcast) : Nat :=
  if (s.core g).takes b then s.castRoom clu (s.cluster clu).casts 0 b else 2

section
variable {s s1 : State} {clu g h : Nat} {b : Broadcast} {rest : List Broadcast} (hclu : clusterOf g = clu)
  (hcasts : (s.cluster clu).casts = b :: rest) (hnow : s.castsNow b = true) (hleft : b.takenBy g < 128) (hcaster : s.caster b = some h)
include hclu hcasts hnow hleft hcaster

/-- The broadcast that core g goes on with is the first of its cluster; what it takes is of the words formed. -/
theorem exec_skeepBroadcast (hroom : (s.core g).takes b = true → b.takenBy g < s.castDue clu g b) {o : Option Broadcast}
    (hform : s.formCast clu 0 h b (s.castDue clu g b) = (s1, o)) :
    exec (.skeepBroadcast clu g) s = .next (match o with
      | none => s1
      | some b' =>
        if (s.core g).takes b then
          (s1.castTaken clu g b' (s.castDue clu g b)).setCore g { s1.core g with
            n4 := (s1.core g).n4 ++ (b'.words.drop (b'.takenBy g)).take (s.castDue clu g b - b'.takenBy g) }
        else s1.castTaken clu g b' 128) := by
  have hfirst : ((s.cluster clu).casts.findIdx? fun b => s.castsNow b && decide (b.takenBy g < 128)) = some 0 := by
    simp [hcasts, List.findIdx?_cons, hnow, hleft]
  have hget : (s.cluster clu).casts[0]? = some b := by simp [hcasts]
  have hgo : ((s.core g).takes b && decide (s.castDue clu g b ≤ b.takenBy g)) = false := by
    simpa only [Bool.and_eq_false_imp, decide_eq_false_iff_not, Nat.not_le] using hroom
  refine (show _ = execSkeepBroadcast clu g s from rfl).trans ?_
  cases htakes : (s.core g).takes b with
  | true =>
    simp only [State.castDue, htakes, if_true, Bool.true_and] at hgo hform ⊢
    simp only [execSkeepBroadcast, hclu, ne_eq, not_true_eq_false, if_false, hfirst, hget, hcaster, htakes, hgo, hform, if_true, Bool.true_and,
      Bool.false_eq_true, orNot]
    cases o <;> rfl
  | false =>
    simp only [State.castDue, htakes, Bool.false_eq_true, if_false] at hform ⊢
    simp only [execSkeepBroadcast, hclu, ne_eq, not_true_eq_false, if_false, hfirst, hget, hcaster, htakes, hform, Bool.false_and,
      Bool.false_eq_true, orNot]
    cases o <;> rfl

theorem skeepBroadcast_taken (hroom : (s.core g).takes b = true → b.takenBy g < s.castDue clu g b) {b' : Broadcast}
    (hform : s.formCast clu 0 h b (s.castDue clu g b) = (s1, some b')) (htakes : (s.core g).takes b = true) :
    ∃ t, exec (.skeepBroadcast clu g) s = .next t ∧ SameMemory s t ∧
      (t.core g).n4 = (s1.core g).n4 ++ (b'.words.drop (b.takenBy g)).take (s.castDue clu g b - b.takenBy g) := by
  have htaken : b'.takenBy g = b.takenBy g := congrArg (smapGet 0 · g) (formCast_taken (congrArg Prod.snd hform))
  refine exists_next_of_exec _ rfl (exec_skeepBroadcast hclu hcasts hnow hleft hcaster hroom hform) ?_
  simp only [htakes, if_true, core_setCore_self, htaken]

theorem skeepBroadcast_passed (hroom : (s.core g).takes b = true → b.takenBy g < s.castDue clu g b) {b' : Broadcast}
    (hform : s.formCast clu 0 h b (s.castDue clu g b) = (s1, some b')) (htakes : (s.core g).takes b = false) :
    ∃ t, exec (.skeepBroadcast clu g) s = .next t ∧ SameMemory s t ∧ t.cores = s1.cores := by
  refine exists_next_of_exec _ rfl (exec_skeepBroadcast hclu hcasts hnow hleft hcaster hroom hform) ?_
  simp only [htakes, Bool.false_eq_true, if_false]
  rfl
end

/-- Settles O53: a lemma for each step of the engines, on what a change of threads leaves of a core and on where it leaves a named thread. -/
theorem engineEventsComplete : Obligations.EngineEventsComplete := by
  refine ⟨?_, ?_, ?_, ?_, ?_, ?_, ?_, ?_⟩
  · intro s g e rest hq hstop hres hst
    exact ⟨fun hdec hroom hfree hpart => exec_commandActivate hq hstop hres hst hdec hroom hfree hpart,
      fun hdec => commandActivate_skipped hq hstop hres hst hdec⟩
  · intro s g u e0 e hstop hf hop
    exact ⟨fun k hk => exec_unitArrival_failed hstop hf hop hk, fun s1 ps hk hl => exec_unitArrival_landed hstop hf hop hk hl⟩
  · intro s g u e a b rest hstop hf hop hst hu hlt hn4
    exact unitArrival_scales hstop hf hop hst hu hlt hn4
  · intro s g e hstop hf hst hdone
    obtain ⟨t, hexec, hmem, ⟨hgone, hthread, hpost⟩, hclear, hfold⟩ := commandComplete_next hstop hf hst hdone
    exact ⟨t, hexec, hmem, hgone, hthread, hpost, hclear, hfold⟩
  · intro s g u e0 st e hstop hf hst hk hnext hskid hstp
    exact engineFaultPark_next hstop hf hst hk hnext hskid hstp
  · intro s g i host idx rest e c h y hq hi hop hst hdisc hres hdec hahead hne hrow hstay hleave hchecked hhalted hqueue hactive hguest hshape hspare
    exact engineMigration_next rfl hq hi hop hst hdisc hres hdec hahead hne hrow hstay ⟨hleave, hchecked, hhalted, hqueue, hactive, hguest⟩
      hshape hspare
  · intro s host q hq hne hdue
    exact partialReturn_next hq hne hdue
  · intro s s1 clu g h b rest n hclu hcasts hnow hleft hcaster hroom
    refine ⟨fun b' hform => ⟨fun htakes => ?_, fun htakes => ?_⟩, fun hform => ?_, fun hle => if_pos hle⟩
    · exact skeepBroadcast_taken hclu hcasts hnow hleft hcaster hroom hform htakes
    · exact skeepBroadcast_passed hclu hcasts hnow hleft hcaster hroom hform htakes
    · exact exec_skeepBroadcast hclu hcasts hnow hleft hcaster hroom hform

end Sys2Proof.Machine
end

section
/-! PROOFS. Scalar arithmetic on words of 64 bits (R130, R133, R135): a result is the low 64 bits of an exact integer, so each operation
on integers is one on bit vectors. -/
namespace Sys2Proof.Machine
open Sys2Proof

/-! A ready instruction of two sources (R51, R132). -/

/-- A turn of two sources that is ready, whose words are a and b, writes the word of its operation. -/
theorem scalarTurn_pair {gd : Guard} {dst src1 src2 : Opnd} {s : State} {x : Ctx} {a b : Word} (he : Executes gd s x)
    (hsrc : srcWaits x [] [src1, src2] = []) (hdst : dstWait x [src1, src2] dst = []) (hl : linkOutside x dst = false)
    (hv : (x.take [src1, src2]).1 = [.w a, .w b]) (op : Ctx → List Val → Word) :
    scalarTurn gd s dst [src1, src2] op =
      .next (x.writeW (x.take [src1, src2]).2.1 (x.take [src1, src2]).2.2 dst (op x [.w a, .w b])) := by
  rw [scalarTurn, turn_ready he (List.append_eq_nil_iff.mpr ⟨hsrc, hdst⟩)]
  simp only [hl, hv, Bool.false_eq_true, if_false]

/-! What an operation writes without saturation (R130), and the integer types of 64 bits (R63). -/

theorem Fields.reduce_wraps {f : Fields} (hq : f.qual = 0) (z : Int) :
    Fields.reduce f z = intWord (wrapTo (Fields.width f) (Fields.isSigned f) z) := by
  rw [Fields.reduce, if_neg (by rw [hq]; decide)]

theorem tyInt_of_64 {ty : Ty} (h : ty = .dflt ∨ ty = .s64 ∨ ty = .z64) : (tyInt ty).getD (64, true) = (64, ty != .z64) := by
  rcases h with rfl | rfl | rfl <;> rfl

theorem intWord_wrapTo (sg : Bool) (z : Int) : intWord (wrapTo 64 sg z) = intWord z := by
  have hmod : wrapTo 64 sg z % 2 ^ 64 = z % 2 ^ 64 := by
    unfold wrapTo
    dsimp only
    split <;> omega
  exact BitVec.eq_of_toNat_eq ((BitVec.toNat_ofInt _).trans ((congrArg Int.toNat hmod).trans (BitVec.toNat_ofInt _).symm))

@[simp] theorem intWord_intVal (sg : Bool) (a : Word) : intWord (intVal 64 sg a.toNat) = a := by
  rw [intVal, intWord_wrapTo, intWord, BitVec.ofInt_natCast, BitVec.ofNat_toNat, BitVec.setWidth_eq]

@[simp] theorem pat_intVal (sg : Bool) (a : Word) : pat 64 (intVal 64 sg a.toNat) = a.toNat :=
  (BitVec.toNat_ofInt _).symm.trans (congrArg BitVec.toNat (intWord_intVal sg a))

theorem intWord_natCast (n : Nat) : intWord n = BitVec.ofNat 64 n := BitVec.ofInt_natCast ..

section
variable {f : Fields} (hty : (tyInt f.ty).getD (64, true) = (64, f.ty != .z64))
include hty

theorem Fields.src_of_64 {o : Opnd} (ho : o.m ≠ .neg) (a : Word) : Fields.src f o a = intVal 64 (f.ty != .z64) a.toNat := by
  simp only [Fields.src, Fields.width, Fields.isSigned, hty, if_neg ho]

theorem Fields.reduce_of_64 (hq : f.qual = 0) (z : Int) : Fields.reduce f z = intWord z := by
  rw [Fields.reduce_wraps hq, Fields.width, hty, intWord_wrapTo]
end

/-! Each operation on integers, as one on words (R133, R135). -/

section
variable (sg : Bool) (a b : Word) (c : Nat)

theorem intWord_add (x y : Int) : intWord (x + y) = intWord x + intWord y := BitVec.ofInt_add ..

theorem intWord_sub (x y : Int) : intWord (x - y) = intWord x - intWord y := by
  rw [Int.sub_eq_add_neg, intWord_add, BitVec.sub_eq_add_neg]
  exact congrArg _ BitVec.ofInt_neg

theorem intWord_mul (x y : Int) : intWord (x * y) = intWord x * intWord y := BitVec.ofInt_mul ..

theorem intWord_opAnd : intWord (opAnd 64 (intVal 64 sg a.toNat) (intVal 64 sg b.toNat)) = a &&& b := by
  simp [opAnd, intWord_natCast]

theorem intWord_opOr : intWord (opOr 64 (intVal 64 sg a.toNat) (intVal 64 sg b.toNat)) = a ||| b := by
  simp [opOr, intWord_natCast]

theorem intWord_opXor : intWord (opXor 64 (intVal 64 sg a.toNat) (intVal 64 sg b.toNat)) = a ^^^ b := by
  simp [opXor, intWord_natCast]

theorem intWord_opAndn : intWord (opAndn 64 (intVal 64 sg a.toNat) (intVal 64 sg b.toNat)) = a &&& ~~~b := by
  rw [opAndn, pat_intVal, pat_intVal, intWord_natCast, ← BitVec.toNat_not, ← BitVec.toNat_and, BitVec.ofNat_toNat, BitVec.setWidth_eq]

theorem ofNat_two_pow : BitVec.ofNat 64 (2 ^ c) = BitVec.twoPow 64 c :=
  BitVec.eq_of_toNat_eq (by rw [BitVec.toNat_ofNat, BitVec.toNat_twoPow])

theorem intWord_opShl : intWord (opShl 64 (intVal 64 sg a.toNat) c) = a <<< c := by
  have hpow : intWord (2 ^ c) = BitVec.twoPow 64 c := by
    rw [← ofNat_two_pow, ← intWord_natCast, Int.natCast_pow, Nat.cast_ofNat]
  rw [opShl, intWord_mul, intWord_intVal, hpow, BitVec.shiftLeft_eq_mul_twoPow]

theorem ofNat_div_two_pow : BitVec.ofNat 64 (a.toNat / 2 ^ c) = a >>> c :=
  BitVec.eq_of_toNat_eq (by
    rw [BitVec.toNat_ofNat, BitVec.toNat_ushiftRight, Nat.shiftRight_eq_div_pow]
    exact Nat.mod_eq_of_lt ((Nat.div_le_self ..).trans_lt a.isLt))

theorem intWord_opShr : intWord (opShr 64 (intVal 64 sg a.toNat) c) = a >>> c := by
  rw [opShr, pat_intVal, intWord_natCast, ofNat_div_two_pow]

theorem intWord_opSar : intWord (opSar 64 (intVal 64 sg a.toNat) c) = a.sshiftRight c := by
  rw [opSar, pat_intVal, intVal_signed, BitVec.sshiftRight, Int.shiftRight_eq_div_pow]
  norm_cast

/-- A rotation is a sum, for the bits moved up and those that come round below them have no place in common. -/
theorem intWord_opRot : intWord (opRot 64 (intVal 64 sg a.toNat) c) = a.rotateLeft c := by
  have hshl : BitVec.ofNat 64 (a.toNat * 2 ^ (c % 64)) = a <<< (c % 64) := by
    rw [BitVec.ofNat_mul, BitVec.ofNat_toNat, BitVec.setWidth_eq, ofNat_two_pow, BitVec.shiftLeft_eq_mul_twoPow]
  have hdisjoint : a <<< (c % 64) &&& a >>> (64 - c % 64) = 0#64 := by
    ext k hk
    rw [BitVec.getElem_and, BitVec.getElem_shiftLeft, BitVec.getElem_ushiftRight, BitVec.getElem_zero]
    by_cases hlow : k < c % 64
    · simp [hlow]
    · rw [BitVec.getLsbD_of_ge a _ (by omega), Bool.and_false]
  rw [opRot, pat_intVal, intWord_natCast, BitVec.ofNat_add, hshl, ofNat_div_two_pow, BitVec.add_eq_or_of_and_eq_zero _ _ hdisjoint,
    BitVec.rotateLeft_def]

variable (ty : Ty)

theorem intWord_min : intWord (min (intVal 64 (ty != .z64) a.toNat) (intVal 64 (ty != .z64) b.toNat)) = if wordLt ty a b then a else b := by
  rw [min_def_lt, ← intVal_lt, apply_ite intWord, intWord_intVal, intWord_intVal]
  simp only [decide_eq_true_eq]

theorem intWord_max : intWord (max (intVal 64 (ty != .z64) a.toNat) (intVal 64 (ty != .z64) b.toNat)) = if wordLt ty a b then b else a := by
  rw [max_def_lt, ← intVal_lt, apply_ite intWord, intWord_intVal, intWord_intVal]
  simp only [decide_eq_true_eq]

/-- A choice by the order of a type, written out for its two orders. -/
theorem ite_wordLt {α : Type} (p q : α) :
    (if wordLt ty a b then p else q) = if ty = .z64 then (if a < b then p else q) else (if a.slt b then p else q) := by
  unfold wordLt
  split <;> simp only [decide_eq_true_eq]
end

/-- Settles O19: the exact result of each operation, reduced to 64 bits, is the operation on the words. -/
theorem arithmetic64 : Obligations.Arithmetic64 := by
  unfold Obligations.Arithmetic64
  intro gd f s x a b he hsrc hdst hl hty hq h1 h2 hv put
  have hty64 := tyInt_of_64 hty
  have hwidth : Fields.width f = 64 := congrArg Prod.fst hty64
  -- An operation on integers writes the word of what it gives on the values of the two words; a shift takes its count from the second.
  have alu (op : Nat → Int → Int → Int) {w : Word}
      (hw : intWord (op 64 (intVal 64 (f.ty != .z64) a.toNat) (intVal 64 (f.ty != .z64) b.toNat)) = w) : alu2 gd f s op = put w := by
    rw [alu2, scalarTurn_pair he hsrc hdst hl hv, Fields.reduce_of_64 hty64 hq, Fields.src_of_64 hty64 h1, Fields.src_of_64 hty64 h2, hwidth]
    exact congrArg put hw
  have shift (op : Nat → Int → Nat → Int) {w : Word}
      (hw : intWord (op 64 (intVal 64 (f.ty != .z64) a.toNat) (b.toNat % 64)) = w) : shift2 gd f s op = put w := by
    rw [shift2, scalarTurn_pair he hsrc hdst hl hv, Fields.reduce_of_64 hty64 hq, Fields.src_of_64 hty64 h1, srcWord, if_neg h2, hwidth]
    exact congrArg put hw
  refine ⟨alu (fun _ x y => x + y) ?_, alu (fun _ x y => x - y) ?_, alu (fun _ x y => x * y) ?_, alu opAnd (intWord_opAnd ..),
    alu opOr (intWord_opOr ..), alu opXor (intWord_opXor ..), alu opAndn (intWord_opAndn ..), shift opShl (intWord_opShl ..),
    shift opShr (intWord_opShr ..), shift opSar (intWord_opSar ..), shift opRot ?_, alu (fun _ x y => min x y) ?_,
    alu (fun _ x y => max x y) ?_⟩
  · rw [intWord_add, intWord_intVal, intWord_intVal]
  · rw [intWord_sub, intWord_intVal, intWord_intVal]
  · rw [intWord_mul, intWord_intVal, intWord_intVal]
  · rw [intWord_opRot, BitVec.rotateLeft_mod_eq_rotateLeft]
  · rw [intWord_min, ite_wordLt]
  · rw [intWord_max, ite_wordLt]

end Sys2Proof.Machine
end

section
/-! PROOFS. Division (R136): quotient and remainder of two values of an integer type are values of the type, so that reducing them (R130)
leaves them as they are; the one quotient outside is that of the least value by −1, and it wraps to the least value. -/
namespace Sys2Proof.Machine
open Sys2Proof

/-! The values of an integer type (R63). -/

/-- The integer z is a value of the type of n bits. -/
def InType (n : Nat) (sg : Bool) (z : Int) : Prop := intMin n sg ≤ z ∧ z ≤ intMax n sg

theorem inType_signed {m : Nat} {z : Int} : InType (m + 1) true z ↔ -2 ^ m ≤ z ∧ z < 2 ^ m := by
  simp [InType, intMin, intMax]

theorem inType_unsigned {n : Nat} {z : Int} : InType n false z ↔ 0 ≤ z ∧ z < 2 ^ n := by
  simp [InType, intMin, intMax]

theorem inType_zero {n : Nat} (hn : 0 < n) (sg : Bool) : InType n sg 0 := by
  obtain ⟨m, rfl⟩ := Nat.exists_eq_add_one.mpr hn
  cases sg
  · exact inType_unsigned.mpr ⟨le_rfl, by positivity⟩
  · exact inType_signed.mpr ⟨neg_nonpos.mpr (by positivity), by positivity⟩

theorem intMin_le_intMax {n : Nat} (hn : 0 < n) (sg : Bool) : intMin n sg ≤ intMax n sg :=
  (inType_zero hn sg).1.trans (inType_zero hn sg).2

theorem wrapTo_signed (m : Nat) (z : Int) : wrapTo (m + 1) true z = z.bmod (2 ^ (m + 1)) := by
  have hhalf : ((2 ^ (m + 1) : Nat) + 1 : Int) / 2 = 2 ^ m := by
    rw [pow_succ]
    push_cast
    omega
  rw [Int.bmod_def, hhalf, wrapTo]
  simp only [Bool.true_and, decide_eq_true_eq, Nat.add_sub_cancel, Nat.cast_pow, Nat.cast_ofNat]
  split <;> split <;> omega

theorem wrapTo_unsigned (n : Nat) (z : Int) : wrapTo n false z = z % 2 ^ n := by
  simp [wrapTo]

theorem inType_wrapTo {n : Nat} (hn : 0 < n) (sg : Bool) (z : Int) : InType n sg (wrapTo n sg z) := by
  obtain ⟨m, rfl⟩ := Nat.exists_eq_add_one.mpr hn
  cases sg
  · rw [wrapTo_unsigned, inType_unsigned]
    exact ⟨Int.emod_nonneg _ (by positivity), Int.emod_lt_of_pos _ (by positivity)⟩
  · have hlow := Int.le_bmod (x := z) (Nat.two_pow_pos (m + 1))
    have hhigh := Int.bmod_lt (x := z) (Nat.two_pow_pos (m + 1))
    rw [wrapTo_signed, inType_signed]
    rw [pow_succ] at hlow hhigh ⊢
    push_cast at hlow hhigh
    omega

theorem wrapTo_of_inType {n : Nat} {sg : Bool} {z : Int} (hn : 0 < n) (h : InType n sg z) : wrapTo n sg z = z := by
  obtain ⟨m, rfl⟩ := Nat.exists_eq_add_one.mpr hn
  cases sg
  · obtain ⟨hlow, hhigh⟩ := inType_unsigned.mp h
    rw [wrapTo_unsigned, Int.emod_eq_of_lt hlow hhigh]
  · obtain ⟨hlow, hhigh⟩ := inType_signed.mp h
    rw [wrapTo_signed]
    refine Int.bmod_eq_of_le_mul_two ?_ ?_ <;> rw [pow_succ] <;> push_cast <;> omega

/-- The value above the greatest of a signed type wraps to its least. -/
theorem wrapTo_neg_intMin {n : Nat} {sg : Bool} (hn : 0 < n) (hsg : sg = true) : wrapTo n sg (-intMin n sg) = intMin n sg := by
  subst hsg
  obtain ⟨m, rfl⟩ := Nat.exists_eq_add_one.mpr hn
  have hwrap : -intMin (m + 1) true = intMin (m + 1) true + (2 ^ (m + 1) : Nat) := by
    simp only [intMin, if_true, Nat.add_sub_cancel, pow_succ]
    push_cast
    omega
  rw [hwrap, wrapTo_signed, Int.add_bmod_right, ← wrapTo_signed]
  exact wrapTo_of_inType hn ⟨le_rfl, intMin_le_intMax hn true⟩

/-! Quotients and remainders of values of a type. -/

/-- What lies no further from 0 than a value of a type, on the same side, is a value of the type. -/
theorem InType.of_natAbs_le {n : Nat} {sg : Bool} {a z : Int} (hn : 0 < n) (ha : InType n sg a) (hle : z.natAbs ≤ a.natAbs)
    (hpos : 0 ≤ a → 0 ≤ z) (hneg : a ≤ 0 → z ≤ 0) : InType n sg z := by
  have hzero := inType_zero hn sg
  unfold InType at ha hzero ⊢
  omega

theorem inType_tmod {n : Nat} {sg : Bool} {a : Int} (hn : 0 < n) (ha : InType n sg a) (b : Int) : InType n sg (a.tmod b) := by
  refine ha.of_natAbs_le hn ?_ (Int.tmod_nonneg b) fun hle => ?_
  · rw [Int.natAbs_tmod]
    exact Nat.mod_le ..
  · have hneg := Int.tmod_nonneg b (Int.neg_nonneg.mpr hle)
    rw [Int.neg_tmod] at hneg
    omega

theorem inType_tdiv_of_nonneg {n : Nat} {sg : Bool} {a b : Int} (hn : 0 < n) (ha : InType n sg a) (hb : 0 ≤ b) :
    InType n sg (a.tdiv b) := by
  refine ha.of_natAbs_le hn (Int.natAbs_tdiv_le_natAbs a b) (Int.tdiv_nonneg · hb) fun hle => ?_
  have hneg := Int.tdiv_nonneg (Int.neg_nonneg.mpr hle) hb
  rw [Int.neg_tdiv] at hneg
  omega

theorem InType.neg {n : Nat} {a : Int} (ha : InType n true a) (hne : a ≠ intMin n true) : InType n true (-a) := by
  simp only [InType, intMin, intMax, if_true] at ha hne ⊢
  omega

/-- A divisor below −1 brings the least value nearer to 0; by another negative divisor, the quotient is that of the opposite values. -/
theorem inType_tdiv {n : Nat} {sg : Bool} {a b : Int} (hn : 0 < n) (ha : InType n sg a) (hb : InType n sg b)
    (hne : ¬(a = intMin n sg ∧ b = -1)) : InType n sg (a.tdiv b) := by
  rcases lt_or_ge b 0 with hneg | hpos
  · cases sg
    · exact absurd (inType_unsigned.mp hb).1 (Int.not_le.mpr hneg)
    · by_cases hmin : a = intMin n true
      · have hpow : 0 < (2 ^ (n - 1) : Int) := by positivity
        have ha0 : a.natAbs = (2 ^ (n - 1) : Int) := by
          simp only [hmin, intMin, if_true]
          omega
        have hlt : (a.tdiv b).natAbs < a.natAbs := by
          rw [Int.natAbs_tdiv]
          exact Nat.div_lt_self (by omega) (by omega)
        simp only [InType, intMin, intMax, if_true]
        omega
      · rw [← Int.neg_tdiv_neg]
        exact inType_tdiv_of_nonneg hn (ha.neg hmin) (by omega)
  · exact inType_tdiv_of_nonneg hn ha hpos

/-! Sources and results of an instruction (R130). -/

theorem Fields.width_pos (f : Fields) : 0 < Fields.width f := by
  unfold Fields.width
  cases f.ty <;> decide

theorem Fields.inType_src (f : Fields) (o : Opnd) (v : Word) : InType (Fields.width f) (Fields.isSigned f) (Fields.src f o v) := by
  unfold Fields.src
  dsimp only
  split
  · exact inType_wrapTo (Fields.width_pos f) ..
  · exact inType_wrapTo (Fields.width_pos f) ..

theorem Fields.reduce_of_inType {f : Fields} (hq : f.qual = 0) {z : Int} (hz : InType (Fields.width f) (Fields.isSigned f) z) :
    Fields.reduce f z = intWord z := by
  rw [Fields.reduce_wraps hq, wrapTo_of_inType (Fields.width_pos f) hz]

/-- Settles O20: quotient and remainder are values of the type, but for the quotient of the least value by −1, which wraps. -/
theorem divisionTruncates : Obligations.DivisionTruncates := by
  unfold Obligations.DivisionTruncates
  intro gd f s x va vb n sg he hsrc hdst hl hq hty hv a b least most put
  obtain rfl : Fields.width f = n := congrArg Prod.fst hty
  obtain rfl : Fields.isSigned f = sg := congrArg Prod.snd hty
  have hn := Fields.width_pos f
  have ha : InType (Fields.width f) (Fields.isSigned f) a := Fields.inType_src ..
  have hb : InType (Fields.width f) (Fields.isSigned f) b := Fields.inType_src ..
  have reduced (op : Nat → Int → Int → Int) : alu2 gd f s op = .next (x.writeW (x.take [f.src1, f.src2]).2.1
      (x.take [f.src1, f.src2]).2.2 f.dst (Fields.reduce f (op (Fields.width f) a b))) := scalarTurn_pair he hsrc hdst hl hv _
  -- A result that is a value of the type is written as it is.
  have writes (op : Nat → Int → Int → Int) {z : Int} (hz : op (Fields.width f) a b = z)
      (hin : InType (Fields.width f) (Fields.isSigned f) z) : alu2 gd f s op = put z := by
    rw [reduced, hz, Fields.reduce_of_inType hq hin]
  have div := @writes (opDiv (Fields.isSigned f))
  have rem := @writes fun _ y z => opRem y z
  refine ⟨fun hb0 hne => ⟨div (if_neg hb0) (inType_tdiv hn ha hb hne), rem (if_neg hb0) (inType_tmod hn ha b)⟩, fun hb0 => ?_, ?_⟩
  · have hends := intMin_le_intMax hn (Fields.isSigned f)
    have hquot : opDiv (Fields.isSigned f) (Fields.width f) a b = if a = 0 then 0 else if 0 < a then most else least := if_pos hb0
    refine ⟨rem (if_pos hb0) ha, fun hpos => div ?_ ⟨hends, le_rfl⟩, fun hneg => div ?_ ⟨le_rfl, hends⟩,
      fun hzero => div ?_ (inType_zero hn _)⟩
    · rw [hquot, if_neg hpos.ne', if_pos hpos]
    · rw [hquot, if_neg hneg.ne, if_neg hneg.not_gt]
    · rw [hquot, if_pos hzero]
  · intro hsg hmin hb1
    have hquot : opDiv (Fields.isSigned f) (Fields.width f) a b = -least := by
      rw [opDiv, if_neg (by omega), hb1, hmin, Int.tdiv_neg, Int.tdiv_one]
    have hrem : opRem a b = 0 := by
      rw [opRem, if_neg (by omega), hb1, Int.tmod_neg, Int.tmod_one]
    refine ⟨(reduced (opDiv (Fields.isSigned f))).trans ?_, rem hrem (inType_zero hn _)⟩
    have hwrap : wrapTo (Fields.width f) (Fields.isSigned f) (-least) = least := wrapTo_neg_intMin hn hsg
    rw [hquot, Fields.reduce_wraps hq, hwrap]

end Sys2Proof.Machine
end

section
/-! PROOFS. Vector instructions (R146–R149, R287): an unbound stream traps first, then an event that may trap;
else the destination is written. -/
namespace Sys2Proof.Machine
open Sys2Proof

section
variable {gd : Guard} {s : State} {x : Ctx} {dst : Opnd} {srcs reads : List Opnd} {op : Ctx → List Val → VResult}
  {addr : List (Nat × Nat) → Word}

/-- A stream register with no binding, or with no piece left, traps before anything is taken (R287). -/
theorem vectorTurn_unbound (he : Executes gd s x) (hsrc : srcWaits x [] (srcs ++ reads) = []) (hdst : dstWait x srcs dst = [])
    (hu : unboundStream x srcs = true) : vectorTurn gd s dst srcs reads op addr = .next (x.trap kindStream 0 0) := by
  rw [vectorTurn, turn_ready he (List.append_eq_nil_iff.mpr ⟨hsrc, hdst⟩), if_pos hu]

/-- Events trap when `tsk.ftrap` bit 0 is set, with the code of the first (R149). -/
theorem vectorTurn_event (he : Executes gd s x) (hsrc : srcWaits x [] (srcs ++ reads) = []) (hdst : dstWait x srcs dst = [])
    (hu : unboundStream x srcs = false) {e : Nat × Nat} {es : List (Nat × Nat)} (hev : (op x (x.take srcs).1).events = e :: es)
    (ht : x.t.evt = true) : vectorTurn gd s dst srcs reads op addr = .next (x.trap kindEvent e.2 (addr (e :: es))) := by
  rw [vectorTurn, turn_ready he (List.append_eq_nil_iff.mpr ⟨hsrc, hdst⟩), if_neg (ne_true_of_eq_false hu)]
  simp only [hev, ht, if_true]

/-- With no event, or with no trap for events, the sources are taken and the destination is written (R148). -/
theorem vectorTurn_writes (he : Executes gd s x) (hsrc : srcWaits x [] (srcs ++ reads) = []) (hdst : dstWait x srcs dst = [])
    (hu : unboundStream x srcs = false) (hev : (op x (x.take srcs).1).events = [] ∨ x.t.evt = false) :
    vectorTurn gd s dst srcs reads op addr =
      .next (vectorTurn.vfin dst x (x.take srcs).2.1 (x.take srcs).2.2 (op x (x.take srcs).1).val) := by
  rw [vectorTurn, turn_ready he (List.append_eq_nil_iff.mpr ⟨hsrc, hdst⟩), if_neg (ne_true_of_eq_false hu)]
  cases hevents : (op x (x.take srcs).1).events with
  | nil => simp only [hevents]
  | cons e es =>
    have ht : x.t.evt = false := hev.resolve_left (hevents ▸ List.cons_ne_nil e es)
    simp only [hevents, ht, Bool.false_eq_true, if_false]

theorem vfin_v {i : Fin 8} (h : dst.reg = .v i) (c : Core) (t : Thread) (v : Val) :
    vectorTurn.vfin dst x c t v = x.finish c (t.putV i v.lanes) := by
  simp only [vectorTurn.vfin, h]

theorem vfin_d {i : Fin 16} (h : dst.reg = .d i) (c : Core) (t : Thread) (v : Val) :
    vectorTurn.vfin dst x c t v = x.finish c (t.putD i v.word) := by
  simp only [vectorTurn.vfin, h]

end

/-- Settles O23: the turn of a vector instruction that is ready writes its v or d destination, or takes one of its two traps. -/
theorem vectorCompletes : Obligations.VectorCompletes := by
  unfold Obligations.VectorCompletes
  intro i k s x hi he hsrc hdst
  rw [exec_vectorForm hi]
  refine ⟨fun hu hev => ?_, vectorTurn_unbound he hsrc hdst, fun _ _ hu => vectorTurn_event he hsrc hdst hu⟩
  rw [vectorTurn_writes he hsrc hdst hu hev]
  constructor
  · intro j hj
    rw [vfin_v hj]
    exact ⟨_, rfl, issuesAs_finish he.1 ..⟩
  · intro j hj
    rw [vfin_d hj]
    exact ⟨_, rfl, issuesAs_finish he.1 ..⟩

end Sys2Proof.Machine
end

section
/-! PROOFS. Planar updates and KV operations at issue (R181, R209, R300): a turn that passes its checks sends one message under the name of
the next access, and counts it among the operations that return nothing. -/
namespace Sys2Proof.Machine
open Sys2Proof

/-! A message under the next name, and the thread that has sent it. -/

/-- A thread after an operation of n requests that returns nothing (R196, R300). -/
def nonretOut (u : Thread) (n uid : Nat) : Thread := { sentOut u n uid with nonret := u.nonret ++ [uid] }

/-- An instruction sends a message under the next name in a package whose dies it has changed, counts its packets, and finishes. -/
theorem issuesAs_sendNamed_finish {s s1 : State} {x : Ctx} (hx : ctxOf s = some x) (hs1 : s1 = { x.s with dies := s1.dies }) (m : Msg)
    (c : Core) (v u : Thread) (pa n : Nat) :
    IssuesAs x ((x.on (s1.send m).bumpUid).finish ((List.range n).foldl (fun c _ => c.sentPa v pa) c) u) c u [m] s1.dies s.watches := by
  obtain ⟨rfl, -⟩ := ctxOf_state hx
  obtain ⟨traffic, sent, away, due, hc⟩ := sentPas_eq c v pa n
  rw [hc, hs1]
  exact (issuesAs_on_finish x _ u [m] (x.s.uid + 1) x.s.free s1.dies x.s.watches).of_counted

/-- The order point of an access changes the dies alone (R314, R323). -/
theorem orderPoint_state (x : Ctx) (u : Thread) (f : Fields) :
    (x.orderPoint u f).1 = { x.s with dies := (x.orderPoint u f).1.dies } := by
  unfold Ctx.orderPoint
  split <;> rfl

@[simp] theorem orderPoint_uid (x : Ctx) (u : Thread) (f : Fields) : (x.orderPoint u f).1.uid = x.s.uid := by
  rw [orderPoint_state]

theorem AsksAs.orderPoint {x : Ctx} {u t : Thread} (h : AsksAs u t) (f : Fields) : AsksAs (x.orderPoint u f).2 t := by
  unfold Ctx.orderPoint
  split
  · exact ⟨h.tid, h.colour, h.wid, h.pc, h.flags⟩
  · exact h

/-- After its order point an access bears the name that it would bear before. -/
theorem req_orderPoint {x : Ctx} {u : Thread} (h : AsksAs u x.t) (f : Fields) (clock : List Nat) :
    x.req (x.orderPoint u f).1 (x.orderPoint u f).2 clock = requestOf x clock := by
  rw [(h.orderPoint f).req, orderPoint_uid]
  rfl

section
variable {gd : Guard} {f : Fields} {s : State} {x : Ctx}

/-! Planar updates (R181). -/

/-- A planar access whose address and stride are sound, whose planes are at their places and of one home, proceeds. -/
theorem planarAccess_proceeds {u : Use} {a stride : Word} {n : Nat} {ps : List Place} (go : List Word → List Place → State) (hn : n ≠ 0)
    (halign : a.toNat % 32 = 0) (hstride : stride >>> 32 ≠ 0) (hreach : Reaches x .planar u a (planeAddrs a stride n) ps)
    (hsplit : planeSplit (planeAddrs a stride n) ps = none) : x.planarAccess u a stride n go = go (planeAddrs a stride n) ps := by
  obtain ⟨hbits, hreg, hps⟩ := hreach
  obtain ⟨rest, haddrs⟩ := planeAddrs_cons a stride hn
  have hchecks : (a.toNat % 32 == 0 && stride >>> 32 != 0) = true := by rw [halign, bne_iff_ne.mpr hstride]; rfl
  rw [haddrs] at hbits hps hsplit ⊢
  rw [Ctx.planarAccess, haddrs, hchecks, access_proceeds _ (List.forall_mem_of_forall_mem_cons hbits) hreg hps, hsplit]

/-- The operands of a planar update and of a KV operation, as they are read. -/
def updTaken (x : Ctx) (f : Fields) : List Val × Core × Thread := x.take [f.src1, f.src2, f.src3]

/-- The address of a planar update, its planes, and the state and thread after its order point. -/
def updAddr (x : Ctx) (f : Fields) : Word := Fields.addr f (val (updTaken x f).1 0)
def updPlanes (x : Ctx) (f : Fields) : List Word := planeAddrs (updAddr x f) (val (updTaken x f).1 2) (gPlanes f.ty)
def updPoint (x : Ctx) (f : Fields) : State × Thread := x.orderPoint (updTaken x f).2.2 f

/-- What a planar update of a package sends as its request. -/
def updMsg (s : State) (pdec : Bool) (x : Ctx) (f : Fields) (ps : List Place) (req : Req) : Msg :=
  .planar ⟨req, pdec, f.ty, f.qual, ps.map Place.addr, updAddr x f, (valAt (updTaken x f).1 1).lanes.toList,
    (val (updTaken x f).1 2).setWidth 32, s.watchTag x.t ((updPlanes x f).flatMap fun b => addrRange b.toNat 32)⟩

theorem planarTurn_issues (pdec : Bool) {ps : List Place} (h : Ready gd s x [f.src1, f.src2, f.src3] [] (gPlanes f.ty))
    (hnon : nonretWait x = []) (hbound : unboundStream x [f.src2] = false) (halign : (updAddr x f).toNat % 32 = 0)
    (hstride : (val (updTaken x f).1 2) >>> 32 ≠ 0) (hreach : Reaches x .planar ⟨.write, false⟩ (updAddr x f) (updPlanes x f) ps)
    (hsplit : planeSplit (updPlanes x f) ps = none) (hrel : relWait x (relBits f) = []) :
    ∃ t, planarTurn pdec gd f s = .next t ∧ IssuesAs x t (updTaken x f).2.1 (nonretOut (updPoint x f).2 (gPlanes f.ty) s.uid)
      [updMsg s pdec x f ps (requestOf x ((updPoint x f).1.writeClock x.g (updPoint x f).2))] (updPoint x f).1.dies s.watches := by
  obtain ⟨he, hsrc, -, hmem⟩ := h
  have hplanes : gPlanes f.ty ≠ 0 := by cases f.ty <;> decide
  have hwaits : srcWaits x [] [f.src1, f.src2, f.src3] ++ memWait x (gPlanes f.ty) ++ nonretWait x ++ relWait x (relBits f) = [] := by
    rw [hsrc, hmem, hnon, hrel]
    rfl
  obtain ⟨rfl, -⟩ := ctxOf_state he.1
  refine ⟨_, (turn_ready he hwaits).trans (congrArg _ ((if_neg (ne_true_of_eq_false hbound)).trans
    (planarAccess_proceeds _ hplanes halign hstride hreach hsplit))), ?_⟩
  simp only [req_orderPoint (take_asksAs x [f.src1, f.src2, f.src3]), orderPoint_uid]
  exact issuesAs_sendNamed_finish he.1 (orderPoint_state ..) ..

/-! KV operations (R209). -/

/-- What a KV operation does once its operands are ready and its range is within `kv.geom`: on no block, or from a sequence to itself, nothing;
else it sends one message. -/
theorem kvTurn_within (fork : Bool) (h : Ready gd s x [f.src1, f.src2, f.src3] [] 1) (hnon : nonretWait x = []) :
    let q := (val (updTaken x f).1 0).toNat
    let b := (val (updTaken x f).1 1).toNat
    let n := (val (updTaken x f).1 2).toNat
    kvWithin (s.colour x.t.colour) (if fork then [q, b] else [q]) (if fork then 0 else b) n = true →
    (n = 0 ∨ (fork = true ∧ q = b) → ∃ t, kvTurn fork gd f s = .next t ∧ IssuesAs x t (updTaken x f).2.1 (updTaken x f).2.2 [] s.dies s.watches) ∧
    (¬(n = 0 ∨ (fork = true ∧ q = b)) → ∃ t, kvTurn fork gd f s = .next t ∧
      IssuesAs x t (updTaken x f).2.1 { nonretOut (updTaken x f).2.2 1 s.uid with kvOut := (updTaken x f).2.2.kvOut + 1 }
        [.kvBlocks (requestOf x (s.writeClock x.g x.t)) fork q (if fork then b else 0) (if fork then 0 else b) n] s.dies s.watches) := by
  intro q b n hin
  obtain ⟨he, hsrc, -, hmem⟩ := h
  obtain ⟨rfl, -⟩ := ctxOf_state he.1
  have hwaits : srcWaits x [] [f.src1, f.src2, f.src3] ++ memWait x 1 ++ nonretWait x = [] := by rw [hsrc, hmem, hnon]; rfl
  have hnot : ¬ kvWithin (x.s.colour x.t.colour) (if fork then [q, b] else [q]) (if fork then 0 else b) n = false := ne_false_of_eq_true hin
  constructor
  · intro hnone
    exact ⟨_, (turn_ready he hwaits).trans (congrArg _ ((if_neg hnot).trans (if_pos hnone))), issuesAs_finish he.1 ..⟩
  · intro hsome
    exact ⟨_, (turn_ready he hwaits).trans (congrArg _ ((if_neg hnot).trans (if_neg hsome))),
      issuesAs_sendNamed_finish he.1 rfl _ _ x.t _ 0 0⟩

end

/-- Settles O33: the turn of a planar update passes its checks and sends, and the turn of a KV operation sends or does nothing. -/
theorem updatesComplete : Obligations.UpdatesComplete := by
  unfold Obligations.UpdatesComplete
  intro gd f s x hnon
  refine ⟨fun ps h hbound halign hstride hreach hsplit hrel => ⟨?_, ?_⟩, fun h => ⟨fun hin => ⟨?_, ?_⟩, fun hin => ⟨?_, ?_⟩⟩⟩
  · exact planarTurn_issues false h hnon hbound halign hstride hreach hsplit hrel
  · exact planarTurn_issues true h hnon hbound halign hstride hreach hsplit hrel
  · exact fun hn hq => (kvTurn_within true h hnon hin).2 (not_or.mpr ⟨hn, fun h => hq h.2⟩)
  · exact fun hnone => (kvTurn_within true h hnon hin).1 (hnone.imp_right fun h => ⟨rfl, h⟩)
  · exact fun hn => (kvTurn_within false h hnon hin).2 (not_or.mpr ⟨hn, fun h => Bool.false_ne_true h.1⟩)
  · exact fun hn => (kvTurn_within false h hnon hin).1 (.inl hn)

end Sys2Proof.Machine
end

section
/-! PROOFS. Updates at their homes (R182, R207, R209, R298–R303, R323): a planar update, a KV step, a block of a KV operation and an atomic are
performed in one step, and their answers reach the threads that wait. -/
namespace Sys2Proof.Machine
open Sys2Proof

/-! Answers on their way (R300, R313). -/

/-- A change of a thread leaves the answers on the fabric: it changes contexts alone there. -/
theorem answer_mem_onTid {s : State} {m : Msg} {l : Label} (hm : m.answer? = some l) (h : m ∈ s.net) (tid : Nat) (f : Thread → Thread) :
    m ∈ (s.onTid tid f).net := by
  unfold State.onTid
  split
  · refine List.mem_map.mpr ⟨m, h, ?_⟩
    cases m with
    | context => cases hm
    | _ => rfl
  · split <;> exact h

theorem answer_mem_trapEngine {s : State} {m : Msg} {l : Label} (hm : m.answer? = some l) (h : m ∈ s.net) (tid die : Nat) (rep : Report) :
    m ∈ (s.trapEngine tid die rep).net :=
  answer_mem_onTid hm (by rw [alarm_net]; exact h) tid _

theorem answer_mem_homeStrike {s : State} {m : Msg} {l : Label} (hm : m.answer? = some l) (h : m ∈ s.net) (r : Req) (eng : Word) (die : Nat)
    (w : Option (Nat × Word)) : m ∈ (s.homeStrike r eng die w).net := by
  unfold State.homeStrike
  split
  · exact h
  · exact answer_mem_trapEngine hm (by rw [trace_net]; exact h) ..

/-- An answer that has arrived on an open way changes its thread. -/
theorem answered_thread {s : State} {k : Nat} {clock : List Nat} {own : Label} {r : SlotRef} {th : Thread} (hn : Named s r th)
    (harr : s.arrived k = true) (hway : s.wayBack own = true) (f : Thread → Thread) :
    ∃ t, s.answered k th.tid clock own f = some t ∧ t.thread r.g r.slot = some (f th) := by
  have hnamed : Named ((s.takeMsg k).hearAt th.tid clock) r th := hn.of_cores (by simp)
  refine ⟨_, ?_, onTid_thread_of_named hnamed f⟩
  rw [State.answered, if_neg (ne_false_of_eq_true harr), if_neg (ne_false_of_eq_true hway)]

/-- The old value of an `amo` reaches its register, and its thread waits no longer (R299). -/
theorem amoReply_next {s : State} {k id : Nat} {dst : Fin 16} {v : Word} {clock : List Nat} {own : Label} {r : SlotRef} {th : Thread}
    (hn : Named s r th) (hm : s.net[k]? = some (.amoReply th.tid id dst v clock own)) (harr : s.arrived k = true)
    (hway : s.wayBack own = true) :
    ∃ t, exec (.amoReply k) s = .next t ∧ SameMemory s t ∧
      ∃ u, t.thread r.g r.slot = some u ∧ u.d[dst] = v ∧ u.dpend[dst] = false ∧ u.waitAns = false := by
  obtain ⟨t, ht, hthread⟩ := answered_thread (clock := clock) hn harr hway fun t =>
    { t.putD dst v with dpend := t.dpend.set dst false, waitAns := false }
  refine exists_next_of_exec t rfl ((show _ = execAmoReply k s from rfl).trans ?_) ⟨_, hthread, ?_, ?_, rfl⟩
  · simp only [execAmoReply, hm, ht, orNot]
  · simp [Thread.putD]
  · simp

/-- An acknowledgement takes its operation from those of its thread that return nothing (R300). -/
theorem redAck_next {s : State} {k id : Nat} {clock : List Nat} {own : Label} {r : SlotRef} {th : Thread} (hn : Named s r th)
    (hm : s.net[k]? = some (.redAck th.tid id clock own)) (harr : s.arrived k = true) (hway : s.wayBack own = true) :
    ∃ t, exec (.redAck k) s = .next t ∧ SameMemory s t ∧
      t.thread r.g r.slot = some { th with nonret := th.nonret.filter fun i => i != id } := by
  obtain ⟨t, ht, hthread⟩ := answered_thread (clock := clock) hn harr hway fun t => { t with nonret := t.nonret.filter fun i => i != id }
  refine exists_next_of_exec t rfl ((show _ = execRedAck k s from rfl).trans ?_) hthread
  simp only [execRedAck, hm, ht, orNot]

/-! What a home leaves as it is before it performs a request. -/

/-- A home refuses a request the same after it has taken it from the fabric and heard its clock. -/
theorem refuses_heard (s : State) (k pa : Nat) (r : Req) (colour : Nat) (segs : List (Nat × Nat)) :
    ((s.takeMsg k).hearReq pa r).refuses colour segs = s.refuses colour segs :=
  refuses_of_parts (by simp) (by simp) (by simp) colour segs

@[simp] theorem hearReq_free (s : State) (pa : Nat) (r : Req) : (s.hearReq pa r).free = s.free := by
  unfold State.hearReq; split <;> rfl

/-- The frontier covers the clocks of some requests, none of which an earlier access of its own must go before. -/
theorem mustHold_false {s : State} {rs : List Req} {pa : Nat} {segs : List (Nat × Nat)}
    (h : ∀ r ∈ rs, s.covers (homeDie pa) r.clock = true ∧ s.ownWaits (homeKeeper pa) r segs = false) : s.mustHold rs pa segs = false := by
  have hany : (rs.any fun r => !s.covers (homeDie pa) r.clock || s.ownWaits (homeKeeper pa) r segs) = false :=
    List.any_eq_false.mpr fun r hr => by simp [h r hr]
  rw [State.mustHold, hany, Bool.and_false]

/-! Planar updates (R182–R184). -/

theorem planarElem_of_mem {s t : State} (h : t.mem = s.mem) (p : Planar) : planarElem t p = planarElem s p :=
  funext fun i => by simp only [planarElem, h]

/-- A package with a planar update in memory and its acknowledgement on the way. -/
def State.planarStored (s : State) (p : Planar) : State :=
  (((s.correct (p.addrs.map fun a => (a, 32))).memStore p.req.colour (((List.range 32).map (planarElem s p)).flatMap Prod.fst)).performed
    p.req.tid p.req.id).send (.redAck p.req.tid p.req.id (s.die (homeDie (p.addrs.headD 0))).k (p.req.label (homeOf (p.addrs.headD 0))))

/-- A planar update that its slice does not refuse is stored, and its first event and its watch strike may be reported. -/
theorem applyPlanar_stored {s : State} {p : Planar} (href : s.refuses p.req.colour (p.addrs.map fun a => (a, 32)) = none) :
    ∃ s2 eng die, s.applyPlanar p = s2.homeStrike p.req eng die p.watch ∧
      (s2 = s.planarStored p ∨ ∃ die rep, s2 = (s.planarStored p).trapEngine p.req.tid die rep) := by
  simp only [State.applyPlanar, href]
  refine ⟨_, _, _, rfl, ?_⟩
  split
  · split
    · exact .inr ⟨_, _, rfl⟩
    · exact .inl rfl
  · exact .inl rfl

theorem applyPlanar_mem {s : State} {p : Planar} (href : s.refuses p.req.colour (p.addrs.map fun a => (a, 32)) = none) :
    (s.applyPlanar p).mem = memPuts s.mem ((List.range 32).flatMap fun i => (planarElem s p i).1) := by
  have hstored : (s.planarStored p).mem = memPuts s.mem ((List.range 32).flatMap fun i => (planarElem s p i).1) := by
    simp [State.planarStored, List.flatMap_map]
  obtain ⟨s2, eng, die, h, rfl | ⟨die', rep, rfl⟩⟩ := applyPlanar_stored href <;> simpa [h] using hstored

theorem applyPlanar_acks {s : State} {p : Planar} (href : s.refuses p.req.colour (p.addrs.map fun a => (a, 32)) = none) :
    ∃ clock, .redAck p.req.tid p.req.id clock (p.req.label (homeOf (p.addrs.headD 0))) ∈ (s.applyPlanar p).net := by
  have hstored : .redAck p.req.tid p.req.id (s.die (homeDie (p.addrs.headD 0))).k (p.req.label (homeOf (p.addrs.headD 0)))
      ∈ (s.planarStored p).net := List.mem_append_right _ (List.mem_singleton_self _)
  obtain ⟨s2, eng, die, h, rfl | ⟨die', rep, rfl⟩⟩ := applyPlanar_stored href <;> rw [h]
  · exact ⟨_, answer_mem_homeStrike rfl hstored ..⟩
  · exact ⟨_, answer_mem_homeStrike rfl (answer_mem_trapEngine rfl hstored ..) ..⟩

theorem pupdPerform_next {s : State} {k : Nat} {p : Planar} (hm : s.net[k]? = some (.planar p)) (harr : s.arrived k = true)
    (hcov : s.covers (homeDie (p.addrs.headD 0)) p.req.clock = true)
    (hown : s.ownWaits (homeKeeper (p.addrs.headD 0)) p.req (p.addrs.map fun a => (a, 32)) = false)
    (href : s.refuses p.req.colour (p.addrs.map fun a => (a, 32)) = none) :
    ∃ t, exec (.pupdPerform k) s = .next t ∧ t.mem = memPuts s.mem ((List.range 32).flatMap fun i => (planarElem s p i).1) ∧
      ∃ clock, .redAck p.req.tid p.req.id clock (p.req.label (homeOf (p.addrs.headD 0))) ∈ t.net := by
  have hhold : s.mustHold [p.req] (p.addrs.headD 0) (p.addrs.map fun a => (a, 32)) = false :=
    mustHold_false fun r hr => by rw [List.mem_singleton.mp hr]; exact ⟨hcov, hown⟩
  have href' := (refuses_heard s k (p.addrs.headD 0) p.req p.req.colour (p.addrs.map fun a => (a, 32))).trans href
  have hmem : ((s.takeMsg k).hearReq (p.addrs.headD 0) p.req).mem = s.mem := by simp
  refine ⟨((s.takeMsg k).hearReq (p.addrs.headD 0) p.req).applyPlanar p, (show _ = execPupdPerform k s from rfl).trans ?_, ?_,
    applyPlanar_acks href'⟩
  · simp only [execPupdPerform, hm, harr, hhold, Bool.true_eq_false, Bool.false_eq_true, if_false, orNot]
  · rw [applyPlanar_mem href', planarElem_of_mem hmem, hmem]

/-! KV steps and operations (R207–R209). -/

/-- A KV step that meets no error answers its thread. -/
theorem kvStep_next {s : State} {k : Nat} {r : Req} {sq b : Nat} {write : Bool} {va : Word} {y : State × KvRes}
    (hy : y = (((s.takeMsg k).hearReq (s.kvHome r.src r.colour sq b) r).hearAt r.tid
      (s.die (homeDie (s.kvHome r.src r.colour sq b))).k).kvStep r.src r.colour sq b write)
    (hm : s.net[k]? = some (.kv r sq b write va)) (harr : s.arrived k = true)
    (hready : s.kvReady k r sq b (s.kvWords r.src r.colour sq b write).1 (s.kvCopied r.src r.colour sq b write) = true)
    (hsound : ∀ bad at_, y.2 ≠ .check bad at_) (hway : s.wayBack (r.label (homeOf (s.kvHome r.src r.colour sq b))) = true) :
    ∃ t, exec (.kvStep k) s = .next t ∧ t.mem = y.1.mem ∧ ∀ (q : SlotRef) (th : Thread), Named y.1 q th → th.tid = r.tid →
      t.thread q.g q.slot = some (th.kvAnswered sq b write y.2) := by
  refine ⟨y.1.onTid r.tid fun t => t.kvAnswered sq b write y.2, (show _ = execKvStep k s from rfl).trans ?_, onTid_mem ..,
    fun q th hn htid => htid ▸ onTid_thread_of_named hn _⟩
  -- `hsound` leaves the answer's case of the match alone.
  simp only [execKvStep, hm, harr, hready, Bool.true_eq_false, or_self, if_false, orNot, ← hy, hway, if_true]

/-- The end of a KV operation is acknowledged (R300). -/
theorem kvDone_acks {s : State} {r : Req} {m : Msg} {l : Label} (hm : m.answer? = some l) : m ∈ ((s.send m).kvDone r).net :=
  answer_mem_onTid hm (List.mem_append_right _ (List.mem_singleton_self _)) ..

/-- A block of a KV operation is performed: the operation ends with the last, and goes on with the next else. -/
theorem kvBlockStep_next {s s0 s1 : State} {k : Nat} {r : Req} {fork : Bool} {sq tq b left : Nat} {ws : List (Nat × Nat)}
    (hws : ws = s.kvStepWords r.src r.colour fork sq tq b) (hs0 : s0 = (s.takeMsg k).correct (s.kvPlaces r.src r.colour ws))
    (hm : s.net[k]? = some (.kvBlocks r fork sq tq b left)) (harr : s.arrived k = true)
    (hready : s.kvReady k r sq b (ws ++ s.kvStepPush r.src r.colour fork sq tq b) (s.kvStepBlocks r.src r.colour fork sq tq b) = true)
    (hown : s0.kvStepForeign r.src r.colour fork sq tq b = false) (hsound : s0.kvStepBad r.src r.colour fork sq tq b = none)
    (hstep : (if fork then s0.kvForkStep r.src r.colour sq tq b else some (s0.kvFreeStep r.src r.colour sq b)) = some s1) :
    ∃ t, exec (.kvBlockStep k) s = .next t ∧ t.mem = s1.mem ∧
      (left ≤ 1 → ∃ clock own, .redAck r.tid r.id clock own ∈ t.net) ∧
      (1 < left → .kvBlocks r fork sq tq (b + 1) (left - 1) ∈ t.net) := by
  subst hws
  have hexec : exec (.kvBlockStep k) s = execKvBlockStep k s := rfl
  simp only [hexec, execKvBlockStep, hm, harr, hready, ← hs0, hown, hsound, hstep, Bool.true_eq_false, Bool.false_eq_true, or_self, if_false,
    Option.map_some, orNot]
  refine ⟨_, rfl, ?_, fun hlast => ?_, fun hmore => ?_⟩
  · split <;> simp
  · rw [if_pos hlast]
    exact ⟨_, _, kvDone_acks rfl⟩
  · rw [if_neg (Nat.not_le.mpr hmore)]
    simp

/-! Atomics (R298–R305). -/

theorem reply_of_core {s : State} {r : Req} (h : r.fromPeer = false) (m : Msg) (ok : Bool) (data : List Byte) :
    s.reply r m ok data = s.send m := by
  rw [State.reply, if_neg (ne_true_of_eq_false h)]

/-- Requests of this package are answered one after another. -/
theorem foldl_reply_net (m : Req → Msg) {rs : List Req} (h : ∀ r ∈ rs, r.fromPeer = false) (s : State) :
    (rs.foldl (fun s r => s.reply r (m r) true []) s).net = s.net ++ rs.map m := by
  induction rs generalizing s with
  | nil => simp
  | cons r rs ih =>
    obtain ⟨hr, hrs⟩ := List.forall_mem_cons.mp h
    rw [List.foldl_cons, ih hrs, reply_of_core hr, State.send]
    simp

/-- Each issuer of an atomic of this package is told that it is performed: an `amo` by its old value, the others by acknowledgements (R299, R300). -/
theorem answer_amo {s : State} {a : Atomic} {i : Fin 16} (hpeer : ∀ r ∈ a.issuers, r.fromPeer = false) (hdst : a.dst = some i) (old : Word) :
    ∃ clock, .amoReply a.req.tid a.req.id i old clock (a.req.label (homeOf a.pa)) ∈ (s.answer a old).net := by
  have hreq : a.req.fromPeer = false := hpeer _ List.mem_cons_self
  simp only [State.answer, hdst, reply_of_core hreq]
  exact ⟨_, List.mem_append_right _ (List.mem_singleton_self _)⟩

theorem answer_red {s : State} {a : Atomic} (hpeer : ∀ r ∈ a.issuers, r.fromPeer = false) (hdst : a.dst = none) (old : Word) {r : Req}
    (hr : r ∈ a.issuers) : ∃ clock, .redAck r.tid r.id clock (r.label (homeOf a.pa)) ∈ (s.answer a old).net := by
  simp only [State.answer, hdst, foldl_reply_net _ hpeer]
  exact ⟨_, List.mem_append_right _ (List.mem_map.mpr ⟨r, hr, rfl⟩)⟩

/-- The location after one contribution (R298, R303). -/
theorem result_alone {a : Atomic} (hparts : a.parts = []) (hop : a.op ≠ .x) (free o : Nat) :
    (a.result free o).1 = (atomValue a.op a.ty (a.req.wid.setWidth 16) o a.v.toNat a.c.toNat).1 := by
  simp only [Atomic.result, Atomic.contribs, hparts, if_neg hop, List.foldl_cons, List.foldl_nil]

theorem result_exact {a : Atomic} (hparts : a.parts = []) (hop : a.op = .x) (free o : Nat) :
    (a.result free o).1 = sumWord free (exactAdd (a.req.wid.setWidth 16) (sumOf o) (sumContrib (a.v.setWidth 32))).1 := by
  simp only [Atomic.result, Atomic.contribs, hparts, if_pos hop, List.foldl_cons, List.foldl_nil]

theorem memNum_of_mem {s t : State} (h : t.mem = s.mem) (a n : Nat) : t.memNum a n = s.memNum a n := by
  rw [State.memNum, h, State.memNum]

/-- The value that an atomic finds, the bytes that it leaves, and memory after it. -/
def Atomic.found (a : Atomic) (s : State) : Nat := s.memNum a.pa (atomBytes a.op a.ty)
def Atomic.bytes (a : Atomic) (w : Nat) : List Byte := (List.range (atomBytes a.op a.ty)).map fun i => BitVec.ofNat 8 (w / 256 ^ i)
def Atomic.leaves (a : Atomic) (s : State) : List (Nat × Byte) :=
  if a.op = .x ∨ atomWrites a.op a.ty (a.found s) a.c.toNat = true
  then memPuts s.mem (enumFrom a.pa (a.bytes (a.result s.free (a.found s)).1)) else s.mem

/-- An atomic of this package that its slice does not refuse writes its location, and is answered with what it found. -/
theorem applyAtomic_of_home {s : State} {a : Atomic} (hhome : isPeer a.pa = false)
    (href : s.refuses a.req.colour [(a.pa, atomBytes a.op a.ty)] = none) (hcell : a.cell = false) :
    ∃ s2 : State, s.applyAtomic a = s2.answer a (extendTo a.ty (a.bytes (a.found s))) ∧ s2.mem = a.leaves s := by
  simp only [State.applyAtomic, hhome, href, hcell, Bool.false_eq_true, if_false]
  refine ⟨_, rfl, ?_⟩
  rw [atomReports_mem, foldl_performed_mem]
  have hcond : (a.op == .x || atomWrites a.op a.ty (a.found s) a.c.toNat) = true ↔
      a.op = .x ∨ atomWrites a.op a.ty (a.found s) a.c.toNat = true := by simp
  have hfree : (if a.op = .x then { s with free := s.free + 4 } else s).mem = s.mem := by split <;> rfl
  rw [Atomic.leaves]
  split
  · next hw =>
    rw [if_pos (hcond.mp hw), memStore_mem, touch_mem, takeSlots_mem, correct_mem, hfree]
    rfl
  · next hw => rw [if_neg (mt hcond.mpr hw), touch_mem, correct_mem, hfree]

theorem atomicPerform_next {s : State} {k : Nat} {a : Atomic} (hm : s.net[k]? = some (.atomic a)) (harr : s.arrived k = true)
    (hslots : s.slotsOk a.pa = true) (hhome : isPeer a.pa = false)
    (hgo : ∀ r ∈ a.issuers, s.covers (homeDie a.pa) r.clock = true ∧
      s.ownWaits (homeKeeper a.pa) r [(a.pa, atomBytes a.op a.ty)] = false)
    (href : s.refuses a.req.colour [(a.pa, atomBytes a.op a.ty)] = none) (hcell : a.cell = false)
    (hpeer : ∀ r ∈ a.issuers, r.fromPeer = false) :
    ∃ t, exec (.atomicPerform k) s = .next t ∧
      (∀ i, a.dst = some i → ∃ clock,
        .amoReply a.req.tid a.req.id i (extendTo a.ty (a.bytes (a.found s))) clock (a.req.label (homeOf a.pa)) ∈ t.net) ∧
      (a.dst = none → ∀ r ∈ a.issuers, ∃ clock, .redAck r.tid r.id clock (r.label (homeOf a.pa)) ∈ t.net) ∧ t.mem = a.leaves s := by
  let s1 := (s.takeMsg k).hearReq a.pa a.req
  have hmem : s1.mem = s.mem := by simp [s1]
  have hfound : a.found s1 = a.found s := memNum_of_mem hmem ..
  have hleaves : a.leaves s1 = a.leaves s := by
    have hfree : s1.free = s.free := by simp [s1]
    simp only [Atomic.leaves, hfound, hmem, hfree]
  have hexec : exec (.atomicPerform k) s = .next (s1.applyAtomic a) := by
    refine (show _ = execAtomicPerform k s from rfl).trans ?_
    simp only [execAtomicPerform, hm, harr, hslots, peerWaits_of_home s a.req.src hhome, mustHold_false hgo, Bool.true_eq_false,
      Bool.false_eq_true, or_self, if_false, orNot, s1]
  obtain ⟨s2, hs2, hs2mem⟩ := applyAtomic_of_home hhome ((refuses_heard s k a.pa a.req _ _).trans href) hcell
  refine ⟨_, hexec, fun i hi => ?_, fun hi r hr => ?_, ?_⟩
  · rw [hs2, ← hfound]
    exact answer_amo hpeer hi _
  · rw [hs2]
    exact answer_red hpeer hi _ hr
  · rw [hs2, answer_mem, hs2mem]
    exact hleaves

end Sys2Proof.Machine
end

section
/-! PROOFS. Gateways (R304, R313): a contribution meets a partner or is held for one, passes a full buffer, and crosses as its hold ends. -/
namespace Sys2Proof.Machine
open Sys2Proof

theorem passOn_mem_net (s : State) (a : Atomic) : .atomic a ∈ (s.passOn a).net := by
  simp [State.passOn]

@[simp] theorem passOn_die (s : State) (a : Atomic) (d : Nat) : (s.passOn a).die d = s.die d := rfl

/-- A gateway's buffer of 256 toward a die is full. -/
def Die.gateFull (d : Die) (across : Nat) : Bool := decide (256 ≤ (d.gate.filter fun h => h.1 == across).length)

/-- What the merging gateway of a contribution does that is next on its way, behind nothing that must go before it. -/
theorem exec_gatewayMerge {s : State} {k die across : Nat} {b : Atomic} (hm : s.net[k]? = some (.atomic b)) (hcomb : b.comb = true)
    (hgate : b.gateway = some (die, across))
    (hfirst : ∀ m ∈ s.net.take k, ∀ g ∈ b.sources, m.from_ g = true → ∀ r, s.routeOf m = some r → r.2.1 ≠ homeOf b.pa)
    (honly : ∀ e ∈ s.dies, ∀ h ∈ e.2.gate, (e.1 ≠ die ∨ h.1 ≠ across) → h.2.sameWay b = false)
    (hbehind : (s.die die).gateFull across = true → ∀ h ∈ (s.die die).gate, h.1 = across → h.2.sameWay b = false) :
    exec (.gatewayMerge k die) s = .next (
      if (s.die die).gateFull across then (s.takeMsg k).passOn { b with passed := b.passed ++ [die] }
      else (s.takeMsg k).setDie die { s.die die with
        gate := (mergeInto b across (s.die die).gate).getD ((s.die die).gate ++ [(across, b)]) }) := by
  have hexec : exec (.gatewayMerge k die) s = execGatewayMerge k die s := rfl
  have hdie : (s.takeMsg k).die die = s.die die := rfl
  have hfull : decide (256 ≤ ((s.die die).gate.filter fun h => h.1 == across).length) = (s.die die).gateFull across := rfl
  simp only [hexec, execGatewayMerge, hm, hgate, hdie, hfull]
  rw [if_neg]
  · split
    · rfl
    · cases mergeInto b across (s.die die).gate <;> rfl
  · rintro (hno | hother | hearlier | helsewhere | hheld)
    · exact Bool.false_ne_true (hno.symm.trans hcomb)
    · exact hother rfl
    · obtain ⟨m, hmk, hany⟩ := List.any_eq_true.mp hearlier
      obtain ⟨g, hg, hboth⟩ := List.any_eq_true.mp hany
      obtain ⟨hfrom, hroute⟩ := Bool.and_eq_true_iff.mp hboth
      split at hroute
      · next hr => exact hfirst m hmk g hg hfrom _ hr (beq_iff_eq.mp hroute)
      · cases hroute
    · obtain ⟨e, he, hany⟩ := List.any_eq_true.mp helsewhere
      obtain ⟨h, hh, hboth⟩ := List.any_eq_true.mp hany
      obtain ⟨hapart, hway⟩ := Bool.and_eq_true_iff.mp hboth
      exact Bool.false_ne_true ((honly e he h hh (by simpa using hapart)).symm.trans hway)
    · obtain ⟨hfull, hany⟩ := Bool.and_eq_true_iff.mp hheld
      obtain ⟨h, hh, hboth⟩ := List.any_eq_true.mp hany
      obtain ⟨hacross, hway⟩ := Bool.and_eq_true_iff.mp hboth
      exact Bool.false_ne_true ((hbehind hfull h hh (beq_iff_eq.mp hacross)).symm.trans hway)

section
variable {s : State} {k die across : Nat} {b : Atomic} (hm : s.net[k]? = some (.atomic b)) (hcomb : b.comb = true)
  (hgate : b.gateway = some (die, across))
  (hfirst : ∀ m ∈ s.net.take k, ∀ g ∈ b.sources, m.from_ g = true → ∀ r, s.routeOf m = some r → r.2.1 ≠ homeOf b.pa)
  (honly : ∀ e ∈ s.dies, ∀ h ∈ e.2.gate, (e.1 ≠ die ∨ h.1 ≠ across) → h.2.sameWay b = false)
include hm hcomb hgate hfirst honly

/-- In a buffer with room a contribution merges with its partner, or is held. -/
theorem gatewayMerge_joins (hroom : ((s.die die).gate.filter fun h => h.1 == across).length < 256) :
    ∃ t, exec (.gatewayMerge k die) s = .next t ∧ SameMemory s t ∧
      (t.die die).gate = (mergeInto b across (s.die die).gate).getD ((s.die die).gate ++ [(across, b)]) ∧ t.net = s.net.eraseIdx k := by
  have hnot : (s.die die).gateFull across ≠ true := by simpa [Die.gateFull] using hroom
  refine exists_next_of_exec _ rfl (exec_gatewayMerge hm hcomb hgate hfirst honly fun h => absurd h hnot) ?_
  rw [if_neg hnot, die_setDie, if_pos rfl]
  exact ⟨rfl, rfl⟩

/-- A full buffer that holds none of its own sources for its home lets a contribution pass. -/
theorem gatewayMerge_passes (hfull : 256 ≤ ((s.die die).gate.filter fun h => h.1 == across).length)
    (hclear : ∀ h ∈ (s.die die).gate, h.1 = across → h.2.sameWay b = false) :
    ∃ t, exec (.gatewayMerge k die) s = .next t ∧ SameMemory s t ∧
      (t.die die).gate = (s.die die).gate ∧ .atomic { b with passed := b.passed ++ [die] } ∈ t.net := by
  refine exists_next_of_exec _ rfl (exec_gatewayMerge hm hcomb hgate hfirst honly fun _ => hclear) ?_
  rw [if_pos (show (s.die die).gateFull across = true from decide_eq_true hfull)]
  exact ⟨rfl, passOn_mem_net ..⟩

end

/-- The hold of a contribution ends, none of its own sources for its home being held before it. -/
theorem mergeHoldExpiry_next {s : State} {die i across : Nat} {a : Atomic} (ha : (s.die die).gate[i]? = some (across, a))
    (hfirst : ∀ h ∈ (s.die die).gate.take i, h.2.sameWay a = false) :
    ∃ t, exec (.mergeHoldExpiry die i) s = .next t ∧ SameMemory s t ∧ (t.die die).gate = (s.die die).gate.eraseIdx i ∧
      .atomic { a with passed := a.passed ++ [die] } ∈ t.net := by
  have hclear : ((s.die die).gate.take i).any (fun h => h.2.sameWay a) = false :=
    List.any_eq_false.mpr fun h hh => ne_true_of_eq_false (hfirst h hh)
  refine exists_next_of_exec ((s.setDie die { s.die die with gate := (s.die die).gate.eraseIdx i }).passOn
    { a with passed := a.passed ++ [die] }) rfl ((show _ = execMergeHoldExpiry die i s from rfl).trans ?_) ⟨?_, passOn_mem_net ..⟩
  · simp only [execMergeHoldExpiry, ha, hclear, Bool.false_eq_true, if_false, orNot]
  · rw [passOn_die, die_setDie, if_pos rfl]

/-- Settles O50: each step is enabled by the conditions named, and leaves at the home and on the fabric what R182, R207, R209 and R298–R305 say. -/
theorem updateEventsComplete : Obligations.UpdateEventsComplete := by
  unfold Obligations.UpdateEventsComplete
  refine ⟨fun s k p hm harr hcov hown href => pupdPerform_next hm harr hcov hown href,
    fun s k r sq b write va hm harr hready hsound hway => kvStep_next rfl hm harr hready hsound hway,
    fun s s1 k r fork sq tq b left hm harr hready hown hsound hstep => kvBlockStep_next rfl rfl hm harr hready hown hsound hstep,
    fun s k a hm harr hslots hhome hgo href hcell hpeer => ?_,
    fun s k id dst v clock own r th hn hm harr hway => amoReply_next hn hm harr hway,
    fun s k id clock own r th hn hm harr hway => redAck_next hn hm harr hway,
    fun s k die across b hm hcomb hgate hfirst honly => ⟨gatewayMerge_joins hm hcomb hgate hfirst honly,
      gatewayMerge_passes hm hcomb hgate hfirst honly⟩,
    fun s die i across a ha hfirst => mergeHoldExpiry_next ha hfirst⟩
  obtain ⟨t, ht, hamo, hred, hmem⟩ := atomicPerform_next hm harr hslots hhome hgo href hcell hpeer
  exact ⟨t, ht, hamo, hred, hmem, fun hparts hop => result_alone hparts hop .., fun hparts hop => result_exact hparts hop ..⟩

end Sys2Proof.Machine
end

section
/-! PROOFS. Accesses that fail a check (R187, R196, R201, R202): the bits of the address come before its region, and its region before alignment. -/
namespace Sys2Proof.Machine
open Sys2Proof

section
variable {x : Ctx} {k : Accepts} {u : Use} {a b : Word} {aligned : Bool} {addrs bits : List Word} (go : List Place → State)

theorem access_high (h : 2 ^ 55 ≤ b.toNat) : x.access k u a aligned (b :: bits) addrs go = x.trap kindAddress 1 b := by
  simp only [Ctx.access, List.find?_cons_of_pos (p := fun c : Word => decide (2 ^ 55 ≤ c.toNat)) (decide_eq_true h)]

theorem find?_high_none (h : b.toNat < 2 ^ 55) : [b].find? (fun c => decide (2 ^ 55 ≤ c.toNat)) = none :=
  List.find?_eq_none.mpr fun c hc => by
    rw [List.mem_singleton.mp hc, decide_eq_true_eq]
    exact Nat.not_le.mpr h

theorem access_region (hb : b.toNat < 2 ^ 55) {d : Nat} (hd : d ≠ 0) (hreg : regionDetail k (x.s.region x.g x.t.colour x.t.key b) = d) :
    x.access k u a aligned [b] addrs go = x.trap kindAddress d b := by
  simp only [Ctx.access, find?_high_none hb, List.isEmpty_cons, List.headD_cons, Bool.false_eq_true, if_false, hreg, if_pos hd]

theorem access_unaligned (hb : b.toNat < 2 ^ 55) (hreg : regionDetail k (x.s.region x.g x.t.colour x.t.key b) = 0) :
    x.access k u a false [b] addrs go = x.trap kindAlign 0 a := by
  simp only [Ctx.access, find?_high_none hb, List.isEmpty_cons, List.headD_cons, Bool.false_eq_true, if_false, hreg, ne_eq,
    not_true_eq_false, if_true]

end

theorem accessBytes_pos (ty : Ty) : 0 < accessBytes ty := by cases ty <;> decide

section
variable {gd : Guard} {f : Fields} {s : State} {x : Ctx} {i : Fin 16}

/-- The turn of a load to a d register that is ready makes the checks of its access. -/
theorem exec_ld_access (h : Ready gd s x [f.src1] [f.dst] 1) : ∃ go, exec (.ld gd f) s = .next (x.access .loads .read (loadAddr x f)
    ((loadAddr x f).toNat % accessBytes f.ty == 0) [loadAddr x f] [loadAddr x f] go) :=
  ⟨_, turn_ready h.1 (ready_waits h)⟩

theorem memWait_zero {n : Nat} (h : memWait x n = []) : memWait x 0 = [] := by
  simp only [memWait, ite_eq_left_iff, reduceCtorEq, imp_false, not_not] at h ⊢
  exact ⟨h.1, Nat.le_trans (Nat.add_le_add_left (Nat.zero_le n) _) h.2⟩

/-- The turn of a scratchpad load to a d register that is ready makes the checks of its access. -/
theorem exec_lds_access {n : Nat} (hd : f.dst.reg = .d i) (h : Ready gd s x [f.src1] [f.dst] n) : ∃ go,
    exec (.lds gd f) s = .next (x.spadAccess (loadAddr x f) (accessBytes f.ty) (List.range (accessBytes f.ty)) go) := by
  obtain ⟨he, hsrc, hdst, hmem⟩ := h
  rw [show exec (.lds gd f) s = _ from turn_ready he (ready_waits ⟨he, hsrc, hdst, memWait_zero hmem⟩)]
  simp only [hd]
  exact ⟨_, rfl⟩

/-- Away from its team's core a scratchpad access traps before any other check (R202). -/
theorem spadAccess_away {a : Word} {align : Nat} {os : List Nat} (go : Ctx → (Nat → Nat) → State) (h : x.c.atHome x.t = false) :
    x.spadAccess a align os go = x.trap kindAddress 4 0 := by
  simp only [Ctx.spadAccess, h, if_true]

/-- A scratchpad access that touches the sector at its address makes the checks of an access there. -/
theorem spadAccess_access {a : Word} {align n : Nat} (go : Ctx → (Nat → Nat) → State) (hn : 0 < n) (h : x.c.atHome x.t = true) :
    ∃ go', x.spadAccess a align (List.range n) go = x.access .spad .read a (a.toNat % align == 0) [a] [a] go' := by
  have hfirst : ([0, 1].filter fun h => (List.range n).any fun o => o / 64 == h).take 1 = [0] := by
    have h0 : ((List.range n).any fun o => o / 64 == 0) = true := List.any_eq_true.mpr ⟨0, List.mem_range.mpr hn, by decide⟩
    rw [List.filter_cons, if_pos h0, List.take_succ_cons, List.take_zero]
  have hzero : a + BitVec.ofNat 64 (64 * 0) = a := BitVec.add_zero a
  simp only [Ctx.spadAccess, h, Bool.true_eq_false, if_false, hfirst, List.map_cons, List.map_nil, hzero]
  exact ⟨_, rfl⟩

end

/-- Settles O31: the address in question fails the first check that the access makes of it. -/
theorem accessChecksTrap : Obligations.AccessChecksTrap := by
  unfold Obligations.AccessChecksTrap
  rintro gd f s x h ⟨i, hd⟩ a
  obtain ⟨go, hld⟩ := exec_ld_access h
  obtain ⟨go', hlds⟩ := exec_lds_access hd h
  rw [hld, hlds]
  refine ⟨fun ha => ?_, fun ha hreg => ?_, fun ha ⟨o, hreg⟩ => ?_, fun ha hreg halign => ?_, fun haway => ?_, fun hhome ha hreg => ?_⟩
  · exact congrArg _ (access_high _ ha)
  · exact congrArg _ (access_region _ ha (by decide) (congrArg (regionDetail _) hreg))
  · exact congrArg _ (access_region _ ha (by decide) (congrArg (regionDetail _) hreg))
  · rw [show ((loadAddr x f).toNat % accessBytes f.ty == 0) = false from beq_false_of_ne halign]
    exact congrArg _ (access_unaligned _ ha hreg)
  · exact congrArg _ (spadAccess_away _ haway)
  · obtain ⟨go'', haccess⟩ := spadAccess_access go' (accessBytes_pos f.ty) hhome
    rw [haccess]
    exact congrArg _ (access_region _ ha (by decide) (congrArg (regionDetail _) hreg))

end Sys2Proof.Machine
end

section
/-! PROOFS. Stores to memory (R197, R199, R200, R204, R211, R323, R379): once its checks pass and no watchpoint stops it, a store takes its order
point and sends its writes under the next names. -/
namespace Sys2Proof.Machine
open Sys2Proof

/-! The order point of a store that strikes no watchpoint but to clear pass bits (R323, R379). -/

/-- A package whose watch sets were replaced. -/
def State.watching (s : State) (ws : List WatchSet) : State := { s with watches := ws }

section
variable {x : Ctx} {u : Thread} {f : Fields}

theorem orderPoint_watching (ws : List WatchSet) :
    (x.on (x.s.watching ws)).orderPoint u f = ((x.orderPoint u f).1.watching ws, (x.orderPoint u f).2) := by
  unfold Ctx.orderPoint
  split <;> rfl

/-- A store that no watchpoint stops goes on from its order point. -/
theorem storing_ordered {addrs : List Nat} {s1 : State} (hstrike : x.s.storeStrike x.t addrs = .inl s1)
    (go : Ctx → State × Thread → State) : x.storing addrs (fun y => go y (y.orderPoint u f)) =
      go (x.on s1) ((x.orderPoint u f).1.watching s1.watches, (x.orderPoint u f).2) := by
  rw [storing_proceeds _ hstrike, storeStrike_watches hstrike]
  exact congrArg (go _) (orderPoint_watching s1.watches)

/-- An access whose places have the slots of their blocks does not wait for them (R211). -/
theorem needSlots_proceeds {pas : List Nat} (go : State) (h : ∀ pa ∈ pas, x.s.slotsOk pa = true) : x.needSlots pas go = go := by
  have hnone : pas.find? (fun pa => !x.s.slotsOk pa) = none := by
    simpa [List.find?_eq_none] using h
  rw [Ctx.needSlots, hnone]

end

/-! The writes of a store (R199, R204, R345). -/

section
variable {s : State} {x : Ctx} {u : Thread}

theorem sendWrite_eq (hu : AsksAs u x.t) (clock : List Nat) (n : Nat) (s : State) (c : Core) (va : Word) (bytes : List (Nat × Byte)) :
    ∃ traffic sent away due, x.sendWrite clock n s c u va bytes =
      ({ s with net := s.net ++ [.write { requestOf x clock with id := s.uid } bytes va], uid := s.uid + 1 },
       { c with traffic := traffic, sent := sent, away := away, swapDue := due }, sentOut u n s.uid) := by
  obtain ⟨traffic, sent, away, due, hc⟩ := sentPas_eq c u (bytes.headD (0, 0)).1 n
  refine ⟨traffic, sent, away, due, ?_⟩
  rw [Ctx.sendWrite, hu.req, hc]
  rfl

/-- A thread after n writes, each under a name of its own, from `uid` on. -/
def writesOut (u : Thread) (n uid : Nat) : Thread := { u with outst := u.outst ++ List.range' uid n }

/-- The messages of these writes, under their names. -/
def writeMsgs (x : Ctx) (clock : List Nat) (uid : Nat) (ws : List (Word × List (Nat × Byte))) : List Msg :=
  (enumFrom uid ws).map fun e => .write { requestOf x clock with id := e.1 } e.2.2 e.2.1

theorem AsksAs.sentOut (h : AsksAs u x.t) (n uid : Nat) : AsksAs (sentOut u n uid) x.t := ⟨h.tid, h.colour, h.wid, h.pc, h.flags⟩

theorem sendSectors_eq (hu : AsksAs u x.t) (clock : List Nat) (s : State) (c : Core) (ws : List (Word × List (Nat × Byte))) :
    ∃ traffic sent away due, x.sendSectors clock s c u ws =
      ({ s with net := s.net ++ writeMsgs x clock s.uid ws, uid := s.uid + ws.length },
       { c with traffic := traffic, sent := sent, away := away, swapDue := due }, writesOut u ws.length s.uid) := by
  induction ws generalizing s c u with
  | nil => exact ⟨c.traffic, c.sent, c.away, c.swapDue, by simp [Ctx.sendSectors, writeMsgs, enumFrom, writesOut]⟩
  | cons w rest ih =>
    obtain ⟨_, _, _, _, hw⟩ := sendWrite_eq hu clock 1 s c w.1 w.2
    obtain ⟨traffic, sent, away, due, h⟩ := ih (hu.sentOut 1 s.uid)
      { s with net := s.net ++ [.write { requestOf x clock with id := s.uid } w.2 w.1], uid := s.uid + 1 }
      (x.sendWrite clock 1 s c u w.1 w.2).2.1
    refine ⟨traffic, sent, away, due, ?_⟩
    rw [Ctx.sendSectors]
    rw [hw] at h ⊢
    refine h.trans ?_
    simp only [writeMsgs, enumFrom, List.map_cons, writesOut, sentOut, List.length_cons, List.append_assoc, List.singleton_append,
      List.replicate_one, List.range'_succ, Nat.add_assoc, Nat.add_comm 1]

/-- An instruction finishes whose package has sent messages, with other dies and watch sets, and whose core has counted packets. -/
theorem issuesAs_sent_finish (c : Core) (u : Thread) (msgs : List Msg) (uid : Nat) {s1 : State}
    (hs1 : s1 = { x.s with dies := s1.dies }) (ws : List WatchSet) (traffic : List (Nat × Nat)) (sent : Nat)
    (away : List (TeamKey × Option Nat)) (due : Bool) :
    IssuesAs x ((x.on { s1.watching ws with net := s1.net ++ msgs, uid := uid }).finish
      { c with traffic := traffic, sent := sent, away := away, swapDue := due } u) c u msgs s1.dies ws := by
  rw [hs1]
  exact (issuesAs_on_finish x _ u msgs uid x.s.free s1.dies ws).of_counted

end

section
variable {gd : Guard} {f : Fields} {s s1 : State} {x : Ctx} {u : Thread} {addrs : List Nat}

/-- The state in which a store sends: its order point is taken, and the pass bits of the watchpoints it strikes are cleared. -/
def storeState (x : Ctx) (u : Thread) (f : Fields) (s1 : State) : State := (x.orderPoint u f).1.watching s1.watches

/-- The request of a store after its order point (R323). -/
def storeReq (x : Ctx) (u : Thread) (f : Fields) : Req :=
  requestOf x ((x.orderPoint u f).1.writeClock x.g (x.orderPoint u f).2)

/-- A store that no watchpoint stops finishes with what it has sent. -/
theorem issuesAs_storing (hx : ctxOf s = some x) (hstrike : s.storeStrike x.t addrs = .inl s1) {c : Core} {v : Thread} {msgs : List Msg}
    {uid : Nat} (send : Ctx → State → Thread → State × Core × Thread)
    (hsend : ∃ traffic sent away due, send (x.on s1) (storeState x u f s1) (x.orderPoint u f).2 =
      ({ storeState x u f s1 with net := s.net ++ msgs, uid := uid },
       { c with traffic := traffic, sent := sent, away := away, swapDue := due }, v)) :
    IssuesAs x (x.storing addrs fun y =>
      let o := y.orderPoint u f
      let z := send y o.1 o.2
      (y.on z.1).finish z.2.1 z.2.2) c v msgs (x.orderPoint u f).1.dies s1.watches := by
  obtain ⟨rfl, -⟩ := ctxOf_state hx
  obtain ⟨traffic, sent, away, due, h⟩ := hsend
  rw [storing_ordered hstrike fun y o => (y.on (send y o.1 o.2).1).finish (send y o.1 o.2).2.1 (send y o.1 o.2).2.2]
  rw [storeState] at h
  simp only [h]
  have hnet : (x.orderPoint u f).1.net = x.s.net := by rw [orderPoint_state]
  rw [← hnet]
  exact issuesAs_sent_finish c v msgs uid (orderPoint_state x u f) s1.watches traffic sent away due

theorem storeState_uid (hx : ctxOf s = some x) : (storeState x u f s1).uid = s.uid := by
  rw [← (ctxOf_state hx).1]
  exact orderPoint_uid x u f

theorem storeState_net (hx : ctxOf s = some x) : (storeState x u f s1).net = s.net := by
  rw [← (ctxOf_state hx).1, storeState, orderPoint_state]
  rfl

/-- A store of one write that no watchpoint stops. -/
theorem issuesAs_storing_write (hx : ctxOf s = some x) (hu : AsksAs u x.t) (hstrike : s.storeStrike x.t addrs = .inl s1) (c : Core)
    (n : Nat) (a : Word) (bytes : List (Nat × Byte)) :
    IssuesAs x (x.storing addrs fun y =>
      let o := y.orderPoint u f
      let z := y.sendWrite (o.1.writeClock y.g o.2) n o.1 c o.2 a bytes
      (y.on z.1).finish z.2.1 z.2.2) c (sentOut (x.orderPoint u f).2 n s.uid) [.write (storeReq x u f) bytes a]
      (x.orderPoint u f).1.dies s1.watches := by
  refine issuesAs_storing (uid := s.uid + 1) hx hstrike (fun y w t => y.sendWrite (w.writeClock y.g t) n w c t a bytes) ?_
  obtain ⟨traffic, sent, away, due, h⟩ := sendWrite_eq (x := x.on s1) (hu.orderPoint f)
    ((x.orderPoint u f).1.writeClock x.g (x.orderPoint u f).2) n (storeState x u f s1) c a bytes
  rw [storeState_uid hx, storeState_net hx] at h
  refine ⟨traffic, sent, away, due, h.trans ?_⟩
  rw [← (ctxOf_state hx).1]
  rfl

/-- The address of a store. -/
def stAddr (x : Ctx) (f : Fields) : Word := Fields.addr f (val (x.take [f.src1, f.src2]).1 0)

theorem st_issues {p : Place} (h : Ready gd s x [f.src1, f.src2] [] 1) (hrel : sysRelWait x f = [])
    (halign : (stAddr x f).toNat % accessBytes f.ty = 0) (hreach : Reaches x .loads .write (stAddr x f) [stAddr x f] [p])
    (hslots : s.slotsOk p.addr = true) (hstrike : s.storeStrike x.t (addrRange (stAddr x f).toNat (accessBytes f.ty)) = .inl s1) :
    let r := x.take [f.src1, f.src2]
    ∃ t, exec (.st gd f) s = .next t ∧ IssuesAs x t r.2.1 (sentOut (x.orderPoint r.2.2 f).2 1 s.uid)
      [.write (storeReq x r.2.2 f) (enumFrom p.addr (wordBytes (accessBytes f.ty) (val r.1 1))) (stAddr x f)]
      (x.orderPoint r.2.2 f).1.dies s1.watches := by
  intro r
  obtain ⟨he, hsrc, -, hmem⟩ := h
  obtain ⟨hbits, hreg, hps⟩ := hreach
  have hwaits : srcWaits x [] [f.src1, f.src2] ++ memWait x 1 ++ sysRelWait x f = [] := by rw [hsrc, hmem, hrel]; rfl
  have hx : x.s = s := (ctxOf_state he.1).1
  refine ⟨_, (turn_ready he hwaits).trans (congrArg _ ?_), issuesAs_storing_write he.1 (take_asksAs x _) hstrike ..⟩
  have haligned : ((stAddr x f).toNat % accessBytes f.ty == 0) = true := beq_iff_eq.mpr halign
  dsimp only
  rw [show Fields.addr f (val (x.take [f.src1, f.src2]).1 0) = stAddr x f from rfl, haligned,
    access_proceeds _ (List.forall_mem_of_forall_mem_cons hbits) hreg hps, needSlots_proceeds]
  · rfl
  · simpa [hx] using hslots

/-! Vector stores (R199). -/

theorem enumFrom_map {α β : Type} (g : α → β) (a : Nat) (l : List α) : enumFrom a (l.map g) = (enumFrom a l).map fun e => (e.1, g e.2) := by
  induction l generalizing a with
  | nil => rfl
  | cons b rest ih => simp only [List.map_cons, enumFrom, ih]

theorem enumFrom_add {α : Type} (a b : Nat) (l : List α) : enumFrom (a + b) l = (enumFrom b l).map fun e => (a + e.1, e.2) := by
  induction l generalizing b with
  | nil => rfl
  | cons c rest ih => simp only [enumFrom, List.map_cons, Nat.add_assoc, ih]

/-- A list of addresses at their places has a place for each. -/
theorem placesIn_length {k : Accepts} {use : Use} {as : List Word} {ps : List Place} (h : x.placesIn k use as = .ok ps) :
    ps.length = as.length := by
  induction as generalizing ps with
  | nil => cases h; rfl
  | cons a rest ih =>
    simp only [Ctx.placesIn] at h
    split at h
    · cases h
    · split at h
      · split at h
        · next hrest => cases h; rw [List.length_cons, List.length_cons, ih hrest]
        · cases h
        · cases h
      · cases h
      · cases h

/-- The operands of a vector store, its address and its mask. -/
def vstTaken (x : Ctx) (f : Fields) : List Val × Core × Thread := x.take [f.src1, f.src2, f.src3]
def vstAddr (x : Ctx) (f : Fields) : Word := Fields.addr f (val (vstTaken x f).1 0)
def vstMask (x : Ctx) (f : Fields) : BitVec 32 := maskOf f.src3 (val (vstTaken x f).1 2)

/-- The address of a sector of a vector store. -/
def vstSector (x : Ctx) (f : Fields) (h : Nat) : Word := vstAddr x f + BitVec.ofNat 64 (64 * h)

/-- The places of the sectors with an enabled lane: where there is none, none is accessed. -/
def VstReaches (x : Ctx) (f : Fields) (ps : List Place) : Prop :=
  (vstMask x f = 0 ∧ ps = []) ∨ Reaches x .loads .write (vstSector x f ((maskSectors (vstMask x f)).headD 0))
    ((maskSectors (vstMask x f)).map (vstSector x f)) ps

theorem maskSectors_zero : maskSectors 0 = [] := by decide

/-- A vector store has a place for each sector that it writes. -/
theorem VstReaches.length {ps : List Place} (h : VstReaches x f ps) : ps.length = (maskSectors (vstMask x f)).length := by
  obtain ⟨hm, rfl⟩ | ⟨-, -, hps⟩ := h
  · rw [hm, maskSectors_zero]
    rfl
  · exact (placesIn_length hps).trans (List.length_map _)

/-- The checks of a vector store pass. -/
theorem vst_access {ps : List Place} (go : List Place → State) (halign : (vstAddr x f).toNat % 64 = 0) (h : VstReaches x f ps) :
    x.access .loads .write (vstAddr x f) ((vstAddr x f).toNat % 64 == 0) (((maskSectors (vstMask x f)).take 1).map (vstSector x f))
      ((maskSectors (vstMask x f)).map (vstSector x f)) go = go ps := by
  rw [beq_iff_eq.mpr halign]
  have hlen := h.length
  cases hs : maskSectors (vstMask x f) with
  | nil =>
    rw [hs] at hlen
    obtain rfl := List.length_eq_zero_iff.mp hlen
    rfl
  | cons k rest =>
    obtain ⟨hm, -⟩ | ⟨hbits, hreg, hps⟩ := h
    · rw [hm, maskSectors_zero] at hs
      cases hs
    · rw [hs] at hbits hreg hps
      exact access_proceeds go (List.forall_mem_cons.mpr ⟨hbits _ List.mem_cons_self, by simp⟩) hreg hps

/-- The writes of a vector store: the bytes of each sector's enabled lanes, at its place. -/
def vstWrites (x : Ctx) (f : Fields) (ps : List Place) : List (Word × List (Nat × Byte)) :=
  ((maskSectors (vstMask x f)).zip ps).map fun e =>
    (vstSector x f e.1, maskBytes (vstMask x f) (valAt (vstTaken x f).1 1).lanes e.1 e.2.addr)

/-- A store of several writes that no watchpoint stops. -/
theorem issuesAs_storing_sectors (hx : ctxOf s = some x) (hu : AsksAs u x.t) (hstrike : s.storeStrike x.t addrs = .inl s1) (c : Core)
    (ws : List (Word × List (Nat × Byte))) :
    IssuesAs x (x.storing addrs fun y =>
      let o := y.orderPoint u f
      let z := y.sendSectors (o.1.writeClock y.g o.2) o.1 c o.2 ws
      (y.on z.1).finish z.2.1 z.2.2) c (writesOut (x.orderPoint u f).2 ws.length s.uid)
      (writeMsgs x ((x.orderPoint u f).1.writeClock x.g (x.orderPoint u f).2) s.uid ws) (x.orderPoint u f).1.dies s1.watches := by
  refine issuesAs_storing (uid := s.uid + ws.length) hx hstrike (fun y w t => y.sendSectors (w.writeClock y.g t) w c t ws) ?_
  obtain ⟨traffic, sent, away, due, h⟩ := sendSectors_eq (x := x.on s1) (hu.orderPoint f)
    ((x.orderPoint u f).1.writeClock x.g (x.orderPoint u f).2) (storeState x u f s1) c ws
  rw [storeState_uid hx, storeState_net hx] at h
  exact ⟨traffic, sent, away, due, h⟩

theorem vst_issues {ps : List Place} (hrel : sysRelWait x f = []) (hbound : unboundStream x [f.src2] = false)
    (h : Ready gd s x [f.src1, f.src2, f.src3] [] (maskSectors (peekMask x f.src3)).length) (halign : (vstAddr x f).toNat % 64 = 0)
    (hreach : VstReaches x f ps) (hslots : ∀ p ∈ ps, s.slotsOk p.addr = true)
    (hstrike : s.storeStrike x.t (maskAddrs (vstMask x f) (vstAddr x f)) = .inl s1) :
    let o := x.orderPoint (vstTaken x f).2.2 f
    ∃ t, exec (.vst gd f) s = .next t ∧ IssuesAs x t (vstTaken x f).2.1 (writesOut o.2 (vstWrites x f ps).length s.uid)
      (writeMsgs x (o.1.writeClock x.g o.2) s.uid (vstWrites x f ps)) o.1.dies s1.watches := by
  intro o
  obtain ⟨he, hsrc, -, hmem⟩ := h
  have hwaits : srcWaits x [] [f.src1, f.src2, f.src3] ++ memWait x (maskSectors (peekMask x f.src3)).length ++ sysRelWait x f = [] := by
    rw [hsrc, hmem, hrel]
    rfl
  obtain ⟨rfl, -⟩ := ctxOf_state he.1
  have hpas : ∀ pa ∈ ps.map Place.addr, x.s.slotsOk pa = true := List.forall_mem_map.mpr hslots
  refine ⟨_, (turn_ready he hwaits).trans (congrArg _ ((if_neg (ne_true_of_eq_false hbound)).trans
    ((vst_access _ halign hreach).trans (needSlots_proceeds _ hpas)))), ?_⟩
  have hws : ((maskSectors (vstMask x f)).zip (ps.map Place.addr)).map (fun e =>
      (vstAddr x f + BitVec.ofNat 64 (64 * e.1), maskBytes (vstMask x f) (valAt (vstTaken x f).1 1).lanes e.1 e.2)) = vstWrites x f ps := by
    rw [List.zip_map_right, List.map_map]
    rfl
  have hissues := issuesAs_storing_sectors (f := f) he.1 (take_asksAs x [f.src1, f.src2, f.src3]) hstrike (vstTaken x f).2.1
    (vstWrites x f ps)
  rw [← hws] at hissues ⊢
  exact hissues

/-! Planar stores (R200). -/

theorem vstp_issues {ps : List Place} (hrel : sysRelWait x f = []) (hbound : unboundStream x [f.src2] = false)
    (h : Ready gd s x [f.src1, f.src2, f.src3] [] (gPlanes f.ty)) (halign : (vstAddr x f).toNat % 32 = 0)
    (hstride : (val (vstTaken x f).1 2) >>> 32 ≠ 0) :
    let o := x.orderPoint (vstTaken x f).2.2 f
    let addrs := planeAddrs (vstAddr x f) (val (vstTaken x f).1 2) (gPlanes f.ty)
    Reaches x .planar .write (vstAddr x f) addrs ps → planeSplit addrs ps = none →
    s.storeStrike x.t (addrs.flatMap fun b => addrRange b.toNat 32) = .inl s1 →
    ∃ t, exec (.vstp gd f) s = .next t ∧ IssuesAs x t (vstTaken x f).2.1 (sentOut o.2 (gPlanes f.ty) s.uid)
      [.write (storeReq x (vstTaken x f).2.2 f) ((enumFrom 0 ps).flatMap fun e =>
        enumFrom e.2.addr ((valAt (vstTaken x f).1 1).lanes.toList.map (plane e.1))) (vstAddr x f)] o.1.dies s1.watches := by
  intro o addrs hreach hsplit hstrike
  obtain ⟨he, hsrc, -, hmem⟩ := h
  have hwaits : srcWaits x [] [f.src1, f.src2, f.src3] ++ memWait x (gPlanes f.ty) ++ sysRelWait x f = [] := by
    rw [hsrc, hmem, hrel]
    rfl
  have hplanes : gPlanes f.ty ≠ 0 := by cases f.ty <;> decide
  exact ⟨_, (turn_ready he hwaits).trans (congrArg _ ((if_neg (ne_true_of_eq_false hbound)).trans
    (planarAccess_proceeds _ hplanes halign hstride hreach hsplit))), issuesAs_storing_write he.1 (take_asksAs x _) hstrike ..⟩

end

/-- Settles O28: the checks of a store pass, and it sends its one write from its order point. -/
theorem storeCompletes : Obligations.StoreCompletes := by
  unfold Obligations.StoreCompletes
  intro gd f s s1 x p h hrel r a n o halign hreach hslots hstrike
  exact st_issues h hrel halign hreach hslots hstrike

/-- Settles O29: the checks of a store pass, and it sends a write for each sector that it touches, or one for all planes. -/
theorem vectorStoresComplete : Obligations.VectorStoresComplete := by
  unfold Obligations.VectorStoresComplete
  intro gd f s s1 x ps hrel hbound r a o
  refine ⟨?_, fun h halign hstride hreach hsplit hstrike => vstp_issues hrel hbound h halign hstride hreach hsplit hstrike⟩
  intro m h halign hreach hslots hstrike
  obtain ⟨t, ht, hissues⟩ := vst_issues hrel hbound h halign hreach hslots hstrike
  have hlen : (vstWrites x f ps).length = ps.length := by
    rw [vstWrites, List.length_map, List.length_zip, VstReaches.length hreach, Nat.min_self]
  refine ⟨t, ht, ?_⟩
  rw [hlen, writesOut, List.range'_eq_map_range, writeMsgs, ← Nat.add_zero s.uid, enumFrom_add, vstWrites, enumFrom_map] at hissues
  simp only [List.map_map] at hissues
  exact hissues

end Sys2Proof.Machine
end

section
/-! PROOFS. Fences and probes (R204, R205, R323): a fence takes its order point and finishes, a probe writes its word. -/
namespace Sys2Proof.Machine
open Sys2Proof

section
variable {gd : Guard} {f : Fields} {s : State} {x : Ctx}

/-- An instruction finishes in a package whose dies it has changed. -/
theorem issuesAs_dies_finish {s1 : State} (hs1 : s1 = { x.s with dies := s1.dies }) (c : Core) (u : Thread) :
    IssuesAs x ((x.on s1).finish c u) c u [] s1.dies x.s.watches := by
  have hstate : s1 = { x.s with net := x.s.net ++ [], dies := s1.dies } := by
    rw [List.append_nil]
    exact hs1
  rw [hstate]
  exact issuesAs_on_finish x c u [] x.s.uid x.s.free s1.dies x.s.watches

/-- A thread after a fence: an acquire holds its later accesses for the loads unanswered (R204). -/
def fenceOut (u : Thread) (f : Fields) : Thread := { u with hold := if acqBits f then u.hold ++ u.loads else u.hold }

theorem fenceOut_eq (u : Thread) (f : Fields) : (if acqBits f then { u with hold := u.hold ++ u.loads } else u) = fenceOut u f := by
  unfold fenceOut
  split <;> rfl

/-- Why a release fence waits for its predecessors (R204, R323). -/
def fenceWait (x : Ctx) (f : Fields) : List SlotClass :=
  if relBits f && Fields.bits f 34 2 != 0 && !(x.t.outst.isEmpty && x.t.kvOut == 0) then [.mem] else []

theorem fenceWait_none (hdone : relBits f = true → Fields.bits f 34 2 ≠ 0 → x.t.outst = [] ∧ x.t.kvOut = 0) : fenceWait x f = [] := by
  refine if_neg fun h => ?_
  simp only [Bool.and_eq_true, bne_iff_ne] at h
  obtain ⟨⟨hrel, hscope⟩, hout⟩ := h
  obtain ⟨houtst, hkv⟩ := hdone hrel hscope
  simp [houtst, hkv] at hout

theorem fence_issues (he : Executes gd s x) (hdone : fenceWait x f = []) (hrel : relWait x (relBits f) = []) :
    ∃ t, exec (.fence gd f) s = .next t ∧
      IssuesAs x t x.c (fenceOut (x.orderPoint x.t f).2 f) [] (x.orderPoint x.t f).1.dies s.watches := by
  obtain ⟨rfl, -⟩ := ctxOf_state he.1
  have hwaits : fenceWait x f ++ relWait x (relBits f) = [] := by rw [hdone, hrel]; rfl
  refine ⟨_, turn_ready he hwaits, ?_⟩
  dsimp only
  rw [fenceOut_eq]
  exact issuesAs_dies_finish (orderPoint_state x x.t f) x.c _

/-- A probe of an address that needs no walk, to a d register. -/
theorem tprb_issues (he : Executes gd s x) {i : Fin 16} {w : Word} (hd : f.dst.reg = .d i) (hsrc : srcWaits x [] [f.src1] = [])
    (hpend : x.t.dpend[i] = false) (hw : probeOf x (loadAddr x f) = .ok w) :
    ∃ t, exec (.tprb gd f) s = .next t ∧ t.cls = .issued ∧ SameMemory s t ∧
      t.thread x.g x.slot = some (issuedAs ((x.take [f.src1]).2.2.putD i w)) := by
  have hwaits : srcWaits x [] [f.src1] ++ dstWait x [f.src1] f.dst = [] := by rw [hsrc, dstWait_d hd hpend]; rfl
  let s1 := (x.s.correct (probeSegs x (loadAddr x f))).dropWalk x.g x.t.colour (loadAddr x f).toNat
  have hexec : exec (.tprb gd f) s = .next ((x.on s1).finish { (x.take [f.src1]).2.1 with walks := (s1.core x.g).walks }
      ((x.take [f.src1]).2.2.putD i w)) := by
    refine (turn_ready he hwaits).trans ?_
    dsimp only
    rw [show Fields.addr f (val (x.take [f.src1]).1 0) = loadAddr x f from rfl, hw, hd]
  have hslot : (x.on s1).slot < 16 := slot_lt_of_ctxOf (x := x) he.1
  exact ⟨_, hexec, rfl, fun a => congrArg (memGet · a) (execTprb_mem hexec), finish_thread_self hslot ..⟩

end

/-- Settles O32: a fence finishes from its order point, and a probe writes its word and drops its walk. -/
theorem fenceProbeComplete : Obligations.FenceProbeComplete := by
  unfold Obligations.FenceProbeComplete
  intro gd f s x he
  exact ⟨fun hdone hrel => fence_issues he (fenceWait_none hdone) hrel,
    fun i w hd hsrc hpend hw => tprb_issues he hd hsrc hpend hw⟩

end Sys2Proof.Machine
end

section
/-! PROOFS. Moving threads (R202, R203): a thread that leaves its core takes its words and its work identifier with it, whatever its gang and its
streams leave of other threads. -/
namespace Sys2Proof.Machine
open Sys2Proof

/-! Steps that leave the words of every thread. -/

/-- A thread with the d registers and the work identifier of another. -/
def SameWords (t u : Thread) : Prop := u.d = t.d ∧ u.wid = t.wid

/-- Every thread in a slot is there after the step, with its words. -/
structure KeepsWords (s s' : State) : Prop where
  thread : ∀ g k t, s.thread g k = some t → ∃ u, s'.thread g k = some u ∧ SameWords t u

section
variable {s s' s'' : State}

theorem KeepsWords.refl (s : State) : KeepsWords s s := ⟨fun _ _ t ht => ⟨t, ht, rfl, rfl⟩⟩

theorem KeepsWords.trans (h : KeepsWords s s') (h' : KeepsWords s' s'') : KeepsWords s s'' := by
  refine ⟨fun g k t ht => ?_⟩
  obtain ⟨u, hu, hd, hwid⟩ := h.thread g k t ht
  obtain ⟨v, hv, hd', hwid'⟩ := h'.thread g k u hu
  exact ⟨v, hv, hd'.trans hd, hwid'.trans hwid⟩

theorem KeepsWords.of_threads (h : ∀ g, (s'.core g).threads = (s.core g).threads) : KeepsWords s s' :=
  ⟨fun g k t ht => ⟨t, (thread_of_threads (h g) k).trans ht, rfl, rfl⟩⟩

theorem KeepsWords.of_cores (h : s'.cores = s.cores) : KeepsWords s s' := .of_threads fun g => by rw [core_of_cores h]

theorem KeepsWords.setCore {g : Nat} {c : Core} (h : c.threads = (s.core g).threads) : KeepsWords s (s.setCore g c) :=
  .of_threads fun i => by
    rw [core_setCore]
    split
    · next hi => rw [h, hi]
    · rfl

theorem KeepsWords.setThread {g k : Nat} {t u : Thread} (ht : s.thread g k = some t) (hu : SameWords t u) :
    KeepsWords s (s.setThread g k (some u)) := by
  refine ⟨fun g' k' t' ht' => ?_⟩
  rw [thread_setThread s g g' k' (some u) (State.slot_lt_of_thread ht)]
  split
  · next h =>
    obtain ⟨rfl, rfl⟩ := h
    obtain rfl := Option.some.inj (ht.symm.trans ht')
    exact ⟨u, rfl, hu⟩
  · exact ⟨t', ht', rfl, rfl⟩

theorem KeepsWords.foldl {α : Type} {f : State → α → State} (h : ∀ s a, KeepsWords s (f s a)) (l : List α) (s : State) :
    KeepsWords s (l.foldl f s) := by
  induction l generalizing s with
  | nil => exact .refl s
  | cons a rest ih => exact (h s a).trans (ih (f s a))

theorem keepsWords_onTid (s : State) (tid : Nat) {f : Thread → Thread} (hf : ∀ t, SameWords t (f t)) : KeepsWords s (s.onTid tid f) := by
  unfold State.onTid
  split
  · have hcores : (s.onMoving tid f).cores = s.cores.map fun e => (e.1, e.2.onArrivals fun t => if t.tid = tid then f t else t) := rfl
    exact .of_threads fun g => by rw [core_of_map hcores rfl]; rfl
  · split
    · exact .refl s
    · next t ht => exact .setThread ht (hf t)

end

/-! What a thread leaves as it leaves its core: its gang, its streams and its v registers (R49, R126, R287). -/

theorem stepped_words (t : Thread) : SameWords t t.stepped := by
  unfold Thread.stepped
  split
  · exact ⟨rfl, rfl⟩
  · split <;> exact ⟨rfl, rfl⟩

theorem dismissed_words (t : Thread) : SameWords t t.dismissed := by
  unfold Thread.dismissed Thread.released
  split
  · exact stepped_words _
  · exact ⟨rfl, rfl⟩

theorem report_words (t : Thread) (r : Report) : SameWords t (t.report r) := by
  unfold Thread.report
  split
  · exact ⟨rfl, rfl⟩
  · unfold Thread.clearPending
    split <;> exact ⟨rfl, rfl⟩

section
variable (s : State)

theorem keepsWords_markExit (tid : Nat) (e : Option Word) : KeepsWords s (s.markExit tid e) := by
  unfold State.markExit
  dsimp only
  split
  · exact .of_cores rfl
  · exact keepsWords_onTid s tid fun t => by split <;> exact ⟨rfl, rfl⟩

theorem keepsWords_leaveLine (leader : Nat) (ms : List GangMember) (e : Option Word) : KeepsWords s (s.leaveLine leader ms e) :=
  .foldl (fun s m => by
    split
    · exact keepsWords_markExit s m.tid e
    · exact .refl s) ms s

theorem keepsWords_leaveGang (t : Thread) : KeepsWords s (s.leaveGang t) := by
  unfold State.leaveGang
  split
  · refine KeepsWords.trans ((keepsWords_leaveLine s ..).trans (keepsWords_onTid _ t.tid ?_)) (.foldl (fun s m => ?_) _ _)
    · exact fun _ => ⟨rfl, rfl⟩
    · split
      · exact keepsWords_onTid s m.tid dismissed_words
      · exact .refl s
  · exact .refl s
  · exact keepsWords_onTid s t.tid fun _ => ⟨rfl, rfl⟩

theorem correctSp_cores (g off n : Nat) : (s.correctSp g off n).cores = s.cores := by
  unfold State.correctSp
  dsimp only
  split
  · exact countFixed_cores ..
  · rfl

theorem barPut_threads (c : Core) (off w : Nat) : (c.barPut off w).threads = c.threads := rfl

theorem keepsWords_barUpdate (c : Copy) (unit : Word) (key : TeamKey) (f : Nat → Nat) : KeepsWords s (s.barUpdate c unit key f) := by
  unfold State.barUpdate
  split
  · exact .refl s
  · next g tm _ =>
    dsimp only
    split
    · exact (KeepsWords.of_cores (alarm_cores s ..)).trans (keepsWords_onTid _ c.tid fun t => report_words t _)
    · exact (KeepsWords.of_cores (correctSp_cores s ..)).trans (.setCore (barPut_threads ..))

theorem keepsWords_barGiveUp (loc : CopyLoc) (c : Copy) : KeepsWords s (s.barGiveUp loc c) := by
  unfold State.barGiveUp
  dsimp only
  split
  · exact .refl s
  · split
    · exact .foldl (fun s e => keepsWords_barUpdate s ..) _ s
    · exact keepsWords_barUpdate s ..

theorem keepsWords_removeCopy (loc : CopyLoc) (c : Copy) : KeepsWords s (s.removeCopy loc c) := by
  unfold State.removeCopy
  split
  · exact .setCore rfl
  · exact .of_cores rfl

theorem keepsWords_endCopy (g : Nat) (loc : CopyLoc) (c : Copy) : KeepsWords s (s.endCopy g loc c) :=
  ((keepsWords_barGiveUp s loc c).trans (keepsWords_removeCopy _ loc c)).trans (.of_cores rfl)

theorem keepsWords_releaseStream (g tid : Nat) (i : Fin 4) : KeepsWords s (s.releaseStream g tid i) := by
  unfold State.releaseStream
  split
  · exact .refl s
  · split
    · exact .refl s
    · next t ht =>
      have hset := KeepsWords.setThread (u := { t with streams := t.streams.set i none }) ht ⟨rfl, rfl⟩
      dsimp only
      repeat' split
      · exact hset
      · exact hset
      · exact hset.trans (keepsWords_endCopy ..)
      · exact hset
      · exact hset

theorem keepsWords_releaseStreams (g tid : Nat) : KeepsWords s (s.releaseStreams g tid) :=
  .foldl (fun s i => keepsWords_releaseStream s g tid (Fin.ofNat 4 i)) _ s

/-- A ticket's entry claimed by a thread for a v register, whose groups are then dropped (R232). -/
def TkEntry.forgetV (tid : Nat) (k : TkEntry) : TkEntry :=
  match k.claim with
  | some c => (match c.form with
    | .v _ _ => if c.tid = tid then { k with claim := some { c with form := .drop } } else k
    | _ => k)
  | none => k

/-- A core whose entries are so. -/
def Core.forgetV (tid : Nat) (c : Core) : Core := { c with tickets := c.tickets.map fun k => (k.1, k.2.forgetV tid) }

theorem forgetV_cores (tid : Nat) : (s.forgetV tid).cores = s.cores.map fun e => (e.1, e.2.forgetV tid) := rfl

theorem keepsWords_forgetV (tid : Nat) : KeepsWords s (s.forgetV tid) :=
  .of_threads fun g => by rw [core_of_map (forgetV_cores s tid) rfl]; rfl

end

/-! The departure (R202). -/

section
variable {x : Ctx} {c : Core} {t : Thread}

/-- The package that a thread has left but for its slot: its gang, its streams and the replies to its v registers. -/
def State.leftBy (s : State) (g : Nat) (t : Thread) : State := ((s.leaveGang t).releaseStreams g t.tid).forgetV t.tid

theorem keepsWords_leftBy (s : State) (g : Nat) (t : Thread) : KeepsWords s (s.leftBy g t) :=
  ((keepsWords_leaveGang s t).trans (keepsWords_releaseStreams _ g t.tid)).trans (keepsWords_forgetV _ t.tid)

/-- The context that a thread sends as it leaves: its words, and the pc after its move. -/
theorem depart_context (hslot : x.slot < 16) (target : Nat) : ∃ u cyc clock, (x.depart c t target).net.getLast? =
    some (.context u x.g target cyc clock) ∧ SameWords t u ∧ u.pc = succPc t.pc := by
  have hthere : (x.s.setCore x.g (c.setThread x.slot (some t))).thread x.g x.slot = some t := by
    rw [State.thread, core_setCore_self, coreThread_setThread _ _ _ hslot, if_pos rfl]
  obtain ⟨u0, hu0, hwords⟩ := (keepsWords_leftBy _ x.g t).thread _ _ _ hthere
  refine ⟨_, _, _, List.getLast?_concat .., ?_, rfl⟩
  rw [show State.thread (State.forgetV ..) x.g x.slot = some u0 from hu0]
  exact hwords

theorem countFor_threads (s : State) (key : TeamKey) (dest : Option Nat) (h : Nat) :
    ((s.countFor key dest).core h).threads = (s.core h).threads := by
  have hcounts := countFor_core s key dest h
  rw [CountsOnly] at hcounts
  rw [hcounts]

/-- The thread has left its slot. -/
theorem depart_thread (hslot : x.slot < 16) (target : Nat) : (x.depart c t target).thread x.g x.slot = none := by
  refine (thread_of_threads (countFor_threads ..) x.slot).trans ?_
  rw [State.thread, core_setCore_self, coreThread_setThread _ _ _ hslot, if_pos rfl]

end

/-! Moves (R202, R203). -/

section
variable {gd : Guard} {f : Fields} {s : State} {x : Ctx}

/-- What a move to another core leaves. -/
structure Departed (s : State) (x : Ctx) (target : Nat) (t : State) : Prop where
  cls     : t.cls = .issued
  memory  : SameMemory s t
  slot    : t.thread x.g x.slot = none
  context : ∃ u cyc clock, t.net.getLast? = some (.context u x.g target cyc clock) ∧ SameWords x.t u ∧ u.pc = succPc x.t.pc

theorem departed_depart (hx : ctxOf s = some x) (c : Core) {t : Thread} (hd : t.d = x.t.d) (hwid : t.wid = x.t.wid) (hpc : t.pc = x.t.pc)
    (target : Nat) : Departed s x target (x.depart c t target) where
  cls := rfl
  memory a := by rw [depart_mem, (ctxOf_state hx).1]
  slot := depart_thread (slot_lt_of_ctxOf hx) target
  context := by
    obtain ⟨u, cyc, clock, hnet, ⟨hd', hwid'⟩, hpc'⟩ := depart_context (x := x) (c := c) (t := t) (slot_lt_of_ctxOf hx) target
    exact ⟨u, cyc, clock, hnet, ⟨hd'.trans hd, hwid'.trans hwid⟩, hpc'.trans (congrArg succPc hpc)⟩

theorem moveTo_here (c : Core) (t : Thread) : x.moveTo c t x.g = x.finish c t := if_pos rfl

theorem moveTo_away (c : Core) (t : Thread) {target : Nat} (h : target ≠ x.g) (hwait : moveWait x = false) (hblocked : moveBlocked x = false) :
    x.moveTo c t target = x.depart c t target := by
  rw [Ctx.moveTo, if_neg h, hwait, hblocked]
  rfl

/-- A `migr` outside a handler whose checks pass moves its thread. -/
theorem exec_migr_moves (he : Executes gd s x) (hinh : x.t.inh = false) (hsrc : srcWaits x [] [f.src1] = []) {p : Place}
    (hreach : Reaches x .planar .locate (val (x.take [f.src1]).1 0) [val (x.take [f.src1]).1 0] [p])
    (hclu : s.clusterOk x.t.colour (clusterOf p.moveCore) = true) :
    exec (.migr gd f) s = .next (x.moveTo (x.take [f.src1]).2.1 (x.take [f.src1]).2.2 p.moveCore) := by
  obtain ⟨rfl, -⟩ := ctxOf_state he.1
  obtain ⟨hbits, hreg, hps⟩ := hreach
  refine (turn_ready he hsrc).trans (congrArg _ ((if_neg (ne_true_of_eq_false hinh)).trans ?_))
  exact (access_proceeds _ (List.forall_mem_of_forall_mem_cons hbits) hreg hps).trans (if_neg (ne_false_of_eq_true hclu))

/-- A `home` outside a handler moves its thread to its team's core. -/
theorem exec_home_moves (he : Executes gd s x) (hinh : x.t.inh = false) {h : Nat} {tm : Team}
    (hteam : s.findTeam x.t.key = some (h, tm)) : exec (.home gd f) s = .next (x.moveTo x.c x.t h) := by
  obtain ⟨rfl, -⟩ := ctxOf_state he.1
  refine (turn_ready he rfl).trans (congrArg _ ((if_neg (ne_true_of_eq_false hinh)).trans ?_))
  rw [hteam]
  rfl

end

/-- Settles O34: a move is a finish here, or a departure whose context bears the thread's words and its successor's pc. -/
theorem movesComplete : Obligations.MovesComplete := by
  unfold Obligations.MovesComplete
  intro gd f s x he hinh
  constructor
  · intro hsrc p hreach hclu
    rw [exec_migr_moves he hinh hsrc hreach hclu]
    refine ⟨fun h => ⟨_, rfl, ?_⟩, fun h hwait hblocked => ?_⟩
    · rw [h, moveTo_here]
      exact issuesAs_finish he.1 ..
    · obtain ⟨ss, df, htake⟩ := take_thread x [f.src1]
      rw [moveTo_away _ _ h hwait hblocked]
      obtain ⟨hcls, hmem, hslot, u, cyc, clock, hnet, ⟨hd, hwid⟩, hpc⟩ :=
        departed_depart he.1 (x.take [f.src1]).2.1 (t := (x.take [f.src1]).2.2) (by rw [htake]) (by rw [htake]) (by rw [htake]) p.moveCore
      exact ⟨_, u, cyc, clock, rfl, hcls, hmem, hslot, hnet, hd, hwid, hpc⟩
  · intro h tm hteam
    rw [exec_home_moves he hinh hteam]
    refine ⟨fun hh => ⟨_, rfl, ?_⟩, fun hh hwait hblocked => ?_⟩
    · rw [hh, moveTo_here]
      exact issuesAs_finish he.1 ..
    · rw [moveTo_away _ _ hh hwait hblocked]
      obtain ⟨hcls, hmem, hslot, u, cyc, clock, hnet, ⟨hd, hwid⟩, hpc⟩ := departed_depart he.1 x.c (t := x.t) rfl rfl rfl h
      exact ⟨_, u, cyc, clock, rfl, hcls, hmem, hslot, hnet, hd, hwid, hpc⟩

end Sys2Proof.Machine
end

section
/-! PROOFS. Messages of the device on its ports (R393, R394, R398): a port that has sent messages differs from what it was in its numbers, its
stores and its users alone, and holds every message that it held. -/
namespace Sys2Proof.Machine
open Sys2Proof

/-! Ports. -/

/-- The messages that a port has sent and not seen acknowledged, and those that wait to be sent (R394). -/
def Port.held (p : Port) : List DevMsg := p.store.map Prod.snd ++ p.waiting

/-- A port after messages of the device, and traffic of colours, have gone by it. -/
structure PortSent (p p' : Port) : Prop where
  port : p' = { p with txl := p'.txl, sent := p'.sent, store := p'.store, wire := p'.wire, waiting := p'.waiting, users := p'.users }
  held : ∀ m ∈ p.held, m ∈ p'.held

section
variable {p p' p'' : Port}

theorem PortSent.refl (p : Port) : PortSent p p := ⟨rfl, fun _ h => h⟩

theorem PortSent.trans (h : PortSent p p') (h' : PortSent p' p'') : PortSent p p'' where
  port := h'.port.trans (by rw [h.port])
  held m hm := h'.held m (h.held m hm)

theorem PortSent.users (p : Port) (us : List Nat) : PortSent p { p with users := us } := ⟨rfl, fun _ h => h⟩

theorem PortSent.sess (h : PortSent p p') : p'.sess = p.sess := by rw [h.port]
theorem PortSent.up (h : PortSent p p') : p'.up = p.up := by rw [h.port]
theorem PortSent.ack (h : PortSent p p') : p'.ack = p.ack := by rw [h.port]
theorem PortSent.rxl (h : PortSent p p') : p'.rxl = p.rxl := by rw [h.port]
theorem PortSent.rxq (h : PortSent p p') : p'.rxq = p.rxq := by rw [h.port]
theorem PortSent.ctl (h : PortSent p p') : p'.ctl = p.ctl := by rw [h.port]
theorem PortSent.tagf (h : PortSent p p') : p'.tagf = p.tagf := by rw [h.port]
theorem PortSent.spdm (h : PortSent p p') : p'.spdm = p.spdm := by rw [h.port]
theorem PortSent.got (h : PortSent p p') : p'.got = p.got := by rw [h.port]
theorem PortSent.lead (h : PortSent p p') : p'.lead = p.lead := by rw [h.port]
theorem PortSent.keyGen (h : PortSent p p') : p'.keyGen = p.keyGen := by rw [h.port]

end

theorem portSent_send (p : Port) (m : DevMsg) : PortSent p (p.send m) := by
  unfold Port.send
  split
  · exact ⟨rfl, fun n hn => by simp only [Port.held, List.map_append, List.mem_append] at hn ⊢; tauto⟩
  · exact ⟨rfl, fun n hn => by simp only [Port.held, List.mem_append] at hn ⊢; tauto⟩

theorem mem_held_send (p : Port) (m : DevMsg) : m ∈ (p.send m).held := by
  unfold Port.send
  split <;> simp [Port.held]

theorem portSent_sends (ms : List DevMsg) (p : Port) : PortSent p (ms.foldl Port.send p) ∧ ∀ m ∈ ms, m ∈ (ms.foldl Port.send p).held := by
  induction ms generalizing p with
  | nil => exact ⟨.refl p, by simp⟩
  | cons a rest ih =>
    obtain ⟨hsent, hheld⟩ := ih (p.send a)
    exact ⟨(portSent_send p a).trans hsent, List.forall_mem_cons.mpr ⟨hsent.held a (mem_held_send p a), hheld⟩⟩

/-- A port that sends what waits holds all that it held. -/
theorem portSent_flush (p : Port) : PortSent p p.flush := by
  obtain ⟨⟨hport, hstore⟩, hwaiting⟩ := portSent_sends p.waiting { p with waiting := [] }
  refine ⟨hport, fun m hm => ?_⟩
  rcases List.mem_append.mp hm with h | h
  · exact hstore m (List.mem_append_left _ h)
  · exact hwaiting m h

theorem flush_none {p : Port} (h : p.waiting = []) : p.flush = p := by
  rw [Port.flush, h]
  cases p
  cases h
  rfl

/-! Packages. -/

/-- A package after messages of the device, and traffic of colours, have gone by its ports. -/
structure PortsSent (s s' : State) : Prop where
  port : ∀ q, PortSent (s.port q) (s'.port q)

section
variable {s s' s'' : State}

theorem port_of_ports (h : s'.ports = s.ports) (q : Nat) : s'.port q = s.port q := by rw [State.port, h]; rfl

theorem PortsSent.of_ports (h : s'.ports = s.ports) : PortsSent s s' where
  port q := by
    rw [port_of_ports h]
    exact .refl _

theorem PortsSent.refl (s : State) : PortsSent s s := .of_ports rfl

theorem PortsSent.trans (h : PortsSent s s') (h' : PortsSent s' s'') : PortsSent s s'' :=
  ⟨fun q => (h.port q).trans (h'.port q)⟩

theorem PortsSent.setPort {k : Nat} {p : Port} (h : PortSent (s.port k) p) : PortsSent s (s.setPort k p) where
  port q := by
    rw [port_setPort]
    split
    · next hq => exact hq ▸ h
    · exact .refl _

theorem PortsSent.foldl {α : Type} {f : State → α → State} (h : ∀ s a, PortsSent s (f s a)) (l : List α) (s : State) :
    PortsSent s (l.foldl f s) := by
  induction l generalizing s with
  | nil => exact .refl s
  | cons a rest ih => exact (h s a).trans (ih (f s a))

end

section
variable (s : State)

@[simp] theorem port_setPort_self (k : Nat) (p : Port) : (s.setPort k p).port k = p := by rw [port_setPort, if_pos rfl]

theorem portsSent_toHost (k : Nat) (m : DevMsg) : PortsSent s (s.toHost k m) := .setPort (portSent_send _ m)

theorem portsSent_portUsed (k colour : Nat) : PortsSent s (s.portUsed k colour) := by
  unfold State.portUsed
  split
  · exact .refl s
  · exact .setPort (.users _ _)

theorem portsSent_setColour (k : Nat) (c : Colour) : PortsSent s (s.setColour k c) := .of_ports rfl

/-- A port that a colour no longer uses. -/
def Port.leave (colour : Nat) (p : Port) : Port := { p with users := p.users.filter fun k => k != colour }

theorem portsSent_leavePorts (colour : Nat) : PortsSent s (s.leavePorts colour) := by
  have hports : (s.leavePorts colour).ports = s.ports.map fun e => (e.1, e.2.leave colour) := rfl
  refine ⟨fun q => ?_⟩
  have hport : (s.leavePorts colour).port q = (s.port q).leave colour := by
    simp only [State.port, smapGet, hports, smapFind_map_snd]
    cases smapFind s.ports q <;> rfl
  rw [hport]
  exact .users _ _

theorem onTid_ports (tid : Nat) (f : Thread → Thread) : (s.onTid tid f).ports = s.ports := by
  unfold State.onTid
  split
  · rfl
  · split <;> rfl

theorem portsSent_performed (tid id : Nat) : PortsSent s (s.performed tid id) := .of_ports (onTid_ports s tid _)

/-- The work of a colour discarded: the host gets its reports (R372). -/
theorem portsSent_discardJob (colour : Nat) : PortsSent s (s.discardJob colour) := by
  unfold State.discardJob
  dsimp only
  refine PortsSent.trans ?_ (.foldl (fun s m => portsSent_toHost s _ m) _ _)
  refine PortsSent.trans (.trans ?_ (portsSent_portUsed ..)) (portsSent_setColour ..)
  refine PortsSent.trans ?_ (.foldl (fun s (a : Nat × Nat) => portsSent_performed s a.1 a.2) _ _)
  exact .of_ports rfl

theorem portsSent_tdiLeave (colour : Nat) (to_ : TdiState) : PortsSent s (s.tdiLeave colour to_) := by
  refine PortsSent.trans (.trans ?_ (portsSent_discardJob _ colour)) (portsSent_leavePorts _ colour)
  exact .of_ports rfl

theorem portsSent_tdiError (colour : Nat) : PortsSent s (s.tdiError colour) := by
  unfold State.tdiError
  split
  · exact portsSent_tdiLeave ..
  · exact portsSent_tdiLeave ..
  · exact .refl s

/-- A port whose session has ended (R398). -/
def Port.ended (p : Port) : Port :=
  { p with sess := false, tagRun := 0, spdm := 0, users := [], rxq := p.rxq.filter fun m => !LinkMsg.inSession m }

/-- The session of a port ends, and what its colours report goes by the ports. -/
theorem endSession_port (port : Nat) : PortSent (s.port port).ended ((s.endSession port).port port) := by
  have hsent : PortsSent (s.setPort port (s.port port).ended) (s.endSession port) := .foldl portsSent_tdiError _ _
  have hport := hsent.port port
  rwa [port_setPort_self] at hport

end

end Sys2Proof.Machine
end

section
/-! PROOFS. Links and sessions (R192, R392–R398): each step of a link is enabled by the conditions named, and leaves its port as they say. -/
namespace Sys2Proof.Machine
open Sys2Proof

/-! A message arrives (R392, R393, R398). -/

section
variable {s : State} {port seq : Nat} {msg : LinkMsg} {tagOk : Bool}

/-- A port may be sent this message under its keys and its session. -/
structure Receives (s : State) (port seq : Nat) (msg : LinkMsg) : Prop where
  link : port < 18
  up   : (s.port port).up = true
  seq0 : seq ≠ 0
  seq  : seq < 2 ^ 32
  fits : LinkMsg.fits msg = true
  keys : (s.port port).got < keyLife
  sess : 2 ≤ port ∨ LinkMsg.inSession msg = true → (s.port port).sess = true

/-- What a message with a good tag leaves, as it has the next number or another. -/
def State.tagged (s : State) (port seq : Nat) (msg : LinkMsg) : Option State :=
  let p := s.port port
  if seq = nextSeq p.rxl then
    if port < 2 then some (s.setPort port { p.accept seq with rxq := p.rxq ++ [msg] })
    else (peerRequest port msg).map fun m => ((s.setPort port (p.accept seq)).send m).peerUsed port m
  else some (s.setPort port { p with
    tagRun := 0, ctl := p.ctl ++ [if seqAhead (nextSeq p.rxl) seq < 2 ^ 31 then .resend (nextSeq p.rxl) else .ack seq] })

/-- A port that has received a message with a bad tag. -/
def Port.untagged (p : Port) : Port :=
  { p with tagf := min 255 (p.tagf + 1), tagRun := p.tagRun + 1, ctl := p.ctl ++ [.resend (nextSeq p.rxl)] }

theorem exec_linkMessageReceive (h : Receives s port seq msg) : exec (.linkMessageReceive port seq tagOk msg) s =
    orNot "LINK_MESSAGE_RECEIVE" (if tagOk = false then
      some (if 16 ≤ (s.port port).tagRun + 1 then (s.setPort port (s.port port).untagged).endSession port
        else s.setPort port (s.port port).untagged)
    else s.tagged port seq msg) := by
  have hgo : ¬(18 ≤ port ∨ (s.port port).up = false ∨ seq = 0 ∨ 2 ^ 32 ≤ seq ∨ LinkMsg.fits msg = false ∨ keyLife ≤ (s.port port).got ∨
      ((2 ≤ port ∨ LinkMsg.inSession msg = true) ∧ (s.port port).sess = false)) := by
    rintro (h' | h' | h' | h' | h' | h' | ⟨h', hsess⟩)
    · exact absurd h.link (Nat.not_lt.mpr h')
    · exact ne_false_of_eq_true h.up h'
    · exact h.seq0 h'
    · exact absurd h.seq (Nat.not_lt.mpr h')
    · exact ne_false_of_eq_true h.fits h'
    · exact absurd h.keys (Nat.not_lt.mpr h')
    · exact ne_false_of_eq_true (h.sess h') hsess
  exact congrArg (orNot _) (if_neg hgo)

theorem linkMessageReceive_host (h : Receives s port seq msg) (hseq : seq = nextSeq (s.port port).rxl) (hport : port < 2) :
    ∃ t, exec (.linkMessageReceive port seq true msg) s = .next t ∧ SameMemory s t ∧ t.port port = { s.port port with
      rxl := seq, tagRun := 0, got := (s.port port).got + 1, ctl := (s.port port).ctl ++ [.ack seq], rxq := (s.port port).rxq ++ [msg] } := by
  refine exists_next_of_exec _ rfl ((exec_linkMessageReceive h).trans ?_) (port_setPort_self s port _)
  rw [if_neg (by decide), State.tagged, if_pos hseq, if_pos hport]
  rfl

/-- A request's colour uses the port that it came by. -/
theorem peerUsed_port (s : State) (port : Nat) (m : Msg) : ∃ us, (s.peerUsed port m).port port = { s.port port with users := us } ∧
    ∀ r, m.access? = some r → us.contains r.colour = true := by
  unfold State.peerUsed
  split
  · next r hr =>
    have hcolour (r' : Req) (h : m.access? = some r') : r'.colour = r.colour := by
      rw [hr] at h
      exact congrArg Req.colour (Option.some.inj h).symm
    unfold State.portUsed
    split
    · next hused => exact ⟨(s.port port).users, rfl, fun r' h => by rw [hcolour r' h, hused]⟩
    · exact ⟨_, port_setPort_self .., fun r' h => by rw [hcolour r' h]; simp⟩
  · next hr => exact ⟨_, rfl, fun r' h => absurd h (by rw [hr]; exact Option.some_ne_none _ |>.symm)⟩

@[simp] theorem peerUsed_net (s : State) (port : Nat) (m : Msg) : (s.peerUsed port m).net = s.net := by
  unfold State.peerUsed
  split
  · unfold State.portUsed
    split <;> rfl
  · rfl

theorem linkMessageReceive_peer (h : Receives s port seq msg) (hseq : seq = nextSeq (s.port port).rxl) (hport : 2 ≤ port) {m : Msg}
    (hm : peerRequest port msg = some m) :
    ∃ t us, exec (.linkMessageReceive port seq true msg) s = .next t ∧ SameMemory s t ∧ t.net = s.net ++ [m] ∧
      t.port port = { s.port port with
        rxl := seq, tagRun := 0, got := (s.port port).got + 1, ctl := (s.port port).ctl ++ [.ack seq], users := us } ∧
      ∀ r, m.access? = some r → us.contains r.colour = true := by
  let u := (s.setPort port ((s.port port).accept seq)).send m
  obtain ⟨us, hus, hused⟩ := peerUsed_port u port m
  have hexec : exec (.linkMessageReceive port seq true msg) s = .next (u.peerUsed port m) := by
    rw [exec_linkMessageReceive h, if_neg (by decide), State.tagged, if_pos hseq, if_neg (Nat.not_lt.mpr hport), hm]
    rfl
  refine ⟨_, us, hexec, fun a => congrArg (memGet · a) (exec_mem rfl hexec), peerUsed_net .., hus.trans ?_, hused⟩
  rw [show u.port port = (s.port port).accept seq from port_setPort_self ..]
  rfl

theorem linkMessageReceive_other (h : Receives s port seq msg) (hseq : seq ≠ nextSeq (s.port port).rxl) :
    ∃ t, exec (.linkMessageReceive port seq true msg) s = .next t ∧ SameMemory s t ∧ t.port port = { s.port port with
      tagRun := 0, ctl := (s.port port).ctl ++
        [if seqAhead (nextSeq (s.port port).rxl) seq < 2 ^ 31 then .resend (nextSeq (s.port port).rxl) else .ack seq] } := by
  refine exists_next_of_exec _ rfl ((exec_linkMessageReceive h).trans ?_) (port_setPort_self s port _)
  rw [if_neg (by decide), State.tagged, if_neg hseq]
  rfl

theorem linkMessageReceive_bad (h : Receives s port seq msg) :
    ∃ t, exec (.linkMessageReceive port seq false msg) s = .next t ∧ SameMemory s t ∧ (t.port port).rxl = (s.port port).rxl ∧
      (t.port port).tagf = min 255 ((s.port port).tagf + 1) ∧ (t.port port).ctl = (s.port port).ctl ++ [.resend (nextSeq (s.port port).rxl)] ∧
      ((s.port port).tagRun < 15 → (t.port port).tagRun = (s.port port).tagRun + 1 ∧ (t.port port).sess = (s.port port).sess ∧
        (t.port port).rxq = (s.port port).rxq) ∧
      (15 ≤ (s.port port).tagRun → (t.port port).sess = false ∧
        (t.port port).rxq = (s.port port).rxq.filter fun m => !LinkMsg.inSession m) := by
  refine exists_next_of_exec _ rfl ((exec_linkMessageReceive h).trans (by rw [if_pos rfl]; rfl)) ?_
  split
  · next hrun =>
    have hended := endSession_port (s.setPort port (s.port port).untagged) port
    rw [port_setPort_self] at hended
    exact ⟨hended.rxl, hended.tagf, hended.ctl, fun hlt => absurd hrun (by omega), fun _ => ⟨hended.sess, hended.rxq⟩⟩
  · next hrun =>
    rw [port_setPort_self]
    exact ⟨rfl, rfl, rfl, fun _ => ⟨rfl, rfl, rfl⟩, fun hle => absurd (Nat.succ_le_succ hle) hrun⟩

end

/-! Acknowledgement, training and loss (R393, R394, R396). -/

section
variable {s : State} {port : Nat}

/-- A port that has seen the messages up to `ack` acknowledged (R394). -/
def Port.acked (p : Port) (ack : Nat) : Port := { p with ack := ack, store := p.store.filter fun e => decide (ack < e.1) }

theorem lkAckWrite_next {ack : Nat} (hport : port < 18) (hack : ack < 2 ^ 32) :
    ∃ t, exec (.lkAckWrite port ack) s = .next t ∧ SameMemory s t ∧ (t.port port).ack = max ack (s.port port).ack ∧
      ((s.port port).waiting = [] → (s.port port).ack ≤ ack →
        (t.port port).store = (s.port port).store.filter fun e => decide (ack < e.1)) := by
  have hexec : exec (.lkAckWrite port ack) s = .next (if ack < (s.port port).ack then s else s.setPort port ((s.port port).acked ack).flush) := by
    refine (congrArg (orNot _) (if_neg (not_or.mpr ⟨Nat.not_le.mpr hport, Nat.not_le.mpr hack⟩))).trans ?_
    split <;> rfl
  refine exists_next_of_exec _ rfl hexec ?_
  split
  · next hlt => exact ⟨(Nat.max_eq_right (Nat.le_of_lt hlt)).symm, fun _ hle => absurd hlt (Nat.not_lt.mpr hle)⟩
  · next hle =>
    rw [port_setPort_self]
    refine ⟨(portSent_flush ((s.port port).acked ack)).ack.trans (Nat.max_eq_left (Nat.not_lt.mp hle)).symm, fun hwaiting _ => ?_⟩
    rw [flush_none (p := (s.port port).acked ack) hwaiting]
    rfl

theorem lkAckReplay_next (hport : port < 18) (hup : (s.port port).up = true) :
    ∃ t, exec (.lkAckReplay port) s = .next t ∧ SameMemory s t ∧ (t.port port).wire = (s.port port).wire ++
      (s.port port).store.filter (fun e => decide ((s.port port).ack < e.1) && (s.port port).carries e.2) ∧
      (t.port port).store = (s.port port).store := by
  refine exists_next_of_exec _ rfl
    (congrArg (orNot _) (if_neg (not_or.mpr ⟨Nat.not_le.mpr hport, ne_false_of_eq_true hup⟩))) ?_
  rw [port_setPort_self]
  exact ⟨rfl, rfl⟩

theorem linkTrain_next (hport : port < 18) (hdown : (s.port port).up = false) (hpower : s.powered = true)
    (hboot : (s.die (portDie port)).boot = 0) (hdigest : port < 2 ∨ (s.port port).digest.isSome = true) :
    ∃ t, exec (.linkTrain port) s = .next t ∧ SameMemory s t ∧ (t.port port).up = true := by
  have hgo : ¬(18 ≤ port ∨ (s.port port).up = true ∨ s.powered = false ∨ (s.die (portDie port)).boot ≠ 0 ∨
      (2 ≤ port ∧ (s.port port).digest.isNone = true)) := by
    rintro (h | h | h | h | ⟨h, hnone⟩)
    · exact absurd hport (Nat.not_lt.mpr h)
    · exact ne_true_of_eq_false hdown h
    · exact ne_false_of_eq_true hpower h
    · exact h hboot
    · rcases hdigest with hd | hd
      · exact absurd hd (Nat.not_lt.mpr h)
      · rw [Option.isNone_iff_eq_none] at hnone
        rw [hnone] at hd
        cases hd
  refine exists_next_of_exec _ rfl (congrArg (orNot _) (if_neg hgo)) ?_
  rw [port_setPort_self]
  exact (portSent_flush _).up

theorem linkLoss_next (hport : port < 18) (hup : (s.port port).up = true) :
    ∃ t, exec (.linkLoss port) s = .next t ∧ SameMemory s t ∧
      t.port port = { s.port port with up := false, sess := (s.port port).sess && decide (port < 2) } :=
  exists_next_of_exec _ rfl (congrArg (orNot _) (if_neg (not_or.mpr ⟨Nat.not_le.mpr hport, ne_false_of_eq_true hup⟩)))
    (port_setPort_self ..)

end

/-! Peers (R192, R396). -/

section
variable {s : State} {port : Nat}

theorem portSent_open (p : Port) : PortSent { p with sess := true, tagRun := 0, sent := 0, got := 0 } p.open_ := portSent_flush _

/-- A message of the device to the host is held at its port. -/
theorem toHost_held (s : State) (k : Nat) (m : DevMsg) : m ∈ ((s.toHost k m).port k).held := by
  rw [State.toHost, port_setPort_self]
  exact mem_held_send ..

/-- The port, where the end with the lower chain digest leads the session (R396). -/
def Port.leads (p : Port) (d : Nat) : Port := { p with lead := decide (Config.chainDigest < d) }

theorem peerHandshake_next (chain : Option Nat) (hlo : 2 ≤ port) (hhi : port < 18) (hup : (s.port port).up = true)
    (hsess : (s.port port).sess = false) :
    ∃ t, exec (.peerHandshake port chain) s = .next t ∧ SameMemory s t ∧
      (t.port port).sess = (chain.isSome && (s.port port).digest == chain) ∧
      (∀ d, chain = some d → (s.port port).digest = some d → (t.port port).lead = decide (Config.chainDigest < d)) ∧
      (chain = none ∨ (s.port port).digest ≠ chain → .management (0x1000 + port) ∈ (t.port s.hostPort).held) := by
  have hgo : ¬(port < 2 ∨ 18 ≤ port ∨ (s.port port).up = false ∨ (s.port port).sess = true) := by
    rintro (h | h | h | h)
    · omega
    · omega
    · exact ne_false_of_eq_true hup h
    · exact ne_true_of_eq_false hsess h
  have hreport : ((s.manage (0x1000 + port)).port port).sess = false :=
    ((portsSent_toHost s s.hostPort _).port port).sess.trans hsess
  cases chain with
  | none =>
    exact exists_next_of_exec (s.manage (0x1000 + port)) rfl (congrArg (orNot _) (if_neg hgo))
      ⟨hreport, fun d hd => absurd hd (Option.some_ne_none d).symm, fun _ => toHost_held ..⟩
  | some d =>
    by_cases hd : (s.port port).digest = some d
    · refine exists_next_of_exec (s.setPort port ((s.port port).leads d).open_) rfl
        (congrArg (orNot _) ((if_neg hgo).trans (congrArg some (if_pos hd)))) ?_
      rw [port_setPort_self, (portSent_open _).sess, (portSent_open _).lead]
      exact ⟨by simp [hd], fun d' h' _ => congrArg (fun e => decide (Config.chainDigest < e)) (Option.some.inj h'), fun h => absurd h (by simp [hd])⟩
    · refine exists_next_of_exec (s.manage (0x1000 + port)) rfl (congrArg (orNot _) ((if_neg hgo).trans (congrArg some (if_neg hd)))) ?_
      rw [hreport]
      exact ⟨by simp [hd], fun d' h' hd' => absurd (hd'.trans h'.symm) hd, fun _ => toHost_held ..⟩

/-- A die whose package number is `pkg`. -/
def Die.ofPackage (pkg : Nat) (d : Die) : Die := { d with pkg := pkg }

theorem peerConfigWrite_own (hs : s.allUnlocked = true) {pkg : Nat} (hpkg : pkg < 256) :
    ∃ t, exec (.peerConfigWrite (.own pkg)) s = .next t ∧ SameMemory s t ∧ ∀ d, d < 8 → (t.die d).pkg = pkg := by
  refine exists_next_of_exec ((List.range 8).foldl (fun s d => s.setDie d ((s.die d).ofPackage pkg)) s) rfl
    ((congrArg (orNot _) (if_neg (ne_false_of_eq_true hs))).trans ?_) fun d hd => ?_
  · dsimp only
    rw [if_neg (Nat.not_le.mpr hpkg)]
    rfl
  · rw [die_foldl_setDie (Die.ofPackage pkg) _ List.nodup_range, if_pos (List.mem_range.mpr hd)]
    rfl

theorem peerConfigWrite_route (hs : s.allUnlocked = true) {die pkg p : Nat} (hdie : die < 8) (hpkg : pkg < 256) (hp : p / 2 = die + 1) :
    ∃ t, exec (.peerConfigWrite (.route die pkg (some p))) s = .next t ∧ SameMemory s t ∧ smapFind (t.die die).routes pkg = some p := by
  have hgo : ¬(8 ≤ die ∨ 256 ≤ pkg ∨ (some p).any (fun p => p / 2 != die + 1) = true) := by
    rintro (h | h | h)
    · exact absurd hdie (Nat.not_lt.mpr h)
    · exact absurd hpkg (Nat.not_lt.mpr h)
    · simp [hp] at h
  refine exists_next_of_exec _ rfl ((congrArg (orNot _) (if_neg (ne_false_of_eq_true hs))).trans
    (congrArg (orNot _) (if_neg hgo))) ?_
  rw [die_setDie, if_pos rfl]
  exact smapFind_put_self ..

theorem peerConfigWrite_peer (hs : s.allUnlocked = true) {pkg digest : Nat} (hlo : 2 ≤ port) (hhi : port < 18) :
    ∃ t, exec (.peerConfigWrite (.peer port pkg digest)) s = .next t ∧ SameMemory s t ∧
      (t.port port).digest = some digest ∧ (t.port port).peer = pkg := by
  refine exists_next_of_exec _ rfl ((congrArg (orNot _) (if_neg (ne_false_of_eq_true hs))).trans
    (congrArg (orNot _) (if_neg (not_or.mpr ⟨Nat.not_lt.mpr hlo, Nat.not_le.mpr hhi⟩)))) ?_
  rw [port_setPort_self]
  exact ⟨rfl, rfl⟩

end

/-! Keys and the SPDM exchange (R397, R398). -/

section
variable {s : State} {port : Nat}

theorem portSent_newKeys (p : Port) : PortSent { p with keyGen := p.keyGen + 1, sent := 0, got := 0 } p.newKeys := portSent_flush _

theorem keyUpdate_next (hport : port < 18) (hsess : (s.port port).sess = true) :
    ∃ t, exec (.keyUpdate port) s = .next t ∧ SameMemory s t ∧ (t.port port).keyGen = (s.port port).keyGen + 1 ∧ (t.port port).got = 0 ∧
      ((s.port port).waiting = [] → (t.port port).sent = 0) := by
  refine exists_next_of_exec _ rfl
    (congrArg (orNot _) (if_neg (not_or.mpr ⟨Nat.not_le.mpr hport, ne_false_of_eq_true hsess⟩))) ?_
  rw [port_setPort_self]
  refine ⟨(portSent_newKeys _).keyGen, (portSent_newKeys _).got, fun hwaiting => ?_⟩
  rw [Port.newKeys, flush_none (p := { s.port port with keyGen := _, sent := 0, got := 0 }) hwaiting]

/-- A host port's queue that begins with an SPDM request gives it first: nothing holds it back. -/
theorem takeHost_spdm {code : Nat} {rest : List LinkMsg} (hport : port < 2) (hq : (s.port port).rxq = .spdm code :: rest) :
    s.takeHost port = some (.spdm code, s.setPort port { s.port port with rxq := rest }) := by
  have hopen : s.hostBlocked port (.spdm code) = false := rfl
  have hpre : (LinkMsg.spdm code :: rest).takeWhile (s.hostBlocked port) = [] := by rw [List.takeWhile_cons, hopen]; rfl
  simp only [State.takeHost, hq, hpre, List.length_nil, List.drop_zero, List.nil_append, if_pos hport]

/-- What an answered request does to its port's session: the end of a handshake opens it, a key update replaces its keys, and an end closes it. -/
def State.spdmDone (s : State) (port code : Nat) : State :=
  if code = 0xE5 then s.setPort port (s.port port).open_
  else if code = 0xE9 then s.setPort port (s.port port).newKeys
  else if code = 0xEC then s.endSession port
  else s

theorem spdmDone_end (s : State) (port : Nat) : PortSent (s.port port).ended ((s.spdmDone port 0xEC).port port) := endSession_port s port

theorem spdmDone_keeps (s : State) (port : Nat) {code : Nat} (h : code ≠ 0xEC) :
    ((s.spdmDone port code).port port).rxq = (s.port port).rxq ∧ ((s.spdmDone port code).port port).spdm = (s.port port).spdm ∧
      (code = 0xE5 → ((s.spdmDone port code).port port).sess = true) ∧
      ∀ m ∈ (s.port port).held, m ∈ ((s.spdmDone port code).port port).held := by
  unfold State.spdmDone
  split
  · have hopen := portSent_open (s.port port)
    rw [port_setPort_self]
    exact ⟨hopen.rxq, hopen.spdm, fun _ => hopen.sess, hopen.held⟩
  · next hbegin =>
    split
    · have hkeys := portSent_newKeys (s.port port)
      rw [port_setPort_self]
      exact ⟨hkeys.rxq, hkeys.spdm, fun h => absurd h hbegin, hkeys.held⟩
    · exact ⟨rfl, rfl, fun h => absurd h hbegin, fun _ hm => hm⟩

/-- The package once a request has been answered, at the stage that its answer leads to. -/
def State.spdmAnswered (s : State) (port code stage : Nat) (body : List Byte) : State :=
  let s1 := s.toHost port (.spdmResponse (code % 128) body)
  s1.setPort port { s1.port port with spdm := stage }

theorem spdmAnswered_port (s : State) (port code stage : Nat) (body : List Byte) :
    ∃ p, PortSent (s.port port) p ∧ .spdmResponse (code % 128) body ∈ p.held ∧
      (s.spdmAnswered port code stage body).port port = { p with spdm := stage } :=
  ⟨_, (portsSent_toHost s port _).port port, toHost_held .., port_setPort_self ..⟩

section
variable {code : Nat} {rest : List LinkMsg}

/-- The package whose host port has given its first message. -/
def State.taking (s : State) (port : Nat) (rest : List LinkMsg) : State := s.setPort port { s.port port with rxq := rest }

theorem exec_spdmRequest (hport : port < 2) (hq : (s.port port).rxq = .spdm code :: rest) :
    exec (.spdmRequest port) s = .next (match spdmAnswer s.firmware (s.port port).spdm code with
      | none => (s.taking port rest).toHost port (.spdmResponse 0x7F [])
      | some (stage, body) => ((s.taking port rest).spdmAnswered port code stage body).spdmDone port code) := by
  refine (show _ = execSpdmRequest port s from rfl).trans ?_
  rw [execSpdmRequest, takeHost_spdm hport hq]
  rfl

theorem spdmAnswer_end {firmware stage stage' : Nat} {body : List Byte} (h : spdmAnswer firmware stage 0xEC = some (stage', body)) :
    stage' = 0 := by
  simp only [spdmAnswer] at h
  split at h
  · cases h
    rfl
  · cases h

theorem spdmRequest_next (hport : port < 2) (hq : (s.port port).rxq = .spdm code :: rest) :
    ∃ t, exec (.spdmRequest port) s = .next t ∧ SameMemory s t ∧ (code ≠ 0xEC → (t.port port).rxq = rest) ∧
      (∀ stage body, spdmAnswer s.firmware (s.port port).spdm code = some (stage, body) → (t.port port).spdm = stage ∧
        (code = 0xE5 → (t.port port).sess = true) ∧
        (code = 0xEC → (t.port port).sess = false ∧ (t.port port).rxq = rest.filter fun m => !LinkMsg.inSession m) ∧
        .spdmResponse (code % 128) body ∈ (t.port port).held) ∧
      (spdmAnswer s.firmware (s.port port).spdm code = none → (t.port port).spdm = (s.port port).spdm ∧
        (t.port port).sess = (s.port port).sess ∧ .spdmResponse 0x7F [] ∈ (t.port port).held) := by
  have htaking : (s.taking port rest).port port = { s.port port with rxq := rest } := port_setPort_self ..
  refine exists_next_of_exec _ rfl (exec_spdmRequest hport hq) ?_
  split
  · next hnone =>
    have hsent := (portsSent_toHost (s.taking port rest) port (.spdmResponse 0x7F [])).port port
    rw [htaking] at hsent
    exact ⟨fun _ => hsent.rxq, fun _ _ h => absurd (hnone.symm.trans h) (Option.some_ne_none _).symm,
      fun _ => ⟨hsent.spdm, hsent.sess, toHost_held ..⟩⟩
  · next stage body hsome =>
    obtain ⟨p, hsent, hheld, hp⟩ := spdmAnswered_port (s.taking port rest) port code stage body
    rw [htaking] at hsent
    refine ⟨fun hcode => ?_, fun stage' body' h => ?_, fun h => absurd (hsome.symm.trans h) (Option.some_ne_none _)⟩
    · rw [(spdmDone_keeps _ port hcode).1, hp]
      exact hsent.rxq
    · obtain ⟨rfl, rfl⟩ := Prod.mk.inj (Option.some.inj (hsome.symm.trans h))
      by_cases hcode : code = 0xEC
      · subst hcode
        have hended := spdmDone_end ((s.taking port rest).spdmAnswered port 0xEC stage body) port
        rw [hp] at hended
        refine ⟨hended.spdm.trans (spdmAnswer_end hsome).symm, fun h => absurd h (by decide), fun _ => ⟨hended.sess, ?_⟩, hended.held _ hheld⟩
        exact hended.rxq.trans (congrArg _ hsent.rxq)
      · obtain ⟨-, hspdm, hsess, hkept⟩ := spdmDone_keeps ((s.taking port rest).spdmAnswered port code stage body) port hcode
        rw [hp] at hspdm hkept
        exact ⟨hspdm, hsess, fun h => absurd h hcode, hkept _ hheld⟩

end

end

/-- Settles O59: each step is enabled by the conditions named, and leaves its port as R192 and R392–R398 say. -/
theorem linkEventsComplete : Obligations.LinkEventsComplete := by
  unfold Obligations.LinkEventsComplete
  refine ⟨?_, fun s port ack hport hack => lkAckWrite_next hport hack, fun s port hport hup => lkAckReplay_next hport hup,
    fun s port hport hdown hpower hboot hdigest => linkTrain_next hport hdown hpower hboot hdigest,
    fun s port hport hup => linkLoss_next hport hup,
    fun s port chain hlo hhi hup hsess => peerHandshake_next chain hlo hhi hup hsess,
    fun s hs => ⟨fun pkg hpkg => peerConfigWrite_own hs hpkg, fun die pkg p hdie hpkg hp => peerConfigWrite_route hs hdie hpkg hp,
      fun port pkg digest hlo hhi => peerConfigWrite_peer hs hlo hhi⟩,
    fun s port hport hsess => keyUpdate_next hport hsess,
    fun s port code rest hport hq => spdmRequest_next hport hq⟩
  intro s port seq tagOk msg p next hport hup hseq0 hseq hfits hkeys hsess
  have hreceives : Receives s port seq msg := ⟨hport, hup, hseq0, hseq, hfits, hkeys, hsess⟩
  refine ⟨?_, ?_, ?_, ?_⟩
  · rintro rfl hnext hhost
    exact linkMessageReceive_host hreceives hnext hhost
  · rintro m rfl hnext hpeer hm
    exact linkMessageReceive_peer hreceives hnext hpeer hm
  · rintro rfl hnext
    exact linkMessageReceive_other hreceives hnext
  · rintro rfl
    exact linkMessageReceive_bad hreceives

end Sys2Proof.Machine
end

section
/-! PROOFS. Reset (R218, R346, R369, R385, R402). -/
namespace Sys2Proof.Machine
open Sys2Proof

/-! Reset lists no core, no colour and no die, so that each is as its own reset leaves it. -/

theorem reset_core (g : Nat) : State.reset.core g = Core.reset := rfl
theorem reset_colour (k : Nat) : State.reset.colour k = Colour.reset := rfl
theorem reset_die (d : Nat) : State.reset.die d = Die.reset := rfl

/-- Settles O6: every core, colour and die has its reset values. -/
theorem resetValues : Obligations.ResetValues := by
  unfold Obligations.ResetValues
  refine ⟨rfl, rfl, rfl, fun g => ?_, fun k => ?_, fun d => ?_, fun d => ?_⟩
  · rw [reset_core]; rfl
  · rw [reset_colour]; rfl
  · rw [reset_die]; rfl
  · rw [reset_die]; rfl

end Sys2Proof.Machine
end

section
/-! PROOFS. The ticket tables (R217, R220–R223, R227–R230): an entry read after it, or what is no part of its table, has been replaced, and each
step of a slice. -/
namespace Sys2Proof.Machine
open Sys2Proof

/-! An entry of a table. -/

theorem setTk_tk (s : State) (g e : Nat) (k : TkEntry) : ((s.setTk g e k).core g).tk e = k := by
  rw [State.setTk, core_setCore_self, Core.tk, smapGet_put_self]

theorem setTk_spad (s : State) (g e h : Nat) (k : TkEntry) : ((s.setTk g e k).core h).spad = (s.core h).spad := by
  by_cases hg : h = g
  · subst hg; rw [State.setTk, core_setCore_self]
  · rw [State.setTk, core_setCore_other _ _ hg]

theorem tk_of_tickets {c c' : Core} (h : c'.tickets = c.tickets) (e : Nat) : c'.tk e = c.tk e := by rw [Core.tk, h, Core.tk]

theorem freeTk_st (s : State) (g e : Nat) : (((s.freeTk g e).core g).tk e).st = 0 := by rw [State.freeTk, setTk_tk]; rfl

theorem ThreadsOnly.tickets {c c' : Core} (h : ThreadsOnly c c') : c'.tickets = c.tickets := by obtain ⟨_, _, rfl⟩ := h; rfl

theorem ThreadsOnly.tk {c c' : Core} (h : ThreadsOnly c c') (e : Nat) : c'.tk e = c.tk e := tk_of_tickets h.tickets e

/-- An access performed, or a fetch ended, changes the threads of a core alone. -/
theorem performed_core (s : State) (tid id g : Nat) : ThreadsOnly (s.core g) ((s.performed tid id).core g) := onTid_core s tid _ g

theorem tldDone_core (s : State) (rd : Option (Nat × Nat)) (g : Nat) : ThreadsOnly (s.core g) ((s.tldDone rd).core g) := by
  cases rd with
  | none => exact .refl _
  | some p => exact (performed_core s p.1 p.2 g).trans (onTid_core ..)

/-- A thread replaced where it stands leaves the tables. -/
theorem setThread_tk (s : State) (g k : Nat) (t : Option Thread) (h e : Nat) : ((s.setThread g k t).core h).tk e = (s.core h).tk e := by
  by_cases hg : h = g
  · subst hg; rw [State.setThread, core_setCore_self]; rfl
  · rw [State.setThread, core_setCore_other _ _ hg]

/-! `tld` at its slice (R217, R220). -/

/-- A message that has arrived, with nothing before it, is taken. -/
theorem not_waits {arrived before : Bool} (ha : arrived = true) (hb : before = false) : ¬(arrived = false ∨ before = true) := by simp [ha, hb]

theorem reply_mem_ticketReply (s : State) (home : Nat) (r : Req) (dst : Fin 16) (t : Word) (clock : List Nat) :
    .reply r.tid s.uid (.d dst .z64) (wordBytes 8 t) clock (r.label home) ∈ (s.ticketReply home r dst t clock).net :=
  List.mem_append_right _ (List.mem_singleton_self _)

theorem ticketReply_core (s : State) (home : Nat) (r : Req) (dst : Fin 16) (t : Word) (clock : List Nat) (g : Nat) :
    (s.ticketReply home r dst t clock).core g = s.core g := rfl

section
variable {s : State} {k home n p launch team : Nat} {r : Req} {dst : Fin 16} {ty : Ty} {tz det : Bool} {addrs : List Nat}

theorem tldRequest_taken {e : Nat} (hm : s.net[k]? = some (.tld r dst home ty tz n p addrs launch team det)) (harr : s.arrived k = true)
    (hheld : s.heldBefore home r.src (addrs.map fun a => (a, 64)) = false) (halloc : (s.core home).tkAlloc = some e)
    (hroom : (s.core home).tkUsed + n * p ≤ 4096) :
    ∃ t, exec (.tldRequest k) s = .next t ∧ SameMemory s t ∧
      ((t.core home).tk e).st = 1 ∧ ((t.core home).tk e).gen = ((s.core home).tk e).gen % 65535 + 1 ∧
      ((t.core home).tk e).n = n ∧ ((t.core home).tk e).planes = p ∧ ((t.core home).tk e).addrs = addrs ∧
      ((t.core home).tk e).colour = r.colour ∧ ∃ id clock, .reply r.tid id (.d dst .z64)
        (wordBytes 8 (s.ticketOf home e r.colour (((s.core home).tk e).gen % 65535 + 1))) clock (r.label home) ∈ t.net := by
  have hexec : exec (.tldRequest k) s = execTldRequest k s := rfl
  simp only [execTldRequest, hm, if_neg (not_waits harr hheld), core_of_cores (State.takeMsg_cores s k), halloc, if_pos hroom, orNot] at hexec
  refine exists_next_of_exec _ rfl hexec ?_
  simp only [ticketReply_core, setTk_tk, true_and]
  exact ⟨_, _, reply_mem_ticketReply ..⟩

theorem tldRequest_null (hm : s.net[k]? = some (.tld r dst home ty tz n p addrs launch team det)) (harr : s.arrived k = true)
    (hheld : s.heldBefore home r.src (addrs.map fun a => (a, 64)) = false)
    (hfull : (s.core home).tkAlloc = none ∨ 4096 < (s.core home).tkUsed + n * p) :
    ∃ t, exec (.tldRequest k) s = .next t ∧ SameMemory s t ∧ (t.core home).tickets = (s.core home).tickets ∧
      ∃ id clock, .reply r.tid id (.d dst .z64) (wordBytes 8 0) clock (r.label home) ∈ t.net := by
  have hexec : exec (.tldRequest k) s = .next (((s.takeMsg k).tldDone (some (r.tid, r.id))).ticketReply home r dst 0 (s.die (dieOf home)).k) := by
    refine (show _ = execTldRequest k s from rfl).trans ?_
    simp only [execTldRequest, hm, if_neg (not_waits harr hheld), core_of_cores (State.takeMsg_cores s k)]
    cases halloc : (s.core home).tkAlloc with
    | none => rfl
    | some e =>
      have hno : ¬(s.core home).tkUsed + n * p ≤ 4096 := Nat.not_le.mpr (hfull.resolve_left (by simp [halloc]))
      simp only [if_neg hno, orNot]
  exact exists_next_of_exec _ rfl hexec ⟨(tldDone_core (s.takeMsg k) _ home).tickets, _, _, reply_mem_ticketReply ..⟩

end

/-! Groups land (R217, R221). -/

/-- The places of a group's planes, and an entry with the bytes of the group in its buffer. -/
def TkEntry.groupIdx (k : TkEntry) (i : Nat) : List Nat := (List.range k.planes).map fun q => q * k.n + i
def TkEntry.filled (k : TkEntry) (m : List (Nat × Byte)) (i : Nat) : TkEntry :=
  { k with data := (k.groupIdx i).foldl (fun d j => smapPut d j (memGets m (k.addrs.getD j 0) 64)) k.data }

theorem mem_groupIdx (k : TkEntry) (i : Nat) {q : Nat} (h : q < k.planes) : q * k.n + i ∈ k.groupIdx i :=
  List.mem_map.mpr ⟨q, List.mem_range.mpr h, rfl⟩

theorem forall_groupIdx {k : TkEntry} {i : Nat} {P : Nat → Prop} (h : ∀ q, q < k.planes → P (q * k.n + i)) : ∀ j ∈ k.groupIdx i, P j := by
  intro j hj
  obtain ⟨q, hq, rfl⟩ := List.mem_map.mp hj
  exact h q (List.mem_range.mp hq)

theorem filled_data_eq (k : TkEntry) (m : List (Nat × Byte)) (i : Nat) : (k.filled m i).data =
    ((k.groupIdx i).map fun j => (j, memGets m (k.addrs.getD j 0) 64)).foldl (fun d e => smapPut d e.1 e.2) k.data :=
  by rw [List.foldl_map]; rfl

theorem filled_data_of_mem {k : TkEntry} (m : List (Nat × Byte)) {i j : Nat} (h : j ∈ k.groupIdx i) :
    smapFind (k.filled m i).data j = some (memGets m (k.addrs.getD j 0) 64) := by
  rw [filled_data_eq]
  refine smapFind_foldl_put ⟨_, List.mem_map.mpr ⟨j, h, rfl⟩, rfl⟩ fun e he hj => ?_
  obtain ⟨j', -, rfl⟩ := List.mem_map.mp he
  rw [← hj]

theorem filled_data_of_not_mem {k : TkEntry} (m : List (Nat × Byte)) {i j : Nat} (h : j ∉ k.groupIdx i) :
    smapFind (k.filled m i).data j = smapFind k.data j := by
  rw [filled_data_eq]
  refine smapFind_foldl_put_other fun e he hj => ?_
  obtain ⟨j', hj', rfl⟩ := List.mem_map.mp he
  exact h (hj ▸ hj')

theorem landed_filled {k : TkEntry} (m : List (Nat × Byte)) (i : Nat) {j : Nat} (h : k.landed j = true) : (k.filled m i).landed j = true := by
  rw [TkEntry.landed, Bool.or_eq_true] at h ⊢
  refine h.imp_right fun hd => ?_
  by_cases hj : j ∈ k.groupIdx i
  · rw [filled_data_of_mem m hj]; rfl
  · rwa [filled_data_of_not_mem m hj]

theorem landed_filled_self {k : TkEntry} (m : List (Nat × Byte)) (i : Nat) (h : 0 < k.planes) : (k.filled m i).landed i = true := by
  have hi : i ∈ k.groupIdx i := by simpa using mem_groupIdx k i h
  rw [TkEntry.landed, filled_data_of_mem m hi, Option.isSome_some, Bool.or_true]

/-- The entry after a group of it has landed: ready, and its fetch over, if it was the last. -/
def TkEntry.afterGroup (k : TkEntry) (m : List (Nat × Byte)) (i : Nat) : TkEntry :=
  let all := (List.range k.n).all (k.filled m i).landed
  { k.filled m i with st := if all && k.st == 1 then 2 else k.st, rd := if all then none else k.rd }

theorem afterGroup_ready {k : TkEntry} (m : List (Nat × Byte)) {i : Nat} (hst : k.st = 1) (hp : 0 < k.planes)
    (h : ∀ j, j < k.n → j ≠ i → k.landed j = true) : (k.afterGroup m i).st = 2 := by
  have hall : (List.range k.n).all (k.filled m i).landed = true := by
    rw [List.all_eq_true]
    intro j hj
    by_cases hji : j = i
    · subst hji; exact landed_filled_self m j hp
    · exact landed_filled m i (h j (List.mem_range.mp hj) hji)
  simp [TkEntry.afterGroup, hall, hst]

theorem ticketGroupLanded_next {s : State} {g e i : Nat} {k : TkEntry} (hk : (s.core g).tk e = k) (hst : k.st ≠ 0) (hi : i < k.n)
    (hl : k.landed i = false) (hw : s.groupWaits k i = false)
    (hsound : ∀ q, q < k.planes → s.bad (k.addrs.getD (q * k.n + i) 0) 64 = false ∧ s.foreign k.colour (k.addrs.getD (q * k.n + i) 0) = false) :
    ∃ t, exec (.ticketGroupLanded g e i) s = .next t ∧ SameMemory s t ∧ (t.core g).tk e = k.afterGroup s.mem i := by
  have hbad : ((List.range k.planes).map fun q => q * k.n + i).any (fun j => s.bad (k.addrs.getD j 0) 64) = false :=
    List.any_eq_false.mpr fun j hj => ne_true_of_eq_false
      (forall_groupIdx (P := fun j => s.bad (k.addrs.getD j 0) 64 = false) (fun q hq => (hsound q hq).1) j hj)
  have hforeign : s.foreignAny k.colour (((List.range k.planes).map fun q => q * k.n + i).map fun j => k.addrs.getD j 0) = false := by
    rw [State.foreignAny, List.any_map]
    exact List.any_eq_false.mpr fun j hj => ne_true_of_eq_false
      (forall_groupIdx (P := fun j => s.foreign k.colour (k.addrs.getD j 0) = false) (fun q hq => (hsound q hq).2) j hj)
  let s1 := (s.correct ((k.groupIdx i).map fun j => (k.addrs.getD j 0, 64))).setTk g e (k.afterGroup s.mem i)
  have hexec : exec (.ticketGroupLanded g e i) s = .next
      (if (List.range k.n).all (k.filled s.mem i).landed = true then s1.tldDone k.rd else s1) := by
    refine (show _ = execTicketGroupLanded g e i s from rfl).trans ?_
    simp only [execTicketGroupLanded, hk, hw, hst, hl, hbad, hforeign, Nat.not_le.mpr hi, Bool.false_eq_true, Bool.or_self, or_self, if_false,
      orNot]
    rfl
  refine exists_next_of_exec _ rfl hexec ?_
  split
  · exact ((tldDone_core s1 k.rd g).tk e).trans (setTk_tk ..)
  · exact setTk_tk ..

/-! A claim at its slice (R222, R223, R364). -/

/-- What is asked of a ticket at its slice is the same after a message has been taken from the fabric. -/
theorem claimCheck_takeMsg (s : State) (k g : Nat) (t : Word) (c : Claim) : (s.takeMsg k).claimCheck g t c = s.claimCheck g t c := rfl

/-- The thread of a granted `rdm.sp` goes on at its successor with its registers. -/
theorem rdmGranted_sp {s : State} {c : Claim} {x : Nat} {team : TeamKey} {r : SlotRef} {th : Thread} (hform : c.form = .sp x team)
    (hn : Named s r th) (htid : th.tid = c.tid) (bytes : Nat) : ∃ u, s.rdmGranted c bytes = s.setThread r.g r.slot (some u) ∧
      u.pc = succPc th.pc ∧ u.waitAns = false ∧ u.d = th.d := by
  obtain ⟨hth, hid⟩ := hn
  rw [htid] at hid
  simp only [State.rdmGranted, hid, hform, hth]
  exact ⟨_, rfl, rfl, rfl, rfl⟩

/-- The thread of a denied `rdm` stays at its pc with its registers, its trap to come. -/
theorem rdmDenied_thread {s : State} {r : SlotRef} {th : Thread} (hn : Named s r th) (d : Nat) (t : Word) :
    ∃ u, (s.rdmDenied th.tid d t).thread r.g r.slot = some u ∧ u.pc = th.pc ∧ u.waitAns = false ∧ u.park = th.park ∧ u.d = th.d ∧
      u.denied = some (preciseReport kindTicket d th.pc t) := by
  rw [State.rdmDenied, onTid_thread_of_named hn]
  exact ⟨_, rfl, rfl, rfl, rfl, rfl, rfl⟩

section
variable {s : State} {k x : Nat} {t0 : Word} {c : Claim} {team : TeamKey} {r : SlotRef} {th : Thread}
  (hm : s.net[k]? = some (.claim t0 c)) (harr : s.arrived k = true) (hfirst : s.entryBefore (tkSlice t0) (tkEntry t0) c.rank = false)
  (hform : c.form = .sp x team) (hn : Named s r th) (htid : th.tid = c.tid)
include hm harr hfirst hform

/-- A claim of an `rdm.sp` whose answer finds its way is granted or denied as the slice's check has it. -/
theorem exec_ticketClaim_sp (hway : s.claimCheck (tkSlice t0) t0 c = 6 ∨ s.backTo (tkSlice t0) c c.colour = true) :
    let e := (s.core (tkSlice t0)).tk (tkEntry t0)
    exec (.ticketClaim k) s = .next (if s.claimCheck (tkSlice t0) t0 c = 0
      then ((s.takeMsg k).setTk (tkSlice t0) (tkEntry t0) { e with st := 3, claim := some c }).rdmGranted c (64 * e.n * e.planes)
      else (s.takeMsg k).rdmDenied c.tid (s.claimCheck (tkSlice t0) t0 c) t0) := by
  have hlost : ¬(s.claimCheck (tkSlice t0) t0 c ≠ 6 ∧ s.backTo (tkSlice t0) c c.colour = false) := by
    rintro ⟨h6, hback⟩
    exact hway.elim h6 (ne_true_of_eq_false hback)
  refine (show _ = execTicketClaim k s from rfl).trans ?_
  simp only [execTicketClaim, hm, if_neg (not_waits harr hfirst), claimCheck_takeMsg, if_neg hlost, hform, core_of_cores (State.takeMsg_cores s k)]
  split <;> rfl

include hn htid

theorem ticketClaim_granted (hok : s.claimCheck (tkSlice t0) t0 c = 0) (hway : s.backTo (tkSlice t0) c c.colour = true) :
    ∃ t u, exec (.ticketClaim k) s = .next t ∧ SameMemory s t ∧
      ((t.core (tkSlice t0)).tk (tkEntry t0)).st = 3 ∧ ((t.core (tkSlice t0)).tk (tkEntry t0)).claim = some c ∧
      t.thread r.g r.slot = some u ∧ u.pc = succPc th.pc ∧ u.waitAns = false ∧ u.d = th.d := by
  have hexec := exec_ticketClaim_sp hm harr hfirst hform (.inr hway)
  simp only [if_pos hok] at hexec
  have hnamed : Named ((s.takeMsg k).setTk (tkSlice t0) (tkEntry t0)
      { (s.core (tkSlice t0)).tk (tkEntry t0) with st := 3, claim := some c }) r th := (hn.takeMsg k).setCore rfl
  obtain ⟨u, hu, hpc, hwait, hd⟩ := rdmGranted_sp hform hnamed htid
    (64 * ((s.core (tkSlice t0)).tk (tkEntry t0)).n * ((s.core (tkSlice t0)).tk (tkEntry t0)).planes)
  rw [hu] at hexec
  obtain ⟨t, ht, hmem, hst, hclaim, hth⟩ := exists_next_of_exec (P := fun t => ((t.core (tkSlice t0)).tk (tkEntry t0)).st = 3 ∧
    ((t.core (tkSlice t0)).tk (tkEntry t0)).claim = some c ∧ t.thread r.g r.slot = some u) _ rfl hexec
    ⟨by rw [setThread_tk, setTk_tk], by rw [setThread_tk, setTk_tk], thread_setThread_self _ _ _ (State.slot_lt_of_thread hn.1)⟩
  exact ⟨t, u, ht, hmem, hst, hclaim, hth, hpc, hwait, hd⟩

theorem ticketClaim_denied (hno : s.claimCheck (tkSlice t0) t0 c ≠ 0)
    (hway : s.claimCheck (tkSlice t0) t0 c = 6 ∨ s.backTo (tkSlice t0) c c.colour = true) :
    ∃ t u, exec (.ticketClaim k) s = .next t ∧ SameMemory s t ∧
      t.thread r.g r.slot = some u ∧ u.pc = th.pc ∧ u.waitAns = false ∧ u.park = th.park ∧ u.d = th.d ∧
      u.denied = some (preciseReport kindTicket (s.claimCheck (tkSlice t0) t0 c) th.pc t0) := by
  have hexec := exec_ticketClaim_sp hm harr hfirst hform hway
  simp only [if_neg hno] at hexec
  rw [← htid] at hexec
  obtain ⟨u, hu, hkeeps⟩ := rdmDenied_thread (hn.takeMsg k) (s.claimCheck (tkSlice t0) t0 c) t0
  obtain ⟨t, ht, hmem, hth⟩ := exists_next_of_exec (P := fun t => t.thread r.g r.slot = some u) _ rfl hexec hu
  exact ⟨t, u, ht, hmem, hth, hkeeps⟩

end

/-- A thread whose `rdm` was denied takes the trap at its turn, before any report (R223, R364). -/
theorem turnOf_denied {s : State} {th : Thread} {rep : Report} (g slot : Nat) (hd : th.denied = some rep) (hhalted : th.halted = false)
    (hhanded : th.handed = none) (hwait : th.waitAns = false) (hreq : th.haltReq = false) :
    s.turnOf g slot th = s.raise g slot { th with denied := none } rep := by
  simp only [State.turnOf, hhalted, hhanded, hwait, hreq, hd, Option.isSome_none, Bool.or_self, Bool.false_eq_true, if_false]

/-! Delivery (R217, R224). -/

section
variable {s : State} {g e i h x : Nat} {k : TkEntry} {c : Claim} {team : TeamKey} {tm : Team} {bs : List Byte}

/-- An entry with one more of its sectors delivered. -/
def TkEntry.delivered (k : TkEntry) (i : Nat) : TkEntry := { k with sent := k.sent ++ [i] }

/-- The package with a sector of a claim in the scratchpad of its team. -/
def State.spadDelivered (s : State) (h pos : Nat) (bs : List Byte) : State := s.setCore h ((s.core h).spadPut pos bs)

theorem exec_ticketDelivery_sp (hk : (s.core g).tk e = k) (hst : k.st = 3) (hc : k.claim = some c) (hform : c.form = .sp x team)
    (hi : i < k.n * k.planes) (hnew : i ∉ k.sent) (hmark : k.marked = []) (hd : smapFind k.data i = some bs)
    (hres : s.resident k.colour = true) (hteam : s.findTeam team = some (h, tm)) (hway : s.backTo g c k.colour = true) :
    exec (.ticketDelivery g e i) s = .next (
      if k.sent.length + 1 = k.n * k.planes then
        ((s.spadDelivered h (tm.base + x + 64 * i) bs).setTk g e (k.delivered i).freed).post g (some team) c.core
          ⟨s.ticketOf g e k.colour k.gen, BitVec.ofNat 64 x, 2, k.colour⟩
      else (s.spadDelivered h (tm.base + x + 64 * i) bs).setTk g e (k.delivered i)) := by
  refine (show _ = execTicketDelivery g e i s from rfl).trans ?_
  have hnot : k.sent.contains i = false := by simpa using hnew
  by_cases hlast : k.sent.length + 1 = k.n * k.planes <;>
    simp only [execTicketDelivery, TkEntry.delivered, State.spadDelivered, hk, hc, hst, hform, hnot, hmark, hd, hres, hteam, hway, hlast,
      Nat.not_le.mpr hi, List.contains_nil, Option.isSome_some, Option.getD_some, List.length_append, List.length_singleton, List.isEmpty_nil,
      beq_iff_eq, Nat.mul_zero, Nat.add_zero, Bool.false_eq_true, Bool.true_eq_false, Bool.not_true, Bool.or_true, ne_eq, not_true_eq_false,
      or_self, if_false, if_true, orNot]

theorem ticketDelivery_next (hk : (s.core g).tk e = k) (hst : k.st = 3) (hc : k.claim = some c) (hform : c.form = .sp x team)
    (hi : i < k.n * k.planes) (hnew : i ∉ k.sent) (hmark : k.marked = []) (hd : smapFind k.data i = some bs)
    (hres : s.resident k.colour = true) (hteam : s.findTeam team = some (h, tm)) (hway : s.backTo g c k.colour = true) :
    ∃ t, exec (.ticketDelivery g e i) s = .next t ∧ SameMemory s t ∧
      (t.core h).spad = ((s.core h).spadPut (tm.base + x + 64 * i) bs).spad ∧
      (k.sent.length + 1 ≠ k.n * k.planes → ((t.core g).tk e).sent = k.sent ++ [i] ∧ ((t.core g).tk e).st = 3) ∧
      (k.sent.length + 1 = k.n * k.planes → ((t.core g).tk e).st = 0 ∧
        ∃ clock, .inbox (some team) c.core ⟨s.ticketOf g e k.colour k.gen, BitVec.ofNat 64 x, 2, k.colour⟩ g clock ∈ t.net) := by
  have hspad (k' : TkEntry) : (((s.spadDelivered h (tm.base + x + 64 * i) bs).setTk g e k').core h).spad =
      ((s.core h).spadPut (tm.base + x + 64 * i) bs).spad := by rw [setTk_spad, State.spadDelivered, core_setCore_self]
  have hexec := exec_ticketDelivery_sp hk hst hc hform hi hnew hmark hd hres hteam hway
  by_cases hlast : k.sent.length + 1 = k.n * k.planes
  · rw [if_pos hlast] at hexec
    exact exists_next_of_exec _ rfl hexec ⟨hspad _, fun hmore => absurd hlast hmore,
      fun _ => ⟨congrArg TkEntry.st (setTk_tk ..), _, List.mem_append_right _ (List.mem_singleton_self _)⟩⟩
  · rw [if_neg hlast] at hexec
    refine exists_next_of_exec _ rfl hexec ⟨hspad _, fun _ => ?_, fun hend => absurd hend hlast⟩
    rw [setTk_tk]
    exact ⟨rfl, hst⟩

end

/-! `tdrop` and `tqry` at their slice, and leases (R228–R230). -/

section
variable {s : State} {k : Nat} {r : Req} {t0 : Word}

theorem tdropAtSlice_next (hm : s.net[k]? = some (.tdrop r t0)) (harr : s.arrived k = true)
    (hfirst : s.entryBefore (tkSlice t0) (tkEntry t0) dropRank = false) :
    ∃ t, exec (.tdropAtSlice k) s = .next t ∧ SameMemory s t ∧ (∃ clock, .redAck r.tid r.id clock (r.label (tkSlice t0)) ∈ t.net) ∧
      (t0 ≠ 0 → s.ticketCheck (tkSlice t0) r.colour t0 = 0 → ((s.core (tkSlice t0)).tk (tkEntry t0)).st ≠ 3 →
        ((t.core (tkSlice t0)).tk (tkEntry t0)).st = 0) := by
  have hexec : exec (.tdropAtSlice k) s = execTdropAtSlice k s := rfl
  simp only [execTdropAtSlice, hm, if_neg (not_waits harr hfirst), orNot] at hexec
  refine exists_next_of_exec _ rfl hexec ⟨⟨_, List.mem_append_right _ (List.mem_singleton_self _)⟩, fun hnull hok hst => ?_⟩
  rw [if_pos ⟨hnull, hok, hst⟩]
  exact (congrArg TkEntry.st ((performed_core ((s.freeTk _ _).takeMsg k) r.tid r.id _).tk _)).trans (freeTk_st ..)

theorem tqryAtSlice_next {dst : Fin 16} (hm : s.net[k]? = some (.tqry r dst t0)) (harr : s.arrived k = true)
    (hfirst : s.entryBefore (tkSlice t0) (tkEntry t0) queryRank = false) : ∃ t own, exec (.tqryAtSlice k) s = .next t ∧ SameMemory s t ∧
      t.cores = s.cores ∧
      .reply r.tid r.id (.d dst .z64) (wordBytes 8 (s.tqryWord (tkSlice t0) r.src r.colour t0)) (s.die (dieOf (tkSlice t0))).k own ∈ t.net := by
  have hexec : exec (.tqryAtSlice k) s = execTqryAtSlice k s := rfl
  simp only [execTqryAtSlice, hm, if_neg (not_waits harr hfirst), orNot] at hexec
  obtain ⟨t, ht, hmem, hcores, hnet⟩ := exists_next_of_exec (P := fun t => t.cores = s.cores ∧ _ ∈ t.net) _ rfl hexec
    ⟨rfl, List.mem_append_right _ (List.mem_singleton_self _)⟩
  exact ⟨t, _, ht, hmem, hcores, hnet⟩

/-- A query of a slice that is fenced off is told detail 6 (R228); that a fenced die of the way fences it off is the model's choice
(notes/assumptions/47.md). -/
theorem tqryWord_fencedOff {g src : Nat} (colour : Nat) (hnull : t0 ≠ 0) (hoff : s.fencedOff src g = true) :
    s.tqryWord g src colour t0 = 0x30 := by
  simp only [State.tqryWord, if_neg hnull, if_pos hoff]
  rfl

theorem leaseExpiry_next {g e : Nat} (hst : ((s.core g).tk e).st = 1 ∨ ((s.core g).tk e).st = 2) (hnever : ((s.core g).tk e).never = false)
    (hlease : ((s.core g).tk e).lease = 0) (hfirst : s.entryBefore g e expiryRank = false) :
    ∃ t, exec (.leaseExpiry g e) s = .next t ∧ SameMemory s t ∧ ((t.core g).tk e).st = 0 := by
  have hout : s.leaseOut g e = true := by
    simp only [State.leaseOut, hnever, hlease]
    rcases hst with h | h <;> rw [h] <;> rfl
  refine exists_next_of_exec (s.freeTk g e) rfl ((show _ = execLeaseExpiry g e s from rfl).trans ?_) (freeTk_st ..)
  simp only [execLeaseExpiry, hout, hfirst, Bool.not_false, Bool.and_self, if_true, orNot]

end

/-- Settles O54: each step of a slice is enabled by the conditions named, and leaves its table, its thread and the fabric as R217–R230 say
(a slice fenced off by a die of the way is notes/assumptions/47.md, a denial kept for its thread's turn notes/assumptions/64.md). -/
theorem ticketEventsComplete : Obligations.TicketEventsComplete := by
  unfold Obligations.TicketEventsComplete
  refine ⟨fun _ _ _ _ _ _ _ _ _ _ _ _ _ hm harr hheld => ⟨fun _ halloc hroom => tldRequest_taken hm harr hheld halloc hroom,
      tldRequest_null hm harr hheld⟩, ?_, ?_, ?_, ?_, ?_, ?_, ?_⟩
  · intro s g e i k hst hi hl hw hsound
    obtain ⟨t, ht, hmem, hk⟩ := ticketGroupLanded_next rfl hst hi hl hw hsound
    refine ⟨t, ht, hmem, fun q hq => ?_, fun hst hp hall => ?_⟩ <;> rw [hk]
    · exact filled_data_of_mem s.mem (mem_groupIdx k i hq)
    · exact afterGroup_ready s.mem hst hp hall
  · intro s k x t0 c team r th hm harr hfirst hform hn htid hway
    refine ⟨fun hok => ticketClaim_granted hm harr hfirst hform hn htid hok (hway.resolve_left fun h6 => ?_),
      fun hno => ticketClaim_denied hm harr hfirst hform hn htid hno hway⟩
    exact absurd (hok.symm.trans h6) (by decide)
  · intro s g slot th rep hd hhalted hhanded hwait hreq
    exact turnOf_denied g slot hd hhalted hhanded hwait hreq
  · intro s g e i h x c team tm bs k hst hc hform hi hnew hmark hd hres hteam hway
    exact ticketDelivery_next rfl hst hc hform hi hnew hmark hd hres hteam hway
  · intro s k r t0 hm harr hfirst
    exact tdropAtSlice_next hm harr hfirst
  · intro s k r dst t0 hm harr hfirst
    obtain ⟨t, own, ht, hmem, hcores, hnet⟩ := tqryAtSlice_next hm harr hfirst
    exact ⟨t, own, ht, hmem, hcores, hnet, tqryWord_fencedOff r.colour⟩
  · intro s g e hst hnever hlease hfirst
    exact leaseExpiry_next hst hnever hlease hfirst

end Sys2Proof.Machine
end

section
/-! PROOFS. Ticket instructions at issue (R219, R220, R222–R229): a `tld` sends its request once every address has its place, and a redeem sends its
claim, or is denied at its core. -/
namespace Sys2Proof.Machine
open Sys2Proof

/-! Places (R193): an address has one place, wherever it stands in a list. -/

section
variable {x : Ctx} {k : Accepts} {u : Use}

theorem placesIn_cons {a : Word} {rest : List Word} {ps : List Place} (h : x.placesIn k u (a :: rest) = .ok ps) :
    ∃ p qs, ps = p :: qs ∧ x.place u a = .ok p ∧ x.placesIn k u rest = .ok qs := by
  simp only [Ctx.placesIn] at h
  split at h
  · cases h
  · split at h
    · next p hp =>
      split at h
      · next qs hqs => cases h; exact ⟨p, qs, rfl, hp, hqs⟩
      all_goals cases h
    all_goals cases h

/-- The place that a list of addresses and their places gives for an address. -/
def placeOf (as : List Word) (ps : List Place) (b : Word) : Place := (((as.zip ps).find? fun e => e.1 == b).map Prod.snd).getD (.mem 0)

theorem placeOf_mem {as : List Word} {ps : List Place} (h : x.placesIn k u as = .ok ps) {b : Word} (hb : b ∈ as) :
    x.place u b = .ok (placeOf as ps b) := by
  induction as generalizing ps with
  | nil => cases hb
  | cons a rest ih =>
    obtain ⟨p, qs, rfl, hp, hqs⟩ := placesIn_cons h
    by_cases hab : a = b
    · subst hab; simpa [placeOf] using hp
    · have hrest := ih hqs ((List.mem_cons.mp hb).resolve_left (Ne.symm hab))
      simpa [placeOf, hab] using hrest

theorem map_eq_places {as : List Word} {ps : List Place} (h : x.placesIn k u as = .ok ps) {p : Word → Place}
    (hp : ∀ b ∈ as, x.place u b = .ok (p b)) : as.map p = ps := by
  induction as generalizing ps with
  | nil => cases h; rfl
  | cons a rest ih =>
    obtain ⟨q, qs, rfl, hq, hqs⟩ := placesIn_cons h
    have hpq : p a = q := Acc.ok.inj ((hp a List.mem_cons_self).symm.trans hq)
    rw [List.map_cons, hpq, ih hqs fun b hb => hp b (List.mem_cons_of_mem _ hb)]

theorem mem_insertBy {α : Type} (le : α → α → Bool) (a b : α) (l : List α) : b ∈ insertBy le a l ↔ b = a ∨ b ∈ l := by
  induction l with
  | nil => simp [insertBy]
  | cons c l ih =>
    simp only [insertBy]
    split
    · exact List.mem_cons
    · rw [List.mem_cons, ih, List.mem_cons]; exact or_left_comm

theorem mem_sortBy {α : Type} (le : α → α → Bool) (b : α) (l : List α) : b ∈ sortBy le l ↔ b ∈ l := by
  induction l with
  | nil => rfl
  | cons a l ih => rw [sortBy, mem_insertBy, ih, List.mem_cons]

/-- Places found in ascending order are those found in any other. -/
theorem map_placeOf_sorted {as : List Word} {ps qs : List Place} (h : x.placesIn k u as = .ok ps) (hs : x.placesIn k u (sortAddrs as) = .ok qs) :
    as.map (placeOf (sortAddrs as) qs) = ps :=
  map_eq_places h fun b hb => placeOf_mem hs ((mem_sortBy _ b as).mpr hb)

end

/-! `tld` (R219, R220). -/

/-- An instruction sends a message under the next name, counts it, and finishes. -/
theorem issuesAs_sendNext_finish {s : State} {x : Ctx} (hx : ctxOf s = some x) (m : Msg) (c : Core) (v u : Thread) (dest : Option Nat) :
    IssuesAs x ((x.on (x.s.send m).bumpUid).finish (c.sentBy v dest) u) c u [m] s.dies s.watches := by
  obtain ⟨rfl, -⟩ := ctxOf_state hx
  obtain ⟨traffic, sent, away, due, hc⟩ := sentBy_eq c v dest
  rw [hc]
  exact (issuesAs_on_finish x _ u [m] (x.s.uid + 1) x.s.free x.s.dies x.s.watches).of_counted

section
variable {gd : Guard} {f : Fields} {s : State} {x : Ctx}

/-- The address, the sectors and the stride of a `tld`, and the addresses of its sector-planes (R220). -/
def tldAddr (x : Ctx) (f : Fields) : Word := Fields.addr f (val (x.take [f.src1, f.src2]).1 0)
def tldCount (x : Ctx) (f : Fields) : Nat := wbits (val (x.take [f.src1, f.src2]).1 1) 0 7
def tldStride (x : Ctx) (f : Fields) : Word := val (x.take [f.src1, f.src2]).1 1 >>> 32
def tldSectors (x : Ctx) (f : Fields) : List Word := tldAddrs (tldAddr x f) (tldStride x f) (tldCount x f) (Fields.fetched f)

/-- A `tld` passes its checks, its sector-planes at these places and of one slice (R196, R220–R222). -/
structure TldPasses (x : Ctx) (f : Fields) (pls : List Place) : Prop where
  count  : 1 ≤ tldCount x f ∧ tldCount x f ≤ 64
  align  : (tldAddr x f).toNat % 64 = 0
  layout : f.ty = .dflt ∨ tldStride x f ≠ 0
  reach  : Reaches x .planar ⟨.read, false⟩ (tldAddr x f) (tldSectors x f) pls
  sorted : ∃ qs, x.placesIn .planar ⟨.read, false⟩ (sortAddrs (tldSectors x f)) = .ok qs
  whole  : tldSplit (tldSectors x f) pls (tldCount x f) = none

/-- The package after a `tld` has sent its request for the sector-planes at these addresses. -/
def tldSent (x : Ctx) (f : Fields) (i : Fin 16) (pas : List Nat) : State :=
  let r := x.take [f.src1, f.src2]
  let home := homeOf (pas.headD 0)
  (x.on (x.s.send (.tld (requestOf x []) i home f.ty (f.qual == 1) (tldCount x f) (Fields.fetched f) pas x.t.launch x.t.team
    (x.s.det x.t))).bumpUid).finish (r.2.1.sentBy x.t (some (trafficVault home))) (loadOut (r.2.2.pendD i) 1 x.s.uid false)

theorem exec_tld {i : Fin 16} {pls : List Place} (hd : f.dst.reg = .d i) (h : Ready gd s x [f.src1, f.src2] [f.dst] 1)
    (hp : TldPasses x f pls) : exec (.tld gd f) s = .next (tldSent x f i (pls.map Place.addr)) := by
  obtain ⟨hcount, halign, hlayout, ⟨hbits, hreg, hpls⟩, ⟨qs, hqs⟩, hsplit⟩ := hp
  have hok : (decide (1 ≤ tldCount x f ∧ tldCount x f ≤ 64) && (tldAddr x f).toNat % 64 == 0 &&
      (f.ty == .dflt || tldStride x f != 0)) = true := by
    have hstride : (f.ty == .dflt || tldStride x f != 0) = true := by simpa [bne_iff_ne] using hlayout
    simp only [hcount, halign, hstride, and_self, decide_true, beq_self_eq_true, Bool.and_self]
  have hplaces := map_placeOf_sorted hpls hqs
  unfold placeOf at hplaces
  refine (turn_ready h.1 (ready_waits h)).trans (congrArg _ ?_)
  have haddr : Fields.addr f (val (x.take [f.src1, f.src2]).1 0) = tldAddr x f := rfl
  have hn : wbits (val (x.take [f.src1, f.src2]).1 1) 0 7 = tldCount x f := rfl
  have hst : val (x.take [f.src1, f.src2]).1 1 >>> 32 = tldStride x f := rfl
  have haddrs : tldAddrs (tldAddr x f) (tldStride x f) (tldCount x f) (Fields.fetched f) = tldSectors x f := rfl
  simp only [haddr, hn, hst, haddrs, hok, if_true]
  rw [access_proceeds _ (List.forall_mem_singleton.mpr (hbits _ List.mem_cons_self)) hreg hqs]
  simp only [hplaces, hsplit, hd]
  rfl

theorem tld_issues {i : Fin 16} {pls : List Place} (hd : f.dst.reg = .d i) (h : Ready gd s x [f.src1, f.src2] [f.dst] 1)
    (hp : TldPasses x f pls) :
    ∃ t, exec (.tld gd f) s = .next t ∧
      IssuesAs x t (x.take [f.src1, f.src2]).2.1 (loadOut ((x.take [f.src1, f.src2]).2.2.pendD i) 1 s.uid false)
        [.tld (requestOf x []) i (homeOf ((pls.map Place.addr).headD 0)) f.ty (f.qual == 1) (tldCount x f) (Fields.fetched f)
          (pls.map Place.addr) x.t.launch x.t.team (s.det x.t)] s.dies s.watches := by
  obtain ⟨rfl, -⟩ := ctxOf_state h.1.1
  exact ⟨_, exec_tld hd h hp, issuesAs_sendNext_finish h.1.1 ..⟩

/-! Redeeming (R222–R227). -/

/-- The claim of a redeem is on its way, and its thread waits for the answer. -/
def Claimed (s : State) (x : Ctx) (os : List Opnd) (k : Word) (form : ClaimForm) (t : State) : Prop :=
  t.cls = .issued ∧ SameMemory s t ∧ t.thread x.g x.slot = some { x.t with waitAns := true } ∧
  t.net = s.net ++ [.claim k ⟨s.uid, x.t.tid, x.g, x.slot, x.t.colour, x.t.pc, form, syncRegs os⟩]

theorem redeem_claimed {k : Word} (hx : ctxOf s = some x) (os : List Opnd) (form : ClaimForm) (hk : k ≠ 0)
    (hf : (s.die (wbits k 16 3)).fenced = false) : Claimed s x os k form (x.redeem os k form) := by
  obtain ⟨rfl, -⟩ := ctxOf_state hx
  rw [Claimed, Ctx.redeem, if_neg hk, if_neg (ne_true_of_eq_false hf)]
  refine ⟨rfl, fun _ => rfl, ?_, rfl⟩
  exact (congrArg (Core.thread · x.slot) (core_setCore_self ..)).trans ((coreThread_setThread _ _ _ (slot_lt_of_ctxOf hx)).trans (if_pos rfl))

/-- A redeem whose ticket is of a slice of a live die is claimed; with the null ticket, or one of a fenced die, it traps at its core. -/
theorem redeem_answers {i : Instr} {os : List Opnd} {k : Word} {form : ClaimForm} (hx : ctxOf s = some x)
    (hexec : exec i s = .next (x.redeem os k form)) :
    (k ≠ 0 → (s.die (wbits k 16 3)).fenced = false → ∃ t, exec i s = .next t ∧ Claimed s x os k form t) ∧
    (k = 0 → exec i s = .next (x.trap kindTicket 1 0)) ∧
    (k ≠ 0 → (s.die (wbits k 16 3)).fenced = true → exec i s = .next (x.trap kindTicket 6 k)) := by
  refine ⟨fun hk hf => ⟨_, hexec, redeem_claimed hx os form hk hf⟩, fun hk => ?_, fun hk hf => ?_⟩
  · rw [hexec, Ctx.redeem, if_pos hk, hk]
  · rw [← (ctxOf_state hx).1] at hf
    rw [hexec, Ctx.redeem, if_neg hk, if_pos hf]

theorem exec_rdmSp (he : Executes gd s x) (hsrc : srcWaits x [] [f.src1, f.src2] = []) (hhome : x.c.atHome x.t = true) {o : Nat} :
    let a := val (x.take [f.src1, f.src2]).1 0 + Fields.simm f
    a.toNat % 64 = 0 → s.region x.g x.t.colour x.t.key a = .spad o →
    exec (.rdmSp gd f) s = .next (x.redeem [f.src1, f.src2] (val (x.take [f.src1, f.src2]).1 1) (.sp (a.toNat % 2 ^ 48) x.t.key)) := by
  intro a halign hin
  obtain ⟨rfl, -⟩ := ctxOf_state he.1
  refine (turn_ready he hsrc).trans ?_
  simp only [Fields.addr, hhome, hin, halign, a, Bool.true_eq_false, ne_eq, not_true_eq_false, if_false]

theorem exec_rdmS (he : Executes gd s x) (hsrc : srcWaits x [] [f.src1] = []) :
    exec (.rdmS gd f) s = .next (x.redeem [f.src1] (val (x.take [f.src1]).1 0) (.s (Fin.ofNat 4 (Fields.bits f 0 2)))) :=
  turn_ready he hsrc

theorem dstWait_v {srcs : List Opnd} {o : Opnd} {j : Fin 8} (ho : o.reg = .v j) (h : x.t.vowed[j] = 0) : dstWait x srcs o = [] := by
  simp [dstWait, ho, h]

theorem exec_rdmV {i : Fin 8} (he : Executes gd s x) (hsrc : srcWaits x [] [f.src1] = []) (hd : f.dst.reg = .v i) (hv : x.t.vowed[i] = 0) :
    exec (.rdmV gd f) s = .next (x.redeem [f.src1] (val (x.take [f.src1]).1 0) (.v i (Fields.bits f 0 7))) := by
  refine (turn_ready he (by rw [hsrc, dstWait_v hd hv]; rfl)).trans ?_
  simp only [hd]

/-! `tqry` and `tdrop` (R228, R229). -/

theorem tqry_issues {i : Fin 16} (he : Executes gd s x) (hsrc : srcWaits x [] [f.src1] = []) (hd : f.dst.reg = .d i) (hp : x.t.dpend[i] = false) :
    ∃ t, exec (.tqry gd f) s = .next t ∧ IssuesAs x t (x.take [f.src1]).2.1
      { (x.take [f.src1]).2.2.pendD i with loads := (x.take [f.src1]).2.2.loads ++ [s.uid] }
      [.tqry (requestOf x []) i (val (x.take [f.src1]).1 0)] s.dies s.watches := by
  obtain ⟨rfl, -⟩ := ctxOf_state he.1
  refine ⟨_, (turn_ready he (by rw [hsrc, dstWait_d hd hp]; rfl)).trans ?_, issuesAs_sendNamed_finish he.1 rfl _ _ x.t _ 0 0⟩
  simp only [hd]
  rfl

theorem tdrop_issues (he : Executes gd s x) (hsrc : srcWaits x [] [f.src1] = []) (hnon : nonretWait x = []) :
    ∃ t, exec (.tdrop gd f) s = .next t ∧ IssuesAs x t (x.take [f.src1]).2.1
      { sentOut (x.take [f.src1]).2.2 1 s.uid with nonret := (x.take [f.src1]).2.2.nonret ++ [s.uid] }
      [.tdrop (requestOf x []) (val (x.take [f.src1]).1 0)] s.dies s.watches := by
  obtain ⟨rfl, -⟩ := ctxOf_state he.1
  exact ⟨_, turn_ready he (by rw [hsrc, hnon]; rfl), issuesAs_sendNamed_finish he.1 rfl _ _ x.t _ 0 0⟩

end

/-- Settles O35: a `tld` passes the checks of its access, and a redeem those of its core, and each sends its message. -/
theorem ticketsIssue : Obligations.TicketsIssue := by
  unfold Obligations.TicketsIssue
  intro gd f s x claimed
  refine ⟨?_, fun he => ⟨?_, fun hsrc => ?_⟩⟩
  · intro i pls hd h r a n stride addrs hlo hhi halign hlayout hbits hreg hpls hsorted hsplit
    rw [← (ctxOf_state h.1.1).1] at hreg
    exact tld_issues hd h ⟨⟨hlo, hhi⟩, halign, hlayout, ⟨hbits, hreg, hpls⟩, hsorted, hsplit⟩
  · intro hsrc a k halign hhome ⟨o, hin⟩
    exact redeem_answers he.1 (exec_rdmSp he hsrc hhome halign hin)
  · obtain ⟨hclaimed, hnull, hfenced⟩ := redeem_answers he.1 (exec_rdmS he hsrc)
    have hv (i : Fin 8) (hd : f.dst.reg = .v i) (hfree : x.t.vowed[i] = 0) := redeem_answers he.1 (exec_rdmV he hsrc hd hfree)
    exact ⟨fun hk hf => ⟨fun i hd hfree => (hv i hd hfree).1 hk hf, hclaimed hk hf⟩, fun i hd hp => tqry_issues he hsrc hd hp,
      fun hnon => tdrop_issues he hsrc hnon, fun hk => ⟨hnull hk, fun i hd hfree => (hv i hd hfree).2.1 hk⟩,
      fun hk hf => ⟨hfenced hk hf, fun i hd hfree => (hv i hd hfree).2.2 hk hf⟩⟩

end Sys2Proof.Machine
end

section
/-! PROOFS. The completion counters (R251, R264): on the team's core `wlt` asks whether its counter is below its bound, and `cres` goes through
the parked commands of its counter. -/
namespace Sys2Proof.Machine
open Sys2Proof

section
variable {gd : Guard} {f : Fields} {s : State} {x : Ctx} {i : Fin 8}

theorem execWlt_atHome (he : Executes gd s x) (hhome : x.c.atHome x.t = true) (hw : f.src1.reg = .w i) :
    exec (.wlt gd f) s = .next (if x.t.w[i] < Fields.bits f 0 5 then x.finish x.c x.t else x.wait .mem) := by
  refine (turn_ready he rfl).trans ?_
  simp only [hhome, hw, Bool.true_eq_false, if_false]

theorem cresTurn_atHome (disc : Bool) (he : Executes gd s x) (hhome : x.c.atHome x.t = true) (hw : f.src1.reg = .w i) :
    let s1 := (x.finish x.c x.t).fetchParked x.g x.t.tid (BitVec.ofNat 3 i.val)
    cresTurn disc gd f s =
      .next (((s1.core x.g).parkedCmds x.t.tid (BitVec.ofNat 3 i.val)).foldl (fun s u => s.resumeCmd x.g u disc) s1) := by
  refine (turn_ready he rfl).trans ?_
  simp only [hhome, hw, Bool.true_eq_false, if_false]

end

/-- Settles O37: the turn of `wlt` finishes or waits by its counter, and `cres` and `cres.d` are one turn with the two answers to a parked
command. -/
theorem countersComplete : Obligations.CountersComplete := by
  unfold Obligations.CountersComplete
  intro gd f s x i he hhome hw
  refine ⟨fun hlt => ?_, fun hle => ?_, cresTurn_atHome false he hhome hw, cresTurn_atHome true he hhome hw⟩
  · rw [execWlt_atHome he hhome hw, if_pos hlt]
    exact ⟨_, rfl, issuesAs_finish he.1 ..⟩
  · rw [execWlt_atHome he hhome hw, if_neg (Nat.not_lt.mpr hle), wait_eq he.1]

end Sys2Proof.Machine
end

section
/-! PROOFS. Barrier instructions (R289, R291, R292, R323): the checks that `binit`, `barv` and `bwait` share, and what each does with its word once
they pass; `xreq` sends its request and finishes. -/
namespace Sys2Proof.Machine
open Sys2Proof

section
variable {x : Ctx} {a : Word} {off : Nat}

/-- An address in the region of the thread's team is one of that region (R186). -/
theorem InScratchpad.region {n : Nat} (hin : InScratchpad x a (List.range (n + 1)) off) :
    ∃ o, x.s.region x.g x.t.colour x.t.key a = .spad o := by
  obtain ⟨-, -, -, hregion, -⟩ := hin
  obtain ⟨rest, hfirst⟩ : ∃ rest, (List.range (n + 1)).filter (fun o => o / 64 == 0) = 0 :: rest :=
    ⟨_, by rw [List.range_succ_eq_map, List.filter_cons_of_pos (by decide)]⟩
  have hin0 := hregion 0 (by decide)
  rw [hfirst] at hin0
  have hout := (Bool.or_eq_false_iff.mp hin0).1
  dsimp only at hout
  rw [show a + BitVec.ofNat 64 0 = a from BitVec.add_zero a] at hout
  split at hout
  · next o ho => exact ⟨o, ho⟩
  · cases hout

/-- A barrier instruction whose aligned word lies in the region proceeds (R289). -/
theorem barAccess_proceeds (go : Ctx → Nat → State) (halign : a.toNat % 16 = 0) (hin : InScratchpad x a (List.range 16) off) :
    x.barAccess a go = go x off := by
  obtain ⟨o, ho⟩ := hin.region
  have hchecks : x.spadAccess a 16 (List.range 16) (fun x pos => go x (pos 0)) = go x (off + 0) :=
    spadAccess_proceeds _ halign (fun o _ => Nat.zero_le o) (show 0 < 128 by decide) hin
  unfold Ctx.barAccess
  dsimp only
  rw [ho, Bool.and_false, if_neg Bool.false_ne_true, hchecks, Nat.add_zero]

end

section
variable {gd : Guard} {f : Fields} {s : State} {x : Ctx} {off : Nat}

/-- The address that a barrier instruction computes from its sources. -/
def barAddr (x : Ctx) (f : Fields) (srcs : List Opnd) : Word := Fields.addr f (val (x.take srcs).1 0)

/-- The arrivals that `binit` expects. -/
def binitCount (x : Ctx) (f : Fields) : Nat := (val (x.take [f.src1, f.src2]).1 1).toNat % 2 ^ 20

theorem exec_binit (he : Executes gd s x) (hsrc : srcWaits x [] [f.src1, f.src2] = [])
    (halign : (barAddr x f [f.src1, f.src2]).toNat % 16 = 0) (hin : InScratchpad x (barAddr x f [f.src1, f.src2]) (List.range 16) off) :
    exec (.binit gd f) s = .next (if binitCount x f = 0 then x.trap kindAlign 2 (barAddr x f [f.src1, f.src2])
      else x.finish ((x.take [f.src1, f.src2]).2.1.barPut off (binitCount x f * 2 ^ 64 + binitCount x f * 2 ^ 4))
        (x.take [f.src1, f.src2]).2.2) :=
  (turn_ready he hsrc).trans (congrArg _ (barAccess_proceeds _ halign hin))

theorem exec_bwait (he : Executes gd s x) (hsrc : srcWaits x [] [f.src1, f.src2] = [])
    (halign : (barAddr x f [f.src1, f.src2]).toNat % 16 = 0) (hin : InScratchpad x (barAddr x f [f.src1, f.src2]) (List.range 16) off) :
    exec (.bwait gd f) s = .next (if barPhase (x.c.barAt off) = (val (x.take [f.src1, f.src2]).1 1).toNat % 16 then x.wait .msg
      else x.finish (x.take [f.src1, f.src2]).2.1 (fenceOut (x.take [f.src1, f.src2]).2.2 f)) := by
  refine (turn_ready he hsrc).trans (congrArg _ ((barAccess_proceeds _ halign hin).trans ?_))
  rw [fenceOut_eq]

theorem exec_barv (he : Executes gd s x) (hsrc : srcWaits x [] [f.src1] = []) (hrel : barvWait x f = [])
    (halign : (barAddr x f [f.src1]).toNat % 16 = 0) (hin : InScratchpad x (barAddr x f [f.src1]) (List.range 16) off)
    (harr : barArr (x.c.barAt off) ≠ 0) :
    exec (.barv gd f) s = .next ((x.on (x.orderPoint (x.take [f.src1]).2.2 f).1).finish
      ((x.take [f.src1]).2.1.barPut off (barArrive (x.c.barAt off))) (x.orderPoint (x.take [f.src1]).2.2 f).2) := by
  have hwaits : srcWaits x [] [f.src1] ++ barvWait x f = [] := by rw [hsrc, hrel]; rfl
  exact (turn_ready he hwaits).trans (congrArg _ ((barAccess_proceeds _ halign hin).trans (if_neg harr)))

theorem dstWait_p {srcs : List Opnd} {o : Opnd} {j : Fin 8} (ho : o.reg = .p j) (h : x.t.pans[j] = false) : dstWait x srcs o = [] := by
  simp [dstWait, ho, h]

theorem xreq_issues (he : Executes gd s x) (hsrc : srcWaits x [] [f.src1] = []) {j : Fin 8} (hd : f.dst.reg = .p j)
    (hp : x.t.pans[j] = false) (hhome : x.c.atHome x.t = true) :
    let r := x.take [f.src1]
    ∃ t, exec (.xreq gd f) s = .next t ∧
      IssuesAs x t r.2.1 { r.2.2 with pres := r.2.2.pres.set j false, pans := r.2.2.pans.set j true }
        [.xreq (requestOf x []) (clusterOf x.g) (copOf x.g) j (val r.1 0).toNat (Fields.bits f 0 4) x.t.key] s.dies s.watches := by
  obtain ⟨rfl, -⟩ := ctxOf_state he.1
  have hwaits : srcWaits x [] [f.src1] ++ dstWait x [f.src1] f.dst = [] := by rw [hsrc, dstWait_p hd hp]; rfl
  refine ⟨_, (turn_ready he hwaits).trans ?_, issuesAs_sendNamed_finish he.1 rfl _ _ x.t _ 0 0⟩
  simp only [hhome, hd, Bool.true_eq_false, if_false]
  rfl

end

/-- Settles O39: the checks that the barrier instructions share pass, and each finishes or waits by its count or its word. -/
theorem barriersComplete : Obligations.BarriersComplete := by
  unfold Obligations.BarriersComplete
  intro gd f s x off he
  refine ⟨fun hsrc => ?_, fun hsrc => ?_⟩
  · intro r a n halign hin
    refine ⟨fun hn => ?_, fun hn => ?_, fun hphase => ?_, fun hphase => ?_⟩
    · exact ⟨_, (exec_binit he hsrc halign hin).trans (congrArg _ (if_neg hn)), issuesAs_finish he.1 ..⟩
    · exact (exec_binit he hsrc halign hin).trans (congrArg _ (if_pos hn))
    · exact ⟨_, (exec_bwait he hsrc halign hin).trans (congrArg _ (if_neg hphase)), issuesAs_finish he.1 ..⟩
    · exact (exec_bwait he hsrc halign hin).trans (congrArg _ ((if_pos hphase).trans (wait_eq he.1 .msg)))
  · intro r a o
    refine ⟨fun hrel halign hin harr => ⟨_, exec_barv he hsrc hrel halign hin harr, ?_⟩,
      fun j hd hp hhome => xreq_issues he hsrc hd hp hhome⟩
    obtain ⟨rfl, -⟩ := ctxOf_state he.1
    exact issuesAs_dies_finish (orderPoint_state x _ f) ..

end Sys2Proof.Machine
end

section
/-! PROOFS. Steps of copies and transforms (R280–R284, R292, R293): a coprocessor's answer, a copy's start, the two steps of a sector
(notes/assumptions/58.md), the park of a copy at a fault, its completion, and `cp.res`. -/
namespace Sys2Proof.Machine
open Sys2Proof

/-! What the correction of a scratchpad's errors leaves (R212). -/

theorem freezeDie_state (s : State) (die cause : Nat) : s.freezeDie die cause = { s with dies := (s.freezeDie die cause).dies } := by
  unfold State.freezeDie; dsimp only; split <;> rfl

theorem trigger_state (s : State) (die bit : Nat) : s.trigger die bit = { s with dies := (s.trigger die bit).dies } := by
  unfold State.trigger; split
  · exact freezeDie_state ..
  · rfl

theorem countFixed_state (s : State) (die n : Nat) : s.countFixed die n = { s with dies := (s.countFixed die n).dies } := by
  unfold State.countFixed; split
  · rfl
  · rw [trigger_state]; rfl

/-- Corrected errors are counted on their die, and gone. -/
theorem correctSp_state (s : State) (g off n : Nat) :
    s.correctSp g off n = { s with badSpad := (s.correctSp g off n).badSpad, dies := (s.correctSp g off n).dies } := by
  unfold State.correctSp; dsimp only; split
  · rw [countFixed_state]
  · rfl

/-! The coprocessors of a cluster (R292). -/

/-- A cluster with a coprocessor replaced. -/
def Cluster.setCop (k : Cluster) (i : Nat) (y : Coproc) : Cluster := { k with cops := k.cops.setIfInBounds i y }

theorem cop_setCop (k : Cluster) {i : Nat} (y : Coproc) (hi : i < 2) : (k.setCop i y).cop i = y :=
  (getD_setIfInBounds k.cops i i y ⟨none, none⟩ hi).trans (if_pos rfl)

/-- A coprocessor that works on a request is one of the cluster's two. -/
theorem cop_lt_of_active {k : Cluster} {i : Nat} {e : Nat × Copy} (h : (k.cop i).active = some e) : i < 2 := by
  refine Nat.lt_of_not_le fun hi => ?_
  rw [Cluster.cop, List.getD_eq_default _ _ (by simpa using hi)] at h
  cases h

/-- A coprocessor with a request in its free place. -/
def Coproc.takes (y : Coproc) (e : Nat × Copy) : Coproc := if y.active.isNone then ⟨some e, y.waiting⟩ else ⟨y.active, some e⟩

/-! The answer of a coprocessor (R115, R292). -/

theorem answerP_thread_of_named {s : State} {q : SlotRef} {th : Thread} (hn : Named s q th) (p : Fin 8) (b : Bool) :
    (s.answerP th.tid p b).thread q.g q.slot = some (th.answered p b) := by
  obtain ⟨hth, hid⟩ := hn
  simp only [State.answerP, hid, hth]
  rw [State.thread, core_setCore_self]
  exact (coreThread_setThread (s.core q.g) q.slot (some (th.answered p b)) (State.slot_lt_of_thread hth)).trans (if_pos rfl)

theorem answerP_clusters (s : State) (tid : Nat) (p : Fin 8) (b : Bool) : (s.answerP tid p b).clusters = s.clusters := by
  unfold State.answerP; repeat' split
  all_goals rfl

theorem cluster_of_clusters {s t : State} (h : t.clusters = s.clusters) (k : Nat) : t.cluster k = s.cluster k := by
  rw [State.cluster, h]; rfl

section
variable {s : State} {k clu i off op : Nat} {r : Req} {p : Fin 8} {key : TeamKey} {q : SlotRef} {th : Thread}
  (hm : s.net[k]? = some (.xreq r clu i p off op key)) (hn : Named s q th) (htid : th.tid = r.tid)
include hm hn htid

/-- With both places taken the answer is false, and the coprocessor goes on. -/
theorem xreqAnswer_busy (hactive : ((s.cluster clu).cop i).active.isSome = true) (hwaiting : ((s.cluster clu).cop i).waiting.isSome = true) :
    ∃ t, exec (.xreqAnswer k) s = .next t ∧ t.thread q.g q.slot = some (th.answered p false) ∧
      (t.cluster clu).cop i = (s.cluster clu).cop i := by
  refine ⟨(s.takeMsg k).answerP r.tid p false, (show _ = execXreqAnswer k s from rfl).trans ?_, ?_, ?_⟩
  · simp only [execXreqAnswer, hm, hactive, hwaiting, and_self, if_true, orNot]
  · rw [← htid]; exact answerP_thread_of_named (hn.takeMsg k) p false
  · rw [cluster_of_clusters (answerP_clusters (s.takeMsg k) ..)]; rfl

/-- With a place free and a sound descriptor the answer is true, and the request has the place. -/
theorem xreqAnswer_takes (hi : i < 2) {g : Nat} {tm : Team} {c : Copy}
    (hfree : ((s.cluster clu).cop i).active.isSome = false ∨ ((s.cluster clu).cop i).waiting.isSome = false)
    (hteam : s.findTeam key = some (g, tm)) (hsound : s.descriptorBad g tm.base off tm.size = false)
    (hdesc : descCopy r key off op tm.size ((s.core g).descriptor (tm.base + off)) = (c, 0)) (hbar : c.regs.barEn = false) :
    ∃ t, exec (.xreqAnswer k) s = .next t ∧ t.thread q.g q.slot = some (th.answered p true) ∧
      (t.cluster clu).cop i = ((s.cluster clu).cop i).takes (g, c) := by
  let s2 := ((s.takeMsg k).answerP r.tid p true).correctSp g (tm.base + off) 64
  refine ⟨s2.setCluster clu ((s2.cluster clu).setCop i (((s.cluster clu).cop i).takes (g, c))),
    (show _ = execXreqAnswer k s from rfl).trans ?_, ?_, ?_⟩
  · have hroom : ¬(((s.cluster clu).cop i).active.isSome = true ∧ ((s.cluster clu).cop i).waiting.isSome = true) := by
      rintro ⟨ha, hw⟩
      rcases hfree with h | h
      · exact Bool.false_ne_true (h.symm.trans ha)
      · exact Bool.false_ne_true (h.symm.trans hw)
    simp only [execXreqAnswer, hm, hroom, hteam, hdesc, hsound, hbar, Bool.false_and, Bool.false_eq_true, ne_eq, not_true_eq_false, if_false,
      orNot]
    rfl
  · have hcores : (s2.setCluster clu ((s2.cluster clu).setCop i (((s.cluster clu).cop i).takes (g, c)))).cores =
        ((s.takeMsg k).answerP r.tid p true).cores := correctSp_cores ..
    rw [State.thread, core_of_cores hcores, ← htid]
    exact answerP_thread_of_named (hn.takeMsg k) p true
  · rw [cluster_setCluster, if_pos rfl, cop_setCop _ _ hi]

end

/-! The engine starts a copy (R282). -/

theorem copyStart_next {s : State} {g : Nat} {c : Copy} (hstop : (s.core g).stop = false)
    (hroom : ((s.core g).copies.filter fun d => d.state == .active).length < 4)
    (hfirst : ((s.core g).copies.find? fun d => d.state == .queued || d.state == .again) = some c) (hdeal : c.plan.m ≠ .deal ∨ c.state = .again) :
    ∃ t, exec (.copyStart g) s = .next t ∧ SameMemory s t ∧ { c with state := .active } ∈ (t.core g).copies := by
  refine exists_next_of_exec (s.putCopy g (.engine g) { c with state := .active }) rfl ((show _ = execCopyStart g s from rfl).trans ?_) ?_
  · have hidle : ¬((s.core g).stop = true ∨ 4 ≤ ((s.core g).copies.filter fun d => d.state == .active).length) := by
      rw [hstop]
      rintro (h | h)
      · cases h
      · omega
    simp only [execCopyStart, hidle, hfirst, hdeal, if_false, if_true, orNot]
  · rw [State.putCopy, core_setCore_self]
    exact List.mem_map.mpr ⟨c, List.mem_of_find?_eq_some hfirst, if_pos rfl⟩

/-! The steps of a sector (R282, R311). -/

section
variable {s s1 : State} {g id sec : Nat} {c : Copy} {loc : CopyLoc} {ls : List (Word × List Byte)}
  (hcopy : s.getCopy g id = some (c, loc)) (hmoves : s.copyMoves g c sec = true)
include hcopy hmoves

/-- A sector on which its unit may work takes its next step. -/
theorem exec_copySectorLand (hstep : s.sectorStep g c loc sec = .ok s1) : exec (.copySectorLand g id sec) s = .next s1 := by
  refine (show _ = execCopySectorLand g id sec s from rfl).trans ?_
  simp only [execCopySectorLand, hcopy, hmoves, hstep, Bool.true_eq_false, if_false, orNot]

theorem exec_copySectorLand_read (hread : c.read? sec = none) (hls : s.landRead g c sec = .ok (s1, ls)) :
    exec (.copySectorLand g id sec) s = .next (s1.putCopy g loc { c with got := smapPut c.got sec ls }) :=
  exec_copySectorLand hcopy hmoves (by rw [State.sectorStep, hread]; dsimp only; rw [hls])

theorem exec_copySectorLand_write {bytes : List (Nat × Byte)} (hread : c.read? sec = some ls) (hbytes : s.landWrite g c sec ls = .ok (s1, bytes))
    (hstrike : s.copyStrike c sec = none) (hskid : c.skid = none) (hstream : c.stream = none) (hbar : c.regs.barEn = false) :
    exec (.copySectorLand g id sec) s = .next (s1.putCopy g loc { c with
      landed := c.landed ++ [sec], got := smapDel c.got sec, bytes := bytes.foldl (fun m e => smapPut m e.1 e.2) c.bytes,
      nzero := c.nzero + c.zeroed sec ls }) := by
  refine exec_copySectorLand hcopy hmoves ?_
  rw [State.sectorStep, hread]
  simp only [State.landSector, hbytes, hstrike, hskid, hstream, hbar, Bool.false_and, Bool.false_eq_true, if_false, Option.isSome_none, nextSkid]

/-- A copy with no strike to report parks at a sector that meets a fault, where each sector that it has read meets one too (R283). -/
theorem exec_copyPark (hstate : c.state = .active) (hskid : c.skid = none)
    (hgot : ∀ e ∈ c.got, (s.sectorFault g c loc e.1).isSome = true) {e : Stop} (hstep : s.sectorStep g c loc sec = .error e)
    (hfault : e.isFault = true) : exec (.copyPark g id sec) s = .next ((s.putCopy g loc { c with state := .parked, got := [] }).trapEngine
      c.tid (dieOf g) (engineReport (loc.unit (c.plan.m == .deal)) e.kind e.detail c.pc e.addr)) := by
  have hworks : ¬(c.state ≠ .active ∨ s.engineStopped g c = true) := by
    rw [hstate]
    rintro (h | h)
    · exact h rfl
    · simp [State.copyMoves, h] at hmoves
  have hothers : ¬(s.copyMoves g c sec = false ∨ (c.got.any fun e => (s.sectorFault g c loc e.1).isNone) = true) := by
    rw [hmoves, List.any_eq_true]
    rintro (h | ⟨x, hx, hnone⟩)
    · cases h
    · have hsome := hgot x hx
      rw [Option.isNone_iff_eq_none.mp hnone] at hsome
      cases hsome
  have hsector : s.sectorFault g c loc sec = some e := by
    rw [State.sectorFault, hstep]
    exact if_pos hfault
  refine (show _ = execCopyPark g id sec s from rfl).trans ?_
  simp only [execCopyPark, hcopy, hworks, hskid, hothers, hsector, Option.isSome_none, Bool.false_eq_true, if_false, Option.map_some, orNot]

end

/-! Completion (R284). -/

/-- A copy's message is on its way to its team's core. -/
theorem mem_net_postCopy (s : State) (g : Nat) (c : Copy) (status : Nat) (w1 : Word) :
    .inbox (some c.team) g ⟨copyWord c.msgKind status c.bslot c.id, w1, 1, c.colour⟩ g (s.die (dieOf g)).k ∈ (s.postCopy g c status w1).net :=
  List.mem_append_right _ (List.mem_singleton_self _)

theorem copyComplete_next {s : State} {g id : Nat} {c : Copy} (hcopy : ((s.core g).copies.find? fun d => d.id.toNat == id) = some c)
    (hstate : c.state = .active) (hchecked : (s.core g).checked = false) (hdone : c.total ≤ c.landed.length) :
    ∃ t, exec (.copyComplete g id) s = .next t ∧ SameMemory s t ∧
      (t.core g).copies = ((s.core g).copies.filter fun d => d.id != c.id) ∧
      .inbox (some c.team) g ⟨copyWord c.msgKind 0 c.bslot c.id, c.word1, 1, c.colour⟩ g (s.die (dieOf g)).k ∈ t.net := by
  refine exists_next_of_exec ((s.removeCopy (.engine g) c).postCopy g c 0 c.word1) rfl ((show _ = execCopyComplete g id s from rfl).trans ?_)
    ⟨?_, mem_net_postCopy ..⟩
  · simp only [execCopyComplete, hcopy, hstate, hchecked, hdone, and_self, if_true, orNot]
  · exact congrArg Core.copies (core_setCore_self s g _)

theorem transformComplete_next {s : State} {clu cop g : Nat} {c : Copy} (hactive : ((s.cluster clu).cop cop).active = some (g, c))
    (hstate : c.state = .active) (hdone : c.total ≤ c.landed.length) :
    ∃ t, exec (.transformComplete clu cop) s = .next t ∧ SameMemory s t ∧
      (t.cluster clu).cop cop = ⟨((s.cluster clu).cop cop).waiting, none⟩ ∧
      .inbox (some c.team) g ⟨copyWord c.msgKind 0 c.bslot c.id, c.word1, 1, c.colour⟩ g (s.die (dieOf g)).k ∈ t.net := by
  refine exists_next_of_exec ((s.removeCopy (.cop clu cop) c).postCopy g c 0 c.word1) rfl
    ((show _ = execTransformComplete clu cop s from rfl).trans ?_) ⟨?_, mem_net_postCopy ..⟩
  · simp only [execTransformComplete, hactive, hstate, hdone, and_self, if_true, orNot]
  · have hcluster : (s.removeCopy (.cop clu cop) c).cluster clu = (s.cluster clu).setCop cop ⟨((s.cluster clu).cop cop).waiting, none⟩ :=
      (cluster_setCluster s clu clu _).trans (if_pos rfl)
    exact (congrArg (Cluster.cop · cop) hcluster).trans (cop_setCop _ _ (cop_lt_of_active hactive))

/-! `cp.res` (R283). -/

theorem exec_cpRes {s : State} {tid id g : Nat} {c : Copy} {loc : CopyLoc} (hparked : s.parkedCopy tid id = some (g, c, loc)) :
    exec (.cpResResume tid id) s = .next (s.putCopy g loc { c with state := c.resumed, skid := none }) ∧
    exec (.cpResDiscard tid id) s = .next (s.endCopy g loc c) := by
  have hres (disc : Bool) : s.cpRes tid id disc =
      if disc then s.endCopy g loc c else s.putCopy g loc { c with state := c.resumed, skid := none } := by
    rw [State.cpRes, hparked]
  have hsome : (s.parkedCopy tid id).isSome = true := by rw [hparked]; rfl
  exact ⟨(if_pos hsome).trans (congrArg _ (hres false)), (if_pos hsome).trans (congrArg _ (hres true))⟩

/-- Settles O52: each step of a copy or transform is enabled by the conditions named, and leaves what R280–R284 and R292 say. -/
theorem copyEventsComplete : Obligations.CopyEventsComplete := by
  unfold Obligations.CopyEventsComplete
  refine ⟨?_, fun _ _ _ hstop hroom hfirst hdeal => copyStart_next hstop hroom hfirst hdeal,
    fun _ _ _ _ _ _ _ _ hcopy hmoves hread hls => exec_copySectorLand_read hcopy hmoves hread hls,
    fun _ _ _ _ _ _ _ _ _ hcopy hmoves hread hbytes hstrike hskid hstream hbar =>
      exec_copySectorLand_write hcopy hmoves hread hbytes hstrike hskid hstream hbar, ?_,
    fun _ _ _ _ hcopy hstate hchecked hdone => copyComplete_next hcopy hstate hchecked hdone,
    fun _ _ _ _ _ hactive hstate hdone => transformComplete_next hactive hstate hdone, fun _ _ _ _ _ _ hparked => exec_cpRes hparked⟩
  · intro s k clu i off op r p key q th cop hm hi hn htid
    exact ⟨fun hactive hwaiting => xreqAnswer_busy hm hn htid hactive hwaiting,
      fun _ _ _ hfree hteam hsound hdesc hbar => xreqAnswer_takes hm hn htid hi hfree hteam hsound hdesc hbar⟩
  · intro s g id sec c loc e hcopy hstate hskid hmoves hgot hstep hfault
    exact exists_next_of_exec _ rfl (exec_copyPark hcopy hmoves hstate hskid hgot hstep hfault) rfl

end Sys2Proof.Machine
end

section
/-! PROOFS. What barrier words and stream bindings leave (R212, R280, R283, R287): an update of a sound word changes scratchpads alone, and the
release of a binding its thread and at most one copy. -/
namespace Sys2Proof.Machine
open Sys2Proof

/-! Teams and threads are found where they were. -/

theorem smapPut_smapPut {α : Type} (m : List (Nat × α)) (k : Nat) (v w : α) : smapPut (smapPut m k v) k w = smapPut m k w := by
  induction m with
  | nil => simp [smapPut]
  | cons e m ih =>
    obtain ⟨j, y⟩ := e
    by_cases hj : j = k
    · simp [smapPut, hj]
    · by_cases hlt : k < j
      · simp [smapPut, hj, hlt]
      · simp [smapPut, hj, hlt, ih]

theorem setCore_setCore (s : State) (g : Nat) (c d : Core) : (s.setCore g c).setCore g d = s.setCore g d := by
  simp only [State.setCore, smapPut_smapPut]

/-- A team is on its core after a core is replaced by one with its teams. -/
theorem findTeam_setCore {s : State} {g : Nat} {c : Core} (key : TeamKey) (h : c.teams = (s.core g).teams) :
    (s.setCore g c).findTeam key = s.findTeam key := by
  have hteam : c.teamOf key = (smapGet Core.reset s.cores g).teamOf key := congrArg (List.find? _) h
  rw [State.findTeam, State.findTeam, State.setCore]
  generalize s.cores = m at hteam ⊢
  induction m with
  | nil => simp only [smapPut, List.findSome?_cons, hteam]; rfl
  | cons e m ih =>
    obtain ⟨j, d⟩ := e
    by_cases hj : j = g
    · subst hj
      simp only [smapPut, if_true, List.findSome?_cons, hteam, smapGet, smapFind, Option.getD_some]
    · by_cases hlt : g < j
      · have hnone : c.teamOf key = none := by
          rw [hteam, smapGet, smapFind, if_neg hj, if_pos hlt]
          rfl
        simp only [smapPut, if_neg hj, if_pos hlt, List.findSome?_cons (a := (g, c)), hnone, Option.map_none]
      · have hrest := ih (by rw [hteam, smapGet, smapFind, if_neg hj, if_neg hlt]; rfl)
        simp only [smapPut, if_neg hj, if_neg hlt, List.findSome?_cons, hrest]

/-- A team is on its core after a thread has finished. -/
theorem finish_findTeam {x : Ctx} {c : Core} {u : Thread} (key : TeamKey) (hc : c.teams = (x.s.core x.g).teams) :
    (x.finish c u).findTeam key = x.s.findTeam key := findTeam_setCore (c := c.setThread x.slot (some (issuedAs u))) key hc

/-- A thread that finishes is named where it was. -/
theorem finish_named {x : Ctx} {c : Core} {u : Thread} (hn : Named x.s ⟨x.g, x.slot⟩ x.t) (hc : c.threads = (x.s.core x.g).threads)
    (hu : u.tid = x.t.tid) : Named (x.finish c u) ⟨x.g, x.slot⟩ (issuedAs u) := by
  have hcore := hn.setCore hc
  have hthread := hcore.onTid (f := fun _ => issuedAs u) hu
  rw [onTid_of_named hcore, State.setThread, core_setCore_self, setCore_setCore] at hthread
  exact hthread.of_cores rfl

/-! Barrier words (R212, R280, R283). -/

/-- A step that changes scratchpads alone, what commands keep of them (R423), the errors corrected there and their counts. -/
structure BarStep (s s' : State) : Prop where
  cls     : s'.cls = s.cls
  core    : ∀ g, ∃ spad active queue, s'.core g = { s.core g with spad := spad, active := active, queue := queue }
  findTid : ∀ tid, s'.findTid tid = s.findTid tid
  clock   : ∀ d, (s'.die d).k = (s.die d).k
  errors  : ∀ e ∈ s'.badSpad, e ∈ s.badSpad

section
variable {s s' s'' : State}

theorem BarStep.refl (s : State) : BarStep s s := ⟨rfl, fun _ => ⟨_, _, _, rfl⟩, fun _ => rfl, fun _ => rfl, fun _ h => h⟩

theorem BarStep.trans (h : BarStep s s') (h' : BarStep s' s'') : BarStep s s'' where
  cls := h'.cls.trans h.cls
  core g := by
    obtain ⟨_, _, _, hc⟩ := h.core g
    obtain ⟨_, _, _, hc'⟩ := h'.core g
    exact ⟨_, _, _, hc'.trans (by rw [hc])⟩
  findTid tid := (h'.findTid tid).trans (h.findTid tid)
  clock d := (h'.clock d).trans (h.clock d)
  errors e he := h.errors e (h'.errors e he)

theorem BarStep.threads (h : BarStep s s') (g : Nat) : (s'.core g).threads = (s.core g).threads := by
  obtain ⟨_, _, _, hc⟩ := h.core g; rw [hc]

theorem BarStep.copies (h : BarStep s s') (g : Nat) : (s'.core g).copies = (s.core g).copies := by
  obtain ⟨_, _, _, hc⟩ := h.core g; rw [hc]

theorem BarStep.seq (h : BarStep s s') (g : Nat) : (s'.core g).seq = (s.core g).seq := by
  obtain ⟨_, _, _, hc⟩ := h.core g; rw [hc]

theorem BarStep.named {r : SlotRef} {th : Thread} (h : BarStep s s') (hn : Named s r th) : Named s' r th := by
  obtain ⟨hth, hid⟩ := hn
  exact ⟨(thread_of_threads (h.threads r.g) r.slot).trans hth, (h.findTid th.tid).trans hid⟩

/-- No word of a scratchpad has an uncorrectable error (R212). -/
def State.spadsSound (s : State) : Prop := ∀ e ∈ s.badSpad, e.2 = false

theorem BarStep.spadsSound (h : BarStep s s') (hs : s.spadsSound) : s'.spadsSound := fun e he => hs e (h.errors e he)

theorem barSound_of_spadsSound (hs : s.spadsSound) {key : TeamKey} {off : Nat} : BarSound s key off := by
  intro g tm _
  rw [State.badSp, List.any_eq_false]
  intro e he
  simp [hs e he]

theorem BarStep.foldl {α : Type} {f : State → α → State} (h : ∀ s a, s.spadsSound → BarStep s (f s a)) (l : List α) {s : State}
    (hs : s.spadsSound) : BarStep s (l.foldl f s) := by
  induction l generalizing s with
  | nil => exact .refl s
  | cons a rest ih => exact (h s a hs).trans (ih ((h s a hs).spadsSound hs))

end

theorem freezeDie_clock (s : State) (die cause d : Nat) : ((s.freezeDie die cause).die d).k = (s.die d).k := by
  unfold State.freezeDie; dsimp only; split
  · rfl
  · rw [die_setDie]; split
    · next h => subst h; rfl
    · rfl

theorem trigger_clock (s : State) (die bit d : Nat) : ((s.trigger die bit).die d).k = (s.die d).k := by
  unfold State.trigger; split
  · exact freezeDie_clock ..
  · rfl

theorem countFixed_clock (s : State) (die n d : Nat) : ((s.countFixed die n).die d).k = (s.die d).k := by
  unfold State.countFixed; split
  · rfl
  · rw [trigger_clock, die_setDie]; split
    · next h => subst h; rfl
    · rfl

theorem correctSp_clock (s : State) (g off n d : Nat) : ((s.correctSp g off n).die d).k = (s.die d).k := by
  unfold State.correctSp; dsimp only; split
  · exact countFixed_clock ..
  · rfl

theorem correctSp_errors {s : State} {g off n : Nat} {e : Nat × Bool} (h : e ∈ (s.correctSp g off n).badSpad) : e ∈ s.badSpad := by
  unfold State.correctSp at h; dsimp only at h; split at h
  · rw [countFixed_state] at h
    exact (List.mem_filter.mp h).1
  · exact h

theorem spadPut_core (c : Core) (off : Nat) (bs : List Byte) :
    ∃ spad active queue, c.spadPut off bs = { c with spad := spad, active := active, queue := queue } := ⟨_, _, _, rfl⟩

section
variable (s : State)

theorem barStep_correctSp (g off n : Nat) : BarStep s (s.correctSp g off n) where
  cls := by rw [correctSp_state]
  core h := ⟨_, _, _, core_of_cores (correctSp_cores s g off n) h⟩
  findTid tid := by rw [State.findTid, correctSp_cores]; rfl
  clock := correctSp_clock s g off n
  errors _ he := correctSp_errors he

theorem barStep_setCore (g : Nat) (spad : List (Nat × Byte)) (active queue : List Cmd) :
    BarStep s (s.setCore g { s.core g with spad := spad, active := active, queue := queue }) where
  cls := rfl
  core h := by
    by_cases hg : h = g
    · subst hg; rw [core_setCore_self]; exact ⟨_, _, _, rfl⟩
    · rw [core_setCore_other _ _ hg]; exact ⟨_, _, _, rfl⟩
  findTid _ := findTid_smapPut s.cores rfl
  clock _ := rfl
  errors _ he := he

theorem barStep_barPut (g off w : Nat) : BarStep s (s.setCore g ((s.core g).barPut off w)) := by
  obtain ⟨_, _, _, hput⟩ := spadPut_core (s.core g) off ((List.range 16).map fun i => BitVec.ofNat 8 (w / 256 ^ i))
  rw [Core.barPut, hput]
  exact barStep_setCore ..

variable {s}

/-- The update of a sound word changes scratchpads alone. -/
theorem barStep_barUpdate {c : Copy} {key : TeamKey} (hs : BarSound s key c.regs.barOff) (unit : Word) (f : Nat → Nat) :
    BarStep s (s.barUpdate c unit key f) := by
  unfold State.barUpdate
  split
  · exact .refl s
  · next g tm hteam =>
    dsimp only
    rw [hs g tm hteam, if_neg Bool.false_ne_true]
    exact (barStep_correctSp s ..).trans (barStep_barPut ..)

theorem barStep_barGiveUp (hs : s.spadsSound) (loc : CopyLoc) (c : Copy) : BarStep s (s.barGiveUp loc c) := by
  unfold State.barGiveUp
  dsimp only
  split
  · exact .refl s
  · split
    · exact .foldl (fun s e hs => barStep_barUpdate (barSound_of_spadsSound hs) ..) _ hs
    · exact barStep_barUpdate (barSound_of_spadsSound hs) ..

end

/-! The release of a binding, and a new one (R287). -/

section
variable {s : State} {g slot : Nat} {j : Fin 4} {th : Thread}

theorem setThread_copies (s : State) (g slot h : Nat) (t : Option Thread) : ((s.setThread g slot t).core h).copies = (s.core h).copies := by
  rw [State.setThread, core_setCore]
  split
  · next hg => rw [hg]; rfl
  · rfl

/-- A thread with an s register bound anew. -/
def Thread.bind (t : Thread) (j : Fin 4) (b : Option Stream) : Thread := { t with streams := t.streams.set j b }

theorem bind_bind (t : Thread) (j : Fin 4) (a b : Option Stream) : (t.bind j a).bind j b = t.bind j b := by
  simp [Thread.bind]

theorem bindStream_eq (h : s.thread g slot = some th) (b : Option Stream) :
    s.bindStream g slot j b = s.setThread g slot (some (th.bind j b)) := by
  rw [State.bindStream, h]; rfl

/-- The copy found by an identifier bears it. -/
theorem id_of_getCopy {n : Nat} {c : Copy} {loc : CopyLoc} (h : s.getCopy g n = some (c, loc)) : c.id.toNat = n := by
  unfold State.getCopy at h
  split at h
  · next d hd =>
    cases h
    have hid := List.find?_some hd
    exact beq_iff_eq.mp hid
  · obtain ⟨e, -, he⟩ := List.exists_of_findSome?_eq_some h
    obtain ⟨i, -, hi⟩ := List.exists_of_findSome?_eq_some he
    split at hi
    · split at hi
      · next hid => cases hi; exact hid.2
      · cases hi
    · cases hi

/-- A step that leaves every thread, and every copy but those of an identifier. -/
structure EndsOnly (n : Nat) (s s' : State) : Prop where
  cls     : s'.cls = s.cls
  threads : ∀ h, (s'.core h).threads = (s.core h).threads
  copies  : ∀ h, ∀ d ∈ (s.core h).copies, d.id.toNat ≠ n → d ∈ (s'.core h).copies

theorem endsOnly_refl (n : Nat) (s : State) : EndsOnly n s s := ⟨rfl, fun _ => rfl, fun _ _ hd _ => hd⟩

theorem endsOnly_removeCopy (s : State) (loc : CopyLoc) (c : Copy) : EndsOnly c.id.toNat s (s.removeCopy loc c) := by
  cases loc with
  | cop clu k => exact ⟨rfl, fun _ => rfl, fun _ _ hd _ => hd⟩
  | engine e =>
    have hcore (h : Nat) : (s.removeCopy (.engine e) c).core h =
        if h = e then ({ s.core e with copies := (s.core e).copies.filter fun d => d.id != c.id }).dropDrained else s.core h := core_setCore ..
    refine ⟨rfl, fun h => ?_, fun h d hd hne => ?_⟩ <;> rw [hcore] <;> split
    · next he => rw [he]; rfl
    · rfl
    · next he =>
      have hid : (d.id != c.id) = true := bne_iff_ne.mpr fun heq => hne (congrArg BitVec.toNat heq)
      exact List.mem_filter.mpr ⟨he ▸ hd, hid⟩
    · exact hd

theorem endsOnly_endCopy (hs : s.spadsSound) (loc : CopyLoc) (c : Copy) : EndsOnly c.id.toNat s (s.endCopy g loc c) := by
  have hbar := barStep_barGiveUp hs loc c
  have hrem := endsOnly_removeCopy (s.barGiveUp loc c) loc c
  exact ⟨hrem.cls.trans hbar.cls, fun h => (hrem.threads h).trans (hbar.threads h),
    fun h d hd hne => hrem.copies h d (hbar.copies h ▸ hd) hne⟩

/-- The release of no binding, or of a ticket's, changes its thread alone. -/
theorem releaseStream_ticket (hn : Named s ⟨g, slot⟩ th) (hold : ∀ old, th.streams[j] = some old → old.ticket = true) :
    s.releaseStream g th.tid j = s.setThread g slot (some (th.bind j none)) := by
  obtain ⟨hth, hid⟩ := hn
  simp only [State.releaseStream, hid, hth]
  cases hst : th.streams[j] with
  | none => rfl
  | some old => simp only [hold old hst, if_true]; rfl

/-- The release of a copy's binding changes its thread and ends that copy alone. -/
theorem releaseStream_copy (hn : Named s ⟨g, slot⟩ th) (hs : s.spadsSound) {old : Stream} (hold : th.streams[j] = some old) :
    EndsOnly old.src (s.setThread g slot (some (th.bind j none))) (s.releaseStream g th.tid j) := by
  obtain ⟨hth, hid⟩ := hn
  simp only [State.releaseStream, hid, hth, hold]
  split
  · exact endsOnly_refl ..
  · split
    · next c loc hcopy =>
      rw [← id_of_getCopy hcopy]
      split
      · exact endsOnly_endCopy (s := s.setThread g slot (some (th.bind j none))) hs loc c
      · exact endsOnly_refl ..
    · exact endsOnly_refl ..

end

end Sys2Proof.Machine
end

section
/-! PROOFS. Copies and streams start (R279–R281, R284, R286, R287): the turn that `cgo`, a read of cp.go and `sbind` share, what it leaves, and a
copy that is queued or over at once. -/
namespace Sys2Proof.Machine
open Sys2Proof

/-! The turn (R279, R280). -/

/-- The copy that the shadow registers of a thread describe, as it is accepted. -/
def Ctx.newCopy (x : Ctx) (stream : Option (Fin 4)) : Copy :=
  ⟨transferId x.g x.slot x.c.seq, x.t.tid, x.t.key, x.t.colour, x.t.wid, x.slot, x.t.pc, x.t.cp, none, 0, stream.map Fin.val,
    x.t.cp.plan.count stream.isSome, [], [], [], 0, .queued, none⟩

/-- The core with the copy in its engine's queue, unless it moves nothing. -/
def Ctx.copyCore (x : Ctx) (c : Copy) : Core :=
  { x.c with seq := x.c.seq + 1, copies := if c.total == 0 then x.c.copies else x.c.copies ++ [c] }

/-- The thread with the identifier in its destination. -/
def Ctx.copyThread (x : Ctx) (i : Fin 16) : Thread := x.t.putD i ((transferId x.g x.slot x.c.seq).setWidth 64)

/-- The instruction has issued, and the copy has made its barrier step. -/
def Ctx.copyIssued (x : Ctx) (c : Copy) (i : Fin 16) : State :=
  let s1 := x.finish (x.copyCore c) (x.copyThread i)
  if c.regs.barEn && c.plan.m != .deal then s1.barUpdate c ((CopyLoc.engine x.g).unit false) x.t.key (barCopy c.total c.regs.barArr) else s1

/-- The binding of an s register to a copy (R286). -/
def Copy.binding (c : Copy) : Option Stream := if c.plan.total = 0 then none else some ⟨false, c.id.toNat, [], c.plan.total⟩

/-- The s register that `sbind` names is bound to the copy in place of what it was bound to. -/
def Ctx.copyBound (x : Ctx) (stream : Option (Fin 4)) (c : Copy) (s : State) : State :=
  match stream with
  | some j => (s.releaseStream x.g x.t.tid j).bindStream x.g x.slot j c.binding
  | none => s

section
variable {gd : Guard} {f : Fields} {s : State} {x : Ctx} {i : Fin 16} {stream : Option (Fin 4)}

/-- A distributor's copy is bound to no stream (R281). -/
theorem not_deal_of_bad {p : Plan} {kindOk : Bool} {size : Nat} (h : p.bad kindOk true size = 0) : p.m ≠ .deal := by
  intro hm
  simp [Plan.bad, hm] at h

/-- A copy that moves nothing, no distributor's, posts its message (R280). -/
theorem emptyCopy_eq {c : Copy} (h : c.plan.m ≠ .deal) (s : State) (g : Nat) : s.emptyCopy g c = s.postCopy g c 0 c.word1 := if_neg h

section
variable (he : Executes gd s x) (hd : f.dst.reg = .d i) (hp : x.t.dpend[i] = false) (hhome : x.c.atHome x.t = true)
  (hroom : x.c.copies.length < 8)
include he hd hp hhome hroom

/-- Registers that break a rule trap (R281). -/
theorem copyTurn_traps
    (hbad : x.t.cp.plan.bad x.t.cp.kindOk stream.isSome (((x.c.teamOf x.t.key).map Team.size).getD 0) ≠ 0) :
    copyTurn stream gd f s = .next (x.trap kindCopy
      (x.t.cp.plan.bad x.t.cp.kindOk stream.isSome (((x.c.teamOf x.t.key).map Team.size).getD 0)) 0) := by
  have hwaits : dstWait x [] f.dst ++ (if x.c.atHome x.t && decide (8 ≤ x.c.copies.length) then [SlotClass.msg] else []) = [] := by
    rw [dstWait_d hd hp, decide_eq_false (Nat.not_le.mpr hroom), Bool.and_false]; rfl
  exact (turn_ready he hwaits).trans (congrArg _ ((if_neg (ne_false_of_eq_true hhome)).trans (if_pos hbad)))

/-- Registers that keep the rules start a copy, which is over at once if it moves nothing. -/
theorem copyTurn_accepts
    (hbad : x.t.cp.plan.bad x.t.cp.kindOk stream.isSome (((x.c.teamOf x.t.key).map Team.size).getD 0) = 0)
    (hbar : barWaits x x.t.cp (x.t.cp.plan.m == .deal) = false) (hdeal : x.t.cp.plan.count stream.isSome = 0 → x.t.cp.plan.m ≠ .deal) :
    copyTurn stream gd f s = .next (
      let c := x.newCopy stream
      let s' := x.copyBound stream c (x.copyIssued c i)
      if c.total = 0 then s'.postCopy x.g c 0 c.word1 else s') := by
  have hwaits : dstWait x [] f.dst ++ (if x.c.atHome x.t && decide (8 ≤ x.c.copies.length) then [SlotClass.msg] else []) = [] := by
    rw [dstWait_d hd hp, decide_eq_false (Nat.not_le.mpr hroom), Bool.and_false]; rfl
  have hnot : (x.t.cp.plan.count stream.isSome == 0 && x.t.cp.plan.m == .deal) = false := by
    rw [Bool.and_eq_false_imp]
    exact fun h => beq_eq_false_iff_ne.mpr (hdeal (beq_iff_eq.mp h))
  have hgoes : ¬(barWaits x x.t.cp (x.t.cp.plan.m == .deal) || (x.t.cp.plan.count stream.isSome == 0 && x.t.cp.plan.m == .deal &&
      (x.s.dealBad x.g (x.newCopy stream)).isNone && x.s.dealWaits (x.newCopy stream))) = true := by
    rw [hbar, hnot]
    exact Bool.false_ne_true
  refine (turn_ready he hwaits).trans (congrArg _ ((if_neg (ne_false_of_eq_true hhome)).trans ((if_neg (not_not_intro hbad)).trans
    ((if_neg hgoes).trans ?_))))
  rw [hd]
  refine (show _ = if (x.t.cp.plan.count stream.isSome == 0) = true then
    (x.copyBound stream (x.newCopy stream) (x.copyIssued (x.newCopy stream) i)).emptyCopy x.g (x.newCopy stream)
    else x.copyBound stream (x.newCopy stream) (x.copyIssued (x.newCopy stream) i) from rfl).trans ?_
  by_cases hn : x.t.cp.plan.count stream.isSome = 0
  · rw [if_pos (beq_iff_eq.mpr hn), emptyCopy_eq (c := x.newCopy stream) (hdeal hn)]
    exact (if_pos hn).symm
  · rw [if_neg (fun h => hn (beq_iff_eq.mp h))]
    exact (if_neg hn).symm

/-- A copy that moves something is queued. -/
theorem copyTurn_queues
    (hbad : x.t.cp.plan.bad x.t.cp.kindOk stream.isSome (((x.c.teamOf x.t.key).map Team.size).getD 0) = 0)
    (hbar : barWaits x x.t.cp (x.t.cp.plan.m == .deal) = false) (hcount : x.t.cp.plan.count stream.isSome ≠ 0) :
    copyTurn stream gd f s = .next (x.copyBound stream (x.newCopy stream) (x.copyIssued (x.newCopy stream) i)) :=
  (copyTurn_accepts he hd hp hhome hroom hbad hbar fun h => absurd h hcount).trans (congrArg _ (if_neg hcount))

/-- A copy that moves nothing is over. -/
theorem copyTurn_posts
    (hbad : x.t.cp.plan.bad x.t.cp.kindOk stream.isSome (((x.c.teamOf x.t.key).map Team.size).getD 0) = 0)
    (hbar : barWaits x x.t.cp (x.t.cp.plan.m == .deal) = false) (hcount : x.t.cp.plan.count stream.isSome = 0)
    (hdeal : x.t.cp.plan.m ≠ .deal) :
    copyTurn stream gd f s = .next ((x.copyBound stream (x.newCopy stream) (x.copyIssued (x.newCopy stream) i)).postCopy x.g
      (x.newCopy stream) 0 (x.newCopy stream).word1) :=
  (copyTurn_accepts he hd hp hhome hroom hbad hbar fun _ => hdeal).trans (congrArg _ (if_pos hcount))

end

/-! What the turn leaves. -/

theorem newCopy_of_count {n : Nat} (h : x.t.cp.plan.count stream.isSome = n) : { x.newCopy stream with total := n } = x.newCopy stream := by
  subst h; rfl

theorem binding_of_empty {c : Copy} (h : c.plan.total = 0) : c.binding = none := if_pos h
theorem binding_of_bytes {c : Copy} (h : c.plan.total ≠ 0) : c.binding = some ⟨false, c.id.toNat, [], c.plan.total⟩ := if_neg h

/-- The copy is accepted: the instruction has issued with `u` in its slot, and the copy is in its engine's queue unless it moves nothing. -/
structure CopyAccepted (x : Ctx) (c : Copy) (u : Thread) (t : State) : Prop where
  cls    : t.cls = .issued
  thread : t.thread x.g x.slot = some (issuedAs u)
  copies : (t.core x.g).copies = if c.total == 0 then x.c.copies else x.c.copies ++ [c]
  seq    : (t.core x.g).seq = x.c.seq + 1
  clock  : ∀ d, (t.die d).k = (x.s.die d).k

variable {c : Copy}

theorem ctx_core (hx : ctxOf s = some x) : x.c = x.s.core x.g := by
  obtain ⟨hs, hg, -, hc, -⟩ := ctxOf_state hx
  rw [hc, hs, hg]

theorem barStep_copyIssued (hx : ctxOf s = some x)
    (hsound : c.regs.barEn = true → c.plan.m ≠ .deal → BarSound x.s x.t.key c.regs.barOff) :
    BarStep (x.finish (x.copyCore c) (x.copyThread i)) (x.copyIssued c i) := by
  unfold Ctx.copyIssued
  dsimp only
  split
  · next h =>
    obtain ⟨hen, hm⟩ := Bool.and_eq_true_iff.mp h
    refine barStep_barUpdate (s := x.finish _ _) (fun g tm hteam => hsound hen (bne_iff_ne.mp hm) g tm ?_) ..
    exact (finish_findTeam (c := x.copyCore c) x.t.key (show x.c.teams = _ from congrArg Core.teams (ctx_core hx))).symm.trans hteam
  · exact .refl _

theorem accepts_copyIssued (hx : ctxOf s = some x)
    (hsound : c.regs.barEn = true → c.plan.m ≠ .deal → BarSound x.s x.t.key c.regs.barOff) :
    CopyAccepted x c (x.copyThread i) (x.copyIssued c i) := by
  have hbar := barStep_copyIssued (i := i) hx hsound
  have hcore := finish_core_self x (x.copyCore c) (x.copyThread i)
  exact ⟨hbar.cls, (thread_of_threads (hbar.threads x.g) x.slot).trans (finish_thread_self (slot_lt_of_ctxOf hx) ..),
    (hbar.copies x.g).trans (congrArg Core.copies hcore), (hbar.seq x.g).trans (congrArg Core.seq hcore), hbar.clock⟩

theorem named_copyIssued (hx : ctxOf s = some x)
    (hsound : c.regs.barEn = true → c.plan.m ≠ .deal → BarSound x.s x.t.key c.regs.barOff) (hn : Named x.s ⟨x.g, x.slot⟩ x.t) :
    Named (x.copyIssued c i) ⟨x.g, x.slot⟩ (issuedAs (x.copyThread i)) :=
  (barStep_copyIssued hx hsound).named (finish_named hn (show x.c.threads = _ from congrArg Core.threads (ctx_core hx)) rfl)

theorem CopyAccepted.queued {u : Thread} {t : State} (h : CopyAccepted x c u t) (hcount : c.total ≠ 0) :
    (t.core x.g).copies = x.c.copies ++ [c] := h.copies.trans (if_neg fun h => hcount (beq_iff_eq.mp h))

theorem CopyAccepted.over {u : Thread} {t : State} (h : CopyAccepted x c u t) (hcount : c.total = 0) : (t.core x.g).copies = x.c.copies :=
  h.copies.trans (if_pos (beq_iff_eq.mpr hcount))

/-- The message of a copy that is over at once. -/
theorem CopyAccepted.posts {u : Thread} {t : State} (h : CopyAccepted x c u t) (w1 : Word) :
    CopyAccepted x c u (t.postCopy x.g c 0 w1) ∧ .inbox (some c.team) x.g ⟨copyWord c.msgKind 0 c.bslot c.id, w1, 1, c.colour⟩ x.g
      (x.s.die (dieOf x.g)).k ∈ (t.postCopy x.g c 0 w1).net := by
  obtain ⟨hcls, hthread, hcopies, hseq, hclock⟩ := h
  refine ⟨⟨hcls, hthread, hcopies, hseq, hclock⟩, ?_⟩
  rw [← hclock]
  exact mem_net_postCopy ..

variable {j : Fin 4}

/-- A binding in place of none or a ticket's changes the thread alone. -/
theorem accepts_copyBound (hx : ctxOf s = some x)
    (hsound : c.regs.barEn = true → c.plan.m ≠ .deal → BarSound x.s x.t.key c.regs.barOff) (hn : Named x.s ⟨x.g, x.slot⟩ x.t)
    (hold : ∀ old, x.t.streams[j] = some old → old.ticket = true) :
    CopyAccepted x c ((x.copyThread i).bind j c.binding) (x.copyBound (some j) c (x.copyIssued c i)) := by
  have hslot := slot_lt_of_ctxOf hx
  obtain ⟨hcls, hthread, hcopies, hseq, hclock⟩ := accepts_copyIssued (i := i) hx hsound
  have hbound : x.copyBound (some j) c (x.copyIssued c i) = ((x.copyIssued c i).setThread x.g x.slot
      (some ((issuedAs (x.copyThread i)).bind j none))).setThread x.g x.slot (some ((issuedAs (x.copyThread i)).bind j c.binding)) := by
    have hrelease := releaseStream_ticket (j := j) (named_copyIssued (i := i) hx hsound hn) hold
    rw [Ctx.copyBound, show x.t.tid = (issuedAs (x.copyThread i)).tid from rfl, hrelease,
      bindStream_eq (thread_setThread_self _ _ _ hslot), bind_bind]
  rw [hbound]
  refine ⟨hcls, thread_setThread_self _ _ _ hslot, ?_, ?_, hclock⟩
  · rw [setThread_copies, setThread_copies, hcopies]
  · simp only [State.setThread, core_setCore_self]
    exact hseq

/-- A binding in place of a copy's ends that copy, and starts the new one. -/
theorem copyBound_ends (hx : ctxOf s = some x)
    (hsound : c.regs.barEn = true → c.plan.m ≠ .deal → BarSound x.s x.t.key c.regs.barOff) (hn : Named x.s ⟨x.g, x.slot⟩ x.t)
    (hcount : c.total ≠ 0) {old : Stream} (hold : x.t.streams[j] = some old) (hne : old.src ≠ c.id.toNat) (hspads : x.s.spadsSound) :
    (x.copyBound (some j) c (x.copyIssued c i)).cls = .issued ∧
    c ∈ ((x.copyBound (some j) c (x.copyIssued c i)).core x.g).copies ∧
    (x.copyBound (some j) c (x.copyIssued c i)).thread x.g x.slot = some (issuedAs ((x.copyThread i).bind j c.binding)) := by
  have hslot := slot_lt_of_ctxOf hx
  have hacc := accepts_copyIssued (i := i) hx hsound
  have hends := releaseStream_copy (j := j) (named_copyIssued (i := i) hx hsound hn) ((barStep_copyIssued hx hsound).spadsSound hspads) hold
  have hthread : ((x.copyIssued c i).releaseStream x.g x.t.tid j).thread x.g x.slot = some ((issuedAs (x.copyThread i)).bind j none) :=
    (thread_of_threads (hends.threads x.g) x.slot).trans (thread_setThread_self _ _ _ hslot)
  have hmem : c ∈ ((x.copyIssued c i).core x.g).copies := by
    rw [hacc.copies, if_neg (fun h => hcount (beq_iff_eq.mp h))]
    exact List.mem_append_right _ (List.mem_singleton_self c)
  rw [Ctx.copyBound, bindStream_eq hthread, bind_bind]
  refine ⟨hends.cls.trans hacc.cls, ?_, thread_setThread_self _ _ _ hslot⟩
  rw [setThread_copies]
  exact hends.copies x.g c (by rw [setThread_copies]; exact hmem) hne.symm

theorem exec_sbind (h : f.src1.reg = .s j) : exec (.sbind gd f) s = copyTurn (some j) gd f s := by
  refine (show _ = execSbind gd f s from rfl).trans ?_
  rw [execSbind, h]

/-! The copies of `cgo` and of a read of cp.go, and those of `sbind` (R279, R280, R286, R287). -/

section
variable (he : Executes gd s x) (hd : f.dst.reg = .d i) (hp : x.t.dpend[i] = false) (hhome : x.c.atHome x.t = true)
  (hroom : x.c.copies.length < 8) (hbar : barWaits x x.t.cp (x.t.cp.plan.m == .deal) = false)
  (hsound : x.t.cp.barEn = true → x.t.cp.plan.m ≠ .deal → BarSound s x.t.key x.t.cp.barOff)
include he hd hp hhome hroom hbar hsound

theorem copyTurn_starts
    (hbad : x.t.cp.plan.bad x.t.cp.kindOk false (((x.c.teamOf x.t.key).map Team.size).getD 0) = 0) (hcount : x.t.cp.plan.count false ≠ 0) :
    ∃ t, copyTurn none gd f s = .next t ∧ CopyAccepted x (x.newCopy none) (x.copyThread i) t := by
  obtain ⟨rfl, -⟩ := ctxOf_state he.1
  exact ⟨_, copyTurn_queues he hd hp hhome hroom (stream := none) hbad hbar hcount, accepts_copyIssued he.1 hsound⟩

theorem copyTurn_ends
    (hbad : x.t.cp.plan.bad x.t.cp.kindOk false (((x.c.teamOf x.t.key).map Team.size).getD 0) = 0) (hcount : x.t.cp.plan.count false = 0)
    (hdeal : x.t.cp.plan.m ≠ .deal) :
    ∃ t, copyTurn none gd f s = .next t ∧ CopyAccepted x (x.newCopy none) (x.copyThread i) t ∧
      .inbox (some x.t.key) x.g ⟨copyWord 0x80 0 x.slot (x.newCopy none).id, (x.newCopy none).word1, 1, x.t.colour⟩ x.g
        (s.die (dieOf x.g)).k ∈ t.net := by
  obtain ⟨rfl, -⟩ := ctxOf_state he.1
  exact ⟨_, copyTurn_posts he hd hp hhome hroom (stream := none) hbad hbar hcount hdeal,
    (accepts_copyIssued (c := x.newCopy none) he.1 hsound).posts _⟩

section
variable (hn : Named s ⟨x.g, x.slot⟩ x.t)
  (hbad : x.t.cp.plan.bad x.t.cp.kindOk true (((x.c.teamOf x.t.key).map Team.size).getD 0) = 0)
include hn hbad

/-- A stream of no byte is bound to nothing, and its copy is over. -/
theorem copyTurn_stream_ends (hcount : x.t.cp.plan.count true = 0) (hnone : x.t.streams[j] = none) :
    ∃ t, copyTurn (some j) gd f s = .next t ∧ CopyAccepted x (x.newCopy (some j)) ((x.copyThread i).bind j none) t ∧
      .inbox (some x.t.key) x.g ⟨copyWord 0x81 0 x.slot (x.newCopy (some j)).id, (x.newCopy (some j)).word1, 1, x.t.colour⟩ x.g
        (s.die (dieOf x.g)).k ∈ t.net := by
  obtain ⟨rfl, -⟩ := ctxOf_state he.1
  have htotal : x.t.cp.plan.total = 0 := by
    rw [Plan.count, if_pos rfl] at hcount
    omega
  have hbound := accepts_copyBound (c := x.newCopy (some j)) (i := i) he.1 hsound hn fun old h => by rw [hnone] at h; cases h
  rw [binding_of_empty (c := x.newCopy (some j)) htotal] at hbound
  exact ⟨_, copyTurn_posts he hd hp hhome hroom (stream := some j) hbad hbar hcount (not_deal_of_bad hbad), hbound.posts _⟩

/-- A stream of some bytes is bound to its copy, which is queued; a copy bound before ends. -/
theorem copyTurn_stream_starts (hcount : x.t.cp.plan.count true ≠ 0)
    (hold : ∀ old, x.t.streams[j] = some old → old.ticket = true ∨ (old.src ≠ (x.newCopy (some j)).id.toNat ∧ s.spadsSound)) :
    ∃ t, copyTurn (some j) gd f s = .next t ∧ t.cls = .issued ∧ x.newCopy (some j) ∈ (t.core x.g).copies ∧
      (x.t.streams[j] = none → (t.core x.g).copies = x.c.copies ++ [x.newCopy (some j)]) ∧
      t.thread x.g x.slot = some (issuedAs ((x.copyThread i).bind j (x.newCopy (some j)).binding)) := by
  obtain ⟨rfl, -⟩ := ctxOf_state he.1
  refine ⟨_, copyTurn_queues he hd hp hhome hroom (stream := some j) hbad hbar hcount, ?_⟩
  by_cases hticket : ∀ old, x.t.streams[j] = some old → old.ticket = true
  · have hacc := accepts_copyBound (c := x.newCopy (some j)) (i := i) he.1 hsound hn hticket
    have hqueued := hacc.queued hcount
    exact ⟨hacc.cls, hqueued ▸ List.mem_append_right _ (List.mem_singleton_self _), fun _ => hqueued, hacc.thread⟩
  · push Not at hticket
    obtain ⟨old, hst, hnot⟩ := hticket
    obtain ⟨hne, hspads⟩ := (hold old hst).resolve_left hnot
    obtain ⟨hcls, hmem, hthread⟩ := copyBound_ends (c := x.newCopy (some j)) (i := i) he.1 hsound hn hcount hst hne hspads
    exact ⟨hcls, hmem, fun hnone => absurd (hst.symm.trans hnone) (Option.some_ne_none old), hthread⟩

end

end

end

/-- Settles O38: the three instructions are one turn, which leaves a barrier step, an identifier and a copy, or that copy's message. -/
theorem copiesStart : Obligations.CopiesStart := by
  unfold Obligations.CopiesStart
  intro gd f s x i he hd hp hhome hroom r p size id hbar hsound
  have hmemory {stream : Option (Fin 4)} {t : State} (h : copyTurn stream gd f s = .next t) : SameMemory s t := fun a =>
    congrArg (memGet · a) (copyTurn_mem h)
  refine ⟨?_, ?_, ?_, ?_, fun hbad => copyTurn_traps he hd hp hhome hroom (stream := none) hbad⟩
  · intro hbad hcount c
    obtain ⟨t, ht, hacc⟩ := copyTurn_starts he hd hp hhome hroom hbar hsound hbad hcount
    have hmem := hmemory ht
    exact ⟨⟨t, ht, hacc.cls, hmem, hacc.queued hcount, hacc.seq, hacc.thread⟩,
      ⟨t, ht, hacc.cls, hmem, hacc.queued hcount, hacc.seq, hacc.thread⟩⟩
  · intro hbad hcount hdeal c done
    have hc : c = x.newCopy none := newCopy_of_count (stream := none) hcount
    obtain ⟨t, ht, hacc, hnet⟩ := copyTurn_ends he hd hp hhome hroom hbar hsound hbad hcount hdeal
    have hdone : done t := ⟨hacc.cls, hmemory ht, hacc.over hcount, hacc.seq, hacc.thread, hc ▸ hnet⟩
    exact ⟨⟨t, ht, hdone⟩, ⟨t, ht, hdone⟩⟩
  · intro j hj hbad hcount hnone hn c
    have hc : c = x.newCopy (some j) := newCopy_of_count (stream := some j) hcount
    obtain ⟨t, ht, hacc, hnet⟩ := copyTurn_stream_ends he hd hp hhome hroom hbar hsound hn hbad hcount hnone
    exact ⟨t, (exec_sbind hj).trans ht, hacc.cls, hmemory ht, hacc.over hcount, hacc.thread, hc ▸ hnet⟩
  · intro j hj hbad hcount htotal c hn hold
    obtain ⟨t, ht, hcls, hmem, hqueued, hthread⟩ := copyTurn_stream_starts he hd hp hhome hroom hbar hsound hn hbad hcount hold
    rw [binding_of_bytes (c := x.newCopy (some j)) htotal] at hthread
    exact ⟨t, (exec_sbind hj).trans ht, hcls, hmemory ht, hmem, hqueued, hthread⟩

end Sys2Proof.Machine
end

section
/-! PROOFS. What a task may not execute (R353): the privileged words are `gets` and `sets` of the registers closed to a task, and the level enters
the decoding of a word nowhere else. -/
namespace Sys2Proof
open Sys2Proof.Machine

/-- The register number of a word's fields is the low part of its format field. -/
theorem sysNum_fieldsOf (r : RawWord) : sysNum (fieldsOf r) = field r.fmt 0 16 := by
  simp [sysNum, Fields.bits, fieldsOf, field]

/-- The privileged words are `gets` and `sets` of registers closed to a task. -/
theorem privileged_iff (r : RawWord) (n : Op) : privileged n r.fmt = true ↔ ∃ gd f,
    (n.build r.gd (fieldsOf r) = .gets gd f ∧ sysTaskNone (sysNum f) = true) ∨
    (n.build r.gd (fieldsOf r) = .sets gd f ∧ (sysTaskNone (sysNum f) = true ∨ sysTaskRo (sysNum f) = true)) := by
  cases n with
  | gets =>
    have hget : privileged .gets r.fmt = sysTaskNone (sysNum (fieldsOf r)) := by rw [sysNum_fieldsOf]; rfl
    rw [hget]
    exact ⟨fun hn => ⟨_, _, .inl ⟨rfl, hn⟩⟩, by rintro ⟨gd, f, ⟨hi, hn⟩ | ⟨hi, -⟩⟩ <;> cases hi; exact hn⟩
  | sets =>
    have hset : privileged .sets r.fmt = (sysTaskNone (sysNum (fieldsOf r)) || sysTaskRo (sysNum (fieldsOf r))) := by
      rw [sysNum_fieldsOf]; rfl
    rw [hset, Bool.or_eq_true]
    exact ⟨fun hn => ⟨_, _, .inr ⟨rfl, hn⟩⟩, by rintro ⟨gd, f, ⟨hi, -⟩ | ⟨hi, hn⟩⟩ <;> cases hi; exact hn⟩
  | _ => exact ⟨fun hn => (by cases hn), by rintro ⟨gd, f, ⟨hi, -⟩ | ⟨hi, -⟩⟩ <;> cases hi⟩

/-- No check but the privilege of R353 has detail 6. -/
theorem illegalDetail_eq_six {sup : Bool} {r : RawWord} (h : illegalDetail sup r = 6) : sup = false := by
  unfold illegalDetail at h
  dsimp only at h
  repeat' split at h
  all_goals simp_all

theorem illegalDetail_privileged {r : RawWord} {form : Form} (hpick : pick r = some form) (hpriv : privileged form.name r.fmt = true) :
    illegalDetail false r = 6 := by
  have hne : formsOf r.cls ≠ [] := List.ne_nil_of_mem (pick_mem hpick).1
  simp [illegalDetail, hne, hpick, hpriv]

/-- A word has detail 6 at task level alone. -/
theorem decodeWord_eq_six {sup : Bool} {w : Nat} (h : decodeWord sup w = .error 6) : sup = false := by
  unfold decodeWord decodeRaw at h
  split at h
  · cases h
  split at h
  · split at h <;> cases h
  · next d hd => cases h; exact illegalDetail_eq_six hd

/-- What decodes for a supervisor decodes alike for a task, but for the privileged words, which have detail 6. -/
theorem decodeWord_task {w : Nat} {i : Instr} (h : decodeWord true w = .ok i) :
    ∃ form : Form, i = form.name.build (rawOfWord w).gd (fieldsOf (rawOfWord w)) ∧
      decodeWord false w = if privileged form.name (rawOfWord w).fmt then .error 6 else .ok i := by
  unfold decodeWord at h ⊢
  split at h
  · cases h
  rename_i hblank
  rw [if_neg hblank]
  obtain ⟨hlegal, form, hpick, rfl⟩ := decodeRaw_eq_ok.mp h
  obtain ⟨form', hpick', -, hpasses⟩ := illegalDetail_eq_zero.mp hlegal
  cases hpick.symm.trans hpick'
  refine ⟨form, rfl, ?_⟩
  cases hpriv : privileged form.name (rawOfWord w).fmt with
  | true => exact decodeRaw_refused (illegalDetail_privileged hpick hpriv)
  | false =>
    exact decodeRaw_eq_ok.mpr ⟨illegalDetail_eq_zero.mpr ⟨form, hpick, by rw [hpriv]; rfl, hpasses⟩, form, hpick, rfl⟩

/-- Settles O5: of the checks of a word only the privilege asks the level, and it finds `gets` and `sets` of registers closed to a task, which
refuse such a register at their turn too. -/
theorem privilegedRefused : Obligations.PrivilegedRefused := by
  unfold Obligations.PrivilegedRefused
  refine ⟨?_, fun w h => Bool.noConfusion (decodeWord_eq_six h), ?_, ?_⟩
  · intro w i h
    obtain ⟨form, rfl, htask⟩ := decodeWord_task h
    rw [htask, ← privileged_iff]
    cases privileged form.name (rawOfWord w).fmt <;> simp
  · intro s g slot t bits he hv hb hr hd
    exact ⟨decodeWord_eq_six hd, decodeTurn_refused he hv hb hr hd⟩
  · intro gd f s x he hnum hsup
    refine ⟨fun hdst hnone => ?_, fun hsrc hclosed => ?_⟩
    · refine (turn_ready he hdst).trans ?_
      simp [hnum, hsup, hnone]
    · refine (turn_ready he hsrc).trans ?_
      simp [hnum, hsup, hclosed]

end Sys2Proof
end

section
/-! PROOFS. Traps delivered and returned from (R359–R364): what the flags word keeps when `inh` is written, what a delivery makes of the thread,
and the way back. -/
namespace Sys2Proof.Machine
open Sys2Proof

/-! The flags word when `inh` is written (R354). -/

section
variable (t : Thread) (b : Bool)

theorem setInh_flags : (t.setInh b).flags = t.flags &&& 0xFFFFFFFFFFFFFFFD ||| (if b then 2 else 0) &&& 2 := by
  cases b <;> rfl

@[simp] theorem setInh_vec : (t.setInh b).vec = t.vec := by
  rw [Thread.vec, setInh_flags]
  exact maskedWrite_and_kept _ _ (by decide) (by decide)

@[simp] theorem setInh_evt : (t.setInh b).evt = t.evt := by
  rw [Thread.evt, setInh_flags]
  exact maskedWrite_getLsbD _ _ _ _ (by decide) (by decide)

@[simp] theorem setInh_sup : (t.setInh b).sup = t.sup := by
  rw [Thread.sup, setInh_flags]
  exact maskedWrite_getLsbD _ _ _ _ (by decide) (by decide)

end

/-! Delivery (R360, R362). -/

section
variable {s : State} {g slot : Nat} {t : Thread} {r : Report} {others : Nat}

/-- The thread of a delivery before it goes to its handler or to the arbiter: its report registers written outside a handler. -/
def Thread.reported (t : Thread) (r : Report) (others : Nat) : Thread :=
  { t.clearPending r.clr with
    tr := if t.inh then t.tr else { t.tr with epc := r.pc, cause := causeWord r t.ovf others, addr := r.addr, eng := r.eng, info := r.cpc }
    ovf := t.ovf && t.inh
    gang := t.gang.afterTrap
    kv := []
    trapped := if t.inh then t.trapped else if r.imp then none else some r.pc }

theorem deliver_eq : s.deliver g slot t r others =
    if r.kind = kindCheck ∨ t.inh ∨ t.vec = 0 then
      (s.trace g slot 0x01 t.colour t.wid t.pc (causeWord r t.ovf others)).handOver g slot (t.reported r others) r
    else (s.trace g slot 0x01 t.colour t.wid t.pc (causeWord r t.ovf others)).setThread g slot
      (some { (t.reported r others).setInh true with pc := t.vec, entry := some 0, vector := some r, park := .none }) := rfl

/-- A delivery that a task's handler takes puts the thread at its vector. -/
theorem deliver_vectored (hs : slot < 16) (hk : r.kind ≠ kindCheck) (hinh : t.inh = false) (hvec : t.vec ≠ 0) :
    (s.deliver g slot t r others).thread g slot =
      some { (t.reported r others).setInh true with pc := t.vec, entry := some 0, vector := some r, park := .none } := by
  rw [deliver_eq, if_neg (not_or.mpr ⟨hk, not_or.mpr ⟨by simp [hinh], hvec⟩⟩), thread_setThread_self _ _ _ hs]

/-- The thread of a handler that no window's winner runs is handed over where it stands. -/
theorem handOver_thread (hs : slot < 16) (hfrom : t.fromWin = false) (hwin : t.winning = false) :
    (s.handOver g slot t r).thread g slot =
      some { t with handed := some ⟨r, r.pc⟩, park := .none, fromWin := false, vector := none } := by
  simp only [State.handOver, hfrom, hwin, Bool.or_self, Bool.false_eq_true, if_false, thread_setThread_self _ _ _ hs]

/-- A register that a failed access leaves is a matter of pending bits. -/
theorem clearPending_eq (t : Thread) (o : Option Reg) : ∃ dpend vowed halves,
    t.clearPending o = { t with dpend := dpend, vowed := vowed, halves := halves } := by
  unfold Thread.clearPending
  split <;> exact ⟨_, _, _, rfl⟩

theorem reported_keeps : (t.reported r others).fromWin = t.fromWin ∧ (t.reported r others).winning = t.winning ∧
    (t.reported r others).pc = t.pc ∧ (t.reported r others).d = t.d := by
  obtain ⟨dpend, vowed, halves, h⟩ := clearPending_eq t r.clr
  rw [Thread.reported, h]
  exact ⟨rfl, rfl, rfl, rfl⟩

/-- A delivery that goes to the arbiter leaves the thread with its report in the hand-off record. -/
theorem deliver_handed (hs : slot < 16) (hfrom : t.fromWin = false) (hwin : t.winning = false)
    (harb : r.kind = kindCheck ∨ t.inh = true ∨ t.vec = 0) : (s.deliver g slot t r others).thread g slot =
      some { t.reported r others with handed := some ⟨r, r.pc⟩, park := .none, fromWin := false, vector := none } := by
  obtain ⟨hf, hw, -, -⟩ := reported_keeps (t := t) (r := r) (others := others)
  rw [deliver_eq, if_pos harb, handOver_thread hs (hf.trans hfrom) (hw.trans hwin)]

end

/-- Settles O47: a delivery writes the report registers and goes one of two ways, to the vector or to the arbiter. -/
theorem trapDelivered : Obligations.TrapDelivered := by
  unfold Obligations.TrapDelivered
  refine ⟨?_, ?_⟩
  · intro s g slot t r others hs hk hinh hvec hclr
    refine ⟨_, deliver_vectored hs hk hinh hvec, rfl, rfl, setInh_inh .., ?_⟩
    have hrep : t.reported r others = { t with
        tr := { t.tr with epc := r.pc, cause := causeWord r t.ovf others, addr := r.addr, eng := r.eng, info := r.cpc }
        ovf := false, gang := t.gang.afterTrap, kv := [], trapped := if r.imp then none else some r.pc } := by
      simp only [Thread.reported, hclr, hinh, Bool.and_false, Bool.false_eq_true, if_false]
      rfl
    rw [hrep]
    exact ⟨setInh_vec .., setInh_evt .., setInh_sup .., rfl, rfl, rfl, rfl, rfl, rfl, rfl, rfl, rfl, rfl, rfl, rfl,
      fun a => by rw [deliver_mem]⟩
  · intro s g slot t r others hs hfrom hwin harb
    obtain ⟨-, -, hpc, hd⟩ := reported_keeps (t := t) (r := r) (others := others)
    exact ⟨_, deliver_handed hs hfrom hwin harb, rfl, hpc, hd, fun hinh => by simp only [Thread.reported, hinh, if_true]⟩

/-! The way back (R361). -/

/-- The thread as `rti` returns it to the pc its handler was entered for. -/
def Thread.returned (t : Thread) : Thread :=
  Thread.sentBack { t.setInh false with pc := t.tr.epc, entry := none, vector := none, retry := false, kv := [], fromWin := false }

/-- Within a handler `rti` puts its thread back, and the winner of a window releases the threads parked for it. -/
theorem exec_rti_returns {gd : Guard} {f : Fields} {s : State} {x : Ctx} (he : Executes gd s x) (hinh : x.t.inh = true)
    (hepc : epcBad x.t.tr.epc = false) : exec (.rti gd f) s = .next
      { x.s.setCore x.g (if x.t.fromWin then (x.c.setThread x.slot (some x.t.returned)).release else x.c.setThread x.slot (some x.t.returned))
        with cls := .issued } := by
  refine (turn_ready (waits := fun _ => []) he rfl).trans ?_
  simp only [hinh, hepc, Bool.true_eq_false, Bool.false_eq_true, if_false]
  rfl

/-- A core's slot after the core was released or not: the thread is there, at most its park undone. -/
theorem released_thread {c : Core} {slot : Nat} {u : Thread} (h : c.thread slot = some u) (b : Bool) :
    ∃ p, (if b then c.release else c).thread slot = some { u with park := p } := by
  cases b with
  | false => exact ⟨u.park, h⟩
  | true => exact release_thread h

/-- Settles O48: a return is the handler's thread sent back, and a release leaves of a thread all but its park. -/
theorem returnFromTrap : Obligations.ReturnFromTrap := by
  unfold Obligations.ReturnFromTrap
  intro gd f s x he
  refine ⟨fun hinh _ hepc => ?_, fun hinh => ?_⟩
  · have hc : (x.c.setThread x.slot (some x.t.returned)).thread x.slot = some x.t.returned :=
      (coreThread_setThread _ _ _ (slot_lt_of_ctxOf he.1)).trans (if_pos rfl)
    obtain ⟨p, hp⟩ := released_thread hc x.t.fromWin
    have hexec := exec_rti_returns (f := f) he hinh hepc
    refine ⟨_, { x.t.returned with park := p }, hexec, rfl, fun a => congrArg (memGet · a) (exec_mem rfl hexec), ?_, ?_⟩
    · exact (congrArg (Core.thread · x.slot) (core_setCore_self ..)).trans hp
    · obtain ⟨gang, hgang⟩ := sentBack_eq { x.t.setInh false with
        pc := x.t.tr.epc, entry := none, vector := none, retry := false, kv := [], fromWin := false }
      rw [Thread.returned, hgang]
      exact ⟨rfl, rfl, setInh_inh .., setInh_vec .., setInh_evt .., setInh_sup .., rfl, rfl, rfl⟩
  · refine (turn_ready (waits := fun _ => []) he rfl).trans ?_
    simp only [hinh, if_true]

/-! System instructions (R356, R391). -/

/-- Settles O44: each instruction is a turn that is ready, and takes its effect. -/
theorem systemInstructionsComplete : Obligations.SystemInstructionsComplete := by
  unfold Obligations.SystemInstructionsComplete
  intro gd f s x he
  have hs : x.s = s := (ctxOf_state he.1).1
  refine ⟨?_, ?_, fun hsrc => ?_, fun i hd hp hnum hlevel => ?_, fun hsrc hnum hlevel => ?_⟩
  · refine (turn_ready (waits := fun _ => []) he rfl).trans ?_
    rw [Ctx.trapNext, hs]
  · refine (turn_ready (waits := fun _ => []) he rfl).trans ?_
    rw [Ctx.trapNext, hs]
  · have hexec : exec (.trc gd f) s = .next ((x.on (x.s.trace x.g x.slot (0x80 + Fields.bits f 0 7) x.t.colour x.t.wid x.t.pc
        (val (x.take [f.src1]).1 0))).finish (x.take [f.src1]).2.1 (x.take [f.src1]).2.2) := turn_ready he hsrc
    exact ⟨_, hexec, rfl, fun a => congrArg (memGet · a) (exec_mem rfl hexec),
      finish_thread_self (x := x.on (x.s.trace ..)) (show x.slot < 16 from slot_lt_of_ctxOf he.1) ..⟩
  · have hclosed : ¬(x.t.sup = false ∧ sysTaskNone (sysNum f) = true) := by
      rcases hlevel with h | h <;> simp [h]
    have hexec : exec (.gets gd f) s = .next (x.finish x.c (x.t.putD i (s.sysRead x.g x.slot x.t (sysNum f)))) := by
      refine (turn_ready he (dstWait_d hd hp)).trans ?_
      simp only [hnum, Bool.true_eq_false, if_false, hclosed, Ctx.writeW, hd, hs]
    exact ⟨_, hexec, issuesAs_finish he.1 ..⟩
  · have hclosed : ¬(x.t.sup = false ∧ (sysTaskNone (sysNum f) = true ∨ sysTaskRo (sysNum f) = true)) := by
      rcases hlevel with h | ⟨h, h'⟩ <;> simp_all
    refine (turn_ready he hsrc).trans ?_
    simp only [hnum, Bool.true_eq_false, if_false, hclosed]

end Sys2Proof.Machine
end

section
/-! PROOFS. Atomics and reductions (R295–R303): the values of 64-bit integers, the message of an access beyond team scope, and the scratchpad word
of one at team scope. -/
namespace Sys2Proof.Machine
open Sys2Proof

/-! Values of 64-bit integers (R298, R303). -/

/-- A pattern of a type of 64-bit integers is taken modulo 2^64. -/
theorem accessBytes_of_64 {ty : Ty} (h : ty = .dflt ∨ ty = .s64 ∨ ty = .z64) : 8 * accessBytes ty = 64 := by
  rcases h with rfl | rfl | rfl <;> rfl

theorem ne_f32_of_64 {ty : Ty} (h : ty = .dflt ∨ ty = .s64 ∨ ty = .z64) : ty ≠ .f32 := by
  rcases h with rfl | rfl | rfl <;> decide

section
variable {ty : Ty} (hty : ty = .dflt ∨ ty = .s64 ∨ ty = .z64) (w : BitVec 16) (o v : Word) (c : Nat)
include hty

/-- The minimum is the value given where the type's order puts it before the old one. -/
theorem atomValue_min : atomValue .min ty w o.toNat v.toNat c = ((if wordLt ty v o then v else o).toNat, 0) := by
  simp only [atomValue, accessBytes_of_64 hty, tyInt_of_64 hty, ne_f32_of_64 hty, if_false, ← intVal_lt, decide_eq_true_eq,
    apply_ite BitVec.toNat, Nat.mod_eq_of_lt v.isLt]

/-- The maximum is the value given where the type's order puts it after the old one. -/
theorem atomValue_max : atomValue .max ty w o.toNat v.toNat c = ((if wordLt ty o v then v else o).toNat, 0) := by
  simp only [atomValue, accessBytes_of_64 hty, tyInt_of_64 hty, ne_f32_of_64 hty, if_false, ← intVal_lt, decide_eq_true_eq,
    apply_ite BitVec.toNat, Nat.mod_eq_of_lt v.isLt]

end

/-- Settles O42: each value is taken modulo 2^64, as the operation on the words takes it, or chosen by the order of its type. -/
theorem atomicValues64 : Obligations.AtomicValues64 := by
  unfold Obligations.AtomicValues64
  intro o v c w
  refine ⟨fun ty hty => ?_, ?_, ?_, ?_, ?_⟩
  · simp only [atomValue, accessBytes_of_64 hty, ne_f32_of_64 hty, if_false, ← BitVec.toNat_add, ← BitVec.toNat_and, ← BitVec.toNat_or,
      ← BitVec.toNat_xor, Nat.mod_eq_of_lt (BitVec.isLt _), BitVec.toNat_inj, apply_ite BitVec.toNat, and_self]
  · rw [atomValue_min (.inr (.inl rfl)), ite_wordLt, if_neg (by decide)]
  · rw [atomValue_max (.inr (.inl rfl)), ite_wordLt, if_neg (by decide)]
  · rw [atomValue_min (.inr (.inr rfl)), ite_wordLt, if_pos rfl]
  · rw [atomValue_max (.inr (.inr rfl)), ite_wordLt, if_pos rfl]

/-! Beyond team scope (R295, R301). -/

theorem exec_atomForm {i : Instr} {op : AtomOp} {ret : Bool} {gd : Guard} {f : Fields} (h : atomForm i = some (op, ret, gd, f))
    (s : State) : exec i s = atomTurn op ret gd f s := by
  cases i with
  | amoAdd | amoMin | amoMax | amoAnd | amoOr | amoXor | amoSwap | amoCas | redAdd | redMin | redMax | redAnd | redOr | redXor |
    redX => cases h; rfl
  | _ => cases h

theorem writesMemory_of_atomForm {i : Instr} {k : AtomOp × Bool × Guard × Fields} (h : atomForm i = some k) : writesMemory i = false := by
  cases i with
  | amoAdd | amoMin | amoMax | amoAnd | amoOr | amoXor | amoSwap | amoCas | redAdd | redMin | redMax | redAnd | redOr | redXor |
    redX => rfl
  | _ => cases h

section
variable {op : AtomOp} {ret : Bool} {gd : Guard} {f : Fields} {s : State} {x : Ctx}

/-- The sources of an atomic read, its address and its order point. -/
def atomTaken (x : Ctx) (op : AtomOp) (f : Fields) : List Val × Core × Thread := x.take (atomSrcs op f)
def atomAddr (x : Ctx) (op : AtomOp) (f : Fields) : Word := Fields.addr f (val (atomTaken x op f).1 0)
def atomPoint (x : Ctx) (op : AtomOp) (f : Fields) : State × Thread := x.orderPoint (atomTaken x op f).2.2 f

/-- An atomic that is ready waits for nothing (R295, R301). -/
theorem atomWaits_none {n : Nat} (h : Ready gd s x (atomSrcs op f) (if ret then [f.dst] else []) n) (hnon : ret = false → nonretWait x = [])
    (hrel : sysRelWait x f = []) : srcWaits x [] (atomSrcs op f) ++ (if ret then dstWait x (atomSrcs op f) f.dst else nonretWait x)
      ++ memWait x n ++ sysRelWait x f = [] := by
  obtain ⟨-, hsrc, hdst, hmem⟩ := h
  have hmid : (if ret then dstWait x (atomSrcs op f) f.dst else nonretWait x) = [] := by
    cases ret with
    | true => exact hdst f.dst (List.mem_singleton.mpr rfl)
    | false => exact hnon rfl
  rw [hsrc, hmid, hmem, hrel]
  rfl

/-- The thread after its atomic is sent under the name `uid`: it waits for the answer in a register, or counts it as non-returning. -/
def atomOut (u : Thread) (uid : Nat) : Option (Fin 16) → Thread
  | some i => { (sentOut u 1 uid).pendD i with waitAns := true }
  | none => nonretOut u 1 uid

/-- The register that an atomic's answer goes to. -/
def atomDst (ret : Bool) (f : Fields) : Option (Fin 16) :=
  if ret then (match f.dst.reg with | .d i => some i | _ => none) else none

/-- The message of an atomic (R295, R301), with its watchpoint tag, and whether it may merge at a gateway and counts in a cell (R304, R305). -/
def atomMsg (x : Ctx) (op : AtomOp) (ret : Bool) (f : Fields) (p : Place) : Atomic :=
  let a := atomAddr x op f
  let n := atomBytes op f.ty
  let scope := Fields.bits f 34 2
  let inCw := scope == 2 && !ret && x.s.inWindow x.t.colour a
  let watch := x.s.watchTag x.t (addrRange a.toNat n)
  { req := requestOf x ((atomPoint x op f).1.writeClock x.g (atomPoint x op f).2), op := op, ty := f.ty, pa := p.addr, va := a,
    v := val (atomTaken x op f).1 1, c := val (atomTaken x op f).1 2, dst := atomDst ret f, watch := watch, parts := [], sys := scope == 3,
    comb := inCw && !relBits f && !(op == .add && f.ty == .f32) && watch.isNone && homeDie p.addr != dieOf x.g,
    cell := inCw && decide (a.toNat % 64 + n ≤ 56) && (op != .x || a.toNat % 64 == 0), passed := [] }

/-- An atomic that passes its checks sends one message and finishes. -/
theorem atomTurn_sends {p : Place} (h : Ready gd s x (atomSrcs op f) (if ret then [f.dst] else []) 1)
    (hnon : ret = false → nonretWait x = []) (hrel : sysRelWait x f = []) (hscope : Fields.bits f 34 2 ≠ 0)
    (hdet : s.det x.t = false ∨ op ≠ .add ∨ f.ty ≠ .f32) (halign : (atomAddr x op f).toNat % atomBytes op f.ty = 0)
    (hreach : Reaches x (scopeAccepts (Fields.bits f 34 2)) ⟨.write, Fields.bits f 34 2 == 3⟩ (atomAddr x op f) [atomAddr x op f] [p])
    (hslots : s.slotsOk p.addr = true) : atomTurn op ret gd f s =
      .next ((x.on ((atomPoint x op f).1.send (.atomic (atomMsg x op ret f p))).bumpUid).finish
        ((atomTaken x op f).2.1.sentPa x.t p.addr) (atomOut (atomPoint x op f).2 (atomPoint x op f).1.uid (atomDst ret f))) := by
  have hx : x.s = s := (ctxOf_state h.1.1).1
  obtain ⟨hbits, hreg, hps⟩ := hreach
  have hdet' : (x.s.det x.t && op == .add && f.ty == .f32) = false := by
    rw [hx]
    rcases hdet with h | h | h <;> simp [h]
  have haligned : ((atomAddr x op f).toNat % atomBytes op f.ty == 0) = true := beq_iff_eq.mpr halign
  have hwaits := atomWaits_none h hnon hrel
  rw [show (1 : Nat) = if Fields.bits f 34 2 = 0 then 0 else 1 from (if_neg hscope).symm] at hwaits
  have hreq := req_orderPoint (take_asksAs x (atomSrcs op f)) f
  refine (turn_ready h.1 hwaits).trans (congrArg _ ?_)
  dsimp only
  rw [show (if op = .cas then [f.src1, f.src2, f.src3] else [f.src1, f.src2]) = atomSrcs op f from rfl,
    show Fields.addr f (val (x.take (atomSrcs op f)).1 0) = atomAddr x op f from rfl, hdet', if_neg Bool.false_ne_true, if_neg hscope,
    haligned, access_proceeds _ (List.forall_mem_of_forall_mem_cons hbits) hreg hps, needSlots_proceeds _ (by simpa [hx] using hslots), hreq]
  rfl

end

/-- Settles O40: the checks pass, and one message leaves with the operands; its answer is waited for, or the operation counted. -/
theorem atomicsIssue : Obligations.AtomicsIssue := by
  unfold Obligations.AtomicsIssue
  intro i op ret gd f s x p hform h hnon hrel hscope r a n o hdet halign hreach hslots
  have hexec := atomTurn_sends h hnon hrel hscope hdet halign hreach hslots
  have huid : (atomPoint x op f).1.uid = s.uid := by rw [atomPoint, orderPoint_uid, (ctxOf_state h.1.1).1]
  rw [huid] at hexec
  have hissues (u : Thread) := issuesAs_sendNamed_finish h.1.1 (orderPoint_state x r.2.2 f) (.atomic (atomMsg x op ret f p)) r.2.1 x.t u
    p.addr 1
  refine ⟨_, atomMsg x op ret f p, (exec_atomForm hform s).trans hexec, rfl, rfl, rfl, rfl, rfl, rfl, rfl, rfl, ?_, ?_⟩
  · intro j hret hd
    have hdst : atomDst ret f = some j := by simp only [atomDst, hret, if_true, hd]
    rw [hdst]
    exact ⟨hdst, hissues _⟩
  · intro hret
    have hdst : atomDst ret f = none := by simp only [atomDst, hret, Bool.false_eq_true, if_false]
    rw [hdst]
    exact ⟨hdst, hissues _⟩

/-! At team scope (R296, R298). -/

section
variable {op : AtomOp} {ret : Bool} {gd : Guard} {f : Fields} {s s1 : State} {x : Ctx}

/-- No integer atomic raises an event. -/
theorem atomValue_noEvent (hop : op ≠ .x) (hty : f.ty ≠ .f32) (w : BitVec 16) (o v c : Nat) : (atomValue op f.ty w o v c).2 = 0 := by
  cases op <;> simp [atomValue, hty]

/-- The thread that the old bytes are returned to. -/
def atomBack (ret : Bool) (f : Fields) (u : Thread) (old : List Byte) : Thread :=
  match f.dst.reg with
  | .d i => if ret then u.putD i (extendTo f.ty old) else u
  | _ => u

/-- An integer atomic that writes its location, with no watchpoint in its way, puts its value in the scratchpad and finishes. -/
theorem teamAtomic_writes {c : Core} {u : Thread} {a : Word} {off : Nat} {v k : Word} (hop : op ≠ .x) (hty : f.ty ≠ .f32)
    (hstrike : x.s.storeStrike x.t (addrRange a.toNat (accessBytes f.ty)) = .inl s1)
    (hw : atomWrites op f.ty (extendTo.leNum (x.c.spadBytes off (accessBytes f.ty))) k.toNat = true) :
    x.teamAtomic op ret f c u a off v k =
      let old := x.c.spadBytes off (accessBytes f.ty)
      let o := x.orderPoint (atomBack ret f u old) f
      (x.on (o.1.watching s1.watches)).finish (c.spadPut off (wordBytes (accessBytes f.ty)
        (BitVec.ofNat 64 (atomValue op f.ty x.t.origin (extendTo.leNum old) v.toNat k.toNat).1))) o.2 := by
  unfold Ctx.teamAtomic
  dsimp only
  rw [atomValue_noEvent hop hty, if_neg (fun h => h.1 rfl), if_pos hw]
  exact storing_ordered hstrike fun y o => (y.on o.1).finish _ o.2

/-- What an order point leaves of its thread: all but the release point. -/
theorem orderPoint_thread (x : Ctx) (u : Thread) (f : Fields) : ∃ r, (x.orderPoint u f).2 = { u with release := r } := by
  unfold Ctx.orderPoint
  split <;> exact ⟨_, rfl⟩

end

theorem finish_core_on (x : Ctx) (s : State) (c : Core) (u : Thread) :
    ((x.on s).finish c u).core x.g = c.setThread x.slot (some (issuedAs u)) := finish_core_self (x.on s) c u

/-- Settles O41: the scratchpad access proceeds, and the value is written where the old bytes were read. -/
theorem teamAtomicsComplete : Obligations.TeamAtomicsComplete := by
  unfold Obligations.TeamAtomicsComplete
  intro i op ret gd f s s1 x off hform hop hty h hnon hrel hscope r a n old y halign hin hstrike hw
  obtain ⟨rfl, -⟩ := ctxOf_state h.1.1
  have hn : atomBytes op f.ty = n := if_neg hop
  have hdet : (x.s.det x.t && op == .add && f.ty == .f32) = false := by simp [hty]
  have hwaits := atomWaits_none h hnon hrel
  rw [show (0 : Nat) = if Fields.bits f 34 2 = 0 then 0 else 1 from (if_pos hscope).symm] at hwaits
  have hhead : (List.range n).headD 0 = 0 := by cases n <;> simp [List.range_succ_eq_map]
  have hexec : exec i x.s = .next (x.teamAtomic op ret f r.2.1 r.2.2 a off (val r.1 1) (val r.1 2)) := by
    refine (exec_atomForm hform x.s).trans ((turn_ready h.1 hwaits).trans (congrArg _ ?_))
    dsimp only
    rw [show (if op = .cas then [f.src1, f.src2, f.src3] else [f.src1, f.src2]) = atomSrcs op f from rfl,
      show Fields.addr f (val (x.take (atomSrcs op f)).1 0) = a from rfl, hdet, if_neg Bool.false_ne_true, if_pos hscope, hn,
      spadAccess_proceeds _ halign (fun o _ => by rw [hhead]; exact Nat.zero_le o) (by rw [hhead]; decide) hin]
    rfl
  rw [teamAtomic_writes hop hty hstrike hw] at hexec
  have hthread (s' : State) (c : Core) (u : Thread) : ((x.on s').finish c u).thread x.g x.slot = some (issuedAs u) :=
    finish_thread_self (x := x.on s') (show x.slot < 16 from slot_lt_of_ctxOf h.1.1) c u
  obtain ⟨rel, hpoint⟩ := orderPoint_thread x (atomBack ret f r.2.2 old) f
  refine ⟨_, hexec, rfl, fun b => congrArg (memGet · b) (exec_mem (writesMemory_of_atomForm hform) hexec), ?_, ?_, ?_⟩
  · refine SpadWrites.bytes (c := r.2.1) (bs := wordBytes n (BitVec.ofNat 64 y.1)) ?_ (by simp [wordBytes])
    dsimp only
    rw [finish_core_on]
    exact (spadWrites_spadPut _ _ _).of_eq rfl rfl rfl rfl
  · intro j hret hd
    refine ⟨_, hthread .., ?_⟩
    have hback : atomBack ret f r.2.2 old = r.2.2.putD j (extendTo f.ty old) := by simp only [atomBack, hd, hret, if_true]
    rw [hpoint, hback]
    simp [issuedAs, Thread.putD]
  · intro hret
    refine ⟨_, hthread .., ?_⟩
    have hback : atomBack ret f r.2.2 old = r.2.2 := by
      unfold atomBack
      rw [hret]
      split <;> rfl
    obtain ⟨ss, df, htaken⟩ := take_thread x (atomSrcs op f)
    rw [hpoint, hback, htaken]
    rfl

end Sys2Proof.Machine
end

section
/-! PROOFS. Instructions of tasks (R307, R330, R334, R336, R343, R350): an inbox entry taken, a header's address sent, a thread that leaves its slot,
a phase, and the pin bit. -/
namespace Sys2Proof.Machine
open Sys2Proof

section
variable {gd : Guard} {f : Fields} {s : State} {x : Ctx}

/-! `inbx` (R307). -/

theorem inbxPoint_state (x : Ctx) : x.inbxPoint.1 = { x.s with dies := x.inbxPoint.1.dies } := by
  unfold Ctx.inbxPoint
  split <;> rfl

/-- A release point that is asked for only with writes open has room when none is open or there is room (R323). -/
theorem relWait_none {b : Bool} (h : b = false ∨ x.s.relRoom (dieOf x.g) = true) : relWait x b = [] := by
  rcases h with h | h <;> simp [relWait, h]

theorem inbx_takes (he : Executes gd s x) {i : Fin 16} (hd : f.dst.reg = .d i) (hp : x.t.dpend[i] = false)
    (hhome : x.c.atHome x.t = true) {e : InboxEntry} {rest : List InboxEntry} (htake : takeInbox x.t.colour x.c.inbox = some (e, rest))
    (hroom : x.t.unperformed = [] ∨ s.relRoom (dieOf x.g) = true) :
    exec (.inbx gd f) s = .next ((x.on x.inbxPoint.1).finish { x.c with inbox := rest, ibRel := x.inbxPoint.2 }
      { x.t.putD i e.w0 with ibWord := e.w1, ibSrc := e.src }) := by
  have hany : x.c.inbox.any (fun e => e.colour == x.t.colour) = true := by
    have hfind := find?_of_takeInbox htake
    exact List.any_eq_true.mpr ⟨e, List.mem_of_find?_eq_some hfind, List.find?_some (p := fun e : InboxEntry => e.colour == x.t.colour) hfind⟩
  have hrel : relWait x (x.c.atHome x.t && !x.t.unperformed.isEmpty) = [] :=
    relWait_none (hroom.imp (fun h => by simp [h]) fun h => by rw [(ctxOf_state he.1).1]; exact h)
  have hwaits : dstWait x [] f.dst ++ (if x.c.atHome x.t && !x.c.inbox.any (fun e => e.colour == x.t.colour) then [.msg] else [])
      ++ relWait x (x.c.atHome x.t && !x.t.unperformed.isEmpty) = [] := by
    rw [dstWait_d hd hp, hrel, hany]
    simp
  refine (turn_ready he hwaits).trans (congrArg _ ?_)
  simp only [hhome, Bool.true_eq_false, if_false, htake, hd]

/-! `launch` (R330). -/

theorem launch_sends (he : Executes gd s x) {i : Fin 16} (hd : f.dst.reg = .d i) (hp : x.t.dpend[i] = false)
    (hsrc : srcWaits x [] [f.src1] = []) (hroom : s.relRoom (dieOf x.g) = true) :
    let r := x.take [f.src1]
    let o := s.releasePoint (dieOf x.g) r.2.2.outst
    let u : Thread := { r.2.2 with release := o.2 }
    ∃ t, exec (.launch gd f) s = .next t ∧ IssuesAs x t r.2.1 (u.pendD i)
      [.launchReq (requestOf x (o.1.writeClock x.g u)) i (val r.1 0) (((s.launch? x.t.launch).map Launch.prio).getD 0)] o.1.dies s.watches := by
  intro r o u
  obtain ⟨rfl, -⟩ := ctxOf_state he.1
  have hwaits : srcWaits x [] [f.src1] ++ dstWait x [f.src1] f.dst ++ relWait x true = [] := by
    rw [hsrc, dstWait_d hd hp, relWait_none (.inr hroom)]
    rfl
  have hasks : AsksAs u x.t := ⟨(take_asksAs x _).tid, (take_asksAs x _).colour, (take_asksAs x _).wid, (take_asksAs x _).pc,
    (take_asksAs x _).flags⟩
  have hlaunch : u.launch = x.t.launch := by
    obtain ⟨ss, df, h⟩ := take_thread x [f.src1]
    change (x.take [f.src1]).2.2.launch = x.t.launch
    rw [h]
  have hexec : exec (.launch gd f) x.s = .next ((x.on (o.1.send (.launchReq (x.req o.1 u (o.1.writeClock x.g u)) i (val r.1 0)
      (((x.s.launch? u.launch).map Launch.prio).getD 0))).bumpUid).finish r.2.1 (u.pendD i)) := by
    refine (turn_ready he hwaits).trans (congrArg _ ?_)
    simp only [hd]
    rfl
  rw [hasks.req, hlaunch] at hexec
  exact ⟨_, hexec, issuesAs_sendNamed_finish he.1 rfl _ r.2.1 x.t (u.pendD i) 0 0⟩

/-! `texit` (R334, R336). -/

/-- A launch whose phase may close keeps every thread. -/
theorem settlePhase_cores (s : State) (lk : Nat) : (s.settlePhase lk).cores = s.cores := by
  unfold State.settlePhase
  repeat' split
  all_goals rfl

/-- A team that retires leaves every slot as it is. -/
theorem retireTeam_threads (s : State) (key : TeamKey) (g : Nat) : ((s.retireTeam key).core g).threads = (s.core g).threads := by
  unfold State.retireTeam
  split
  · rfl
  · dsimp only
    have hteam : ((match s.findTeam key with
        | none => s
        | some (h, tm) => s.setCore h ({ s.core h with teams := (s.core h).teams.map fun (u : Team) =>
            if u.key = tm.key then { u with retired := true, tiles := [] } else u }.dropDrained)).core g).threads = (s.core g).threads := by
      split
      · rfl
      · next h tm _ =>
        rw [core_setCore]
        split
        · subst_vars; rfl
        · rfl
    split
    · exact hteam
    · exact hteam

theorem release_vacant {c : Core} {slot : Nat} (h : c.thread slot = none) : c.release.thread slot = none := by
  rw [thread_of_map (c := c) (d := c.release) rfl, h]
  rfl

theorem retire_vacates (h : x.slot < 16) : x.retire.thread x.g x.slot = none := by
  have hvacant (c : Core) (b : Bool) : (if b then (c.setThread x.slot none).release else c.setThread x.slot none).thread x.slot = none := by
    have hc : (c.setThread x.slot none).thread x.slot = none := by rw [coreThread_setThread _ _ _ h, if_pos rfl]
    cases b with
    | false => exact hc
    | true => exact release_vacant hc
  have hkeep (s : State) (key : TeamKey) (lk : Nat) :
      ({ (s.retireTeam key).settlePhase lk with cls := .issued } : State).thread x.g x.slot = s.thread x.g x.slot := by
    refine (congrArg (Core.thread · x.slot) (core_of_cores (settlePhase_cores (s.retireTeam key) lk) x.g)).trans ?_
    simp only [Core.thread, retireTeam_threads, State.thread]
  unfold Ctx.retire
  dsimp only
  rw [hkeep, State.thread, core_setCore_self]
  exact hvacant ..

/-! `phase` (R343). -/

theorem phase_goesOn (he : Executes gd s x) {l : Launch} {q : BitVec 32} (hl : s.launch? x.t.launch = some l) (ha : x.t.arrived = some q)
    (hq : l.phase ≠ q) (hdst : f.fmt.getLsbD 0 = true → dstWait x [] f.dst = []) : exec (.phase gd f) s = .next (x.finish x.c
      (match f.dst.reg with
      | .d i => if f.fmt.getLsbD 0 then { x.t with arrived := none }.putD i (l.phase.setWidth 64) else { x.t with arrived := none }
      | _ => { x.t with arrived := none })) := by
  have hwaits : (if f.fmt.getLsbD 0 then dstWait x [] f.dst else []) ++ (if x.t.arrived.isSome then [] else drainWait x) = [] := by
    rw [ha]
    cases hb : f.fmt.getLsbD 0 with
    | false => rfl
    | true => simp [hdst hb]
  refine (turn_ready he hwaits).trans (congrArg _ ?_)
  simp only [(ctxOf_state he.1).1, hl, ha, if_neg hq]
  cases f.dst.reg <;> rfl

theorem phase_arrives (he : Executes gd s x) {l : Launch} (hl : s.launch? x.t.launch = some l) (ha : x.t.arrived = none)
    (hb : f.fmt.getLsbD 0 = false) (hdrain : drainWait x = []) : exec (.phase gd f) s = .next
      { (s.setThread x.g x.slot (some { x.t with arrived := some l.phase })).settlePhase x.t.launch with cls := .msg } := by
  have hwaits : (if f.fmt.getLsbD 0 then dstWait x [] f.dst else []) ++ (if x.t.arrived.isSome then [] else drainWait x) = [] := by
    rw [ha, hb, hdrain]
    rfl
  refine (turn_ready he hwaits).trans (congrArg _ ?_)
  simp only [(ctxOf_state he.1).1, hl, ha]

/-! `cpin` and `cunpin` (R350). -/

/-- The core after the pin bit of the thread's team was written. -/
def pinned (x : Ctx) (b : Bool) : Core :=
  { x.c with teams := x.c.teams.map fun tm => if tm.key = x.t.key then { tm with pin := b } else tm }

theorem pinTurn_issues (he : Executes gd s x) {l : Launch} (hl : s.launch? x.t.launch = some l) (b : Bool) :
    ∃ t, pinTurn b gd s = .next t ∧ IssuesAs x t (if l.castl then pinned x b else x.c) x.t [] s.dies s.watches := by
  have hexec : pinTurn b gd s = .next (x.finish (if l.castl then pinned x b else x.c) x.t) := by
    refine (turn_ready (waits := fun _ => []) he rfl).trans (congrArg _ ?_)
    simp only [(ctxOf_state he.1).1, hl, Option.map_some, Option.getD_some]
    rfl
  exact ⟨_, hexec, issuesAs_finish he.1 ..⟩

end

/-- Settles O43: each instruction is a turn that is ready, and takes its effect. -/
theorem taskInstructionsComplete : Obligations.TaskInstructionsComplete := by
  unfold Obligations.TaskInstructionsComplete
  intro gd f s x he
  have hx : x.s = s := (ctxOf_state he.1).1
  have hslot : x.slot < 16 := slot_lt_of_ctxOf he.1
  refine ⟨?_, fun i hd hp hsrc hroom => launch_sends he hd hp hsrc hroom, fun hdrain => ?_, fun l hl => ⟨?_, ?_, ?_, ?_, ?_⟩⟩
  · intro i e rest hd hp hhome htake hroom
    refine ⟨_, inbx_takes he hd hp hhome htake hroom, ?_⟩
    rw [← hx]
    exact issuesAs_dies_finish (inbxPoint_state x) ..
  · have hexec : exec (.texit gd f) s = .next x.retire := turn_ready he hdrain
    exact ⟨_, hexec, rfl, fun a => congrArg (memGet · a) (exec_mem rfl hexec), retire_vacates hslot⟩
  · intro q i ha hq hb hd hp
    have hexec := phase_goesOn he hl ha hq fun _ => dstWait_d hd hp
    simp only [hd, hb, if_true] at hexec
    exact ⟨_, hexec, issuesAs_finish he.1 ..⟩
  · intro q ha hq hb
    have hexec := phase_goesOn he hl ha hq fun h => absurd (hb.symm.trans h) (by decide)
    simp only [hb, Bool.false_eq_true, if_false] at hexec
    refine ⟨_, hexec, ?_⟩
    split <;> exact issuesAs_finish he.1 ..
  · intro ha hb hdrain
    refine ⟨_, phase_arrives he hl ha hb hdrain, rfl, ?_⟩
    refine (congrArg (Core.thread · x.slot) (core_of_cores (settlePhase_cores ..) x.g)).trans ?_
    exact thread_setThread_self s x.g _ hslot
  · intro hcastl
    have hpin := pinTurn_issues he hl
    simp only [hcastl, if_true] at hpin
    exact ⟨hpin true, hpin false⟩
  · intro hcastl
    have hpin := pinTurn_issues he hl
    simp only [hcastl, Bool.false_eq_true, if_false] at hpin
    exact ⟨hpin true, hpin false⟩

end Sys2Proof.Machine
end

section
/-! PROOFS. Recorders, freezes and the throttle (R383–R390, R404): what a record leaves of a cluster, the freeze at a cycle's end, and the sink that
takes one record after another. -/
namespace Sys2Proof.Machine
open Sys2Proof

/-! A record changes no cluster's freeze (R385). -/

theorem put_frz (k : Cluster) (r : TraceRec) : (k.put r).frz = k.frz := by
  unfold Cluster.put
  repeat' split
  all_goals rfl

theorem putAfter_frz (k : Cluster) (cyc : Nat) (r : TraceRec) : (k.putAfter cyc r).frz = k.frz := by
  have hepoch (k : Cluster) (e : TraceRec) : (if k.epochDue then { k.put e with epochDue := false } else k).frz = k.frz := by
    split
    · exact put_frz ..
    · rfl
  unfold Cluster.putAfter
  dsimp only
  rw [put_frz, hepoch]
  split
  · exact put_frz ..
  · rfl

theorem trace_frz (s : State) (g slot ty colour : Nat) (wid pc payload : Word) (k : Nat) :
    ((s.trace g slot ty colour wid pc payload).cluster k).frz = (s.cluster k).frz := by
  have hblack (black : List TraceRec) (d : Die) (j : Nat) :
      (if black.isEmpty then s else s.setDie (dieOf g) (black.foldl Die.putBlack d)).cluster j = s.cluster j := by
    split <;> rfl
  have hput (on : Bool) {s1 : State} (h : ∀ j, s1.cluster j = s.cluster j) (cyc : Nat) (r : TraceRec) :
      ((if on then s1.setCluster (clusterOf g) ((s.cluster (clusterOf g)).putAfter cyc r) else s1).cluster k).frz = (s.cluster k).frz := by
    cases on with
    | false => exact congrArg Cluster.frz (h k)
    | true =>
      refine (congrArg Cluster.frz (cluster_setCluster ..)).trans ?_
      split
      · subst_vars; exact putAfter_frz ..
      · exact congrArg Cluster.frz (h k)
  unfold State.trace
  dsimp only
  split
  · rfl
  · exact hput _ (hblack _ _) ..

/-! The freeze at the end of a cycle (R385). -/

/-- The step of the freeze that a cluster of the die takes, its freeze record the last. -/
def State.freezeCluster (die cause : Nat) (s : State) (i : Nat) : State :=
  let k := 16 * die + i
  if (s.cluster k).frz then s else
    let s1 := s.trace (coreAt k 0) 0 0x10 0 0 0 (BitVec.ofNat 64 cause)
    s1.setCluster k { s1.cluster k with frz := true }

theorem freezeCluster_frz (die cause : Nat) (s : State) (i k : Nat) :
    ((s.freezeCluster die cause i).cluster k).frz = (decide (k = 16 * die + i) || (s.cluster k).frz) := by
  unfold State.freezeCluster
  dsimp only
  split
  · next h =>
    by_cases hk : k = 16 * die + i
    · subst hk; simp [h]
    · simp [hk]
  · rw [cluster_setCluster]
    split
    · subst_vars; simp
    · next hk => simp [hk, trace_frz]

theorem freezeClusters_frz {die cause : Nat} {l : List Nat} {s : State} {i : Nat} (h : i ∈ l ∨ (s.cluster (16 * die + i)).frz = true) :
    ((l.foldl (State.freezeCluster die cause) s).cluster (16 * die + i)).frz = true := by
  induction l generalizing s with
  | nil => exact h.resolve_left List.not_mem_nil
  | cons j rest ih =>
    refine ih ?_
    rw [freezeCluster_frz]
    rcases h with h | h
    · rcases List.mem_cons.mp h with rfl | h
      · right; simp
      · exact .inl h
    · right; simp [h]

theorem settleFreeze_due {s : State} {die since cause : Nat} (h : (s.die die).frzDue = some (since, cause)) : s.settleFreeze die =
    ((List.range 16).foldl (State.freezeCluster die cause) s).setDie die
      { ((List.range 16).foldl (State.freezeCluster die cause) s).die die with frzDue := none } := by
  unfold State.settleFreeze
  rw [h]
  rfl

/-- Epoch records that fall due change no freeze and no die. -/
theorem epochs_due (die : Nat) (l : List Nat) (s : State) (k : Nat) :
    ((l.foldl (fun s i => s.setCluster (16 * die + i) { s.cluster (16 * die + i) with epochDue := true }) s).cluster k).frz =
      (s.cluster k).frz ∧
    (l.foldl (fun s i => s.setCluster (16 * die + i) { s.cluster (16 * die + i) with epochDue := true }) s).dies = s.dies := by
  induction l generalizing s with
  | nil => exact ⟨rfl, rfl⟩
  | cons i rest ih =>
    obtain ⟨hfrz, hdies⟩ := ih (s.setCluster (16 * die + i) { s.cluster (16 * die + i) with epochDue := true })
    refine ⟨hfrz.trans ?_, hdies⟩
    rw [cluster_setCluster]
    split
    · subst_vars; rfl
    · rfl

theorem clockDie_freezes {s : State} {die cyc since cause i : Nat} (hdue : (s.die die).frzDue = some (since, cause))
    (hcyc : (s.die die).cyc < cyc) (hi : i < 16) :
    ((s.clockDie die cyc).cluster (16 * die + i)).frz = true ∧ ((s.clockDie die cyc).die die).frzDue = none := by
  have hfrz : ((s.settleFreeze die).cluster (16 * die + i)).frz = true := by
    rw [settleFreeze_due hdue, cluster_of_clusters (State.setDie_clusters ..)]
    exact freezeClusters_frz (.inl (List.mem_range.mpr hi))
  have hnone : ((s.settleFreeze die).die die).frzDue = none := by
    rw [settleFreeze_due hdue, die_setDie, if_pos rfl]
  unfold State.clockDie
  dsimp only
  rw [if_pos hcyc]
  generalize s.settleFreeze die = u at hfrz hnone
  have hdie (d : Die) : (u.setDie die d).die die = d := (die_setDie ..).trans (if_pos rfl)
  split
  · refine ⟨?_, ?_⟩
    · rw [(epochs_due ..).1]
      exact hfrz
    · rw [State.die, (epochs_due _ _ _ die).2]
      exact (congrArg Die.frzDue (hdie _)).trans hnone
  · exact ⟨hfrz, (congrArg Die.frzDue (hdie _)).trans hnone⟩

/-! Samples (R383). -/

/-- A record of an enabled class finds its place in the buffer of a recorder that runs and owes no other record. -/
theorem trace_sample {s : State} {g slot colour : Nat} {wid pc payload : Word} (hfrz : (s.cluster (clusterOf g)).frz = false)
    (hon : (s.cluster (clusterOf g)).tcCtl.getLsbD 16 = true) (hclass : (s.cluster (clusterOf g)).tcCtl.getLsbD 6 = true)
    (hroom : (s.cluster (clusterOf g)).recs.length < 2048) (hdrop : (s.cluster (clusterOf g)).dropped = 0)
    (hepoch : (s.cluster (clusterOf g)).epochDue = false) :
    ((s.trace g slot 0x08 colour wid pc payload).cluster (clusterOf g)).recs =
      recInsert (s.cluster (clusterOf g)).recs (mkRec (s.die (dieOf g)).cyc 0x08 slot (indexOf g) colour wid pc payload) := by
  have hloss (cyc : Nat) : (s.cluster (clusterOf g)).lossDue cyc = none := if_neg fun h => h.1 hdrop
  have hclass8 : classBit 0x08 = some 6 := rfl
  simp only [State.trace, hfrz, hon, hclass8, hclass, hloss, Bool.and_self, Bool.false_eq_true, if_false, if_true, cluster_setCluster,
    Cluster.putAfter, hepoch, Cluster.put, hroom]

theorem traceSample_next {s : State} {g : Nat} {th : Thread} (hcur : s.cur.g = g) (hth : s.thread g s.cur.slot = some th)
    (hnew : (s.core g).cyc ≠ (s.core g).sampled) (hperiod : (s.core g).cyc % (s.cluster (clusterOf g)).period = 0) :
    exec (.traceSample g) s = .next ((s.setCore g { s.core g with sampled := (s.core g).cyc }).trace g s.cur.slot 0x08 th.colour th.wid
      th.pc (BitVec.ofNat 64 s.cls.code)) := by
  refine (show _ = execTraceSample g s from rfl).trans ?_
  have hok : ¬(s.cur.g ≠ g ∨ (s.core g).cyc = (s.core g).sampled ∨ (s.core g).cyc % (s.cluster (clusterOf g)).period ≠ 0) := by
    simp [hcur, hnew, hperiod]
  simp only [execTraceSample, if_neg hok, hth, orNot]

/-! The sink (R384, R387). -/

section
variable {s t : State} {clu : Nat}

theorem sinkWrite_some {r : TraceRec} {rest : List TraceRec} {p : Place} (hrecs : (s.cluster clu).recs = r :: rest)
    (hsink : s.sinkAddr clu = some p) : ∃ t, s.sinkWrite clu = some t ∧ t.mem = (s.placeWrite 0 p r.bytes).mem ∧
      (t.cluster clu).recs = rest := by
  simp only [State.sinkWrite, hrecs, hsink]
  exact ⟨_, rfl, rfl, congrArg Cluster.recs ((cluster_setCluster ..).trans (if_pos rfl))⟩

/-- A write takes the oldest record. -/
theorem sinkWrite_recs (h : s.sinkWrite clu = some t) : ∃ r, (s.cluster clu).recs = r :: (t.cluster clu).recs := by
  unfold State.sinkWrite at h
  dsimp only at h
  split at h
  · next r rest p hrecs _ =>
    cases h
    exact ⟨r, by rw [cluster_setCluster, if_pos rfl]; exact hrecs⟩
  · cases h

theorem sinkWrite_none (h : (s.cluster clu).recs = [] ∨ s.sinkAddr clu = none) : s.sinkWrite clu = none := by
  rcases h with h | h <;> simp [State.sinkWrite, h]

theorem sinkWrite_isSome (hrecs : (s.cluster clu).recs ≠ []) (hsink : s.sinkAddr clu ≠ none) : (s.sinkWrite clu).isSome = true := by
  obtain ⟨r, rest, hr⟩ := List.exists_cons_of_ne_nil hrecs
  obtain ⟨p, hp⟩ := Option.ne_none_iff_exists'.mp hsink
  obtain ⟨t, ht, -⟩ := sinkWrite_some hr hp
  exact Option.isSome_iff_exists.mpr ⟨t, ht⟩

theorem sinkAll_of_write (h : s.sinkWrite clu = some t) (n : Nat) : s.sinkAll clu (n + 1) = t.sinkAll clu n := by
  rw [State.sinkAll, h]

theorem sinkAll_of_none (h : s.sinkWrite clu = none) (n : Nat) : s.sinkAll clu n = s := by
  cases n with
  | zero => rfl
  | succ n => rw [State.sinkAll, h]

theorem sinkAll_recs (s : State) (clu n : Nat) : ∃ m, ((s.sinkAll clu n).cluster clu).recs = (s.cluster clu).recs.drop m := by
  induction n generalizing s with
  | zero => exact ⟨0, rfl⟩
  | succ n ih =>
    cases h : s.sinkWrite clu with
    | none => exact ⟨0, by rw [sinkAll_of_none h]; rfl⟩
    | some t =>
      obtain ⟨m, hm⟩ := ih t
      obtain ⟨r, hr⟩ := sinkWrite_recs h
      exact ⟨m + 1, by rw [sinkAll_of_write h, hm, hr, List.drop_succ_cons]⟩

theorem exec_recorderDrain (h : s.sinkWrite clu = some t) : exec (.recorderDrain clu) s = .next (t.sinkAll clu (t.cluster clu).recs.length) := by
  obtain ⟨r, hr⟩ := sinkWrite_recs h
  refine (show _ = execRecorderDrain clu s from rfl).trans ?_
  have hall : s.sinkAll clu (s.cluster clu).recs.length = t.sinkAll clu (t.cluster clu).recs.length := by
    rw [hr, List.length_cons, sinkAll_of_write h]
  simp only [execRecorderDrain, h, Option.isSome_some, if_true, hall, orNot]

theorem exec_traceSinkWrite (h : s.sinkWrite clu = some t) : exec (.traceSinkWrite clu) s = .next t := by
  refine (show _ = execTraceSinkWrite clu s from rfl).trans ?_
  rw [execTraceSinkWrite, h]
  rfl

/-- The sink takes the oldest record; a drain is that write and a drain of what is left. -/
theorem sink_next {r : TraceRec} {rest : List TraceRec} {p : Place} (hrecs : (s.cluster clu).recs = r :: rest)
    (hsink : s.sinkAddr clu = some p) :
    (∃ t, exec (.traceSinkWrite clu) s = .next t ∧ t.mem = (s.placeWrite 0 p r.bytes).mem ∧ (t.cluster clu).recs = rest) ∧
    (∃ t n, exec (.recorderDrain clu) s = .next t ∧ (t.cluster clu).recs = rest.drop n) ∧
    (∀ t1, exec (.traceSinkWrite clu) s = .next t1 →
      ((t1.cluster clu).recs = [] ∨ t1.sinkAddr clu = none → exec (.recorderDrain clu) s = .next t1) ∧
      ((t1.cluster clu).recs ≠ [] → t1.sinkAddr clu ≠ none → exec (.recorderDrain clu) s = exec (.recorderDrain clu) t1)) := by
  obtain ⟨t, ht, hmem, hrest⟩ := sinkWrite_some hrecs hsink
  refine ⟨⟨t, exec_traceSinkWrite ht, hmem, hrest⟩, ?_, fun t1 ht1 => ?_⟩
  · obtain ⟨n, hn⟩ := sinkAll_recs t clu (t.cluster clu).recs.length
    exact ⟨_, n, exec_recorderDrain ht, hrest ▸ hn⟩
  · cases (exec_traceSinkWrite ht).symm.trans ht1
    refine ⟨fun hend => ?_, fun hne hadr => ?_⟩
    · rw [exec_recorderDrain ht, sinkAll_of_none (sinkWrite_none hend)]
    · obtain ⟨u, hu⟩ := Option.isSome_iff_exists.mp (sinkWrite_isSome hne hadr)
      obtain ⟨q, hq⟩ := sinkWrite_recs hu
      rw [exec_recorderDrain ht, exec_recorderDrain hu, hq, List.length_cons, sinkAll_of_write hu]

theorem sinkTimeout_next (hrecs : (s.cluster clu).recs ≠ []) (hsink : s.sinkAddr clu = none) : exec (.sinkTimeout clu) s = .next
    (s.setCluster clu { s.cluster clu with recs := [], dropped := (s.cluster clu).dropped + (s.cluster clu).recs.length }) := by
  have hok : ¬((s.cluster clu).recs.isEmpty = true ∨ (s.sinkWrite clu).isSome = true) := by
    simp [hrecs, sinkWrite_none (.inr hsink)]
  refine (show _ = execSinkTimeout clu s from rfl).trans ?_
  simp only [execSinkTimeout, if_neg hok, orNot]

end

/-! Triggers (R385) and flit retries. -/

/-- A trigger that is enabled makes its die's recorders due to freeze, unless they are due already. -/
theorem trigger_due {s : State} {die bit : Nat} (hbit : (s.die die).tcFrz.getLsbD bit = true) (hnone : (s.die die).frzDue = none) :
    ((s.trigger die bit).die die).frzDue = some ((s.die die).cyc, bit) := by
  simp [State.trigger, hbit, State.freezeDie, hnone, die_setDie]

theorem trigger_retries (s : State) (die bit : Nat) : ((s.trigger die bit).die die).retries = (s.die die).retries := by
  unfold State.trigger State.freezeDie
  dsimp only
  repeat' split
  · rfl
  · rw [die_setDie, if_pos rfl]
  · rfl

/-- The die after a flit retry of a link is counted, the retries of more than 2^16 cycles ago forgotten. -/
def Die.retried (d : Die) (link : Nat) : Die :=
  { d with retries := (d.retries.filter fun e => decide (d.cyc < e.2 + 2 ^ 16)) ++ [(link, d.cyc)] }

theorem linkFlitRetry_next {s : State} {die : Nat} (link : Nat) (hdie : die < 8) : ∃ t, exec (.linkFlitRetry die link) s = .next t ∧
    SameMemory s t ∧ (link, (s.die die).cyc) ∈ (t.die die).retries ∧ t.cores = s.cores := by
  have hin : (link, (s.die die).cyc) ∈ ((s.setDie die ((s.die die).retried link)).die die).retries := by
    rw [die_setDie, if_pos rfl]
    exact List.mem_append_right _ (List.mem_singleton.mpr rfl)
  have hexec : exec (.linkFlitRetry die link) s = .next
      (if 64 < (((s.die die).retried link).retries.filter fun e => e.1 == link).length then
        (s.setDie die ((s.die die).retried link)).trigger die 3 else s.setDie die ((s.die die).retried link)) := by
    refine (show _ = execLinkFlitRetry die link s from rfl).trans ?_
    simp only [execLinkFlitRetry, if_neg (Nat.not_le.mpr hdie), orNot]
    rfl
  refine exists_next_of_exec _ rfl hexec ?_
  split
  · exact ⟨by rw [trigger_retries]; exact hin, by rw [trigger_cores]; rfl⟩
  · exact ⟨hin, rfl⟩

/-- Settles O58: each step's guard holds, and what it leaves is read off it; a drain is a write and a drain of the rest. -/
theorem debugEventsComplete : Obligations.DebugEventsComplete := by
  unfold Obligations.DebugEventsComplete
  refine ⟨?_, ?_, fun s clu r rest p hrecs hsink => sink_next hrecs hsink, ?_, ?_,
    fun s die cyc since cause i hdue hcyc hi => clockDie_freezes hdue hcyc hi, fun s => rfl, ?_,
    fun s die link hdie => linkFlitRetry_next link hdie⟩
  · intro s g th k hcur hth hnew hperiod
    refine exists_next_of_exec _ rfl (traceSample_next hcur hth hnew hperiod) ?_
    have hcore {u : State} (hu : u.cores = (s.setCore g { s.core g with sampled := (s.core g).cyc }).cores) :
        u.core g = { s.core g with sampled := (s.core g).cyc } := (core_of_cores hu g).trans (core_setCore_self ..)
    rw [hcore (trace_cores ..)]
    exact ⟨rfl, rfl, fun hfrz hon hclass hroom hdrop hepoch => trace_sample hfrz hon hclass hroom hdrop hepoch⟩
  · intro s clu hclu
    have hexec : exec (.tcUnfreeze clu) s = .next (s.setCluster clu { s.cluster clu with frz := false }) := by
      refine (show _ = execTcUnfreeze clu s from rfl).trans ?_
      rw [execTcUnfreeze, if_pos hclu]
      rfl
    exact exists_next_of_exec _ rfl hexec ((cluster_setCluster ..).trans (if_pos rfl))
  · intro s clu hrecs hsink
    refine exists_next_of_exec _ rfl (sinkTimeout_next hrecs hsink) ?_
    rw [cluster_setCluster, if_pos rfl]
    exact ⟨rfl, rfl⟩
  · intro s die hdie
    have hexec : exec (.arbiterWatchdogExpiry die) s = .next (s.trigger die 2) := by
      refine (show _ = execArbiterWatchdogExpiry die s from rfl).trans ?_
      rw [execArbiterWatchdogExpiry, if_pos hdie]
      rfl
    exact exists_next_of_exec _ rfl hexec ⟨trigger_cores .., trigger_due⟩
  · intro s die hdie
    have hexec : exec (.thermalThrottle die) s = .next (s.setDie die { s.die die with throttle := (s.die die).throttle + 1 }) := by
      refine (show _ = execThermalThrottle die s from rfl).trans ?_
      rw [execThermalThrottle, if_pos hdie]
      rfl
    refine exists_next_of_exec _ rfl hexec ⟨?_, rfl⟩
    rw [die_setDie, if_pos rfl]

end Sys2Proof.Machine
end

section
/-! PROOFS. Castling, pre-emption, lost dies and discarded jobs (R337, R338, R346–R349, R366–R368, R372): what a pass over the cores of a
partition leaves, the fences of the dies, and what is left of a colour. -/
namespace Sys2Proof.Machine
open Sys2Proof

/-- What no step of a pass changes is as before the pass. -/
theorem foldl_keeps {α β : Type} {p : State → β} {f : State → α → State} (h : ∀ s a, p (f s a) = p s) (l : List α) (s : State) :
    p (l.foldl f s) = p s := by
  induction l generalizing s with
  | nil => rfl
  | cons a rest ih => exact (ih _).trans (h s a)

@[simp] theorem trace_parts (s : State) (g slot ty colour : Nat) (wid pc payload : Word) :
    (s.trace g slot ty colour wid pc payload).parts = s.parts := by
  unfold State.trace
  dsimp only
  repeat' split
  all_goals rfl

/-! Castling (R346–R349). -/

theorem swapInstant_next {s : State} {g : Nat} (hdue : (s.core g).swapDue = true) :
    ∃ t, exec (.swapInstant g) s = .next t ∧ SameMemory s t ∧ (t.core g).swapDue = false ∧
      (t.core g).traffic = (s.core g).traffic.map (fun e => (e.1, e.2 / 2)) ∧ (t.core g).threads = (s.core g).threads := by
  refine exists_next_of_exec _ rfl (congrArg (orNot _) (if_neg (ne_false_of_eq_true hdue))) ?_
  rw [core_setCore_self]
  exact ⟨rfl, rfl, rfl⟩

theorem unengaged_of_maySwap {s : State} {g : Nat} (h : s.maySwap g = true) : s.unengaged g = true := by
  simp only [State.maySwap, Bool.and_eq_true] at h
  exact h.1.1.1

/-- Core q accepts core p's offer (R347). -/
def State.accepts (s : State) (p q : Nat) : Bool :=
  ((s.core q).offer.isNone || (s.core q).offer == some p) && s.maySwap p &&
    (if (s.core q).teams.isEmpty then s.unengaged q else s.maySwap q)

/-- Core q's answer to core p's offer. -/
def State.answerOffer (s : State) (p q : Nat) : Bool → State
  | true => s.setCore q { s.core q with offerIn := some p, offer := none }
  | false => s.setCore p { s.core p with offer := none }

theorem castlingOffer_next {s : State} {p q : Nat} (hoffer : (s.core p).offer = some q) (hin : (s.core q).offerIn = none) (hpq : p ≠ q) :
    ∃ t, exec (.castlingOffer p q) s = .next t ∧ SameMemory s t ∧ ((t.core q).offerIn = some p ∨ (t.core p).offer = none) ∧
      (((s.core q).offer = none ∧ s.maySwap p = true ∧ s.maySwap q = true) → (t.core q).offerIn = some p) := by
  have hgo : ¬((s.core p).offer ≠ some q ∨ (s.core q).offerIn = some p ∨ p = q) := by simp [hoffer, hin, hpq]
  have hexec : exec (.castlingOffer p q) s = .next (s.answerOffer p q (s.accepts p q)) := by
    refine (congrArg (orNot _) (if_neg hgo)).trans ?_
    show Host.Outcome.next (if s.accepts p q = true then _ else _) = _
    cases s.accepts p q <;> rfl
  refine exists_next_of_exec _ rfl hexec ?_
  cases hok : s.accepts p q with
  | true =>
    rw [State.answerOffer, core_setCore_self]
    exact ⟨.inl rfl, fun _ => rfl⟩
  | false =>
    rw [State.answerOffer, core_setCore_self]
    refine ⟨.inr rfl, fun ⟨hfree, hp, hq⟩ => absurd hok (ne_false_of_eq_true ?_)⟩
    simp [State.accepts, hfree, hp, hq, unengaged_of_maySwap hq]

/-- An occupant that has castled is as it was, but for its record of it. -/
theorem castled_eq (c : Core) : ∃ records bar, c.castled = { c with records := records, bar := bar } := by
  unfold Core.castled
  split
  · exact ⟨_, _, rfl⟩
  · exact ⟨_, _, rfl⟩

/-- What the exchange moves of an occupant (R348). -/
def Core.Carries (occ c : Core) : Prop :=
  c.threads = occ.threads ∧ c.spad = occ.spad ∧ c.tiles = occ.tiles ∧ c.teams = occ.teams

theorem carries_castled (pos occ : Core) : occ.Carries (pos.takeOccupant occ).castled := by
  obtain ⟨records, bar, h⟩ := castled_eq (pos.takeOccupant occ)
  rw [h]
  exact ⟨rfl, rfl, rfl, rfl⟩

/-- Two cores after their exchange. -/
theorem swapped_of_cores {s t : State} {p q : Nat} {np nq : Vector (List (Nat × Nat × Word)) 4} (hpq : p ≠ q)
    (h : t.cores = ((s.setCore p { ((s.core p).takeOccupant (s.core q)).castled with nin := np, offer := none }).setCore q
      { ((s.core q).takeOccupant (s.core p)).castled with nin := nq, offerIn := none }).cores) :
    ((s.core q).Carries (t.core p) ∧ (t.core p).offer = none) ∧ (s.core p).Carries (t.core q) ∧ (t.core q).offerIn = none := by
  rw [core_of_cores h, core_of_cores h, core_setCore_self, core_setCore_other _ _ hpq, core_setCore_self]
  exact ⟨⟨carries_castled .., rfl⟩, carries_castled .., rfl⟩

/-- A core runs no other core's command, and has lent none of its own. -/
theorem notAway {c : Core} (hguest : c.guest = none) (hqueue : c.queue.all (fun e => e.state != 3) = true) :
    ¬(c.guest.isSome || c.queue.any fun (e : Cmd) => e.state == 3) = true := by
  simp only [List.all_eq_true, bne_iff_ne] at hqueue
  simpa [hguest] using hqueue

theorem castlingSwap_next {s : State} {p q : Nat} (hoffer : (s.core p).offer = some q) (hin : (s.core q).offerIn = some p) (hpq : p ≠ q)
    (hquiet : s.quiet2 p q = true) (hp : ¬((s.core p).guest.isSome || (s.core p).queue.any fun (e : Cmd) => e.state == 3) = true)
    (hq : ¬((s.core q).guest.isSome || (s.core q).queue.any fun (e : Cmd) => e.state == 3) = true) :
    ∃ t, exec (.castlingSwap p q) s = .next t ∧ SameMemory s t ∧ ((s.core q).Carries (t.core p) ∧ (t.core p).offer = none) ∧
      (s.core p).Carries (t.core q) ∧ (t.core q).offerIn = none := by
  have hgo : ¬((s.core p).offer ≠ some q ∨ (s.core q).offerIn ≠ some p ∨ p = q ∨ s.quiet2 p q = false ∨
      ((s.core p).guest.isSome || (s.core p).queue.any fun (e : Cmd) => e.state == 3) = true ∨
      ((s.core q).guest.isSome || (s.core q).queue.any fun (e : Cmd) => e.state == 3) = true) := by
    rintro (h | h | h | h | h | h)
    exacts [h hoffer, h hin, hpq h, ne_false_of_eq_true hquiet h, hp h, hq h]
  refine exists_next_of_exec _ rfl (congrArg (orNot _) (if_neg hgo)) ?_
  exact swapped_of_cores hpq ((trace_cores ..).trans (trace_cores ..))

/-! Pre-emption (R366, R367). -/

/-- A property that a pass over numbers makes certain of each in turn, and that none of its steps undoes. -/
theorem foldl_of_step {f : State → Nat → State} {P : Nat → State → Prop} (hself : ∀ s g, P g (f s g))
    (hkeep : ∀ s g h, P h s → P h (f s g)) {l : List Nat} {s : State} {g : Nat} (h : g ∈ l ∨ P g s) : P g (l.foldl f s) := by
  induction l generalizing s with
  | nil => exact h.resolve_left List.not_mem_nil
  | cons a rest ih =>
    refine ih ?_
    rcases h with h | h
    · rcases List.mem_cons.mp h with rfl | h
      · exact .inr (hself ..)
      · exact .inl h
    · exact .inr (hkeep _ _ _ h)

theorem tracePreempt_cores (s : State) (p : Partition) (resume leaving entering : Nat) :
    (s.tracePreempt p resume leaving entering).cores = s.cores := foldl_cores _ (fun _ _ => trace_cores ..) _ _

theorem tracePreempt_parts (s : State) (p : Partition) (resume leaving entering : Nat) :
    (s.tracePreempt p resume leaving entering).parts = s.parts := foldl_keeps (fun _ _ => trace_parts ..) _ _

/-- A core stopped for a pre-emption, its commands held. -/
def State.stopCore (s : State) (g : Nat) : State := s.setCore g { (s.core g).holdCmds with stop := true }

theorem stopCores_stop {l : List Nat} {g : Nat} (h : g ∈ l) (s : State) : ((l.foldl State.stopCore s).core g).stop = true := by
  refine foldl_of_step (P := fun g s => (s.core g).stop = true) (fun s g => ?_) (fun s g h hstop => ?_) (.inl h)
  · rw [State.stopCore, core_setCore_self]
  · rw [State.stopCore, core_setCore]
    split
    · rfl
    · exact hstop

/-- What a partition's cluster groups have in progress ends. -/
def State.endGroups (s : State) (l : List Nat) : State := l.foldl (fun s c => s.setCluster c { s.cluster c with group := none }) s

theorem endGroups_cores (s : State) (l : List Nat) : (s.endGroups l).cores = s.cores := by
  rw [State.endGroups]
  exact foldl_cores _ (fun _ _ => by rfl) _ _

theorem endGroups_parts (s : State) (l : List Nat) : (s.endGroups l).parts = s.parts := by
  rw [State.endGroups]
  exact foldl_keeps (p := State.parts) (fun _ _ => by rfl) _ _

theorem stopCores_parts (s : State) (l : List Nat) : (l.foldl State.stopCore s).parts = s.parts :=
  foldl_keeps (p := State.parts) (fun _ _ => by rfl) _ _

section
variable {s : State} {part colour : Nat} {p : Partition}

theorem preemptStop_next (hpart : smapFind s.parts part = some p) (hswitch : p.switch = .none) (hres : p.resident ≠ colour)
    (hcolour : p.colours.contains colour = true) (hswap : p.cores.any s.swapping = false) :
    ∃ t, exec (.preemptStop part colour) s = .next t ∧ SameMemory s t ∧
      smapFind t.parts part = some { p with switch := .stopping colour } ∧ ∀ g ∈ p.cores, (t.core g).stop = true := by
  let s1 := { s with parts := smapPut s.parts part { p with switch := .stopping colour } }
  have hgo : ¬(p.switch ≠ .none ∨ p.resident = colour ∨ p.colours.contains colour = false ∨ p.cores.any s.swapping = true) := by
    rintro (h | h | h | h)
    exacts [h hswitch, hres h, ne_false_of_eq_true hcolour h, ne_true_of_eq_false hswap h]
  refine exists_next_of_exec (((p.cores.foldl State.stopCore s1).endGroups p.clusters).tracePreempt p 0 p.resident colour) rfl ?_ ?_
  · refine (show _ = execPreemptStop part colour s from rfl).trans ?_
    simp only [execPreemptStop, hpart, if_neg hgo]
    rfl
  · refine ⟨?_, fun g hg => ?_⟩
    · rw [tracePreempt_parts, endGroups_parts, stopCores_parts]
      exact smapFind_put_self ..
    · rw [core_of_cores ((tracePreempt_cores ..).trans (endGroups_cores ..))]
      exact stopCores_stop hg _

theorem preemptDrainDone_next (hpart : smapFind s.parts part = some p) (hswitch : p.switch = .stopping colour) (hdrained : s.drained p = true) :
    ∃ t, exec (.preemptDrainDone part) s = .next t ∧ SameMemory s t ∧
      smapFind t.parts part = some { p with switch := .exchanging colour } ∧ t.cores = s.cores := by
  refine exists_next_of_exec { s with parts := smapPut s.parts part { p with switch := .exchanging colour } } rfl ?_
    ⟨smapFind_put_self .., rfl⟩
  refine (show _ = execPreemptDrainDone part s from rfl).trans ?_
  simp only [execPreemptDrainDone, hpart, hswitch, hdrained, if_true, orNot]

/-- The core of an exchange has the new colour, and is stopped only for a machine check. -/
theorem exchange_core (s : State) (a b g h : Nat) : ((s.exchange a b g).core h).checked = (s.core h).checked ∧
    (h = g → ((s.exchange a b g).core h).stop = (s.core h).checked ∧ ((s.exchange a b g).core h).peCol = BitVec.ofNat 5 b) ∧
    (h ≠ g → (s.exchange a b g).core h = s.core h) := by
  have hcore (c : Core) (sh : List (Nat × Core)) (u : State) : ({ u.setCore g c with shadow := sh } : State).core h =
      if h = g then c else u.core h := core_setCore ..
  unfold State.exchange
  dsimp only
  rw [hcore]
  split
  · subst_vars
    exact ⟨rfl, fun _ => ⟨rfl, rfl⟩, fun hne => absurd rfl hne⟩
  · next hne => exact ⟨rfl, fun h => absurd h hne, fun _ => rfl⟩

theorem exchanges_core (s : State) (a b : Nat) (l : List Nat) {g : Nat} (hg : g ∈ l) :
    ((l.foldl (State.exchange · a b) s).core g).stop = (s.core g).checked ∧
    ((l.foldl (State.exchange · a b) s).core g).peCol = BitVec.ofNat 5 b := by
  have hchecked : ((l.foldl (State.exchange · a b) s).core g).checked = (s.core g).checked :=
    foldl_keeps (p := fun s => (s.core g).checked) (fun s h => (exchange_core s a b h g).1) _ _
  have hstop := foldl_of_step (f := (State.exchange · a b))
    (P := fun g s => (s.core g).stop = (s.core g).checked ∧ (s.core g).peCol = BitVec.ofNat 5 b) (l := l) (s := s) (g := g)
    (fun s g => by
      obtain ⟨hchecked, hself, -⟩ := exchange_core s a b g g
      exact ⟨(hself rfl).1.trans hchecked.symm, (hself rfl).2⟩)
    (fun s g h hP => by
      obtain ⟨hchecked, hself, hother⟩ := exchange_core s a b g h
      by_cases hg : h = g
      · exact ⟨(hself hg).1.trans hchecked.symm, (hself hg).2⟩
      · simpa only [hother hg] using hP)
    (.inl hg)
  exact ⟨hstop.1.trans hchecked, hstop.2⟩

theorem mapAway_cores (s : State) (colour g : Nat) : (s.mapAway colour g).cores = s.cores := by
  unfold State.mapAway
  dsimp only
  split <;> rfl

theorem mapAway_parts (s : State) (colour g : Nat) : (s.mapAway colour g).parts = s.parts := by
  unfold State.mapAway
  dsimp only
  split <;> rfl

theorem preemptExchangeDone_next (hpart : smapFind s.parts part = some p) (hswitch : p.switch = .exchanging colour) :
    ∃ t, exec (.preemptExchangeDone part) s = .next t ∧ SameMemory s t ∧
      smapFind t.parts part = some { p with switch := .none, resident := colour } ∧
      ∀ g ∈ p.cores, (t.core g).stop = (s.core g).checked ∧ (t.core g).peCol = BitVec.ofNat 5 colour := by
  let s1 := p.cores.foldl (State.exchange · p.resident colour) s
  let s2 := p.cores.foldl (State.mapAway · colour) { s1 with parts := smapPut s1.parts part { p with switch := .none, resident := colour } }
  refine exists_next_of_exec (s2.syncHeld.tracePreempt p 1 p.resident colour) rfl ?_ ?_
  · refine (show _ = execPreemptExchangeDone part s from rfl).trans ?_
    simp only [execPreemptExchangeDone, hpart, hswitch]
    rfl
  · have hparts : s2.syncHeld.parts = smapPut s1.parts part { p with switch := .none, resident := colour } :=
      foldl_keeps (p := State.parts) (fun s g => mapAway_parts s colour g) _ _
    have hcores : s2.syncHeld.cores = s1.cores := foldl_cores _ (fun s g => mapAway_cores s colour g) _ _
    refine ⟨?_, fun g hg => ?_⟩
    · rw [tracePreempt_parts, hparts]
      exact smapFind_put_self ..
    · rw [core_of_cores ((tracePreempt_cores ..).trans hcores)]
      exact exchanges_core s p.resident colour p.cores hg

end

/-! Heartbeats (R337). -/

/-- Each die of a list changed by a function of its number and of it. -/
theorem die_foldl_setDie_at (f : Nat → Die → Die) {ds : List Nat} (h : ds.Nodup) (s : State) (d : Nat) :
    (ds.foldl (fun s h => s.setDie h (f h (s.die h))) s).die d = if d ∈ ds then f d (s.die d) else s.die d := by
  induction ds generalizing s with
  | nil => simp
  | cons a ds ih =>
    obtain ⟨ha, hds⟩ := List.nodup_cons.mp h
    rw [List.foldl_cons, ih hds, die_setDie]
    by_cases hda : d = a
    · subst hda; simp [ha]
    · simp [hda]

/-- A die that has counted another's heartbeat as missed in a row, or not. -/
def Die.beat (die : Nat) (missed : List Nat) (d : Nat) (x : Die) : Die :=
  { x with misses := smapPut x.misses die (if missed.contains d then smapGet 0 x.misses die + 1 else 0) }

theorem heartbeat_next {s : State} {die : Nat} (missed : List Nat) (hdie : die < 8) (hlive : (s.die die).fenced = false) :
    ∃ t, exec (.heartbeat die missed) s = .next t ∧ SameMemory s t ∧ ∀ d, d < 8 → d ≠ die → (s.die d).fenced = false →
      smapGet 0 (t.die d).misses die = if missed.contains d then smapGet 0 (s.die d).misses die + 1 else 0 := by
  have hgo : ¬(8 ≤ die ∨ (s.die die).fenced = true) := not_or.mpr ⟨Nat.not_le.mpr hdie, ne_true_of_eq_false hlive⟩
  refine exists_next_of_exec ((s.liveDies.filter fun d => d != die).foldl (fun s d => s.setDie d ((s.die d).beat die missed d)) s) rfl
    (congrArg (orNot _) (if_neg hgo)) fun d hd hne hfenced => ?_
  have hnodup : (s.liveDies.filter fun d => d != die).Nodup := (List.nodup_range.filter _).filter _
  have hmem : d ∈ s.liveDies.filter fun d => d != die := by simp [State.liveDies, hd, hne, hfenced]
  rw [die_foldl_setDie_at (fun d x => x.beat die missed d) hnodup, if_pos hmem]
  exact smapGet_put_self ..

/-! Lost dies (R337, R338). -/

/-- A map each of whose entries is changed by a function that leaves its key. -/
theorem smapFind_map {α β : Type} {f : Nat × α → Nat × β} (hf : ∀ e, (f e).1 = e.1) (m : List (Nat × α)) (k : Nat) :
    smapFind (m.map f) k = (smapFind m k).map fun v => (f (k, v)).2 := by
  induction m with
  | nil => rfl
  | cons e m ih =>
    simp only [List.map_cons, smapFind, hf]
    split
    · subst_vars; rfl
    · split
      · rfl
      · exact ih

/-- The same dies are fenced. -/
structure SameFences (s t : State) : Prop where
  fenced : ∀ d, (t.die d).fenced = (s.die d).fenced

section
variable {s t u : State}

theorem die_of_dies (h : t.dies = s.dies) (d : Nat) : t.die d = s.die d := by rw [State.die, h]; rfl

theorem SameFences.of_dies (h : t.dies = s.dies) : SameFences s t := ⟨fun d => by rw [die_of_dies h]⟩

theorem SameFences.refl (s : State) : SameFences s s := ⟨fun _ => rfl⟩

theorem SameFences.trans (h : SameFences s t) (h' : SameFences t u) : SameFences s u :=
  ⟨fun d => (h'.fenced d).trans (h.fenced d)⟩

theorem SameFences.setDie {k : Nat} {x : Die} (h : x.fenced = (s.die k).fenced) : SameFences s (s.setDie k x) where
  fenced d := by
    rw [die_setDie]
    split
    · next hd => rw [hd, h]
    · rfl

theorem SameFences.foldl {α : Type} {f : State → α → State} (h : ∀ s a, SameFences s (f s a)) (l : List α) (s : State) :
    SameFences s (l.foldl f s) := by
  induction l generalizing s with
  | nil => exact .refl s
  | cons a rest ih => exact (h s a).trans (ih (f s a))

theorem SameFences.of_map {f : Nat × Die → Nat × Die} (h : t.dies = s.dies.map f)
    (hf : ∀ e, (f e).1 = e.1 ∧ (f e).2.fenced = e.2.fenced) : SameFences s t where
  fenced d := by
    simp only [State.die, smapGet, h, smapFind_map fun e => (hf e).1]
    cases smapFind s.dies d with
    | none => rfl
    | some x => exact (hf (d, x)).2

end

section
variable (s : State)

theorem sameFences_performed (tid id : Nat) : SameFences s (s.performed tid id) :=
  .trans (.of_dies (onTid_dies s tid _)) (.of_map rfl fun _ => ⟨rfl, rfl⟩)

theorem sameFences_syncHeld : SameFences s s.syncHeld := .of_map rfl fun _ => ⟨rfl, rfl⟩

theorem addRec_fenced (d : Die) (r : BindRec) : (d.addRec r).fenced = d.fenced := by
  unfold Die.addRec
  split <;> rfl

theorem sameFences_addRecords (rs : List (Nat × BindRec)) : SameFences s (s.addRecords rs) := by
  unfold State.addRecords
  exact .trans (.foldl (fun _ _ => by exact .setDie (addRec_fenced ..)) _ _) (sameFences_syncHeld _)

theorem sameFences_reissue (lk : Nat) (l : Launch) (p : Partition) (bound unbound : List Nat) :
    SameFences s (s.reissue lk l p bound unbound) := by
  unfold State.reissue
  dsimp only
  refine .trans ?_ (sameFences_addRecords ..)
  exact .of_dies rfl

theorem portUsed_dies (port colour : Nat) : (s.portUsed port colour).dies = s.dies := by
  unfold State.portUsed
  split <;> rfl

theorem sameFences_discardJob (colour : Nat) : SameFences s (s.discardJob colour) := by
  unfold State.discardJob
  dsimp only
  refine .trans ?_ (.foldl (fun s m => .of_dies (t := s.toHost _ m) rfl) _ _)
  refine .trans (.trans ?_ (.of_dies (portUsed_dies _ s.hostPort colour))) (.of_dies rfl)
  refine .trans ?_ (.foldl (fun s (a : Nat × Nat) => sameFences_performed s a.1 a.2) _ _)
  exact .of_map rfl fun _ => ⟨rfl, rfl⟩

theorem sameFences_leavePorts (colour : Nat) : SameFences s (s.leavePorts colour) := .of_dies rfl

theorem sameFences_tdiError (colour : Nat) : SameFences s (s.tdiError colour) := by
  have hleave : SameFences s (s.tdiLeave colour .error) := by
    refine .trans (.trans ?_ (sameFences_discardJob _ colour)) (sameFences_leavePorts _ colour)
    exact .of_dies rfl
  unfold State.tdiError
  split
  · exact hleave
  · exact hleave
  · exact .refl s

/-- A die that is cut off is fenced. -/
theorem cutOff_fenced (die : Nat) : ((s.cutOff die).die die).fenced = true := by
  have hcut : SameFences (s.setDie die { s.die die with fenced := true, table := [], backlog := [], gate := [] }) (s.cutOff die) := by
    unfold State.cutOff
    dsimp only
    refine .trans ?_ (.foldl (fun _ _ => by exact .setDie rfl) _ _)
    refine .trans ?_ (.foldl (fun s (a : Nat × Nat) => sameFences_performed s a.1 a.2) _ _)
    exact .of_map rfl fun _ => ⟨rfl, rfl⟩
  rw [hcut.fenced, die_setDie, if_pos rfl]

end

theorem putBlack_fenced (d : Die) (r : TraceRec) : (d.putBlack r).fenced = d.fenced := by simp only [Die.putBlack]

theorem dieFence_next {s : State} {die : Nat} {check : Bool} (hdie : die < 8) (hlive : (s.die die).fenced = false)
    (hlost : check = true ∨ ∃ d, d < 8 ∧ d ≠ die ∧ (s.die d).fenced = false ∧ 4 ≤ smapGet 0 (s.die d).misses die) :
    ∃ t, exec (.dieFence die check) s = .next t ∧ SameMemory s t ∧ (t.die die).fenced = true := by
  have hgo : ¬(8 ≤ die ∨ (s.die die).fenced = true ∨
      ((s.liveDies.any fun d => d != die && decide (4 ≤ smapGet 0 (s.die d).misses die)) = false ∧ check = false)) := by
    rintro (h | h | ⟨hlate, hcheck⟩)
    · omega
    · exact ne_true_of_eq_false hlive h
    · obtain hc | ⟨d, hd, hne, hfenced, hmiss⟩ := hlost
      · exact ne_true_of_eq_false hcheck hc
      · refine ne_true_of_eq_false hlate (List.any_eq_true.mpr ⟨d, ?_, ?_⟩)
        · simp [State.liveDies, hd, hfenced]
        · simp [hne, hmiss]
  refine exists_next_of_exec _ rfl (congrArg (orNot _) (if_neg hgo)) ?_
  refine (SameFences.fenced (s := s.cutOff die) ?_ die).trans (cutOff_fenced s die)
  refine .trans ?_ (.foldl (fun s d => ?black) _ _)
  case black => exact .setDie (putBlack_fenced ..)
  refine .trans ?_ (.foldl sameFences_tdiError _ _)
  refine .trans ?_ (.foldl (fun s w => ?launch) _ _)
  · exact .of_dies rfl
  split
  · split
    · exact sameFences_reissue ..
    · exact sameFences_discardJob ..
  · exact .refl s

/-! Discarded jobs (R372). -/

section
variable {s t u : State}

/-- Each thread in a slot was there, of its colour. -/
structure ThreadsFrom (s t : State) : Prop where
  from_ : ∀ g slot th, t.thread g slot = some th → ∃ v, s.thread g slot = some v ∧ v.colour = th.colour

theorem ThreadsFrom.refl (s : State) : ThreadsFrom s s := ⟨fun _ _ th h => ⟨th, h, rfl⟩⟩

theorem ThreadsFrom.of_cores (h : t.cores = s.cores) : ThreadsFrom s t :=
  ⟨fun g _ th hth => ⟨th, by rwa [State.thread, core_of_cores h g] at hth, rfl⟩⟩

theorem ThreadsFrom.trans (h : ThreadsFrom s t) (h' : ThreadsFrom t u) : ThreadsFrom s u where
  from_ g slot th hth := by
    obtain ⟨v, hv, hcolour⟩ := h'.from_ g slot th hth
    obtain ⟨w, hw, hw'⟩ := h.from_ g slot v hv
    exact ⟨w, hw, hw'.trans hcolour⟩

theorem ThreadsFrom.foldl {α : Type} {f : State → α → State} (h : ∀ s a, ThreadsFrom s (f s a)) (l : List α) (s : State) :
    ThreadsFrom s (l.foldl f s) := by
  induction l generalizing s with
  | nil => exact .refl s
  | cons a rest ih => exact (h s a).trans (ih (f s a))

end

theorem threadsFrom_onTid (s : State) (tid : Nat) {f : Thread → Thread} (hf : ∀ th, (f th).colour = th.colour) :
    ThreadsFrom s (s.onTid tid f) := by
  unfold State.onTid
  split
  · have hcores : (s.onMoving tid f).cores = s.cores.map fun e => (e.1, e.2.onArrivals fun th => if th.tid = tid then f th else th) := rfl
    refine ⟨fun g slot th hth => ⟨th, ?_, rfl⟩⟩
    rwa [State.thread, core_of_map hcores rfl] at hth
  · next r _ =>
    split
    · exact .refl s
    · next v hv =>
      refine ⟨fun g slot th hth => ?_⟩
      have hslot : r.slot < 16 := State.slot_lt_of_thread hv
      by_cases hg : g = r.g
      · subst hg
        rw [State.setThread, State.thread, core_setCore_self, coreThread_setThread _ _ _ hslot] at hth
        split at hth
        · subst_vars
          obtain rfl := Option.some.inj hth
          exact ⟨v, hv, (hf v).symm⟩
        · exact ⟨th, hth, rfl⟩
      · exact ⟨th, by rwa [State.setThread, State.thread, core_setCore_other _ _ hg] at hth, rfl⟩

theorem performed_cores (s : State) (tid id : Nat) :
    (s.performed tid id).cores = (s.onTid tid fun t => { t with outst := t.outst.filter (fun i => i != id) }).cores := rfl

theorem threadsFrom_performed (s : State) (tid id : Nat) : ThreadsFrom s (s.performed tid id) :=
  .trans (threadsFrom_onTid s tid fun _ => by rfl) (.of_cores (performed_cores ..))

/-- A slot of a core whose slots are changed by a function of each. -/
theorem coreThread_map {c d : Core} {f : Option Thread → Option Thread} (hf : f none = none) (h : d.threads = c.threads.map f) (slot : Nat) :
    d.thread slot = f (c.thread slot) := by
  simp only [Core.thread, h, Vector.toList_map, List.getD_eq_getElem?_getD, List.getElem?_map]
  cases c.threads.toList[slot]? with
  | none => exact hf.symm
  | some o => rfl

/-- A released core's threads were there, of their colours. -/
theorem release_colour {c : Core} {slot : Nat} {th : Thread} (h : c.release.thread slot = some th) :
    ∃ v, c.thread slot = some v ∧ v.colour = th.colour := by
  cases hc : c.thread slot with
  | none => rw [release_vacant hc] at h; cases h
  | some v =>
    obtain ⟨p, hp⟩ := release_thread hc
    obtain rfl := Option.some.inj (hp.symm.trans h)
    exact ⟨v, rfl, rfl⟩

/-- A core without the threads that a test names has others of its own. -/
theorem without_thread {c : Core} {t : Thread → Bool} {team : TeamKey → Bool} {colour : Nat → Bool} {slot : Nat} {th : Thread}
    (h : (c.without t team colour).thread slot = some th) : ∃ v, c.thread slot = some v ∧ t v = false ∧ v.colour = th.colour := by
  have hkept {d : Core} (hd : d.threads = c.threads.map fun o => o.filter fun u => !t u) {v : Thread} (hv : d.thread slot = some v) :
      c.thread slot = some v ∧ t v = false := by
    rw [coreThread_map (f := fun o => o.filter fun u => !t u) rfl hd, Option.filter_eq_some_iff, Bool.not_eq_true'] at hv
    exact hv
  unfold Core.without at h
  dsimp only at h
  split at h
  · obtain ⟨v, hv, hcolour⟩ := release_colour h
    obtain ⟨hv, ht⟩ := hkept rfl hv
    exact ⟨v, hv, ht, hcolour⟩
  · obtain ⟨hv, ht⟩ := hkept rfl h
    exact ⟨th, hv, ht, rfl⟩

theorem portUsed_cores (s : State) (port colour : Nat) : (s.portUsed port colour).cores = s.cores := by
  unfold State.portUsed
  split <;> rfl

theorem portUsed_launches (s : State) (port colour : Nat) : (s.portUsed port colour).launches = s.launches := by
  unfold State.portUsed
  split <;> rfl

theorem performed_launches (s : State) (tid id : Nat) : (s.performed tid id).launches = s.launches := by
  refine (show _ = (s.onTid tid _).launches from rfl).trans ?_
  unfold State.onTid
  split
  · rfl
  · split <;> rfl

theorem discardJob_launches (s : State) (colour : Nat) : (s.discardJob colour).launches = s.launches.filter fun e => e.2.colour != colour := by
  unfold State.discardJob
  dsimp only
  rw [foldl_keeps (p := State.launches) (fun _ _ => by rfl)]
  refine (portUsed_launches ..).trans ?_
  rw [foldl_keeps (p := State.launches) (fun _ _ => by exact performed_launches ..)]

/-- A core without a colour's threads, launches and words. -/
def Core.stripped (c : Core) (colour : Nat) (ls : List Nat) : Core :=
  let c1 := c.without (fun u => u.colour == colour) (fun k => ls.contains k.launch) (fun k => k == colour)
  { c1 with nin := c1.nin.map fun xs => xs.filter fun e => !ls.contains e.1 }

/-- A reset core has no thread. -/
theorem reset_thread (slot : Nat) : Core.reset.thread slot = none := by
  refine (show _ = (Vector.replicate 16 (none : Option Thread)).toList.getD slot none from rfl).trans ?_
  rw [Vector.toList_replicate, List.getD_eq_getElem?_getD, List.getElem?_replicate]
  split <;> rfl

/-- The cores without a colour's threads, launches and words. -/
def State.strippedCores (s : State) (colour : Nat) : State :=
  { s with cores := s.cores.map fun e => (e.1, e.2.stripped colour ((s.launchesOf colour).map Prod.fst)) }

theorem threadsFrom_discardJob (s : State) (colour : Nat) : ThreadsFrom (s.strippedCores colour) (s.discardJob colour) := by
  unfold State.discardJob
  dsimp only
  refine .trans ?_ (.foldl (fun s m => ?msg) _ _)
  case msg => exact .of_cores rfl
  refine .trans (.trans ?_ (.of_cores (portUsed_cores _ s.hostPort colour))) (.of_cores rfl)
  refine .trans ?_ (.foldl (fun s (a : Nat × Nat) => threadsFrom_performed s a.1 a.2) _ _)
  exact .of_cores rfl

/-- The work of a colour discarded: no thread of it is left. -/
theorem discardJob_thread {s : State} {colour g slot : Nat} {th : Thread} (h : (s.discardJob colour).thread g slot = some th) :
    th.colour ≠ colour := by
  obtain ⟨v, hv, hcolour⟩ := (threadsFrom_discardJob s colour).from_ _ _ _ h
  simp only [State.thread, State.core, smapGet, State.strippedCores] at hv
  rw [smapFind_map_snd (Core.stripped · colour ((s.launchesOf colour).map Prod.fst))] at hv
  cases hg : smapFind s.cores g with
  | none =>
    rw [hg] at hv
    exact absurd ((reset_thread slot).symm.trans hv) (Option.some_ne_none v).symm
  | some c =>
    rw [hg] at hv
    obtain ⟨w, -, hw, hwv⟩ := without_thread (c := c) hv
    rw [← hcolour, ← hwv]
    simpa using hw

theorem jobDiscard_next {s : State} {colour : Nat} (hcolour : colour < 32) : ∃ t, exec (.jobDiscard colour) s = .next t ∧ SameMemory s t ∧
    (∀ e ∈ t.launches, e.2.colour ≠ colour) ∧ (∀ g slot th, t.thread g slot = some th → th.colour ≠ colour) ∧
    .jobEnd colour ((s.launchesOf colour).map fun e => e.2.seq) ∈ (t.port s.hostPort).held := by
  refine exists_next_of_exec (s.discardJob colour) rfl (congrArg (orNot _) (if_pos hcolour))
    ⟨fun e he => ?_, fun g slot th => discardJob_thread, ?_⟩
  · rw [discardJob_launches] at he
    simpa using (List.mem_filter.mp he).2
  · unfold State.discardJob
    dsimp only
    rw [List.foldl_append]
    exact toHost_held ..

/-- Settles O57: what the exchange, the stop and the discarding of work make certain of each core, die and thread. -/
theorem arbiterEventsComplete : Obligations.ArbiterEventsComplete := by
  unfold Obligations.ArbiterEventsComplete
  refine ⟨fun s g => swapInstant_next, fun s p q => castlingOffer_next, fun s p q hoffer hin hpq hquiet hpg hqg hpc hqc => ?_,
    fun s part colour p hpart => ⟨preemptStop_next hpart, preemptDrainDone_next hpart, preemptExchangeDone_next hpart⟩,
    fun s die missed => heartbeat_next missed, fun s die check => dieFence_next, fun s colour => jobDiscard_next⟩
  obtain ⟨t, hexec, hmem, ⟨⟨hth, hspad, htiles, hteams⟩, hfree⟩, ⟨hth', hspad', htiles', hteams'⟩, hfree'⟩ :=
    castlingSwap_next hoffer hin hpq hquiet (notAway hpg hpc) (notAway hqg hqc)
  exact ⟨t, hexec, hmem, hth, hth', hspad, hspad', htiles, htiles', hteams, hteams', hfree, hfree'⟩

end Sys2Proof.Machine
end

section
/-! PROOFS. Launches and bind records (R329–R335): an accepted launch is entered, the threads of a bound team are in the vacant slots in the order
of their work identifiers, and a thief gets as many teams as its victim can spare. -/
namespace Sys2Proof.Machine
open Sys2Proof

theorem sameMemory_of_exec {i : Instr} {s t : State} (hi : writesMemory i = false) (h : exec i s = .next t) : SameMemory s t :=
  fun a => congrArg (memGet · a) (exec_mem hi h)

/-! Records added to their dies. -/

section
variable (s : State) (rs : List (Nat × BindRec))

theorem addRecords_launches : (s.addRecords rs).launches = s.launches :=
  (show _ = (rs.foldl _ s).launches from rfl).trans (foldl_keeps (p := State.launches) (fun _ _ => by rfl) _ _)

theorem addRecords_clusters : (s.addRecords rs).clusters = s.clusters :=
  (show _ = (rs.foldl _ s).clusters from rfl).trans (foldl_keeps (p := State.clusters) (fun _ _ => by rfl) _ _)

theorem addRecords_saved : (s.addRecords rs).saved = s.saved :=
  (show _ = (rs.foldl _ s).saved from rfl).trans (foldl_keeps (p := State.saved) (fun _ _ => by rfl) _ _)

end

theorem addRecords_if (s : State) (rs : List (Nat × BindRec)) (c : Prop) [Decidable c] :
    (if c then s.addRecords rs else s).launches = s.launches ∧ (if c then s.addRecords rs else s).saved = s.saved := by
  split
  · exact ⟨addRecords_launches .., addRecords_saved ..⟩
  · exact ⟨rfl, rfl⟩

/-! Accepting (R330, R331). -/

theorem launch_of_launches {s t : State} (h : t.launches = s.launches) (k : Nat) : t.launch? k = s.launch? k := congrArg (smapFind · k) h

/-- A launch entered in the tables is there, as its header and its colour have it. -/
theorem enterLaunch_launch (s : State) (l : Launch) (pk : Nat) (p : Partition) (colour prio : Nat) (port : Option Nat) (place : List Nat) :
    (s.enterLaunch l pk p colour prio port place).1.launch? s.uid = some (s.enterLaunch l pk p colour prio port place).2 :=
  (launch_of_launches (addRecords_launches ..) _).trans (smapFind_put_self ..)

theorem exec_launchAccept_task {s t : State} {k : Nat} {place : List Nat} (h : s.acceptTask k place = some t) :
    exec (.launchAccept (.task k) place) s = .next t := congrArg (orNot _) h

theorem exec_launchAccept_firmware {s t : State} {colour prio : Nat} {hdr : List Word} {place : List Nat}
    (h : s.acceptFirmware colour prio hdr place = some t) : exec (.launchAccept (.firmware colour prio hdr) place) s = .next t :=
  congrArg (orNot _) h

/-- The answer to a task's `launch` (R330). -/
def State.answerLaunch (s : State) (r : Req) (dst : Fin 16) (w : Word) : State :=
  s.send (.reply r.tid r.id (.d dst .s64) (wordBytes 8 w) (s.die (dieOf r.src)).k (r.label (arbiterPlace (dieOf r.src))))

theorem mem_net_answerLaunch (s : State) (r : Req) (dst : Fin 16) (w : Word) :
    .reply r.tid r.id (.d dst .s64) (wordBytes 8 w) (s.die (dieOf r.src)).k (r.label (arbiterPlace (dieOf r.src))) ∈
      (s.answerLaunch r dst w).net := List.mem_append_right _ (List.mem_singleton_self _)

/-- The clock of a `launch` heard by the dies of a partition. -/
def State.hearLaunch (s : State) (p : Partition) (r : Req) : State := p.dies.foldl (fun s d => s.hearClock d r.clock) s

theorem hearLaunch_uid (s : State) (p : Partition) (r : Req) : (s.hearLaunch p r).uid = s.uid := by
  rw [State.hearLaunch]
  exact foldl_keeps (p := State.uid) (fun _ _ => by rfl) _ _

section
variable {s : State} {k prio pk : Nat} {place : List Nat} {r : Req} {dst : Fin 16} {va : Word} {hdr : List Word} {p : Partition}

theorem acceptTask_unread (hnet : s.net[k]? = some (.launchReq r dst va prio)) (hhdr : s.readHeader r va = some none) :
    s.acceptTask k place = some ((s.takeMsg k).answerLaunch r dst (refuseWord 1)) := by
  simp only [State.acceptTask, hnet, hhdr]
  rfl

section
variable (hnet : s.net[k]? = some (.launchReq r dst va prio)) (hhdr : s.readHeader r va = some (some hdr))
  (hpart : s.partOf r.colour = some (pk, p)) (hclock : ∀ d ∈ p.dies, s.covers d r.clock = true)
include hnet hhdr hpart hclock

theorem acceptTask_refused (hcause : s.launchCause (Launch.ofHeader hdr) p r.colour false prio ≠ 0) : s.acceptTask k place =
    some ((s.takeMsg k).answerLaunch r dst (refuseWord (s.launchCause (Launch.ofHeader hdr) p r.colour false prio))) := by
  have hall : ¬ (p.dies.all fun d => s.covers d r.clock) = false := ne_false_of_eq_true (List.all_eq_true.mpr hclock)
  simp only [State.acceptTask, hnet, hhdr, hpart, if_neg hall, if_pos hcause]
  rfl

/-- The launch that a task's header enters. -/
theorem acceptTask_entered (hcause : s.launchCause (Launch.ofHeader hdr) p r.colour false prio = 0)
    (hplace : s.placeOk (Launch.ofHeader hdr) p place = true) :
    let y := ((s.takeMsg k).hearLaunch p r).enterLaunch (Launch.ofHeader hdr) pk p r.colour (Launch.ofHeader hdr).hprio none place
    s.acceptTask k place = some (y.1.answerLaunch r dst (acceptWord y.2)) := by
  have hall : ¬ (p.dies.all fun d => s.covers d r.clock) = false := ne_false_of_eq_true (List.all_eq_true.mpr hclock)
  have hok : ¬ s.placeOk (Launch.ofHeader hdr) p place = false := ne_false_of_eq_true hplace
  simp only [State.acceptTask, hnet, hhdr, hpart, if_neg hall, if_neg (not_not_intro hcause), if_neg hok]
  rfl

end

theorem launchAccept_unread (place : List Nat) (hnet : s.net[k]? = some (.launchReq r dst va prio)) (hhdr : s.readHeader r va = some none) :
    ∃ t clock own, exec (.launchAccept (.task k) place) s = .next t ∧ SameMemory s t ∧ t.launches = s.launches ∧
      .reply r.tid r.id (.d dst .s64) (wordBytes 8 (refuseWord 1)) clock own ∈ t.net := by
  have hexec := exec_launchAccept_task (acceptTask_unread (place := place) hnet hhdr)
  exact ⟨_, _, _, hexec, sameMemory_of_exec rfl hexec, rfl, mem_net_answerLaunch ..⟩

theorem launchAccept_read (hnet : s.net[k]? = some (.launchReq r dst va prio)) (hhdr : s.readHeader r va = some (some hdr))
    (hpart : s.partOf r.colour = some (pk, p)) (hclock : ∀ d ∈ p.dies, s.covers d r.clock = true) :
    let l := Launch.ofHeader hdr
    let cause := s.launchCause l p r.colour false prio
    (cause ≠ 0 → ∃ t clock own, exec (.launchAccept (.task k) place) s = .next t ∧ SameMemory s t ∧ t.launches = s.launches ∧
      .reply r.tid r.id (.d dst .s64) (wordBytes 8 (refuseWord cause)) clock own ∈ t.net) ∧
    (cause = 0 → s.placeOk l p place = true → ∃ t clock own e, exec (.launchAccept (.task k) place) s = .next t ∧ SameMemory s t ∧
      t.launch? s.uid = some e ∧ e.hdr = l.hdr ∧ e.colour = r.colour ∧ e.sup = l.sup ∧
      .reply r.tid r.id (.d dst .s64) (wordBytes 8 (acceptWord e)) clock own ∈ t.net) := by
  refine ⟨fun hcause => ?_, fun hcause hplace => ?_⟩
  · have hexec := exec_launchAccept_task (acceptTask_refused (place := place) hnet hhdr hpart hclock hcause)
    exact ⟨_, _, _, hexec, sameMemory_of_exec rfl hexec, rfl, mem_net_answerLaunch ..⟩
  · have hexec := exec_launchAccept_task (acceptTask_entered hnet hhdr hpart hclock hcause hplace)
    have hentered := enterLaunch_launch ((s.takeMsg k).hearLaunch p r) (Launch.ofHeader hdr) pk p r.colour (Launch.ofHeader hdr).hprio none place
    rw [hearLaunch_uid] at hentered
    exact ⟨_, _, _, _, hexec, sameMemory_of_exec rfl hexec, hentered, rfl, rfl, rfl, mem_net_answerLaunch ..⟩

theorem launchAccept_firmware {colour : Nat} (hpart : s.partOf colour = some (pk, p)) (hlen : hdr.length = 8)
    (hrun : (s.colour colour).tdi = .run) (hcause : s.launchCause { Launch.ofHeader hdr with sup := true } p colour true 0 = 0)
    (hplace : s.placeOk { Launch.ofHeader hdr with sup := true } p place = true) :
    ∃ t e, exec (.launchAccept (.firmware colour prio hdr) place) s = .next t ∧ SameMemory s t ∧ t.launch? s.uid = some e ∧
      e.colour = colour ∧ e.sup = true := by
  have hgo : ¬(hdr.length ≠ 8 ∨ (s.colour colour).tdi ≠ .run ∨
      s.launchCause { Launch.ofHeader hdr with sup := true } p colour true 0 ≠ 0 ∨
      s.placeOk { Launch.ofHeader hdr with sup := true } p place = false) := by
    rintro (h | h | h | h)
    exacts [h hlen, h hrun, h hcause, ne_false_of_eq_true hplace h]
  have hexec : exec (.launchAccept (.firmware colour prio hdr) place) s =
      .next (s.enterLaunch { Launch.ofHeader hdr with sup := true } pk p colour (prio % 4) none place).1 := by
    refine exec_launchAccept_firmware ?_
    simp only [State.acceptFirmware, hpart, if_neg hgo]
  exact ⟨_, _, hexec, sameMemory_of_exec rfl hexec, enterLaunch_launch .., rfl, rfl⟩

end

/-! Binding (R329, R333). -/

/-- A thread of team T of a launch as it starts with a work identifier (R329). -/
def Thread.StartsFor (l : Launch) (lk T w : Nat) (u : Thread) : Prop :=
  ∃ tid free, u = Thread.start tid l.colour (BitVec.ofNat 64 w) lk T (l.hdr.getD 0 0) (l.hdr.getD 5 0) l.sup free

section
variable (s : State) (g lk : Nat) (l : Launch) (T : Nat)

theorem startThreads_teams (ps : List (Nat × Nat)) (h : Nat) : ((s.startThreads g lk l T ps).core h).teams = (s.core h).teams := by
  induction ps generalizing s with
  | nil => rfl
  | cons e rest ih =>
    refine (ih _).trans ?_
    refine (congrArg Core.teams (core_setCore ..)).trans ?_
    split
    · subst_vars; rfl
    · rfl

/-- A slot that no thread starts in is as it was. -/
theorem startThreads_thread_other {ps : List (Nat × Nat)} (hlt : ∀ e ∈ ps, e.1 < 16) {slot : Nat} (h : slot ∉ ps.map Prod.fst) :
    (s.startThreads g lk l T ps).thread g slot = s.thread g slot := by
  induction ps generalizing s with
  | nil => rfl
  | cons e rest ih =>
    obtain ⟨hhead, hrest⟩ := List.forall_mem_cons.mp hlt
    simp only [List.map_cons, List.mem_cons, not_or] at h
    refine (ih _ hrest h.2).trans ?_
    refine (thread_setThread s g g slot _ hhead).trans (if_neg fun hs => h.1 hs.2)

theorem startThreads_thread {ps : List (Nat × Nat)} (hnodup : (ps.map Prod.fst).Nodup) (hlt : ∀ e ∈ ps, e.1 < 16) {slot w : Nat}
    (h : (slot, w) ∈ ps) : ∃ u, (s.startThreads g lk l T ps).thread g slot = some u ∧ u.StartsFor l lk T w := by
  induction ps generalizing s with
  | nil => cases h
  | cons e rest ih =>
    obtain ⟨hhead, hrest⟩ := List.forall_mem_cons.mp hlt
    obtain ⟨hnot, hnodup⟩ := List.nodup_cons.mp hnodup
    rcases List.mem_cons.mp h with rfl | h
    · exact ⟨_, (startThreads_thread_other _ g lk l T hrest hnot).trans ((thread_setThread s g g slot _ hhead).trans (if_pos ⟨rfl, rfl⟩)),
        s.uid, s.free, rfl⟩
    · exact ih _ hnodup hrest h

end

theorem mem_of_smapFind {α : Type} {m : List (Nat × α)} {k : Nat} {v : α} (h : smapFind m k = some v) : (k, v) ∈ m := by
  induction m with
  | nil => cases h
  | cons e m ih =>
    unfold smapFind at h
    split at h
    · next hk =>
      obtain rfl := Option.some.inj h
      exact hk ▸ List.mem_cons_self ..
    · split at h
      · cases h
      · exact List.mem_cons_of_mem _ (ih h)

/-- A team that stands on a core is found. -/
theorem findTeam_isSome {s : State} {g : Nat} {key : TeamKey} (h : ((s.core g).teamOf key).isSome = true) : (s.findTeam key).isSome = true := by
  obtain ⟨tm, htm⟩ := Option.isSome_iff_exists.mp h
  unfold State.core smapGet at htm
  cases hg : smapFind s.cores g with
  | none => rw [hg] at htm; cases htm
  | some c =>
    rw [hg] at htm
    refine List.findSome?_isSome_iff.mpr ⟨_, mem_of_smapFind hg, ?_⟩
    rw [show c.teamOf key = some tm from htm]
    rfl

/-- A team bound on a core: it stands there, its threads in vacant slots. -/
theorem bindTeam_eq_some {s t : State} {lk : Nat} {l : Launch} {T g : Nat} (h : s.bindTeam lk l T g = some t) :
    ∃ c, (c.teamOf ⟨lk, T⟩).isSome = true ∧ t = (s.setCore g c).bumpUid.startThreads g lk l T ((s.core g).vacants.zip (l.wids T)) := by
  unfold State.bindTeam at h
  dsimp only at h
  split at h
  · cases h
  · split at h
    · cases h
    · refine ⟨_, ?_, (Option.some.inj h).symm⟩
      refine List.find?_isSome.mpr ⟨_, List.mem_append_right _ (List.mem_singleton_self _), ?_⟩
      exact beq_self_eq_true _

theorem bindTeam_fits {s : State} {lk : Nat} {l : Launch} {T g base : Nat} (hlive : (s.core g).checked = false)
    (hslots : (l.wids T).length ≤ (s.core g).vacants.length) (htiles : l.tiles ≤ (s.core g).spareTiles.length)
    (hregion : (s.core g).regionFor (128 * l.spad) = some base) : ∃ t, s.bindTeam lk l T g = some t := by
  have hgo : ¬((s.core g).checked = true ∨ (s.core g).vacants.length < (l.wids T).length ∨ (s.core g).spareTiles.length < l.tiles) := by
    rintro (h | h | h)
    · exact ne_true_of_eq_false hlive h
    · omega
    · omega
  unfold State.bindTeam
  simp only [if_neg hgo, hregion]
  exact ⟨_, rfl⟩

theorem bindTeam_findTeam {s t : State} {lk : Nat} {l : Launch} {T g : Nat} (h : s.bindTeam lk l T g = some t) :
    (t.findTeam ⟨lk, T⟩).isSome = true := by
  obtain ⟨c, hc, rfl⟩ := bindTeam_eq_some h
  refine findTeam_isSome (g := g) ?_
  have hteams := startThreads_teams (s.setCore g c).bumpUid g lk l T ((s.core g).vacants.zip (l.wids T)) g
  have hcore : ((s.setCore g c).bumpUid.core g).teams = c.teams := congrArg Core.teams (core_setCore_self ..)
  rw [Core.teamOf, hteams, hcore]
  exact hc

theorem zip_fst_sublist {α β : Type} (as : List α) (bs : List β) : ((as.zip bs).map Prod.fst).Sublist as := by
  induction as generalizing bs with
  | nil => exact List.Sublist.refl _
  | cons a as ih =>
    cases bs with
    | nil => exact List.nil_sublist _
    | cons b bs => exact (ih bs).cons_cons a

/-- The i-th thread of a bound team is in the i-th vacant slot. -/
theorem bindTeam_thread {s t : State} {lk : Nat} {l : Launch} {T g : Nat} (h : s.bindTeam lk l T g = some t) {i slot w : Nat}
    (hw : (l.wids T)[i]? = some w) (hslot : (s.core g).vacants[i]? = some slot) : ∃ u, t.thread g slot = some u ∧ u.StartsFor l lk T w := by
  obtain ⟨c, -, rfl⟩ := bindTeam_eq_some h
  have hvacants : (s.core g).vacants.Nodup := List.nodup_range.filter _
  refine startThreads_thread _ g lk l T (hvacants.sublist ?_) (fun e he => ?_) (List.mem_of_getElem? (i := i) ?_)
  · exact zip_fst_sublist ..
  · exact List.mem_range.mp (List.mem_filter.mp (List.of_mem_zip he).1).1
  · simp [List.getElem?_zip_eq_some, hw, hslot]

/-- What a thread starts with (R329, R39). -/
theorem startsFor_fields {l : Launch} {lk T w : Nat} {u : Thread} (h : u.StartsFor l lk T w) :
    u.pc = l.hdr.getD 0 0 ∧ u.entry = some 0 ∧ u.d[0] = l.hdr.getD 5 0 ∧ u.wid = BitVec.ofNat 64 w ∧ u.launch = lk ∧ u.team = T ∧
      u.colour = l.colour ∧ u.inh = false ∧ u.sup = l.sup ∧ u.pval[0] = true ∧ (∀ j : Fin 16, j ≠ 0 → u.d[j] = 0) := by
  obtain ⟨tid, free, rfl⟩ := h
  have hflags : (Thread.start tid l.colour (BitVec.ofNat 64 w) lk T (l.hdr.getD 0 0) (l.hdr.getD 5 0) l.sup free).inh = false ∧
      (Thread.start tid l.colour (BitVec.ofNat 64 w) lk T (l.hdr.getD 0 0) (l.hdr.getD 5 0) l.sup free).sup = l.sup := by
    simp only [Thread.inh, Thread.sup, Thread.start]
    cases l.sup <;> decide
  refine ⟨rfl, rfl, rfl, rfl, rfl, rfl, rfl, hflags.1, hflags.2, rfl, fun j hj => ?_⟩
  have hne : (0 : Nat) ≠ j.val := fun h => hj (Fin.ext h.symm)
  simp [Thread.start, hne]

theorem bindOn_eq_some {s t : State} {lk : Nat} {l : Launch} {T : Nat} {gs : List Nat} (h : s.bindOn lk l T gs = some t) :
    ∃ g ∈ gs, s.bindTeam lk l T g = some t := by
  induction gs with
  | nil => cases h
  | cons g rest ih =>
    unfold State.bindOn at h
    split at h
    · next u hu => exact ⟨g, List.mem_cons_self .., hu.trans h⟩
    · obtain ⟨g', hg', ht⟩ := ih h
      exact ⟨g', List.mem_cons_of_mem _ hg', ht⟩

/-- A team of a record bound: the cores are as its binding leaves them, and the cluster goes on with its group. -/
theorem bindFrom_of_bindOn {s u : State} {clu lk : Nat} {l : Launch} {e : Nat × BindRec} {first : Bool} (left : Nat)
    (h : s.bindOn lk l e.2.team (s.bindCores clu l e.2 first) = some u) :
    ∃ t, s.bindFrom clu lk l e first left = some t ∧ t.cores = u.cores ∧
      (t.cluster clu).group = if left = 0 then none else some (lk, l.group e.2.team, left) := by
  unfold State.bindFrom
  rw [h]
  refine ⟨_, rfl, rfl, ?_⟩
  refine (congrArg Cluster.group (cluster_of_clusters (s := State.setCluster _ clu _) rfl clu)).trans ?_
  rw [cluster_setCluster, if_pos rfl]

section
variable {s : State} {clu lk : Nat} {l : Launch} {e : Nat × BindRec} {rest ts : List (Nat × BindRec)}

theorem exec_teamBind_first {t : State} (hgroup : (s.cluster clu).group = none) (hrecs : sortBy bindBefore (s.die (clu / 16)).table = e :: rest)
    (hbind : s.bindable clu e = some (lk, l)) (hts : s.groupRecs clu l e = some ts) (hall : (s.bindAll clu lk l true ts).isSome = true)
    (hfrom : s.bindFrom clu lk l e true (ts.length - 1) = some t) : exec (.teamBind clu) s = .next t := by
  refine (show _ = execTeamBind clu s from rfl).trans ?_
  simp only [execTeamBind, hgroup, hrecs, firstSome, hbind, hts, hall, if_true, hfrom, orNot]

/-- The record's own team is the first of those bound together. -/
theorem groupRecs_head (h : s.groupRecs clu l e = some ts) : ∃ others, ts = (e.2.team, e.2) :: others := by
  unfold State.groupRecs at h
  dsimp only at h
  split at h
  · exact ⟨_, (Option.some.inj h).symm⟩
  · cases h

theorem teamBind_group (hgroup : (s.cluster clu).group = none) (hrecs : sortBy bindBefore (s.die (clu / 16)).table = e :: rest)
    (hbind : s.bindable clu e = some (lk, l)) (hts : s.groupRecs clu l e = some ts) (hall : (s.bindAll clu lk l true ts).isSome = true) :
    ∃ t, exec (.teamBind clu) s = .next t ∧ SameMemory s t ∧ (t.findTeam ⟨lk, e.2.team⟩).isSome = true ∧
      (t.cluster clu).group = if ts.length ≤ 1 then none else some (lk, l.group e.2.team, ts.length - 1) := by
  obtain ⟨others, rfl⟩ := groupRecs_head hts
  obtain ⟨u, hu⟩ : ∃ u, s.bindOn lk l e.2.team (s.bindCores clu l e.2 true) = some u := by
    cases hon : s.bindOn lk l e.2.team (s.bindCores clu l e.2 true) with
    | none => rw [State.bindAll, hon] at hall; cases hall
    | some u => exact ⟨u, rfl⟩
  obtain ⟨t, ht, hcores, hleft⟩ := bindFrom_of_bindOn (((e.2.team, e.2) :: others).length - 1) hu
  obtain ⟨g, -, hteam⟩ := bindOn_eq_some hu
  have hexec := exec_teamBind_first hgroup hrecs hbind hts hall ht
  refine ⟨t, hexec, sameMemory_of_exec rfl hexec, ?_, ?_⟩
  · rw [State.findTeam, hcores]
    exact bindTeam_findTeam hteam
  · rw [hleft]
    simp

/-- A record whose team is bound alone (R333). -/
theorem groupRecs_alone (h : l.together e.2.team = [e.2.team]) : s.groupRecs clu l e = some [(e.2.team, e.2)] := by
  unfold State.groupRecs
  simp [h]

theorem teamBind_alone {base : Nat} (hgroup : (s.cluster clu).group = none)
    (hrecs : sortBy bindBefore (s.die (clu / 16)).table = e :: rest) (hbind : s.bindable clu e = some (lk, l)) (hany : e.2.any = false)
    (halone : l.together e.2.team = [e.2.team]) (hlive : (s.core (256 * (clu / 16) + e.2.core)).checked = false)
    (hslots : (l.wids e.2.team).length ≤ (s.core (256 * (clu / 16) + e.2.core)).vacants.length)
    (htiles : l.tiles ≤ (s.core (256 * (clu / 16) + e.2.core)).spareTiles.length)
    (hregion : (s.core (256 * (clu / 16) + e.2.core)).regionFor (128 * l.spad) = some base) :
    ∃ t, exec (.teamBind clu) s = .next t ∧ SameMemory s t ∧ (t.findTeam ⟨lk, e.2.team⟩).isSome = true ∧
      ∀ (i slot w : Nat), (l.wids e.2.team)[i]? = some w → (s.core (256 * (clu / 16) + e.2.core)).vacants[i]? = some slot →
        ∃ u, t.thread (256 * (clu / 16) + e.2.core) slot = some u ∧ u.StartsFor l lk e.2.team w := by
  obtain ⟨u, hu⟩ := bindTeam_fits (lk := lk) hlive hslots htiles hregion
  have hcores : s.bindCores clu l e.2 true = [256 * (clu / 16) + e.2.core] := if_pos hany
  have hon : s.bindOn lk l e.2.team (s.bindCores clu l e.2 true) = some u := by
    rw [hcores, State.bindOn, hu]
  have hall : (s.bindAll clu lk l true [(e.2.team, e.2)]).isSome = true := by
    rw [State.bindAll, hon]
    rfl
  obtain ⟨t, ht, htcores, -⟩ := bindFrom_of_bindOn 0 hon
  have hexec := exec_teamBind_first hgroup hrecs hbind (groupRecs_alone halone) hall ht
  refine ⟨t, hexec, sameMemory_of_exec rfl hexec, ?_, fun i slot w hw hslot => ?_⟩
  · rw [State.findTeam, htcores]
    exact bindTeam_findTeam hu
  · rw [State.thread, core_of_cores htcores]
    exact bindTeam_thread hu hw hslot

end

theorem bindRecordAging_next {s : State} {die e : Nat} {r : BindRec} (hrec : smapFind (s.die die).table e = some r) (hst : r.st = 0 ∨ r.st = 1)
    (hprio : r.prio < 3) : ∃ t, exec (.bindRecordAging die e) s = .next t ∧ SameMemory s t ∧
      smapFind (t.die die).table e = some { r with prio := r.prio + 1 } := by
  refine exists_next_of_exec (s.setDie die { s.die die with table := smapPut (s.die die).table e { r with prio := r.prio + 1 } }) rfl ?_ ?_
  · refine (show _ = execBindRecordAging die e s from rfl).trans ?_
    simp only [execBindRecordAging, hrec, if_pos (And.intro hst hprio), orNot]
  · rw [die_setDie, if_pos rfl]
    exact smapFind_put_self ..

/-! Work donation (R335). -/

/-- As many teams as are asked for are taken, where the records have them. -/
theorem takeTeams_length (d : Die) (recs : List (Nat × BindRec)) (n : Nat) :
    (takeTeams d recs n).2.length = min n (recs.map fun e => e.2.unstarted).sum := by
  induction recs generalizing d n with
  | nil => simp [takeTeams]
  | cons e rest ih =>
    simp only [takeTeams, List.length_append, List.length_map, List.length_range, ih, List.map_cons, List.sum_cons]
    omega

theorem stealRequest_next {s : State} {thief victim : Nat} {a b : Nat × Partition} (hready : s.thiefReady thief victim = true)
    (ha : s.partOfCluster thief = some a) (hb : s.partOfCluster victim = some b) (hswitch : a.2.switch = .none) :
    ∃ t blocks colour, exec (.stealRequest thief victim) s = .next t ∧ SameMemory s t ∧ .stealReply thief blocks victim colour ∈ t.net ∧
      blocks.length = if a.1 = b.1 then min 16 (((s.stealable victim).map fun e => e.2.unstarted).sum / 2) else 0 := by
  refine ⟨_, _, _, congrArg (orNot _) (if_neg (ne_false_of_eq_true hready)), ?_, List.mem_append_right _ (List.mem_singleton_self _), ?_⟩
  · exact sameMemory_of_exec (i := .stealRequest thief victim) rfl (congrArg (orNot _) (if_neg (ne_false_of_eq_true hready)))
  · simp only [List.length_map, takeTeams_length, ha, hb, hswitch]
    by_cases hpart : a.1 = b.1
    · simp [hpart]
      omega
    · simp [hpart]

/-- A thief that got nothing: it asks the next cluster, or has asked them all and waits. -/
def Cluster.refused (k : Cluster) : Cluster :=
  if k.steal + 1 = 15 then { k with steal := 0, backoff := true } else { k with steal := k.steal + 1 }

theorem stealReply_next {s : State} {k thief victim colour : Nat} {blocks : List (Word × Nat)}
    (hnet : s.net[k]? = some (.stealReply thief blocks victim colour)) : ∃ t, exec (.stealReply k) s = .next t ∧ SameMemory s t ∧
      (blocks ≠ [] → (t.cluster thief).steal = 0) ∧
      (blocks = [] → (s.cluster thief).steal = 14 → (t.cluster thief).steal = 0 ∧ (t.cluster thief).backoff = true) ∧
      (blocks = [] → (s.cluster thief).steal ≠ 14 → (t.cluster thief).steal = (s.cluster thief).steal + 1) := by
  have hself (c : Cluster) : ((s.takeMsg k).setCluster thief c).cluster thief = c := (cluster_setCluster ..).trans (if_pos rfl)
  cases blocks with
  | nil =>
    refine exists_next_of_exec ((s.takeMsg k).setCluster thief ((s.takeMsg k).cluster thief).refused) rfl ?_ ?_
    · refine (show _ = execStealReply k s from rfl).trans ?_
      simp only [execStealReply, hnet]
      rfl
    · rw [hself]
      have hcluster : (s.takeMsg k).cluster thief = s.cluster thief := rfl
      rw [hcluster]
      refine ⟨fun h => absurd rfl h, fun _ h => ?_, fun _ h => ?_⟩
      · simp [Cluster.refused, h]
      · simp [Cluster.refused, h]
  | cons b bs =>
    refine exists_next_of_exec (((s.takeMsg k).setCluster thief { (s.takeMsg k).cluster thief with steal := 0 }).addRecords
      ((b :: bs).filterMap fun b => (s.launch? b.2).map fun l =>
        (thief / 16, { l.recFor true thief 0 (b.1.toNat % 2 ^ 30) 1 with prio := b.1.toNat / 2 ^ 36 % 4 }))) rfl ?_ ?_
    · refine (show _ = execStealReply k s from rfl).trans ?_
      simp only [execStealReply, hnet]
      rfl
    · rw [cluster_of_clusters (addRecords_clusters ..), hself]
      exact ⟨fun _ => rfl, fun h => absurd h (List.cons_ne_nil b bs), fun h => absurd h (List.cons_ne_nil b bs)⟩

theorem stealBackoffExpiry_next {s : State} {clu : Nat} (h : (s.cluster clu).backoff = true) :
    ∃ t, exec (.stealBackoffExpiry clu) s = .next t ∧ SameMemory s t ∧ t.cluster clu = { s.cluster clu with backoff := false } :=
  exists_next_of_exec _ rfl (congrArg (orNot _) (if_pos h)) ((cluster_setCluster ..).trans (if_pos rfl))

/-! Commits (R344, R401). -/

/-- A launch whose phase state settles is otherwise as it was. -/
theorem settlePhase_launch {s : State} {lk : Nat} {l : Launch} (h : s.launch? lk = some l) :
    ∃ pst, (s.settlePhase lk).launch? lk = some { l with pst := pst } := by
  unfold State.settlePhase
  rw [h]
  dsimp only
  split
  · exact ⟨1, (launch_setLaunch ..).trans (if_pos rfl)⟩
  · exact ⟨l.pst, h⟩

theorem phaseCommit_next {s : State} {lk : Nat} {l : Launch} {p : Partition} (hl : s.launch? lk = some l)
    (hp : smapFind s.parts l.part = some p) (hpst : l.pst = 1) (hthreads : (s.launchThreads lk).isEmpty = false)
    (hopen : s.writesOpen lk l = false) (hres : p.resident = l.colour) (hswitch : p.switch = .none) (hroom : ∀ d ∈ p.dies, s.relRoom d = true) :
    ∃ t e, exec (.phaseCommit lk) s = .next t ∧ SameMemory s t ∧ t.launch? lk = some e ∧
      e.phase = l.phase + 1 ∧ e.committed = true ∧ e.rounds = [] := by
  have hgo : ¬(l.pst ≠ 1 ∨ (s.launchThreads lk).isEmpty = true ∨ s.writesOpen lk l = true ∨ p.resident ≠ l.colour ∨
      p.switch ≠ .none ∨ (p.dies.any fun d => !s.relRoom d) = true) := by
    rintro (h | h | h | h | h | h)
    · exact h hpst
    · exact ne_true_of_eq_false hthreads h
    · exact ne_true_of_eq_false hopen h
    · exact h hres
    · exact h hswitch
    · obtain ⟨d, hd, hroomd⟩ := List.any_eq_true.mp h
      simp [hroom d hd] at hroomd
  let u := (((s.commit lk l).phaseRelease lk l p).firstRounds lk l p).setLaunch lk
    { l with phase := l.phase + 1, pst := 0, committed := true, rounds := [] }
  have hexec : exec (.phaseCommit lk) s = .next (u.settlePhase lk) := by
    refine (show _ = execPhaseCommit lk s from rfl).trans ?_
    simp only [execPhaseCommit, hl, hp, if_neg hgo]
    rfl
  obtain ⟨pst, hu⟩ := settlePhase_launch (s := u) ((launch_setLaunch ..).trans (if_pos rfl))
  exact ⟨_, _, hexec, sameMemory_of_exec rfl hexec, hu, rfl, rfl, rfl⟩

/-! Rounds (R341). -/

/-- One logical core's state saved, its core empty. -/
def State.saveCore (lk : Nat) (l : Launch) (s : State) (L : Nat) : State :=
  { s.setCore (l.phys L) ((s.core (l.phys L)).takeRound Core.reset) with
    saved := smapPut s.saved (savedKey lk L) (s.core (l.phys L)) }

/-- One logical core's state restored, or empty. -/
def State.loadCore (lk : Nat) (l : Launch) (s : State) (L : Nat) : State :=
  { s.setCore (l.phys L) ((s.core (l.phys L)).takeRound (smapGet Core.reset s.saved (savedKey lk L))) with
    saved := smapDel s.saved (savedKey lk L) }

theorem saveRound_eq (s : State) (lk : Nat) (l : Launch) (G : Nat) : s.saveRound lk l G = (clusterLcores G).foldl (State.saveCore lk l) s := rfl

theorem loadRound_eq (s : State) (lk : Nat) (l : Launch) (G : Nat) : s.loadRound lk l G = (clusterLcores G).foldl (State.loadCore lk l) s := rfl

section
variable {lk : Nat} {l : Launch} {ls : List Nat} {s : State}

theorem saveCores_sorted (h : smapSorted 0 s.saved = true) : smapSorted 0 (ls.foldl (State.saveCore lk l) s).saved = true := by
  induction ls generalizing s with
  | nil => exact h
  | cons L rest ih => exact ih (smapSorted_put _ _ _ (Nat.zero_le _) h)

theorem savedKey_inj {L M : Nat} : savedKey lk L = savedKey lk M ↔ L = M := by simp [savedKey]

/-- What is saved for a logical core stays while others are saved. -/
theorem saveCores_other {L : Nat} (h : L ∉ ls) :
    smapFind (ls.foldl (State.saveCore lk l) s).saved (savedKey lk L) = smapFind s.saved (savedKey lk L) := by
  induction ls generalizing s with
  | nil => rfl
  | cons M rest ih =>
    rw [List.mem_cons, not_or] at h
    exact (ih h.2).trans (smapFind_put_other _ _ fun hk => h.1 (savedKey_inj.mp hk))

/-- The state of each logical core is saved as it stands on its core. -/
theorem saveCores_saved (hnodup : ls.Nodup) (hinj : ∀ L ∈ ls, ∀ M ∈ ls, l.phys L = l.phys M → L = M) {L : Nat} (hL : L ∈ ls) :
    smapFind (ls.foldl (State.saveCore lk l) s).saved (savedKey lk L) = some (s.core (l.phys L)) := by
  induction ls generalizing s with
  | nil => cases hL
  | cons M rest ih =>
    obtain ⟨hM, hrest⟩ := List.nodup_cons.mp hnodup
    rcases List.mem_cons.mp hL with rfl | hL
    · exact (saveCores_other hM).trans (smapFind_put_self ..)
    · refine (ih hrest (fun L hL M hM => hinj L (List.mem_cons_of_mem _ hL) M (List.mem_cons_of_mem _ hM)) hL).trans ?_
      have hne : l.phys L ≠ l.phys M := fun h =>
        hM (hinj L (List.mem_cons_of_mem _ hL) M (List.mem_cons_self ..) h ▸ hL)
      exact congrArg some (core_setCore_other _ _ hne)

/-- What is saved for a logical core stays while others are restored. -/
theorem loadCores_other (hs : smapSorted 0 s.saved = true) {L : Nat} (h : L ∉ ls) :
    smapFind (ls.foldl (State.loadCore lk l) s).saved (savedKey lk L) = smapFind s.saved (savedKey lk L) := by
  induction ls generalizing s with
  | nil => rfl
  | cons M rest ih =>
    rw [List.mem_cons, not_or] at h
    refine (ih (smapSorted_del _ _ hs) h.2).trans ?_
    exact (smapFind_del _ _ _ hs).trans (if_neg fun hk => h.1 (savedKey_inj.mp hk))

end

theorem mem_clusterLcores {G L : Nat} : L ∈ clusterLcores G ↔ ∃ i < 16, 32 * (4 * (G / 8) + i / 4) + 4 * (G % 8) + i % 4 = L := by
  simp [clusterLcores]

theorem clusterLcores_nodup (G : Nat) : (clusterLcores G).Nodup := by
  refine List.Nodup.map_on (fun i hi j hj h => ?_) List.nodup_range
  rw [List.mem_range] at hi hj
  omega

/-- Logical clusters share no logical core. -/
theorem clusterLcores_inj {G H L : Nat} (hG : L ∈ clusterLcores G) (hH : L ∈ clusterLcores H) : G = H := by
  obtain ⟨i, hi, rfl⟩ := mem_clusterLcores.mp hG
  obtain ⟨j, hj, h⟩ := mem_clusterLcores.mp hH
  omega

/-- A round that is saved stays so while another is restored. -/
theorem switchRound_saved {s : State} {lk G H : Nat} {l : Launch} (hne : H ≠ G) (hs : smapSorted 0 s.saved = true)
    (hinj : ∀ L ∈ clusterLcores G, ∀ M ∈ clusterLcores G, l.phys L = l.phys M → L = M) {L : Nat} (hL : L ∈ clusterLcores G) :
    smapFind ((s.saveRound lk l G).loadRound lk l H).saved (savedKey lk L) = some (s.core (l.phys L)) := by
  rw [loadRound_eq, saveRound_eq, loadCores_other (saveCores_sorted hs) fun hH => hne (clusterLcores_inj hH hL)]
  exact saveCores_saved (clusterLcores_nodup G) hinj hL

theorem roundSwitch_next {s : State} {lk clu : Nat} {l : Launch} {p : Partition} (hl : s.launch? lk = some l)
    (hp : smapFind s.parts l.part = some p) (hdet : l.det = true)
    (hround : s.roundCluster p clu (smapGet 0 l.rounds clu + 1) ≤ 63)
    (hne : s.roundCluster p clu (smapGet 0 l.rounds clu + 1) ≠ s.roundCluster p clu (smapGet 0 l.rounds clu))
    (hres : p.resident = l.colour) (hswitch : p.switch = .none) (honly : s.onlyLaunch lk clu = true)
    (hunbound : ((s.die (clu / 16)).table.map Prod.snd ++ (s.die (clu / 16)).backlog).any
      (fun (x : BindRec) => x.st != 2 && x.lent == l.lent && x.targets clu && s.inRound p l clu x) = false)
    (hwaits : (s.launchThreads lk).any (fun t => logicalCluster (l.lcore t.team) == s.roundCluster p clu (smapGet 0 l.rounds clu) &&
      t.arrived != some l.phase) = false) :
    ∃ t, exec (.roundSwitch lk clu) s = .next t ∧ SameMemory s t ∧
      t.launch? lk = some { l with rounds := smapPut l.rounds clu (smapGet 0 l.rounds clu + 1) } ∧
      (smapSorted 0 s.saved = true →
        (∀ L ∈ clusterLcores (s.roundCluster p clu (smapGet 0 l.rounds clu)),
          ∀ M ∈ clusterLcores (s.roundCluster p clu (smapGet 0 l.rounds clu)), l.phys L = l.phys M → L = M) →
        ∀ L ∈ clusterLcores (s.roundCluster p clu (smapGet 0 l.rounds clu)), smapFind t.saved (savedKey lk L) = some (s.core (l.phys L))) := by
  let s1 := ((s.saveRound lk l (s.roundCluster p clu (smapGet 0 l.rounds clu))).loadRound lk l
    (s.roundCluster p clu (smapGet 0 l.rounds clu + 1))).setLaunch lk { l with rounds := smapPut l.rounds clu (smapGet 0 l.rounds clu + 1) }
  let rs := Launch.records { l with rounds := smapPut l.rounds clu (smapGet 0 l.rounds clu + 1) } p.clusters fun L =>
    logicalCluster L == s.roundCluster p clu (smapGet 0 l.rounds clu + 1) && !s.takenOn p L
  have hgo : ¬(l.det = false ∨ 63 < s.roundCluster p clu (smapGet 0 l.rounds clu + 1) ∨ p.resident ≠ l.colour ∨ p.switch ≠ .none ∨
      (((s.die (clu / 16)).table.map Prod.snd ++ (s.die (clu / 16)).backlog).any
        (fun (x : BindRec) => x.st != 2 && x.lent == l.lent && x.targets clu && s.inRound p l clu x)) = true ∨
      ((s.launchThreads lk).any (fun t => logicalCluster (l.lcore t.team) == s.roundCluster p clu (smapGet 0 l.rounds clu) &&
        t.arrived != some l.phase)) = true ∨ s.onlyLaunch lk clu = false) := by
    rintro (h | h | h | h | h | h | h)
    · exact ne_false_of_eq_true hdet h
    · omega
    · exact h hres
    · exact h hswitch
    · exact ne_true_of_eq_false hunbound h
    · exact ne_true_of_eq_false hwaits h
    · exact ne_false_of_eq_true honly h
  obtain ⟨t, hexec, hlaunches, hsaved⟩ : ∃ t, exec (.roundSwitch lk clu) s = .next t ∧ t.launches = s1.launches ∧
      t.saved = ((s.saveRound lk l (s.roundCluster p clu (smapGet 0 l.rounds clu))).loadRound lk l
        (s.roundCluster p clu (smapGet 0 l.rounds clu + 1))).saved := by
    refine ⟨if l.phase = 0 ∧ l.committed = false then s1.addRecords rs else s1, ?_, ?_⟩
    · refine (show _ = execRoundSwitch lk clu s from rfl).trans ?_
      simp only [execRoundSwitch, hl, hp, if_neg hgo]
      rfl
    · obtain ⟨hlaunches, hsaved⟩ := addRecords_if s1 rs (l.phase = 0 ∧ l.committed = false)
      exact ⟨hlaunches, hsaved.trans (State.setLaunch_saved ..)⟩
  refine ⟨t, hexec, sameMemory_of_exec rfl hexec, ?_, fun hs hinj L hL => ?_⟩
  · rw [launch_of_launches hlaunches]
    exact (launch_setLaunch ..).trans (if_pos rfl)
  · rw [hsaved]
    exact switchRound_saved hne hs hinj hL

/-! Completion (R331). -/

/-- The launches and the ports are as before. -/
structure SameTables (s t : State) : Prop where
  launches : t.launches = s.launches
  ports : t.ports = s.ports

section
variable {s t u : State}

theorem SameTables.trans (h : SameTables s t) (h' : SameTables t u) : SameTables s u :=
  ⟨h'.launches.trans h.launches, h'.ports.trans h.ports⟩

theorem SameTables.foldl {α : Type} {f : State → α → State} (h : ∀ s a, SameTables s (f s a)) (l : List α) (s : State) :
    SameTables s (l.foldl f s) :=
  ⟨foldl_keeps (p := State.launches) (fun s a => (h s a).launches) l s, foldl_keeps (p := State.ports) (fun s a => (h s a).ports) l s⟩

theorem sameTables_trace (s : State) (g slot ty colour : Nat) (wid pc payload : Word) :
    SameTables s (s.trace g slot ty colour wid pc payload) := by
  unfold State.trace
  dsimp only
  repeat' split
  all_goals exact ⟨rfl, rfl⟩

theorem sameTables_commit (s : State) (lk : Nat) (l : Launch) : SameTables s (s.commit lk l) := by
  unfold State.commit
  dsimp only
  split
  · refine .trans ?_ (sameTables_trace ..)
    exact ⟨rfl, rfl⟩
  · refine .trans ?_ (.foldl (fun _ _ => ⟨by rfl, by rfl⟩) _ _)
    refine .trans ?_ (sameTables_trace ..)
    exact ⟨rfl, rfl⟩

theorem sameTables_memStore (s : State) (colour : Nat) (bytes : List (Nat × Byte)) : SameTables s (s.memStore colour bytes) := ⟨rfl, rfl⟩

theorem sameTables_countCell (s : State) (colour pa n : Nat) : SameTables s (s.countCell colour pa n) := by
  unfold State.countCell
  dsimp only
  split
  · exact ⟨rfl, rfl⟩
  · split <;> exact ⟨rfl, rfl⟩

theorem sameTables_notifyCell {l : Launch} (h : s.notifyCell l = some t) : SameTables s t := by
  unfold State.notifyCell at h
  split at h
  · cases h
  · split at h
    · obtain rfl := Option.some.inj h
      refine .trans ?_ (sameTables_countCell ..)
      exact sameTables_memStore ..
    · cases h

theorem hostPort_of_ports (h : t.ports = s.ports) : t.hostPort = s.hostPort := by
  rw [State.hostPort, port_of_ports h, port_of_ports h]
  rfl

end

/-- The contribution of a completed launch to its notify cell, and whether it failed (R331). -/
def State.notified (s : State) (l : Launch) : State × Bool :=
  if l.notify = 0 then (s, false) else match s.notifyCell l with
    | some t => (t, false)
    | none => (s, true)

theorem sameTables_notified (s : State) (l : Launch) : SameTables s (s.notified l).1 := by
  unfold State.notified
  split
  · exact ⟨rfl, rfl⟩
  · split
    · next h => exact sameTables_notifyCell h
    · exact ⟨rfl, rfl⟩

/-- A launch out of the tables, with its records and the words that are left for it (R328, R331). -/
def State.leave (s : State) (lk : Nat) (u : State) : State :=
  { u with
    launches := smapDel u.launches lk
    dies := u.dies.map fun (e : Nat × Die) => (e.1, { e.2 with
      table := e.2.table.filter fun x => ((s.launchAt e.1 x.2.lent).map Prod.fst) != some lk })
    cores := u.cores.map fun (e : Nat × Core) => (e.1, { e.2 with nin := e.2.nin.map fun xs => xs.filter fun w => w.1 != lk })
    saved := u.saved.filter fun e => e.1 / 1024 != lk
    net := u.net.filter fun m => match m with
      | .nword l _ _ _ _ _ => l != lk
      | _ => true }

/-- The completion of a launch gone to its port (R331, R401). -/
def State.reported (y : State × Bool) (l : Launch) : State :=
  let c := y.1.colour l.colour
  (y.1.portUsed (l.port.getD y.1.hostPort) l.colour).toHost (l.port.getD y.1.hostPort)
    (.completion l.colour l.seq y.2 c.gap c.digest (if (y.1.launchesOf l.colour).length ≤ 1 then Config.signature c.digest else []))

theorem exec_launchComplete {s : State} {lk : Nat} {l : Launch} (hl : s.launch? lk = some l) (hretired : l.retired = l.teams)
    (hpst : l.pst = 1) (hthreads : s.launchThreads lk = []) (hopen : s.writesOpen lk l = false) :
    exec (.launchComplete lk) s = .next (s.leave lk (State.reported ((s.commit lk l).notified l) l)) := by
  have hgo : ¬(l.retired ≠ l.teams ∨ l.pst ≠ 1 ∨ (!(s.launchThreads lk).isEmpty) = true ∨ s.writesOpen lk l = true) := by
    rintro (h | h | h | h)
    · exact h hretired
    · exact h hpst
    · simp [hthreads] at h
    · exact ne_true_of_eq_false hopen h
  refine (show _ = execLaunchComplete lk s from rfl).trans ?_
  simp only [execLaunchComplete, hl, if_neg hgo, orNot]
  simp only [State.leave, State.reported, State.notified]
  rfl

theorem launchComplete_next {s : State} {lk : Nat} {l : Launch} (hl : s.launch? lk = some l) (hretired : l.retired = l.teams)
    (hpst : l.pst = 1) (hthreads : s.launchThreads lk = []) (hopen : s.writesOpen lk l = false) (hsorted : smapSorted 0 s.launches = true) :
    ∃ t, exec (.launchComplete lk) s = .next t ∧ t.launch? lk = none ∧
      (l.notify = 0 → SameMemory s t ∧ ∃ gap digest sig,
        .completion l.colour l.seq false gap digest sig ∈ (t.port (l.port.getD s.hostPort)).held) := by
  have htables := (sameTables_commit s lk l).trans (sameTables_notified (s.commit lk l) l)
  refine ⟨_, exec_launchComplete hl hretired hpst hthreads hopen, ?_, fun hnotify => ⟨?_, ?_⟩⟩
  · have hlaunches : (State.reported ((s.commit lk l).notified l) l).launches = s.launches :=
      (portUsed_launches ..).trans htables.launches
    refine (smapFind_del _ lk lk (lo := 0) ?_).trans (if_pos rfl)
    rw [hlaunches]
    exact hsorted
  all_goals
    have hy : (s.commit lk l).notified l = (s.commit lk l, false) := if_pos hnotify
    rw [hy]
  · intro a
    refine congrArg (memGet · a) ?_
    refine (show _ = ((s.commit lk l).portUsed _ l.colour).mem from rfl).trans ?_
    rw [portUsed_mem, commit_mem]
  · rw [← hostPort_of_ports (sameTables_commit s lk l).ports]
    exact ⟨_, _, _, toHost_held ..⟩

/-- Settles O55: what a launch, its records, its rounds and its end leave in the tables. -/
theorem launchEventsComplete : Obligations.LaunchEventsComplete := by
  unfold Obligations.LaunchEventsComplete
  refine ⟨fun s k prio place r dst va hnet hhdr => launchAccept_unread place hnet hhdr,
    fun s k prio pk place r dst va hdr p => launchAccept_read, fun s colour prio pk hdr place p => launchAccept_firmware,
    fun s clu lk base l e rest hgroup hrecs hbind hany halone hlive hslots htiles hregion => ?_,
    fun s clu lk l e rest ts => teamBind_group, fun s die e r => bindRecordAging_next, fun s thief victim a b => stealRequest_next,
    fun s k thief victim colour blocks => stealReply_next, fun s clu => stealBackoffExpiry_next, fun s lk l p => phaseCommit_next,
    fun s lk clu l p hl hp hdet hround hne hres hswitch honly => roundSwitch_next hl hp hdet hround hne hres hswitch honly,
    fun s lk l => launchComplete_next⟩
  obtain ⟨t, hexec, hmem, hteam, hthreads⟩ := teamBind_alone hgroup hrecs hbind hany halone hlive hslots htiles hregion
  refine ⟨t, hexec, hmem, hteam, fun i slot w hw hslot => ?_⟩
  obtain ⟨u, hu, hstarts⟩ := hthreads i slot w hw hslot
  exact ⟨u, hu, startsFor_fields hstarts⟩

end Sys2Proof.Machine
end

section
/-! PROOFS. Interfaces and partitions (R399–R401, R26): what a host's request takes from its queue, memory with a range of bytes taken out, and the
state of an interface after its colour's work is discarded. -/
namespace Sys2Proof.Machine
open Sys2Proof

/-! Requests of the host. -/

/-- The package after a host message has been taken from a port's queue, and others moved up. -/
def State.dequeued (s : State) (port : Nat) (rxq : List LinkMsg) : State := s.setPort port { s.port port with rxq := rxq }

theorem takeHost_eq {s s1 : State} {port : Nat} {m : LinkMsg} (h : s.takeHost port = some (m, s1)) : ∃ rxq, s1 = s.dequeued port rxq := by
  unfold State.takeHost at h
  dsimp only at h
  split at h
  · split at h
    · cases h
      exact ⟨_, rfl⟩
    · cases h
  · cases h

theorem tdispPort_eq {s s1 : State} {colour request port : Nat} (h : s.tdispPort colour request = some (port, s1)) :
    ∃ rxq, s1 = s.dequeued port rxq := by
  obtain ⟨q, -, hq⟩ := List.exists_of_findSome?_eq_some h
  split at hq
  · next htake =>
    split at hq
    · cases hq
      exact takeHost_eq htake
    · cases hq
  · cases hq

/-- A request that leads to a state is answered there. -/
theorem tdisp_some {s s1 s2 : State} {colour request port : Nat} {next : Nat → State → Option State} (hcolour : colour < 32)
    (hport : s.tdispPort colour request = some (port, s1)) (hnext : next port s1 = some s2) :
    s.tdisp colour request next = some (s2.toHost port (.management (tdispCode colour request true))) := by
  simp only [State.tdisp, if_neg (Nat.not_le.mpr hcolour), hport, hnext]

/-! Memory with bytes taken out (R400). -/

/-- A store without the entries that a test refuses. -/
theorem smapFind_filter {α : Type} {lo : Nat} {m : List (Nat × α)} (q : Nat × α → Bool) (h : smapSorted lo m = true) (k : Nat) :
    smapFind (m.filter q) k = (smapFind m k).filter fun v => q (k, v) := by
  induction m generalizing lo with
  | nil => rfl
  | cons e rest ih =>
    obtain ⟨j, w⟩ := e
    simp only [smapSorted, Bool.and_eq_true, decide_eq_true_eq] at h
    have hrest := ih h.2
    by_cases hj : j = k
    · subst hj
      have hnone : smapFind rest j = none := smapFind_below rest h.2 (Nat.lt_succ_self j)
      cases hq : q (j, w) with
      | true => simp [hq, smapFind, Option.filter]
      | false =>
        rw [hnone] at hrest
        simp [hq, smapFind, hrest, Option.filter]
    · by_cases hlt : k < j
      · have hnone : smapFind rest k = none := smapFind_below rest h.2 (by omega)
        rw [hnone] at hrest
        cases hq : q (j, w) <;> simp [hq, smapFind, hj, hlt, hrest]
      · cases hq : q (j, w) <;> simp [hq, smapFind, hj, hlt, hrest]

/-- Memory after the bytes that a test names are written with zeros. -/
def Clears (q : Nat → Prop) (m m' : List (Nat × Byte)) : Prop :=
  (∀ a, q a → memGet m' a = 0) ∧ ∀ a, ¬ q a → memGet m' a = memGet m a

theorem clears_filter {m : List (Nat × Byte)} (hm : Memory.wf m = true) (q : Nat → Bool) :
    Clears (fun a => q a = true) m (m.filter fun c => !q c.1) := by
  simp only [Memory.wf, Bool.and_eq_true] at hm
  refine ⟨fun a ha => ?_, fun a ha => ?_⟩
  · rw [memGet, smapGet, smapFind_filter _ hm.1]
    cases smapFind m a with
    | none => rfl
    | some b => simp [Option.filter, ha]
  · rw [memGet, smapGet, smapFind_filter _ hm.1, memGet, smapGet]
    cases smapFind m a with
    | none => rfl
    | some b => simp [Option.filter, Bool.eq_false_iff.mpr ha]

theorem Clears.trans {q r : Nat → Prop} {m m' m'' : List (Nat × Byte)} (h : Clears q m m') (h' : Clears r m' m'') :
    Clears (fun a => q a ∨ r a) m m'' := by
  obtain ⟨hq, hkeep⟩ := h
  obtain ⟨hr, hkeep'⟩ := h'
  refine ⟨fun a ha => ?_, fun a ha => ?_⟩
  · by_cases hra : r a
    · exact hr a hra
    · exact (hkeep' a hra).trans (hq a (ha.resolve_right hra))
  · rw [not_or] at ha
    exact (hkeep' a ha.2).trans (hkeep a ha.1)

theorem Clears.congr {q r : Nat → Prop} {m m' : List (Nat × Byte)} (h : Clears q m m') (hqr : ∀ a, q a ↔ r a) : Clears r m m' :=
  ⟨fun a ha => h.1 a ((hqr a).mpr ha), fun a ha => h.2 a fun hq => ha ((hqr a).mp hq)⟩

/-- The bytes of a colour's cluster memory in a cluster (R210). -/
def InCluster (colour c a : Nat) : Prop := clusterAddr colour c 0 ≤ a ∧ a < clusterAddr colour c 0 + 2 ^ 26

theorem clears_clearCluster {s : State} (hs : Memory.wf s.mem = true) (colour c : Nat) :
    Clears (InCluster colour c) s.mem (s.clearCluster colour c).mem :=
  (clears_filter hs fun a => decide (clusterAddr colour c 0 ≤ a ∧ a < clusterAddr colour c 0 + 2 ^ 26)).congr fun _ => decide_eq_true_iff

theorem clears_clearClusters {s : State} (hs : Memory.wf s.mem = true) (colour : Nat) (cs : List Nat) :
    Clears (fun a => ∃ c ∈ cs, InCluster colour c a) s.mem (cs.foldl (fun s c => s.clearCluster colour c) s).mem := by
  induction cs generalizing s with
  | nil => exact ⟨fun a ⟨_, hc, _⟩ => absurd hc List.not_mem_nil, fun _ _ => rfl⟩
  | cons c cs ih =>
    refine ((clears_clearCluster hs colour c).trans (ih (wf_clearCluster hs))).congr fun a => ?_
    simp

theorem clears_giveFrames {s : State} (hs : Memory.wf s.mem = true) (colour : Nat) (frames : List Nat) :
    Clears (fun a => a / 65536 ∈ frames) s.mem (s.giveFrames colour frames).mem :=
  (clears_filter hs fun a => frames.contains (a / 65536)).congr fun _ => List.contains_iff_mem

/-! What giving memory to a colour leaves. -/

section
variable (s : State) (colour : Nat)

theorem clearClusters_colours (cs : List Nat) : (cs.foldl (fun s c => s.clearCluster colour c) s).colours = s.colours :=
  foldl_keeps (p := State.colours) (fun _ _ => by rfl) cs s

theorem clearClusters_owners (cs : List Nat) : (cs.foldl (fun s c => s.clearCluster colour c) s).owners = s.owners :=
  foldl_keeps (p := State.owners) (fun _ _ => by rfl) cs s

theorem freshSpad_colours (gs : List Nat) : (s.freshSpad gs).colours = s.colours := by
  rw [State.freshSpad]
  refine foldl_keeps (p := State.colours) (fun s g => ?_) gs s
  split <;> rfl

theorem freshSpad_owners (gs : List Nat) : (s.freshSpad gs).owners = s.owners := by
  rw [State.freshSpad]
  refine foldl_keeps (p := State.owners) (fun s g => ?_) gs s
  split <;> rfl

theorem portUsed_colours (port : Nat) : (s.portUsed port colour).colours = s.colours := by
  unfold State.portUsed
  split <;> rfl

theorem portUsed_owners (port : Nat) : (s.portUsed port colour).owners = s.owners := by
  unfold State.portUsed
  split <;> rfl

theorem colour_of_colours {s t : State} (h : t.colours = s.colours) (k : Nat) : t.colour k = s.colour k := by rw [State.colour, h]; rfl

end

/-- A frame given to a colour is its own. -/
theorem smapFind_giveAll {fs : List Nat} {colour f : Nat} (m : List (Nat × Nat)) (h : f ∈ fs) :
    smapFind (fs.foldl (fun m f => smapPut m f colour) m) f = some colour := by
  have hput := smapFind_foldl_put (l := fs.map fun f => (f, colour)) (m := m) ⟨_, List.mem_map_of_mem h, rfl⟩ fun e he _ => by
    obtain ⟨f', -, rfl⟩ := List.mem_map.mp he
    rfl
  rwa [List.foldl_map] at hput

/-! Interfaces (R399). -/

section
variable {s s1 : State} {colour port : Nat}

/-- A colour's interface locked on a port, with the frames and the cluster memory that are its own. -/
def State.locked (s : State) (colour port : Nat) (frames : List Nat) (p : Partition) : State :=
  let s1 := (s.leavePorts colour).setColour colour { (s.colour colour).newJob with tdi := .locked, key := true, port := port }
  let s2 := p.clusters.foldl (fun s k => s.clearCluster colour k) (s1.giveFrames colour frames)
  (s2.freshSpad (s2.spadCores colour)).portUsed port colour

theorem locked_colour (s : State) (colour port : Nat) (frames : List Nat) (p : Partition) :
    (s.locked colour port frames p).colour colour = { (s.colour colour).newJob with tdi := .locked, key := true, port := port } := by
  unfold State.locked
  dsimp only
  rw [colour_of_colours ((portUsed_colours ..).trans ((freshSpad_colours ..).trans (clearClusters_colours ..)))]
  exact (colour_setColour ..).trans (if_pos rfl)

theorem locked_owners (s : State) (colour port : Nat) (frames : List Nat) (p : Partition) :
    (s.locked colour port frames p).owners = frames.foldl (fun m f => smapPut m f colour) s.owners := by
  unfold State.locked
  dsimp only
  exact (portUsed_owners ..).trans ((freshSpad_owners ..).trans (clearClusters_owners ..))

theorem locked_clears (hs : Memory.wf s.mem = true) (colour port : Nat) (frames : List Nat) (p : Partition) :
    Clears (fun a => a / 65536 ∈ frames ∨ ∃ c ∈ p.clusters, InCluster colour c a) s.mem (s.locked colour port frames p).mem := by
  unfold State.locked
  dsimp only
  rw [portUsed_mem, freshSpad_mem]
  exact .trans (clears_giveFrames (by exact hs) colour frames) (clears_clearClusters (wf_giveFrames (by exact hs)) colour p.clusters)

theorem lockInterfaceRequest_next {pk : Nat} {frames : List Nat} {p : Partition} (hcolour : colour < 32)
    (hport : s.tdispPort colour 0 = some (port, s1)) (hunlocked : (s.colour colour).tdi = .unlocked) (hpart : s.partOf colour = some (pk, p))
    (hfree : ∀ f ∈ frames, f < 2 ^ 23 ∧ ∀ k, smapFind s.owners f = some k → k = colour ∨ k = 0) (hs : Memory.wf s.mem = true) :
    ∃ t, exec (.lockInterfaceRequest ⟨colour, frames⟩) s = .next t ∧ (t.colour colour).tdi = .locked ∧ (t.colour colour).key = true ∧
      (t.colour colour).port = port ∧ (∀ f ∈ frames, smapFind t.owners f = some colour) ∧
      Clears (fun a => a / 65536 ∈ frames ∨ ∃ c ∈ p.clusters, InCluster colour c a) s.mem t.mem := by
  obtain ⟨rxq, rfl⟩ := tdispPort_eq hport
  have hframes : (frames.all fun f => decide (f < 2 ^ 23) && ((smapFind s.owners f).all fun k => k == colour || k == 0)) = true := by
    refine List.all_eq_true.mpr fun f hf => ?_
    obtain ⟨hlt, howner⟩ := hfree f hf
    cases hk : smapFind s.owners f with
    | none => simpa using hlt
    | some k => simpa [howner k hk] using hlt
  have hexec : exec (.lockInterfaceRequest ⟨colour, frames⟩) s =
      .next (((s.dequeued port rxq).locked colour port frames p).toHost port (.management (tdispCode colour 0 true))) := by
    refine congrArg (orNot _) (tdisp_some hcolour hport ?_)
    have hpart1 : (s.dequeued port rxq).partOf colour = some (pk, p) := hpart
    simp only [hpart1]
    exact if_pos ⟨hunlocked, hframes⟩
  have hcol := locked_colour (s.dequeued port rxq) colour port frames p
  have hown := locked_owners (s.dequeued port rxq) colour port frames p
  have hclears := locked_clears (s := s.dequeued port rxq) (by exact hs) colour port frames p
  generalize (s.dequeued port rxq).locked colour port frames p = u at hexec hcol hown hclears
  refine ⟨_, hexec, congrArg Colour.tdi hcol, congrArg Colour.key hcol, congrArg Colour.port hcol, fun f hf => ?_, hclears⟩
  exact (congrArg (smapFind · f) hown).trans (smapFind_giveAll _ hf)

theorem startInterfaceRequest_next (hcolour : colour < 32) (hport : s.tdispPort colour 1 = some (port, s1))
    (hlocked : (s.colour colour).tdi = .locked) :
    ∃ t, exec (.startInterfaceRequest colour) s = .next t ∧ SameMemory s t ∧ (t.colour colour).tdi = .run := by
  obtain ⟨rxq, rfl⟩ := tdispPort_eq hport
  refine exists_next_of_exec _ rfl (congrArg (orNot _) (tdisp_some hcolour hport (if_pos hlocked))) ?_
  exact congrArg Colour.tdi ((colour_setColour ..).trans (if_pos rfl))

end

theorem performed_colours (s : State) (tid id : Nat) : (s.performed tid id).colours = s.colours := by
  refine (show _ = (s.onTid tid _).colours from rfl).trans ?_
  unfold State.onTid
  split
  · rfl
  · split <;> rfl

/-- The work of a colour discarded: its key and its regions are gone (R400, R401). -/
theorem discardJob_colour (s : State) (colour k : Nat) : (s.discardJob colour).colour k =
    if k = colour then { (s.colour colour).newJob with key := false, regions := [] } else s.colour k := by
  have hkeep {u : State} (h : u.colours = s.colours) (c : Colour) (port : Nat)
      (hc : c = { (u.colour colour).newJob with key := false, regions := [] }) :
      ((u.portUsed port colour).setColour colour c).colour k =
        if k = colour then { (s.colour colour).newJob with key := false, regions := [] } else s.colour k := by
    rw [colour_setColour, colour_of_colours ((portUsed_colours ..).trans h), hc, colour_of_colours h]
  unfold State.discardJob
  dsimp only
  rw [colour_of_colours (foldl_keeps (p := State.colours) (fun s m => by rfl) _ _)]
  refine hkeep ?_ _ _ rfl
  exact foldl_keeps (p := State.colours) (fun s (a : Nat × Nat) => performed_colours s a.1 a.2) _ _

theorem leavePorts_colours (s : State) (colour : Nat) : (s.leavePorts colour).colours = s.colours := rfl

theorem tdiLeave_colour (s : State) (colour k : Nat) (to_ : TdiState) : ((s.tdiLeave colour to_).colour k).tdi =
    (if k = colour then to_ else (s.colour k).tdi) ∧ (k = colour → ((s.tdiLeave colour to_).colour k).key = false) := by
  unfold State.tdiLeave
  rw [colour_of_colours (leavePorts_colours ..), discardJob_colour]
  refine ⟨?_, fun hk => ?_⟩
  · split
    · refine (show _ = (State.colour _ colour).tdi from rfl).trans ?_
      exact congrArg Colour.tdi ((colour_setColour s colour colour _).trans (if_pos rfl))
    · next hk => exact congrArg Colour.tdi ((colour_setColour s colour k _).trans (if_neg hk))
  · rw [if_pos hk]

theorem tdiLeave_launches (s : State) (colour : Nat) (to_ : TdiState) :
    (s.tdiLeave colour to_).launches = s.launches.filter fun e => e.2.colour != colour := discardJob_launches ..

theorem stopInterfaceRequest_next {s s1 : State} {colour port : Nat} (hcolour : colour < 32)
    (hport : s.tdispPort colour 2 = some (port, s1)) : ∃ t, exec (.stopInterfaceRequest colour) s = .next t ∧ SameMemory s t ∧
      (t.colour colour).tdi = .unlocked ∧
      ((s.colour colour).tdi ≠ .unlocked → (t.colour colour).key = false ∧ ∀ e ∈ t.launches, e.2.colour ≠ colour) := by
  obtain ⟨rxq, rfl⟩ := tdispPort_eq hport
  by_cases hun : (s.colour colour).tdi = .unlocked
  · refine exists_next_of_exec _ rfl (congrArg (orNot _) (tdisp_some hcolour hport (if_pos hun))) ?_
    exact ⟨hun, fun h => absurd hun h⟩
  · obtain ⟨htdi, hkey⟩ := tdiLeave_colour (s.dequeued port rxq) colour colour .unlocked
    have hlaunches := tdiLeave_launches (s.dequeued port rxq) colour .unlocked
    refine exists_next_of_exec _ rfl (congrArg (orNot _) (tdisp_some hcolour hport (if_neg hun))) ?_
    generalize (s.dequeued port rxq).tdiLeave colour .unlocked = u at htdi hkey hlaunches
    refine ⟨htdi.trans (if_pos rfl), fun _ => ⟨hkey rfl, fun e he => ?_⟩⟩
    have he : e ∈ u.launches := he
    rw [hlaunches] at he
    simpa using (List.mem_filter.mp he).2

/-- A colour's interface is neither locked nor running. -/
def State.idle (k : Nat) (s : State) : Prop := (s.colour k).tdi ≠ .locked ∧ (s.colour k).tdi ≠ .run

theorem idle_tdiError_self (s : State) (k : Nat) : (s.tdiError k).idle k := by
  have hleave : (s.tdiLeave k .error).idle k := by
    have htdi := (tdiLeave_colour s k k .error).1.trans (if_pos rfl)
    exact ⟨by rw [htdi]; decide, by rw [htdi]; decide⟩
  unfold State.tdiError
  split
  · exact hleave
  · exact hleave
  · next hlocked hrun => exact ⟨hlocked, hrun⟩

theorem idle_tdiError (s : State) (j k : Nat) (h : s.idle k) : (s.tdiError j).idle k := by
  by_cases hk : k = j
  · exact hk ▸ idle_tdiError_self s k
  · have hleave : (s.tdiLeave j .error).idle k := by
      rw [State.idle, (tdiLeave_colour s j k .error).1.trans (if_neg hk)]
      exact h
    unfold State.tdiError
    split
    · exact hleave
    · exact hleave
    · exact h

/-- Interfaces of a list sent to ERROR. -/
theorem idle_tdiErrors {l : List Nat} {k : Nat} (h : k ∈ l) (s : State) : (l.foldl State.tdiError s).idle k :=
  foldl_of_step (P := fun k s => s.idle k) idle_tdiError_self idle_tdiError (.inl h)

theorem arbiterFirmwareReplace_next (s : State) : ∃ t, exec .arbiterFirmwareReplace s = .next t ∧ SameMemory s t ∧
    ∀ c, c < 32 → (t.colour c).tdi ≠ .locked ∧ (t.colour c).tdi ≠ .run := by
  refine exists_next_of_exec _ rfl (show _ = execArbiterFirmwareReplace s from rfl) fun c hc => ?_
  have hidle := idle_tdiErrors (List.mem_range.mpr hc) s
  generalize (List.range 32).foldl State.tdiError s = u at hidle ⊢
  exact hidle

/-! Partitions (R26, R399). -/

theorem mem_sortNats {c : Nat} {xs : List Nat} : c ∈ sortNats xs ↔ c ∈ xs := by rw [sortNats, List.mem_dedup, mem_sortBy]

/-- What a core without a team keeps when its scratchpad is written with zeros. -/
theorem freshSpad_core (s : State) (gs : List Nat) (h : Nat) :
    ((s.freshSpad gs).core h).stop = (s.core h).stop ∧ ((s.freshSpad gs).core h).checked = (s.core h).checked := by
  rw [State.freshSpad]
  refine Prod.mk.inj (foldl_keeps (p := fun s => ((s.core h).stop, (s.core h).checked)) (fun s g => ?_) gs s)
  split
  · rw [core_setCore]
    split
    · subst_vars; rfl
    · rfl
  · rfl

/-- A core given to a colour. -/
def State.giveCore (part : Nat) (s : State) (g : Nat) : State :=
  s.setCore g { s.core g with stop := (s.core g).checked, peCol := BitVec.ofNat 5 part }

/-- The cores of a cluster given to a colour. -/
def State.giveCores (part : Nat) (s : State) (c : Nat) : State := ((clusterCores c).foldl (State.giveCore part) s).freshSpad (clusterCores c)

/-- A core is stopped only for its machine check. -/
def State.runs (g : Nat) (s : State) : Prop := (s.core g).stop = (s.core g).checked

section
variable (part : Nat)

theorem giveCore_runs (s : State) (g : Nat) : (s.giveCore part g).runs g := by
  rw [State.runs, State.giveCore, core_setCore_self]

theorem giveCore_keeps (s : State) (g h : Nat) (hr : s.runs h) : (s.giveCore part g).runs h := by
  by_cases hg : h = g
  · exact hg ▸ giveCore_runs part s h
  · rw [State.runs, State.giveCore, core_setCore_other _ _ hg]
    exact hr

theorem giveCore_checked (s : State) (g h : Nat) : ((s.giveCore part g).core h).checked = (s.core h).checked := by
  rw [State.giveCore, core_setCore]
  split
  · subst_vars; rfl
  · rfl

theorem giveCores_runs {s : State} {c g : Nat} (h : g ∈ clusterCores c ∨ s.runs g) : (s.giveCores part c).runs g := by
  obtain ⟨hstop, hchecked⟩ := freshSpad_core ((clusterCores c).foldl (State.giveCore part) s) (clusterCores c) g
  rw [State.runs, State.giveCores, hstop, hchecked]
  exact foldl_of_step (P := fun g s => s.runs g) (giveCore_runs part) (giveCore_keeps part) h

theorem giveCores_checked (s : State) (c h : Nat) : ((s.giveCores part c).core h).checked = (s.core h).checked :=
  (freshSpad_core _ _ h).2.trans (foldl_keeps (p := fun s => (s.core h).checked) (fun s g => giveCore_checked part s g h) _ s)

theorem giveCores_mem (s : State) (c : Nat) : (s.giveCores part c).mem = s.mem :=
  (freshSpad_mem ..).trans (foldl_mem _ (fun _ _ => by rfl) _ _)

theorem freshSpad_parts (s : State) (gs : List Nat) : (s.freshSpad gs).parts = s.parts := by
  rw [State.freshSpad]
  refine foldl_keeps (p := State.parts) (fun s g => ?_) gs s
  split <;> rfl

theorem giveCores_parts (s : State) (c : Nat) : (s.giveCores part c).parts = s.parts :=
  (freshSpad_parts ..).trans (foldl_keeps (p := State.parts) (fun _ _ => by rfl) _ s)

theorem giveCores_colours (s : State) (c : Nat) : (s.giveCores part c).colours = s.colours :=
  (freshSpad_colours ..).trans (foldl_keeps (p := State.colours) (fun _ _ => by rfl) _ s)

/-- Every core of the clusters given to a colour runs, but for its machine check. -/
theorem giveClusters_stop (s : State) {cs : List Nat} {c g : Nat} (hc : c ∈ cs) (hg : g ∈ clusterCores c) :
    ((cs.foldl (State.giveCores part) s).core g).stop = (s.core g).checked := by
  have hruns : (cs.foldl (State.giveCores part) s).runs g :=
    foldl_of_step (P := fun c s => ∀ g ∈ clusterCores c, s.runs g) (fun s c g hg => giveCores_runs part (.inl hg))
      (fun s c d h g hg => giveCores_runs part (.inr (h g hg))) (.inl hc) g hg
  exact hruns.trans (foldl_keeps (p := fun s => (s.core g).checked) (fun s c => giveCores_checked part s c g) cs s)

end

section
variable {s : State} {part : Nat} {clusters : List Nat} (hne : clusters ≠ []) (hpos : part ≠ 0) (hpart : part < 32)
  (hlive : ∀ c ∈ clusters, c < 128 ∧ (s.die (c / 16)).fenced = false)
include hne hpos hpart hlive

theorem partitionResize_may : ¬((sortNats clusters).isEmpty = true ∨ part = 0 ∨ 32 ≤ part ∨
    ((sortNats clusters).any fun c => decide (128 ≤ c) || (s.die (c / 16)).fenced) = true) := by
  rintro (h | h | h | h)
  · obtain ⟨c, hc⟩ := List.exists_mem_of_ne_nil clusters hne
    rw [List.isEmpty_iff] at h
    exact List.not_mem_nil (h ▸ mem_sortNats.mpr hc)
  · exact hpos h
  · omega
  · obtain ⟨c, hc, hbad⟩ := List.any_eq_true.mp h
    obtain ⟨hlt, hfenced⟩ := hlive c (mem_sortNats.mp hc)
    simp [hfenced] at hbad
    omega

theorem partitionResize_new (hparts : s.parts = []) : ∃ t, exec (.partitionResize part clusters) s = .next t ∧ SameMemory s t ∧
    smapFind t.parts part = some ⟨sortNats clusters, [part], part, .none⟩ ∧
    ∀ c ∈ clusters, ∀ g ∈ clusterCores c, (t.core g).stop = (s.core g).checked := by
  let s1 := { s with parts := smapPut s.parts part ⟨sortNats clusters, [part], part, .none⟩ }
  have hno : smapFind s.parts part = none := by rw [hparts]; rfl
  have hsame : (s.parts.find? fun p => p.2.clusters == sortNats clusters) = none := by rw [hparts]; rfl
  have hfree : ¬(((s.parts.filter fun p => p.1 != part).all fun p => (sortNats clusters).all fun c => !p.2.clusters.contains c) = false ∨
      (s.partOf part).isSome = true) := by
    rw [State.partOf, hparts]
    simp
  have hexec : exec (.partitionResize part clusters) s = .next ((sortNats clusters).foldl (State.giveCores part) s1) := by
    refine (show _ = execPartitionResize part clusters s from rfl).trans ?_
    simp only [execPartitionResize, if_neg (partitionResize_may hne hpos hpart hlive), hno, hsame, if_neg hfree]
    rfl
  refine ⟨_, hexec, fun a => ?_, ?_, fun c hc g hg => giveClusters_stop part s1 (mem_sortNats.mpr hc) hg⟩
  · exact congrArg (memGet · a) (foldl_mem _ (giveCores_mem part) _ s1)
  · rw [foldl_keeps (p := State.parts) (giveCores_parts part)]
    exact smapFind_put_self ..

theorem partitionResize_old {p : Partition} (hp : smapFind s.parts part = some p) (hswitch : p.switch = .none)
    (hdisjoint : ∀ e ∈ s.parts, e.1 ≠ part → ∀ c ∈ clusters, c ∉ e.2.clusters) :
    ∃ t, exec (.partitionResize part clusters) s = .next t ∧
      smapFind t.parts part = some { p with clusters := sortNats clusters } ∧
      ∀ k ∈ p.colours, (t.colour k).tdi ≠ .locked ∧ (t.colour k).tdi ≠ .run := by
  have hfree : ¬(((s.parts.filter fun p => p.1 != part).all fun p => (sortNats clusters).all fun c => !p.2.clusters.contains c) = false ∨
      p.switch ≠ .none) := by
    rintro (h | h)
    · refine ne_false_of_eq_true (List.all_eq_true.mpr fun e he => List.all_eq_true.mpr fun c hc => ?_) h
      obtain ⟨he, hother⟩ := List.mem_filter.mp he
      simpa using hdisjoint e he (by simpa using hother) c (mem_sortNats.mp hc)
    · exact h hswitch
  suffices h : ∃ t, execPartitionResize part clusters s = .next t ∧ smapFind t.parts part = some { p with clusters := sortNats clusters } ∧
      t.colours = (p.colours.foldl State.tdiError s).colours by
    obtain ⟨t, hexec, hparts, hcolours⟩ := h
    refine ⟨t, hexec, hparts, fun k hk => ?_⟩
    rw [colour_of_colours hcolours]
    exact idle_tdiErrors hk s
  simp only [execPartitionResize, if_neg (partitionResize_may hne hpos hpart hlive), hp, if_neg hfree]
  refine ⟨_, rfl, smapFind_put_self .., ?_⟩
  refine (foldl_keeps (p := State.colours) (fun s k => clearClusters_colours s k _) _ _).trans ?_
  refine (foldl_keeps (p := State.colours) (giveCores_colours p.resident) _ _).trans ?_
  exact foldl_keeps (p := State.colours) (fun s c => foldl_keeps (p := State.colours) (fun _ _ => by rfl) _ s) _ _

end

end Sys2Proof.Machine
end

section
/-! PROOFS. A host's launches and data, power-up and reset (R330, R389, R390, R392, R402–R404): the users of a port have no part in where data go,
and each die and port is powered up by its own status. -/
namespace Sys2Proof.Machine
open Sys2Proof

/-! Launches (R330). -/

theorem portUsed_uid (s : State) (port colour : Nat) : (s.portUsed port colour).uid = s.uid := by
  unfold State.portUsed
  split <;> rfl

section
variable {s s1 : State} {port colour prio pk : Nat} {place : List Nat} {hdr : List Word} {p : Partition}
  (htake : s.takeHost port = some (.launch colour prio hdr, s1)) (hpart : s.partOf colour = some (pk, p)) (hsess : (s.port port).sess = true)
  (hrun : (s.colour colour).tdi = .run)
include htake hpart hsess hrun

theorem hostLaunch_refused (hcause : s1.launchCause (Launch.ofHeader hdr) p colour true 0 ≠ 0) :
    ∃ t, exec (.hostLaunch port place) s = .next t ∧ SameMemory s t ∧ t.launches = s.launches ∧
      .launchReply (refuseWord (s1.launchCause (Launch.ofHeader hdr) p colour true 0)) ∈ (t.port port).held := by
  obtain ⟨rxq, rfl⟩ := takeHost_eq htake
  have hpart1 : (s.dequeued port rxq).partOf colour = some (pk, p) := hpart
  have hgo : ¬((s.port port).sess = false ∨ (s.colour colour).tdi ≠ .run) :=
    not_or.mpr ⟨ne_false_of_eq_true hsess, not_not_intro hrun⟩
  have hlaunches := portUsed_launches (s.dequeued port rxq) port colour
  refine exists_next_of_exec (((s.dequeued port rxq).portUsed port colour).toHost port (.launchReply (refuseWord
    ((s.dequeued port rxq).launchCause (Launch.ofHeader hdr) p colour true 0)))) rfl ?_ ?_
  · refine (show _ = execHostLaunch port place s from rfl).trans ?_
    simp only [execHostLaunch, htake, hpart1, if_neg hgo, if_pos hcause, orNot]
  · generalize (s.dequeued port rxq).portUsed port colour = u at hlaunches ⊢
    exact ⟨hlaunches, toHost_held ..⟩

theorem hostLaunch_entered (hcause : s1.launchCause (Launch.ofHeader hdr) p colour true 0 = 0)
    (hplace : s1.placeOk (Launch.ofHeader hdr) p place = true) :
    ∃ t e, exec (.hostLaunch port place) s = .next t ∧ SameMemory s t ∧ t.launch? s.uid = some e ∧
      e.hdr = (Launch.ofHeader hdr).hdr ∧ e.colour = colour ∧ e.port = some port ∧ .launchReply (acceptWord e) ∈ (t.port port).held := by
  obtain ⟨rxq, rfl⟩ := takeHost_eq htake
  have hpart1 : (s.dequeued port rxq).partOf colour = some (pk, p) := hpart
  have hgo : ¬((s.port port).sess = false ∨ (s.colour colour).tdi ≠ .run) :=
    not_or.mpr ⟨ne_false_of_eq_true hsess, not_not_intro hrun⟩
  let y := ((s.dequeued port rxq).portUsed port colour).enterLaunch (Launch.ofHeader hdr) pk p colour (prio % 4) (some port) place
  have hexec : exec (.hostLaunch port place) s = .next (y.1.toHost port (.launchReply (acceptWord y.2))) := by
    refine (show _ = execHostLaunch port place s from rfl).trans ?_
    simp only [execHostLaunch, htake, hpart1, if_neg hgo, if_neg (not_not_intro hcause), if_neg (ne_false_of_eq_true hplace)]
    rfl
  have hentered := enterLaunch_launch ((s.dequeued port rxq).portUsed port colour) (Launch.ofHeader hdr) pk p colour (prio % 4) (some port) place
  rw [portUsed_uid] at hentered
  exact ⟨_, y.2, hexec, sameMemory_of_exec rfl hexec, hentered, rfl, rfl, rfl, toHost_held ..⟩

end

/-! Data (R392). Where a byte is does not depend on which colours use a port. -/

/-- The package with other ports, of the same sessions. -/
theorem portUsed_eq (s : State) (port colour : Nat) : ∃ ps, s.portUsed port colour = { s with ports := ps } ∧
    ∀ q, (({ s with ports := ps } : State).port q).sess = (s.port q).sess := by
  have hsess := fun q => ((portsSent_portUsed s port colour).port q).sess
  unfold State.portUsed at hsess ⊢
  split at hsess
  · next h =>
    rw [if_pos h]
    exact ⟨s.ports, rfl, hsess⟩
  · next h =>
    rw [if_neg h]
    exact ⟨_, rfl, hsess⟩

section
variable {s : State} {ps : List (Nat × Port)} (hsess : ∀ q, (({ s with ports := ps } : State).port q).sess = (s.port q).sess)
include hsess

theorem leafAccess_ports (die colour : Nat) (u : Use) (big : Bool) (e va : Nat) :
    ({ s with ports := ps } : State).leafAccess die colour u big e va = s.leafAccess die colour u big e va := by
  have hpeer (pkg : Nat) : ({ s with ports := ps } : State).peerPort die pkg = s.peerPort die pkg := by
    have hdie : ({ s with ports := ps } : State).die die = s.die die := rfl
    simp only [State.peerPort, hdie, hsess]
  unfold State.leafAccess
  simp only [hpeer]
  rfl

/-- The place of an access, where there is one. -/
def Acc.place? {α : Type} : Acc α → Option α
  | .ok p => some p
  | _ => none

theorem walkAccess_ports (die colour : Nat) (u : Use) (va : Nat) :
    (({ s with ports := ps } : State).walkAccess die colour u va).place? = (s.walkAccess die colour u va).place? := by
  have hopen : ({ s with ports := ps } : State).walkOpen colour die va = s.walkOpen colour die va := rfl
  have hwalk : ({ s with ports := ps } : State).walk colour die va = s.walk colour die va := rfl
  have htwo (pa : Nat) : ({ s with ports := ps } : State).twoWay die pa = s.twoWay die pa := rfl
  unfold State.walkAccess
  rw [hopen, hwalk]
  split
  · rfl
  · cases s.walk colour die va with
    | error d => rfl
    | ok r =>
      dsimp only
      rw [leafAccess_ports hsess]
      cases s.leafAccess die colour u r.1 r.2 va with
      | ok place =>
        cases place with
        | mem pa =>
          dsimp only
          rw [htwo]
          cases s.twoWay die pa <;> rfl
        | spad g off => rfl
        | peer pkg off => rfl
      | wait t => rfl
      | trap k d a => rfl

omit hsess in
theorem dmaPlaces_succ (s : State) (die colour va : Nat) (u : Use) (n : Nat) : s.dmaPlaces die colour va u (n + 1) =
    if 2 ^ 54 ≤ va then none
    else (s.walkAccess die colour u va).place?.bind fun p => (s.dmaPlaces die colour (va + 1) u n).map fun ps => p :: ps := by
  rw [State.dmaPlaces]
  split
  · rfl
  · cases s.walkAccess die colour u va <;> rfl

theorem dmaPlaces_ports (die colour va : Nat) (u : Use) (n : Nat) :
    ({ s with ports := ps } : State).dmaPlaces die colour va u n = s.dmaPlaces die colour va u n := by
  induction n generalizing va with
  | zero => rfl
  | succ n ih => rw [dmaPlaces_succ, dmaPlaces_succ, walkAccess_ports hsess, ih]

end

theorem dmaPlaces_portUsed (s : State) (port k die colour va : Nat) (u : Use) (n : Nat) :
    (s.portUsed port k).dmaPlaces die colour va u n = s.dmaPlaces die colour va u n := by
  obtain ⟨ps, hps, hsess⟩ := portUsed_eq s port k
  rw [hps]
  exact dmaPlaces_ports hsess ..

theorem placeByte_portUsed (s : State) (port k : Nat) (p : Place) (i : Nat) : (s.portUsed port k).placeByte p i = s.placeByte p i := by
  obtain ⟨ps, hps, -⟩ := portUsed_eq s port k
  rw [hps]
  cases p <;> rfl

/-- What a write at a place makes of memory. -/
def Place.puts (m : List (Nat × Byte)) (p : Place) (bs : List Byte) : List (Nat × Byte) :=
  match p with
  | .mem pa => memPuts m (enumFrom pa bs)
  | _ => m

theorem placeWrite_mem (s : State) (colour : Nat) (p : Place) (bs : List Byte) : (s.placeWrite colour p bs).mem = p.puts s.mem bs := by
  cases p with
  | mem pa =>
    refine (memStore_mem ..).trans ?_
    rw [touch_mem, takeSlots_mem]
    rfl
  | spad g off => rfl
  | peer pkg off => rfl

theorem touch_ports (s : State) (pa : Nat) : (s.touch pa).ports = s.ports := by
  unfold State.touch
  split
  · unfold State.expand
    dsimp only
    split <;> rfl
  · rfl

theorem takeSlots_ports (s : State) (pa : Nat) : (s.takeSlots pa).ports = s.ports := by
  unfold State.takeSlots
  split <;> rfl

theorem placeWrite_ports (s : State) (colour : Nat) (p : Place) (bs : List Byte) : (s.placeWrite colour p bs).ports = s.ports := by
  cases p with
  | mem pa => exact (touch_ports ..).trans (takeSlots_ports ..)
  | spad g off => rfl
  | peer pkg off => rfl

/-- The bytes of a transfer written one after another. -/
def State.dmaPut (s : State) (colour : Nat) (es : List (Place × Byte)) : State :=
  es.foldl (fun s e => s.placeWrite colour e.1 [e.2]) s

theorem dmaPut_mem {s t : State} (h : s.mem = t.mem) (colour : Nat) (es : List (Place × Byte)) :
    (s.dmaPut colour es).mem = (t.dmaPut colour es).mem := by
  unfold State.dmaPut
  induction es generalizing s t with
  | nil => exact h
  | cons e rest ih => exact ih (by rw [placeWrite_mem, placeWrite_mem, h])

theorem dmaPut_ports (s : State) (colour : Nat) (es : List (Place × Byte)) : (s.dmaPut colour es).ports = s.ports := by
  unfold State.dmaPut
  exact foldl_keeps (p := State.ports) (fun s e => placeWrite_ports ..) es s

/-- The completion of a descriptor queued (R392). -/
def State.dmaQueue (s : State) (port : Nat) (m : DevMsg) : State := s.setPort port { s.port port with dma := (s.port port).dma ++ [m] }

theorem dequeued_dma (s : State) (port colour : Nat) (rxq : List LinkMsg) :
    (((s.dequeued port rxq).portUsed port colour).port port).dma = (s.port port).dma := by
  have hport : (s.dequeued port rxq).port port = { s.port port with rxq := rxq } := port_setPort_self ..
  unfold State.portUsed
  split
  · rw [hport]
  · rw [port_setPort_self, hport]

theorem dmaQueue_dma {s u : State} {port : Nat} (h : (u.port port).dma = (s.port port).dma) (m : DevMsg) :
    ((u.dmaQueue port m).port port).dma = (s.port port).dma ++ [m] := by
  rw [State.dmaQueue, port_setPort_self, h]

section
variable {s s1 : State} {port colour : Nat} {va : Word} (hsess : (s.port port).sess = true)
include hsess

section
variable {bytes : List Byte} (htake : s.takeHost port = some (.dmaWrite colour va bytes, s1))
include htake

theorem dmaWrite_next {ps : List Place}
    (hplaces : s1.dmaPlaces (portDie port) colour va.toNat Use.write bytes.length = some ps) :
    ∃ t, exec (.dmaDescriptor port) s = .next t ∧
      t.mem = ((ps.zip bytes).foldl (fun s e => s.placeWrite colour e.1 [e.2]) s1).mem ∧
      (t.port port).dma = (s.port port).dma ++ [.dmaDone colour true []] := by
  rw [← dmaPlaces_portUsed s1 port colour] at hplaces
  refine ⟨((s1.portUsed port colour).dmaPut colour (ps.zip bytes)).dmaQueue port (.dmaDone colour true []), ?_, ?_, ?_⟩
  · refine (show _ = execDmaDescriptor port s from rfl).trans ?_
    simp only [execDmaDescriptor, if_neg (ne_false_of_eq_true hsess), htake, hplaces]
    rfl
  · exact dmaPut_mem (portUsed_mem ..) colour (ps.zip bytes)
  · obtain ⟨rxq, rfl⟩ := takeHost_eq htake
    refine dmaQueue_dma ?_ _
    rw [port_of_ports (dmaPut_ports ..)]
    exact dequeued_dma ..

theorem dmaWrite_fails (hplaces : s1.dmaPlaces (portDie port) colour va.toNat Use.write bytes.length = none) :
    ∃ t, exec (.dmaDescriptor port) s = .next t ∧ SameMemory s t ∧ (t.port port).dma = (s.port port).dma ++ [.dmaDone colour false []] := by
  rw [← dmaPlaces_portUsed s1 port colour] at hplaces
  refine ⟨(s1.portUsed port colour).dmaQueue port (.dmaDone colour false []), ?_, fun a => ?_, ?_⟩
  · refine (show _ = execDmaDescriptor port s from rfl).trans ?_
    simp only [execDmaDescriptor, if_neg (ne_false_of_eq_true hsess), htake, hplaces]
    rfl
  · exact congrArg (memGet · a) ((portUsed_mem ..).trans (takeHost_mem htake))
  · obtain ⟨rxq, rfl⟩ := takeHost_eq htake
    exact dmaQueue_dma (dequeued_dma ..) _

end

theorem dmaRead_next {n : Nat} {ps : List Place} (htake : s.takeHost port = some (.dmaRead colour va n, s1))
    (hplaces : s1.dmaPlaces (portDie port) colour va.toNat Use.read n = some ps) :
    ∃ t, exec (.dmaDescriptor port) s = .next t ∧ SameMemory s t ∧
      (t.port port).dma = (s.port port).dma ++ [.dmaDone colour true (ps.map fun p => s1.placeByte p 0)] := by
  rw [← dmaPlaces_portUsed s1 port colour] at hplaces
  refine ⟨(s1.portUsed port colour).dmaQueue port (.dmaDone colour true (ps.map fun p => s1.placeByte p 0)), ?_, fun a => ?_, ?_⟩
  · refine (show _ = execDmaDescriptor port s from rfl).trans ?_
    simp only [execDmaDescriptor, if_neg (ne_false_of_eq_true hsess), htake, hplaces, placeByte_portUsed]
    rfl
  · exact congrArg (memGet · a) ((portUsed_mem ..).trans (takeHost_mem htake))
  · obtain ⟨rxq, rfl⟩ := takeHost_eq htake
    exact dmaQueue_dma (dequeued_dma ..) _

/-- The output regions of a job that begins (R401). -/
theorem dmaRegions_next {rs : List (Word × Nat)} (htake : s.takeHost port = some (.regions colour rs, s1)) :
    ∃ t, exec (.dmaDescriptor port) s = .next t ∧ SameMemory s t ∧
      (t.colour colour).regions = rs ∧ (t.colour colour).digest = List.replicate 64 0 ∧ (t.colour colour).gap = false := by
  let c := s1.colour colour
  let c1 := if (s1.launchesOf colour).isEmpty then c.newJob else { c.newJob with seq := c.seq }
  let t := (s1.setColour colour { c1 with regions := rs }).portUsed port colour
  have hexec : exec (.dmaDescriptor port) s = .next t := by
    refine (show _ = execDmaDescriptor port s from rfl).trans ?_
    simp only [execDmaDescriptor, if_neg (ne_false_of_eq_true hsess), htake]
    rfl
  have hcol : t.colour colour = { c1 with regions := rs } :=
    (colour_of_colours (portUsed_colours ..) colour).trans ((colour_setColour ..).trans (if_pos rfl))
  have hjob : c1.digest = List.replicate 64 0 ∧ c1.gap = false := by
    dsimp only [c1]
    split <;> exact ⟨rfl, rfl⟩
  refine ⟨t, hexec, fun a => ?_, ?_⟩
  · exact congrArg (memGet · a) (((portUsed_mem ..).trans (State.setColour_mem ..)).trans (takeHost_mem htake))
  · rw [hcol]
    exact ⟨rfl, hjob⟩

end

theorem send_dma (p : Port) (m : DevMsg) : (p.send m).dma = p.dma := by rw [(portSent_send p m).port]

theorem dmaComplete_next {s : State} {port : Nat} {m : DevMsg} {rest : List DevMsg} (hdma : (s.port port).dma = m :: rest) :
    ∃ t, exec (.dmaComplete port) s = .next t ∧ SameMemory s t ∧ (t.port port).dma = rest ∧ m ∈ (t.port port).held := by
  refine exists_next_of_exec ((s.setPort port { s.port port with dma := rest }).toHost port m) rfl ?_ ⟨?_, toHost_held ..⟩
  · refine (show _ = execDmaComplete port s from rfl).trans ?_
    simp only [execDmaComplete, hdma]
    rfl
  · rw [State.toHost, port_setPort_self, send_dma, port_setPort_self]

/-! Power and reset (R402–R404, R390). -/

/-- A die checked at power-up (R403). -/
def State.bootDie (status : List Nat) (s : State) (d : Nat) : State :=
  s.setDie d { s.die d with
    boot := BitVec.ofNat 8 (status.getD d 0), fenced := !(status.getD d 0 == 0)
    black := if (status.getD d 0 == 0) && !s.warm then [] else (s.die d).black }

/-- A host port of a die that has been checked. -/
def State.bootPort (status : List Nat) (s : State) (p : Nat) : State :=
  s.setPort p { s.port p with up := status.getD (portDie p) 0 == 0 }.flush

/-- A die has the outcome of its check. -/
def State.Booted (status : List Nat) (d : Nat) (s : State) : Prop :=
  (s.die d).fenced = !(status.getD d 0 == 0) ∧ (s.die d).boot = BitVec.ofNat 8 (status.getD d 0)

section
variable (status : List Nat)

theorem bootDie_booted (s : State) (d : Nat) : (s.bootDie status d).Booted status d := by
  rw [State.Booted, State.bootDie, die_setDie, if_pos rfl]
  exact ⟨rfl, rfl⟩

theorem bootDie_keeps (s : State) (d e : Nat) (h : s.Booted status e) : (s.bootDie status d).Booted status e := by
  by_cases he : e = d
  · exact he ▸ bootDie_booted status s e
  · rw [State.Booted, State.bootDie, die_setDie, if_neg he]
    exact h

theorem bootPort_up (s : State) (p : Nat) : ((s.bootPort status p).port p).up = (status.getD (portDie p) 0 == 0) := by
  rw [State.bootPort, port_setPort_self]
  exact (portSent_flush _).up

theorem bootPort_keeps (s : State) (p q : Nat) (h : (s.port q).up = (status.getD (portDie q) 0 == 0)) :
    ((s.bootPort status p).port q).up = (status.getD (portDie q) 0 == 0) := by
  by_cases hq : q = p
  · exact hq ▸ bootPort_up status s q
  · rw [State.bootPort, port_setPort, if_neg hq]
    exact h

/-- The dies and the host ports after their checks. -/
def State.booted (s : State) : State := [0, 1].foldl (State.bootPort status) ((List.range 8).foldl (State.bootDie status) s)

theorem booted_die (s : State) {d : Nat} (hd : d < 8) : (s.booted status).Booted status d := by
  have hdies : (s.booted status).dies = ((List.range 8).foldl (State.bootDie status) s).dies :=
    foldl_keeps (p := State.dies) (fun _ _ => by rfl) _ _
  rw [State.Booted, die_of_dies hdies]
  exact foldl_of_step (P := fun d s => s.Booted status d) (bootDie_booted status) (bootDie_keeps status) (.inl (List.mem_range.mpr hd))

theorem booted_up (s : State) {p : Nat} (hp : p < 2) : ((s.booted status).port p).up = (status.getD (portDie p) 0 == 0) := by
  refine foldl_of_step (P := fun p (s : State) => (s.port p).up = (status.getD (portDie p) 0 == 0)) (bootPort_up status)
    (bootPort_keeps status) (.inl ?_)
  simp only [List.mem_cons, List.not_mem_nil]
  omega

theorem booted_boots (s : State) : (s.booted status).boots = s.boots := by
  rw [State.booted]
  exact (foldl_keeps (p := State.boots) (fun _ _ => by rfl) _ _).trans (foldl_keeps (p := State.boots) (fun _ _ => by rfl) _ _)

end

theorem powerUp_next {s : State} {status : List Nat} (hoff : s.powered = false) (hlen : status.length ≤ 8) (hstatus : ∀ x ∈ status, x ≤ 5) :
    ∃ t, exec (.powerUp status) s = .next t ∧ SameMemory s t ∧ t.powered = true ∧
      t.boots = (if s.warm = true then s.boots else s.boots + 1) ∧ (∀ e ∈ t.cores, e.2.stop = true) ∧
      (∀ d, d < 8 → ((t.die d).fenced = true ↔ status.getD d 0 ≠ 0) ∧ (t.die d).boot = BitVec.ofNat 8 (status.getD d 0)) ∧
      ∀ p, p < 2 → ((t.port p).up = true ↔ status.getD (portDie p) 0 = 0) := by
  have hgo : ¬(s.powered = true ∨ 8 < status.length ∨ (status.any fun x => decide (5 < x)) = true) := by
    rintro (h | h | h)
    · exact ne_true_of_eq_false hoff h
    · omega
    · obtain ⟨x, hx, hbig⟩ := List.any_eq_true.mp h
      have hle := hstatus x hx
      simp at hbig
      omega
  have hboots := booted_boots status s
  have hdie := fun d (hd : d < 8) => booted_die status s hd
  have hup := fun p (hp : p < 2) => booted_up status s hp
  have hexec : exec (.powerUp status) s = .next { s.booted status with
      powered := true
      boots := if s.warm then (s.booted status).boots else (s.booted status).boots + 1
      cores := (s.booted status).cores.map fun (e : Nat × Core) => (e.1, { e.2 with stop := true }) } := by
    refine (show _ = execPowerUp status s from rfl).trans ?_
    simp only [execPowerUp, if_neg hgo, orNot]
    generalize hu : (List.foldl _ _ [0, 1] : State) = u
    have hbooted : u = s.booted status := hu.symm.trans rfl
    rw [hbooted]
  generalize s.booted status = u at hboots hdie hup hexec
  refine exists_next_of_exec _ rfl hexec ⟨rfl, ?_, fun e he => ?_, fun d hd => ?_, fun p hp => ?_⟩
  · rw [← hboots]
  · obtain ⟨e', -, rfl⟩ := List.mem_map.mp he
    rfl
  · obtain ⟨hfenced, hboot⟩ := hdie d hd
    refine ⟨(show (u.die d).fenced = true ↔ _ from ?_), hboot⟩
    rw [hfenced]
    simp
  · refine (show (u.port p).up = true ↔ _ from ?_)
    rw [hup p hp]
    simp

theorem bootStatusQuery_next {s : State} {die p : Nat} (hdie : die < 8) (hboot : (s.die die).boot ≠ 0xFF) (hp : p < 2)
    (hport : (s.die (portDie p)).boot = 0) : ∃ t, exec (.bootStatusQuery die) s = .next t ∧ SameMemory s t ∧
      smapFind t.lkBoot (8 * p + die) = some (s.die die).boot.toNat := by
  have hmem : p ∈ [0, 1].filter fun p => (s.die (portDie p)).boot == 0 := by
    refine List.mem_filter.mpr ⟨?_, beq_iff_eq.mpr hport⟩
    simp only [List.mem_cons, List.not_mem_nil]
    omega
  have hgo : ¬(8 ≤ die ∨ (s.die die).boot = 0xFF ∨ ([0, 1].filter fun p => (s.die (portDie p)).boot == 0).isEmpty = true) := by
    rintro (h | h | h)
    · omega
    · exact hboot h
    · exact List.not_mem_nil (List.isEmpty_iff.mp h ▸ hmem)
  refine exists_next_of_exec _ rfl (congrArg (orNot _) (if_neg hgo)) ?_
  have hput := smapFind_foldl_put (l := ([0, 1].filter fun p => (s.die (portDie p)).boot == 0).map fun p => (8 * p + die, (s.die die).boot.toNat))
    (m := s.lkBoot) ⟨_, List.mem_map_of_mem hmem, rfl⟩ fun e he _ => by
      obtain ⟨q, -, rfl⟩ := List.mem_map.mp he
      rfl
  rwa [List.foldl_map] at hput

/-- A die across a reset that keeps the power: its black box stays (R389). -/
def Die.kept (d : Die) : Die := { Die.reset with black := d.black }

/-- A die across a reset. -/
theorem keptDie {s t : State} {keeps : Bool}
    (h : t.dies = if keeps then s.dies.map fun (e : Nat × Die) => (e.1, e.2.kept) else []) (d : Nat) :
    t.die d = if keeps then (s.die d).kept else Die.reset := by
  cases keeps with
  | false =>
    rw [State.die, h]
    rfl
  | true =>
    rw [State.die, h, if_pos rfl, if_pos rfl, smapGet, smapFind_map_snd Die.kept, State.die, smapGet]
    cases smapFind s.dies d <;> rfl

theorem reset_next (s : State) (keeps : Bool) : ∃ t, exec (.reset keeps) s = .next t ∧ t.mem = [] ∧ t.cores = [] ∧ t.net = [] ∧
    t.colours = [] ∧ t.launches = [] ∧ t.parts = [] ∧ t.powered = false ∧ t.frozen = false ∧
    (∀ d, (t.die d).fenced = false ∧ (t.die d).boot = 0xFF) ∧ (keeps = true → ∀ d, (t.die d).black = (s.die d).black) := by
  suffices h : ∃ t, exec (.reset keeps) s = .next t ∧
      t.dies = (if keeps then s.dies.map fun (e : Nat × Die) => (e.1, e.2.kept) else []) ∧
      t.mem = [] ∧ t.cores = [] ∧ t.net = [] ∧ t.colours = [] ∧ t.launches = [] ∧ t.parts = [] ∧ t.powered = false ∧ t.frozen = false by
    obtain ⟨t, hexec, hdies, hmem, hcores, hnet, hcolours, hlaunches, hparts, hpowered, hfrozen⟩ := h
    refine ⟨t, hexec, hmem, hcores, hnet, hcolours, hlaunches, hparts, hpowered, hfrozen, fun d => ?_, fun hkeeps d => ?_⟩
    · rw [keptDie hdies]
      split <;> exact ⟨rfl, rfl⟩
    · rw [keptDie hdies, if_pos hkeeps]
      rfl
  exact ⟨_, rfl, rfl, rfl, rfl, rfl, rfl, rfl, rfl, rfl, rfl⟩

/-- Settles O60: what interfaces, partitions, data, power-up and reset leave in the package. -/
theorem packageEventsComplete : Obligations.PackageEventsComplete := by
  unfold Obligations.PackageEventsComplete
  refine ⟨fun s s1 colour port pk frames p => lockInterfaceRequest_next, fun s s1 colour port => startInterfaceRequest_next,
    fun s s1 colour port => stopInterfaceRequest_next, fun s part clusters hne hpos hpart hlive =>
      ⟨partitionResize_new hne hpos hpart hlive, fun p => partitionResize_old hne hpos hpart hlive⟩,
    arbiterFirmwareReplace_next,
    fun s s1 port colour prio pk place hdr p htake hpart hsess hrun =>
      ⟨hostLaunch_refused htake hpart hsess hrun, hostLaunch_entered htake hpart hsess hrun⟩,
    fun s s1 port colour va hsess => ⟨fun bytes htake => ⟨fun ps => dmaWrite_next hsess htake, dmaWrite_fails hsess htake⟩,
      fun n ps => dmaRead_next hsess, fun rs => dmaRegions_next hsess⟩,
    fun s port m rest => dmaComplete_next, fun s status => powerUp_next, fun s die p => bootStatusQuery_next, reset_next⟩

end Sys2Proof.Machine
end
